-- ==== Sys2Proof/Word.lean ====
section
/-! DEFINITION. Word.lean: the machine word, finite maps as data, and the operand shapes of the
instruction formats (spec/04_encoding.md R83 to R91, spec/10_system_clearing_isa.md R250). -/

namespace Sys2Proof

/-- A 32-bit register, instruction word or mask. -/
abbrev Word := BitVec 32

/-- One byte of memory (spec/00_scope.md R2). -/
abbrev Byte := BitVec 8

/-- A finite map as plain data: pairs of a key and a value, keys rising. -/
abbrev FMap (α : Type) := List (Nat × α)

/-- The modifier extension word of a V instruction (spec/04_encoding.md R85). -/
structure ExtV where
  rnd : BitVec 3
  sat : BitVec 1
  fmt : BitVec 6
  xp  : BitVec 6
  sub : BitVec 16
  deriving DecidableEq, Repr

/-- Format V (spec/04_encoding.md R83). -/
structure VOps where
  d  : BitVec 7
  a  : BitVec 7
  b  : BitVec 7
  pm : BitVec 3
  x  : Option ExtV
  deriving DecidableEq, Repr

/-- Format I (spec/04_encoding.md R86). -/
structure IOps where
  d   : BitVec 7
  a   : BitVec 7
  imm : BitVec 10
  x   : Option Word
  deriving DecidableEq, Repr

/-- Format B (spec/04_encoding.md R87). -/
structure BOps where
  c   : BitVec 4
  off : BitVec 20
  x   : Option Word
  deriving DecidableEq, Repr

/-- Format E (spec/04_encoding.md R88). -/
structure EOps where
  sp  : BitVec 5
  sub : BitVec 3
  k   : BitVec 8
  m   : BitVec 8
  x   : Option Word
  deriving DecidableEq, Repr

/-- Format S (spec/04_encoding.md R89). -/
structure SOps where
  sub : BitVec 3
  d   : BitVec 7
  a   : BitVec 7
  b   : BitVec 7
  x   : Option Word
  deriving DecidableEq, Repr

/-- The qualifier extension word of an M instruction (spec/04_encoding.md R91);
`r1` is [16:13] and `r0` is [7:0], both reserved. -/
structure ExtM where
  iv   : BitVec 1
  idx  : BitVec 7
  aop  : BitVec 4
  hint : BitVec 2
  sgn  : BitVec 1
  r1   : BitVec 4
  pk   : BitVec 1
  clr  : BitVec 1
  fe   : BitVec 1
  acq  : BitVec 1
  rel  : BitVec 1
  r0   : BitVec 8
  deriving DecidableEq, Repr

/-- Format M (spec/04_encoding.md R90). -/
structure MOps where
  d   : BitVec 7
  a   : BitVec 7
  sz  : BitVec 3
  off : BitVec 7
  x   : Option ExtM
  deriving DecidableEq, Repr

/-- Layout 1 of a clearing word (spec/10_system_clearing_isa.md R250). -/
structure C1Ops where
  rd  : BitVec 4
  ra  : BitVec 4
  rb  : BitVec 4
  imm : BitVec 15
  deriving DecidableEq, Repr

/-- Layout 2 of a clearing word (spec/10_system_clearing_isa.md R250). -/
structure C2Ops where
  rd  : BitVec 4
  imm : BitVec 23
  deriving DecidableEq, Repr

end Sys2Proof
end

