-- ==== Sys2Proof/Syntax.lean ====
section
/-! DEFINITION. Syntax.lean: the instructions and events of the Torson T8, one constructor per row of
spec/opcode_table.json. Core instructions carry their format's fields (spec/04_encoding.md R83 to R91),
clearing instructions theirs (spec/10_system_clearing_isa.md R250); an event row has no encoding. -/

namespace Sys2Proof

/-- One constructor per row of the opcode table; each docstring names the row and its rule. -/
inductive Instr where
  /-- NOP (R124): Changes no state. -/
  | nop (o : VOps)
  /-- YIELD (R124): Gives up the partition issue slot at the end of the run, as if the warp had stalled. -/
  | yield (o : VOps)
  /-- BRA (R102): Sends every thread of the split to the branch target. -/
  | bra (o : BOps)
  /-- BRP (R103): Sends each thread whose (optionally inverted) predicate is true to the target, and the others to the fall-through. -/
  | brp (o : BOps)
  /-- CALL (R104): Writes the fall-through address into each thread's link pair and branches to the target. -/
  | call (o : BOps)
  /-- RET (R104): Sends each thread to the 64-bit address in its pair; misaligned addresses fault MISALIGNED. -/
  | ret (o : VOps)
  /-- CALLX (R105): Indirect call to an address listed in the target block, writing the link pair; unlisted addresses fault TARGET_UNLISTED. -/
  | callx (o : VOps)
  /-- JMPX (R105): Indirect jump to an address listed in the target block; unlisted addresses fault TARGET_UNLISTED. -/
  | jmpx (o : VOps)
  /-- BRT (R105): Branches each thread through the target block by its index; out-of-range indices fault BRANCH_RANGE. -/
  | brt (o : VOps)
  /-- EXIT (R106): Ends each thread of the split, removing it from masks, meets and barrier expected counts. -/
  | exit (o : VOps)
  /-- MEET (R107): Arms each thread's meet register on a clause address and mask and adds the thread to the mask. -/
  | meet (o : BOps)
  /-- LEAVE (R109): Removes each thread from a convergence mask, clearing its meet if it names that mask. -/
  | leave (o : VOps)
  /-- JOIN (R109): Adds each thread of the split to a convergence mask. -/
  | join (o : VOps)
  /-- WAITM (R111): Holds member threads until every member of the mask waits at a WAITM on it. -/
  | waitm (o : VOps)
  /-- KMOV (R114): Moves a whole convergence mask to or from a uniform register, possibly releasing held threads. -/
  | kmov (o : VOps)
  /-- MEETRD (R115): Writes each thread's meet register into a vector pair. -/
  | meetrd (o : VOps)
  /-- MEETWR (R115): Writes a vector pair into each thread's meet register, faulting RECORD_INVALID on malformed values. -/
  | meetwr (o : VOps)
  /-- BAR_SYNC (R117): Arrives at a named barrier and waits for the phase to complete; the arrival is a release. -/
  | barSync (o : IOps)
  /-- BAR_ARV (R117): Arrives at a named barrier without waiting. -/
  | barArv (o : IOps)
  /-- CBAR_SYNC (R120): Arrives at a cohort barrier kept by the launch unit and waits for its completion. -/
  | cbarSync (o : IOps)
  /-- CBAR_ARV (R120): Arrives at a cohort barrier without waiting. -/
  | cbarArv (o : IOps)
  /-- GOPEN (R121): Sets a guard slot to unresolved. -/
  | gopen (o : VOps)
  /-- GSET (R122): Resolves a guard slot true or false, releasing or discarding the commands held on it. -/
  | gset (o : VOps)
  /-- TRAP (R125): Raises SOFTWARE_TRAP in every thread of the split, parking them as one fragment past the trap. -/
  | trap (o : IOps)
  /-- IADD (R130): Integer add per element, wrapping or saturating. -/
  | iadd (o : VOps)
  /-- ISUB (R130): Integer subtract per element. -/
  | isub (o : VOps)
  /-- IMUL (R130): Integer multiply per element, low bits or clamped. -/
  | imul (o : VOps)
  /-- IMULH (R130): High half of the integer product per element. -/
  | imulh (o : VOps)
  /-- IMAC (R130): Integer multiply-accumulate into d, fitted once. -/
  | imac (o : VOps)
  /-- IDIV (R131): 32-bit integer division with defined divide-by-zero result, delivered as a long result. -/
  | idiv (o : VOps)
  /-- IREM (R131): 32-bit integer remainder, delivered as a long result. -/
  | irem (o : VOps)
  /-- IMIN (R130): Integer minimum per element. -/
  | imin (o : VOps)
  /-- IMAX (R130): Integer maximum per element. -/
  | imax (o : VOps)
  /-- IABSD (R130): Absolute integer difference per element. -/
  | iabsd (o : VOps)
  /-- IADDMIN (R130): Minimum of d and the fitted sum x + y. -/
  | iaddmin (o : VOps)
  /-- IADDMAX (R130): Maximum of d and the fitted sum x + y. -/
  | iaddmax (o : VOps)
  /-- AND (R130): Bitwise and. -/
  | and (o : VOps)
  /-- OR (R130): Bitwise or. -/
  | or (o : VOps)
  /-- XOR (R130): Bitwise exclusive or. -/
  | xor (o : VOps)
  /-- ANDN (R130): Bitwise x and not y. -/
  | andn (o : VOps)
  /-- MOV (R132): Copies the permuted source b into d. -/
  | mov (o : VOps)
  /-- POPC (R132): Population count per element. -/
  | popc (o : VOps)
  /-- CLZ (R132): Leading-zero count per element. -/
  | clz (o : VOps)
  /-- BREV (R132): Bit reversal per element. -/
  | brev (o : VOps)
  /-- MOVI (R133): Writes a sign-extended immediate into d. -/
  | movi (o : IOps)
  /-- SHL (R132): Logical shift left per element. -/
  | shl (o : VOps)
  /-- SHR (R132): Logical shift right per element. -/
  | shr (o : VOps)
  /-- SAR (R132): Arithmetic shift right per element. -/
  | sar (o : VOps)
  /-- ROL (R132): Rotate left per element. -/
  | rol (o : VOps)
  /-- BFX (R134): Extracts a bit field, sign- or zero-extended. -/
  | bfx (o : VOps)
  /-- BFI (R134): Inserts a bit field into d. -/
  | bfi (o : VOps)
  /-- LEA (R135): 64-bit address sum of a pair and a shifted extended index. -/
  | lea (o : VOps)
  /-- IADD64 (R135): 64-bit pair addition, wrapping or saturating. -/
  | iadd64 (o : VOps)
  /-- ICMP (R136): Integer comparison writing a predicate. -/
  | icmp (o : VOps)
  /-- SEL (R136): Selects a or b per thread by a predicate. -/
  | sel (o : VOps)
  /-- FADD (R138): FP32 addition rounded once. -/
  | fadd (o : VOps)
  /-- FSUB (R138): FP32 subtraction rounded once. -/
  | fsub (o : VOps)
  /-- FMUL (R138): FP32 multiplication rounded once. -/
  | fmul (o : VOps)
  /-- FFMA (R138): FP32 fused multiply-add rounded once. -/
  | ffma (o : VOps)
  /-- FMIN (R139): FP32 MinNum selection. -/
  | fmin (o : VOps)
  /-- FMAX (R139): FP32 MaxNum selection. -/
  | fmax (o : VOps)
  /-- FADDMIN (R139): MinNum of d and the rounded sum x + y. -/
  | faddmin (o : VOps)
  /-- FCMP (R140): FP32 comparison writing a predicate. -/
  | fcmp (o : VOps)
  /-- FCLASS (R141): Classifies an FP32 value into a one-hot word. -/
  | fclass (o : VOps)
  /-- FDIV (R138): FP32 division rounded once, as a long result. -/
  | fdiv (o : VOps)
  /-- FRCP (R142): Correctly rounded reciprocal, long result. -/
  | frcp (o : VOps)
  /-- FRSQ (R142): Correctly rounded reciprocal square root, long result. -/
  | frsq (o : VOps)
  /-- FSQRT (R142): Correctly rounded square root, long result. -/
  | fsqrt (o : VOps)
  /-- FEXP2 (R142): Correctly rounded base-2 exponential, long result. -/
  | fexp2 (o : VOps)
  /-- FLOG2 (R142): Correctly rounded base-2 logarithm, long result. -/
  | flog2 (o : VOps)
  /-- FSIN (R142): Correctly rounded sine, long result. -/
  | fsin (o : VOps)
  /-- FCOS (R142): Correctly rounded cosine, long result. -/
  | fcos (o : VOps)
  /-- FTANH (R142): Correctly rounded hyperbolic tangent, long result. -/
  | ftanh (o : VOps)
  /-- HADD2 (R143): Packed BF16 or FP16 addition of two elements. -/
  | hadd2 (o : VOps)
  /-- HMUL2 (R143): Packed 16-bit multiplication. -/
  | hmul2 (o : VOps)
  /-- HFMA2 (R143): Packed 16-bit fused multiply-add. -/
  | hfma2 (o : VOps)
  /-- HMIN2 (R143): Packed 16-bit MinNum. -/
  | hmin2 (o : VOps)
  /-- HMAX2 (R143): Packed 16-bit MaxNum. -/
  | hmax2 (o : VOps)
  /-- DOT4 (R144): Four-element 8-bit dot product added to an FP32 accumulator with one rounding. -/
  | dot4 (o : VOps)
  /-- CVT (R163): Converts the low elements of a register between formats. -/
  | cvt (o : VOps)
  /-- CVTSR (R163): Conversion with stochastic rounding under a uniform seed. -/
  | cvtsr (o : VOps)
  /-- PACK (R164): Converts two sources and packs them into part of d. -/
  | pack (o : VOps)
  /-- UNPACK (R164): Converts part of a packed source into wider elements. -/
  | unpack (o : VOps)
  /-- QSCALE (R165): Forms an MX block scale across lanes and writes the scale or the codes. -/
  | qscale (o : VOps)
  /-- SIGNQ (R167): Sign-codes a block as the clearing engine does, writing scale, decoded values or code words. -/
  | signq (o : VOps)
  /-- TERNQ (R168): Ternary-codes a block, writing scale, decoded values or code words. -/
  | ternq (o : VOps)
  /-- LSHF (R155): Shifts a register across lanes up or down, with fill. -/
  | lshf (o : VOps)
  /-- LPERM (R156): Delivers in each lane the source of the lane named by its index. -/
  | lperm (o : VOps)
  /-- LBC (R156): Broadcasts one lane's value, selected by a uniform index. -/
  | lbc (o : VOps)
  /-- VOTE_ALL (R157): Writes 1 if the predicate holds in every thread of the split. -/
  | voteAll (o : VOps)
  /-- VOTE_ANY (R157): Writes 1 if the predicate holds in some thread of the split. -/
  | voteAny (o : VOps)
  /-- VOTE_BALLOT (R157): Writes the lane mask of threads whose predicate holds. -/
  | voteBallot (o : VOps)
  /-- VOTE_COUNT (R157): Writes the count of threads whose predicate holds. -/
  | voteCount (o : VOps)
  /-- LRED (R160): Reduces the split's lanes along the fixed tree and delivers the root. -/
  | lred (o : VOps)
  /-- LSCAN (R160): Forms an inclusive prefix across the split's lanes. -/
  | lscan (o : VOps)
  /-- LMATCH (R158): Writes in each lane the mask of lanes holding the same bits. -/
  | lmatch (o : VOps)
  /-- SADD (R147): Uniform add. -/
  | sadd (o : VOps)
  /-- SSUB (R147): Uniform subtract. -/
  | ssub (o : VOps)
  /-- SMUL (R147): Uniform multiply. -/
  | smul (o : VOps)
  /-- SAND (R147): Uniform bitwise and. -/
  | sand (o : VOps)
  /-- SOR (R147): Uniform bitwise or. -/
  | sor (o : VOps)
  /-- SXOR (R147): Uniform bitwise exclusive or. -/
  | sxor (o : VOps)
  /-- SSHL (R147): Uniform shift left. -/
  | sshl (o : VOps)
  /-- SSHR (R147): Uniform shift right, arithmetic or logical by type. -/
  | sshr (o : VOps)
  /-- SMIN (R147): Uniform minimum. -/
  | smin (o : VOps)
  /-- SMAX (R147): Uniform maximum. -/
  | smax (o : VOps)
  /-- SMOV (R147): Uniform register move. -/
  | smov (o : VOps)
  /-- SMOVI (R147): Writes an immediate into a uniform register. -/
  | smovi (o : IOps)
  /-- SCMP (R147): Uniform comparison writing 1 or 0 to a uniform register. -/
  | scmp (o : VOps)
  /-- SLD (R150): Loads memory into uniform registers once per split, as a long result. -/
  | sld (o : MOps)
  /-- SRD (R148): Reads a special register by selector. -/
  | srd (o : IOps)
  /-- SFROMV (R149): Copies the lowest split lane's vector value into a uniform register. -/
  | sfromv (o : VOps)
  /-- LD (R175): Loads bytes per lane into d as a long result, with optional acquire. -/
  | ld (o : MOps)
  /-- LDF (R177): Reads a full-empty granule at its home, waiting while it is empty; .clr empties it. -/
  | ldf (o : MOps)
  /-- LD_PK (R187): Loads one element per lane from a packed vector by index. -/
  | ldPk (o : MOps)
  /-- ST (R175): Stores bytes per lane, with optional release. -/
  | st (o : MOps)
  /-- STF (R178): Writes bytes at the home and fills the granule in one action. -/
  | stf (o : MOps)
  /-- FEOP_SET (R180): Fills a range of full-empty granules, serving waiters. -/
  | feopSet (o : MOps)
  /-- FEOP_CLEAR (R180): Empties a range of full-empty granules. -/
  | feopClear (o : MOps)
  /-- FEOP_TEST (R180): Counts the full granules of a range, stalling for the result. -/
  | feopTest (o : MOps)
  /-- ATOM (R181): Applies an atomic operation at the word's home and returns the old value. -/
  | atom (o : MOps)
  /-- CAS (R182): Compare-and-swap at the home, returning the old value. -/
  | cas (o : MOps)
  /-- RED (R181): Applies a reduction at the home without returning a value. -/
  | red (o : MOps)
  /-- FENCE_ACQ (R184): Waits for earlier loads and atomics, then acquires. -/
  | fenceAcq (o : VOps)
  /-- FENCE_REL (R184): Waits until earlier stores have registered and writes are accepted. -/
  | fenceRel (o : VOps)
  /-- FENCE_AR (R184): Performs FENCE.rel and then FENCE.acq. -/
  | fenceAr (o : VOps)
  /-- CST (R186): Stores a split's registers as one packed vector, faulting on overrun. -/
  | cst (o : MOps)
  /-- ABINIT (R190): Initialises an async barrier from a reload word. -/
  | abinit (o : VOps)
  /-- ABEXP (R190): Adds expected bytes to an async barrier. -/
  | abexp (o : VOps)
  /-- ABARR (R190): Adds bytes and counts the split's arrivals on an async barrier, as a release. -/
  | abarr (o : VOps)
  /-- ABWAIT (R190): Waits while the barrier phase equals the given parity. -/
  | abwait (o : VOps)
  /-- ABTEST (R190): Writes a predicate telling whether the phase differs from the parity. -/
  | abtest (o : VOps)
  /-- WAITC (R192): Parks the split until a counter falls to the threshold, then acquires. -/
  | waitc (o : IOps)
  /-- PREF (R193): Asks for a line to be brought to the L1, dropping it on any failed check. -/
  | pref (o : MOps)
  /-- HGL (R194): Interpolates hashed-grid features at each lane's coordinate. -/
  | hgl (o : VOps)
  /-- HGA (R195): Scatters gradients into a hashed-grid gradient table, one reduction per entry. -/
  | hga (o : VOps)
  /-- OBRES (R200): Reserves operand-buffer rows into a tile record, stalling until rows are free. -/
  | obres (o : VOps)
  /-- OBREL (R201): Invalidates a tile record; rows return once readers retire. -/
  | obrel (o : VOps)
  /-- OBSET (R201): Replaces format and scale fields of a valid tile record. -/
  | obset (o : VOps)
  /-- ACZ (R202): Zeroes an accumulator tile. -/
  | acz (o : VOps)
  /-- ACRD (R202): Reads accumulator rows into vector registers as a long result. -/
  | acrd (o : VOps)
  /-- ACWR (R202): Writes vector registers into accumulator rows of the split's lanes. -/
  | acwr (o : VOps)
  /-- ACST (R203): Stores an accumulator to memory as engine writes. -/
  | acst (o : MOps)
  /-- MXLOOP (R208): Queues a loop of matrix K-steps into an accumulator. -/
  | mxloop (o : VOps)
  /-- MXSTEP (R208): Queues one matrix K-step into an accumulator. -/
  | mxstep (o : VOps)
  /-- CPYQ (R216): Issues a copy request block to the core's copy engine. -/
  | cpyq (o : EOps)
  /-- GTHQ (R220): Issues an index gather request to the copy engine. -/
  | gthq (o : EOps)
  /-- CLPOST (R221): Posts a collective parameter block to the die's clearing engine. -/
  | clpost (o : EOps)
  /-- CLCTL_QUERY (R222): Asks whether a posted collective is still live, writing a uniform word. -/
  | clctlQuery (o : EOps)
  /-- CLCTL_ABORT (R222): Ends a live collective with ABORTED. -/
  | clctlAbort (o : EOps)
  /-- EPOPEN (R224): Opens an episode in the join table and returns its handle. -/
  | epopen (o : EOps)
  /-- EPSTEP (R225): Appends a step record to an open episode. -/
  | epstep (o : EOps)
  /-- EPCLOSE (R226): Closes an episode, fixing its length and bootstrap value. -/
  | epclose (o : EOps)
  /-- RWSEND (R227): Sends a reward message to the device named by its key. -/
  | rwsend (o : EOps)
  /-- LQTAKE (R228): Takes release records from a learner queue into local memory. -/
  | lqtake (o : EOps)
  /-- CSRRD (R236): Reads a core CSR. -/
  | csrrd (o : SOps)
  /-- CSRWR (R236): Writes the RW fields of a core CSR, with each CSR's own write behaviour. -/
  | csrwr (o : SOps)
  /-- FRAGRD (R240): Reads a fragment entry or warp fault slot into four vector registers. -/
  | fragrd (o : SOps)
  /-- FRAGRES (R241): Resumes masked lanes of a fragment, or clears a warp fault slot. -/
  | fragres (o : SOps)
  /-- FRAGKILL (R242): Kills masked lanes of a fragment, or every live thread of a warp. -/
  | fragkill (o : SOps)
  /-- ERET (R247): Ends handler mode and hands the warp its written state. -/
  | eret (o : SOps)
  /-- SVCWAIT (R238): Parks the service warp until an unreported event, then reports the highest-priority one. -/
  | svcwait (o : SOps)
  /-- TLBINV (R248): Removes matching entries from the die's TLBs. -/
  | tlbinv (o : SOps)
  /-- CACHEOP (R248): Invalidates, cleans or purges the core's L1. -/
  | cacheop (o : SOps)
  /-- PMCTL (R248): Returns the island clock or the core energy counter. -/
  | pmctl (o : SOps)
  /-- SAVEX (R244): Copies one item of a target context into a vector register. -/
  | savex (o : SOps)
  /-- RESTX (R244): Copies a vector register into one item of a target context. -/
  | restx (o : SOps)
  /-- CLD (R250): Clearing processor 8-byte load. -/
  | cld (o : C1Ops)
  /-- CLEARING_CST (R250): Clearing processor 8-byte store as an engine write. -/
  | clearingCst (o : C1Ops)
  /-- CADD (R250): Clearing processor 64-bit add. -/
  | cadd (o : C1Ops)
  /-- CSUB (R250): Clearing processor 64-bit subtract. -/
  | csub (o : C1Ops)
  /-- CMOV (R250): Clearing processor register move. -/
  | cmov (o : C1Ops)
  /-- CMOVI (R250): Clearing processor immediate move. -/
  | cmovi (o : C2Ops)
  /-- CBNZ (R250): Clearing processor branch if nonzero. -/
  | cbnz (o : C2Ops)
  /-- CBRA (R250): Clearing processor unconditional branch. -/
  | cbra (o : C2Ops)
  /-- CSEND (R251): Sends elements, raw or coded with residual update, to a rank. -/
  | csend (o : C1Ops)
  /-- CRECV (R251): Receives elements from a rank and writes them decoded. -/
  | crecv (o : C1Ops)
  /-- CRED (R251): Receives from a rank and adds into local elements. -/
  | cred (o : C1Ops)
  /-- CCOMP (R251): Codes elements into a code image in memory. -/
  | ccomp (o : C1Ops)
  /-- CSIG_FE (R252): Signals by an STF of 4 bytes, as a release. -/
  | csigFe (o : C1Ops)
  /-- CSIG_AB (R252): Delivers bytes to an async barrier, as a release. -/
  | csigAb (o : C1Ops)
  /-- CWAIT_FE (R252): Waits by an LDF.clr of 4 bytes, as an acquire. -/
  | cwaitFe (o : C1Ops)
  /-- CWAIT_PH (R252): Waits while an async barrier's phase equals a parity, as an acquire. -/
  | cwaitPh (o : C1Ops)
  /-- CSWRED (R251): Contributes elements to a switch reduction slot chunk. -/
  | cswred (o : C1Ops)
  /-- CEND (R250): Ends the collective with a status. -/
  | cend (o : C2Ops)
  /-- CLAUSE_WAIT_MET (R75): A split waiting on a clause-header counter wait resumes once the counter falls to the threshold. -/
  | clauseWaitMet
  /-- CLAUSE_WORDS_ARRIVE (R265): Clause words missing in the instruction cache arrive and the group becomes selectable. -/
  | clauseWordsArrive
  /-- LONG_RESULT_RETURN (R77): A long result returns and is written to its register; a split parked at its marker may become ready. -/
  | longResultReturn
  /-- CBAR_COMPLETION (R120): A cohort barrier completion reaches a core and releases its waiting threads with an acquire. -/
  | cbarCompletion
  /-- PAGE_WALK (R326): A TLB miss walk completes, entering the translation or failing the access. -/
  | pageWalk
  /-- STORE_REGISTRATION (R312): A pending store registers at its home, taking ownership and entering the home order. -/
  | storeRegistration
  /-- HOME_WRITE_QUEUE_APPLY (R183): An atomic, CAS or RED arriving at its home write queue is applied in arrival order. -/
  | homeWriteQueueApply
  /-- LOAD_SERVE (R313): A load that misses is served by its home or forwarding owner. -/
  | loadServe
  /-- MATRIX_COMMAND_START (R335): The command at an engine queue head starts once no older same-accumulator command is outstanding. -/
  | matrixCommandStart
  /-- MATRIX_STEP (R208): An engine applies one K-step to the accumulator every 2 cycles. -/
  | matrixStep
  /-- MATRIX_COMMAND_END (R334): A matrix command ends, leaves its queue and retires in issue order. -/
  | matrixCommandEnd
  /-- COPY_COMMAND_START (R340): The copy engine starts queued commands in order, up to four at once. -/
  | copyCommandStart
  /-- COPY_DELIVERY (R342): Destination bytes reach their homes and BARD is lowered; source returns lower BARS. -/
  | copyDelivery
  /-- COMMAND_END (R214): An engine command writes STATUS, lowers the remaining barrier count and retires. -/
  | commandEnd
  /-- COLLECTIVE_START (R255): A free clearing processor takes the oldest collective whose stream has no earlier live collective. -/
  | collectiveStart
  /-- CLEARING_MESSAGE_ARRIVAL (R369): A clearing message arrives and is matched to its live collective or held in the inbox. -/
  | clearingMessageArrival
  /-- COLLECTIVE_END (R255): A collective writes STATUS, lowers its BAR by 128 bytes and CLPOST retires. -/
  | collectiveEnd
  /-- SWITCH_SLOT_TIMEOUT (R381): After SLOT_LIMIT cycles a switch slot forwards its exact accumulator to the root. -/
  | switchSlotTimeout
  /-- REDUCTION_PUSH (R380): A contribution reaches a switch slot or root and is added exactly under the bitmap. -/
  | reductionPush
  /-- HELD_END_APPLY (R232): After restore the clearing engine applies held collective ends at the new allocation. -/
  | heldEndApply
  /-- REWARD_MESSAGE (R395): A reward message is matched to its step record or placed in escrow. -/
  | rewardMessage
  /-- ESCROW_AGE_EXPIRY (R396): An escrowed reward older than ESCROW_AGE is dropped and counted in ORPHAN. -/
  | escrowAgeExpiry
  /-- JOIN_TIMEOUT (R398): A CLOSED entry times out and is truncated or dropped. -/
  | joinTimeout
  /-- EPISODE_SCAN (R400): A joined episode is scanned backwards in FP32 and its release records are written. -/
  | episodeScan
  /-- QUEUE_TAIL_POLL (R281): The launch unit's periodic count expires and it reads a queue's TAIL. -/
  | queueTailPoll
  /-- QUEUE_ADVANCE (R281): A queue-advance message makes the launch unit read the named queue's TAIL. -/
  | queueAdvance
  /-- DOORBELL (R457): A write to a queue's DOORBELL makes the launch unit read TAIL. -/
  | doorbell
  /-- DEPENDENCE_REREAD (R283): The periodic count expires and waiting event words are re-read. -/
  | dependenceReread
  /-- RECORD_START (R287): A ready launch record starts, its descriptor, patches and cohorts read and checked. -/
  | recordStart
  /-- WORKGROUP_PLACEMENT (R290): A workgroup is placed on an admitting core and its warps take their initial state. -/
  | workgroupPlacement
  /-- GANG_PLACEMENT (R293): All gang members are placed in one step once they can be admitted together. -/
  | gangPlacement
  /-- SAVE_HANDLER_ENTRY (R428): A warp enters its save handler at its next run boundary. -/
  | saveHandlerEntry
  /-- DRAIN_COMPLETE (R429): The drain of a warp's outstanding operations ends. -/
  | drainComplete
  /-- RESTORE_PLACEMENT (R431): A saved workgroup is placed and its warps enter their restore handlers. -/
  | restorePlacement
  /-- VER_UPDATE (R31): The launch unit updates a core's copy of a tenant's %ver. -/
  | verUpdate
  /-- WATCHDOG_EXPIRY (R423): A warp's watchdog count reaches WATCHDOG and the service warp is told. -/
  | watchdogExpiry
  /-- MAILBOX_MESSAGE (R238): A mailbox message from the system cores reaches the core's service warp. -/
  | mailboxMessage
  /-- FAULT_RECORD_WRITE (R422): A fault record takes a sequence number and is written to the tenant's fault ring or dropped. -/
  | faultRecordWrite
  /-- SCRUB (R427): A scrubber period reads each location, rewriting corrected ones and handling lasting errors. -/
  | scrub
  /-- TENANT_RESET (R463): Writing TENCTL.RESET aborts all of a tenant's work and frees its state. -/
  | tenantReset
  /-- REGISTER_WRITE (R456): A system-core write to a hub MMIO register that has no row of its own. -/
  | registerWrite
  /-- QCFG_WRITE (R457): A QCFG write enables a queue, storing EN 0 if LOG2N is out of range. -/
  | qcfgWrite
  /-- PORTCFG_WRITE (R443): A PORTCFG write enables or disables a port and sets its mode. -/
  | portcfgWrite
  /-- PORT_TRAINING (R443): A port training completes or fails, updating LIVE, STATE and SLOT_LIMIT. -/
  | portTraining
  /-- FREPLAY_WRITE (R451): Write to the fabric context timing registers, with zero stored as one. -/
  | freplayWrite
  /-- ISLFREQ_WRITE (R470): Sets an island clock target, rounded down to a step. -/
  | islfreqWrite
  /-- ISLBUDGET_WRITE (R470): Writes CORE_BUDGET of every core of a compute quarter. -/
  | islbudgetWrite
  /-- PLIMIT_WRITE (R472): Sets the package power limit, clamped to 1,000–6,000 W. -/
  | plimitWrite
  /-- TELEMETRY_SAMPLE (R471): Every 4,096 cycles the controller samples rails and adjusts budgets and clocks. -/
  | telemetrySample
  /-- THERMAL_SHUTDOWN (R473): A junction at 115 °C drops all rails and the mint records the cause. -/
  | thermalShutdown
  /-- EVENT_SNAPSHOT (R468): Every 2^20 hub cycles granted counters are written to the tenant's EVPAGE. -/
  | eventSnapshot
  /-- PACKAGE_RESET (R460): At power-on the mint measures and verifies the boot firmware and releases system core 0. -/
  | packageReset
  /-- IMAGE_INSTALL (R460): The mint measures, verifies and installs a staged image, then locks MEAS0 to MEAS3. -/
  | imageInstall
  /-- CORE_RELEASE (R17): Compute cores and clearing processors are released from reset after measurement. -/
  | coreRelease
  /-- EXTEND (R459): A write to the mint's EXTEND register extends MEAS4 to MEAS7. -/
  | extend
  /-- ATTESTATION_REQUEST (R461): A nonce request is queued and answered with a signed attestation report. -/
  | attestationRequest
  /-- FABRIC_REQUEST_ARRIVAL (R448): A fabric request reaches its target and is applied in SEQ order, once. -/
  | fabricRequestArrival
  /-- FABRIC_REPLY_ARRIVAL (R449): A reply reaches the source, which acknowledges it. -/
  | fabricReplyArrival
  /-- ACKNOWLEDGEMENT (R449): An acknowledgement lets the target free kept replies up to the named SEQ. -/
  | acknowledgement
  /-- FABRIC_REPLAY_TIMEOUT (R449): After FREPLAY cycles without a reply the request is resent, or the device is declared lost. -/
  | fabricReplayTimeout
  /-- CONTEXT_QUIET_EXPIRY (R449): After FQUIET cycles with all replies acknowledged the source closes the context. -/
  | contextQuietExpiry
  /-- CONTEXT_CLOSE (R449): A context-close packet frees the delivery context at the target. -/
  | contextClose
  /-- FLIT_RECEIVE (R359): A flit is accepted in sequence or held in the reorder window; whole packets are decoded. -/
  | flitReceive
  /-- RETRY_GAP_EXPIRY (R360): A persisting gap or failed link check makes the receiver send a retry request. -/
  | retryGapExpiry
  /-- RETRY_REQUEST (R360): The sender resends every unacknowledged flit from the named number. -/
  | retryRequest
  /-- LINK_FAILURE (R361): A failed link's flits move to surviving links; the last failure retrains the port. -/
  | linkFailure
  /-- PORT_RETRAIN (R361): A retrain resets coding tables and sequences and recodes unacknowledged packets. -/
  | portRetrain
  /-- UE_RMA_WRITE (R455): An Ultra Ethernet RMA write into a registered window becomes engine writes. -/
  | ueRmaWrite
  /-- UE_QUEUE_ADVANCE (R455): An Ultra Ethernet queue-advance send makes the launch unit read TAIL. -/
  | ueQueueAdvance
  /-- UE_REWARD_SEND (R455): An Ultra Ethernet reward send delivers reward messages for the bound tenant. -/
  | ueRewardSend
  /-- UE_UNSUPPORTED_REQUEST (R454): An atomic or unreliable-delivery request is answered with an error completion. -/
  | ueUnsupportedRequest
  /-- DIE_STOPS_ANSWERING (R383): A member's die stops answering over the die-to-die links, so the member is lost and live collectives of its group end with LOST_MEMBER. -/
  | dieStopsAnswering
  /-- PLANE_REPORTS_UNREACHABLE (R450): Every Mbovas plane reports a destination device unreachable, and all contexts to that device end as for a lost device. -/
  | planeReportsUnreachable
  deriving DecidableEq, Repr

end Sys2Proof
end

