-- ==== Sys2Proof/WellFormed.lean ====
section
/-! DEFINITION. WellFormed.lean: fault causes (spec/26_faults_checkpoint.md R418) and the checks of R96
orders 4 and 5 that an instruction's own words decide (spec/04_encoding.md R81 to R91, R96 and the
encoding tables of the instruction chapters). -/

namespace Sys2Proof

/-- The fault causes of spec/26_faults_checkpoint.md R418. -/
inductive Cause where
  | illegalOpcode | illegalClause | privileged | misaligned | translation | protection
  | branchRange | targetUnlisted | nonuniform | compressedOverrun | dataUncorrectable
  | cbarNonresident | formatReserved | recordInvalid | watchdog | softwareTrap
  | misalignedAtomic | flatUnpopulated | hgCoord | episodeState | fragFull | warpAbort
  deriving DecidableEq, Repr

/-- The 8-bit code of a cause (spec/26_faults_checkpoint.md R418). -/
def Cause.code : Cause → Nat
  | .illegalOpcode => 0x01 | .illegalClause => 0x02 | .privileged => 0x03 | .misaligned => 0x04
  | .translation => 0x05 | .protection => 0x06 | .branchRange => 0x07 | .targetUnlisted => 0x08
  | .nonuniform => 0x09 | .compressedOverrun => 0x0A | .dataUncorrectable => 0x0B
  | .cbarNonresident => 0x0C | .formatReserved => 0x0D | .recordInvalid => 0x0E
  | .watchdog => 0x0F | .softwareTrap => 0x10 | .misalignedAtomic => 0x11
  | .flatUnpopulated => 0x12 | .hgCoord => 0x13 | .episodeState => 0x14
  | .fragFull => 0x20 | .warpAbort => 0x21

namespace WellFormed

/-- A register code 0 to 95 names a vector register, 96 to 127 a uniform one (R82). -/
def isVec (r : BitVec 7) : Bool := decide (r.toNat < 96)
def isUni (r : BitVec 7) : Bool := decide (96 ≤ r.toNat)
/-- An even code, as 64-bit pairs need (R19, R82). -/
def isEven (r : BitVec 7) : Bool := r.toNat % 2 == 0
def uniPair (r : BitVec 7) : Bool := isUni r && isEven r

/-- The assigned format codes of spec/03_numbers.md R41; every other code is reserved (R42). -/
def fmtAssigned (f : Nat) : Bool :=
  decide (f ≤ 0x0C) || (decide (0x11 ≤ f ∧ f ≤ 0x2F) && f % 8 != 0)
/-- A binary8 code (R41). -/
def fmtB8 (f : Nat) : Bool := decide (0x11 ≤ f ∧ f ≤ 0x2F) && f % 8 != 0
/-- Element width in bits of an assigned format (R41). -/
def fmtWidth (f : Nat) : Nat :=
  if f = 0x00 ∨ f = 0x0A ∨ f = 0x0B then 32
  else if f = 0x01 ∨ f = 0x02 ∨ f = 0x09 then 16
  else if f = 0x05 ∨ f = 0x0C then 4 else 8

/-- The verdict of R96 orders 4 and 5: an illegal field first, then a reserved format code. -/
def verdict (legal : Bool) (fmtReserved : Bool := false) : Option Cause :=
  if !legal then some .illegalOpcode else if fmtReserved then some .formatReserved else none

/-- The permute fields of an instruction whose pm permutes operand b (R84). -/
def permOk (o : VOps) : Bool :=
  match o.x with
  | none => o.pm != 7#3
  | some e =>
    let xp := e.xp.toNat
    if o.pm != 7#3 then xp == 0
    else if xp < 32 then true
    else if xp / 8 == 4 then decide (xp % 8 ≤ 4)
    else xp / 8 == 5 && xp % 8 != 0

/-- The fields of an instruction whose pm is a selector or must be 0 (R83). -/
def selOk (o : VOps) (ok : Nat → Bool) : Bool :=
  ok o.pm.toNat && (match o.x with | none => true | some e => e.xp == 0#6)

def noX (o : VOps) : Bool := o.x.isNone

/-- Modifiers of the integer and uniform families (R85, R128, R146): SAT only where the entry says so,
the types accepted, and SUB below `subMax`. -/
def intExt (o : VOps) (sat : Bool) (tyMax : Nat) (subMax : Nat := 1) : Bool :=
  match o.x with
  | none => true
  | some e => e.rnd == 0#3 && (sat || e.sat == 0#1) && e.fmt.toNat % 8 == 0
      && decide (e.fmt.toNat / 8 ≤ tyMax) && decide (e.sub.toNat < subMax)

/-- Modifiers of the floating family (R137): RND up to `rmax`, SAT where allowed, FMT accepted or
reserved, the seed only with SR. -/
def fltExt (o : VOps) (rmax : Nat) (sat : Bool) (acc : Nat → Bool) (subHiOk : Nat → Bool) : Bool :=
  match o.x with
  | none => true
  | some e => decide (e.rnd.toNat ≤ rmax) && (sat || e.sat == 0#1)
      && (acc e.fmt.toNat || !fmtAssigned e.fmt.toNat)
      && subHiOk (e.sub.toNat / 256) && (e.rnd == 5#3 || e.sub.toNat % 256 == 0)

def fmtRes (o : VOps) : Bool := match o.x with | none => false | some e => !fmtAssigned e.fmt.toNat

def intV (o : VOps) (sat : Bool) (tyMax : Nat) : Option Cause :=
  verdict (isVec o.d && permOk o && intExt o sat tyMax)

def fltV (o : VOps) (rmax : Nat) (sat : Bool) (acc : Nat → Bool) : Option Cause :=
  verdict (isVec o.d && permOk o && fltExt o rmax sat acc (· == 0)) (fmtRes o)

def isF32 (f : Nat) : Bool := f == 0
def isH (f : Nat) : Bool := f == 1 || f == 2
/-- The formats DOT4 accepts (R145). -/
def dot4Fmt (f : Nat) : Bool := f == 3 || f == 4 || f == 7 || f == 8 || fmtB8 f

/-- A function of opcode 0x30: `a` is the selector, the source is b, permuted (R137). -/
def fnV (o : VOps) (sel : Nat) (rmax : Nat) : Option Cause :=
  verdict (isVec o.d && o.a.toNat == sel && permOk o && fltExt o rmax true isF32 (· == 0)) (fmtRes o)

/-- Uniform arithmetic (R146). -/
def uniV (o : VOps) (pm : Nat) (sat : Bool) : Option Cause :=
  verdict (isUni o.d && isUni o.a && isUni o.b && selOk o (· == pm) && intExt o sat 1)

/-- A V instruction with X forbidden and a fixed pm. -/
def plainV (o : VOps) (pm : Nat) (fields : Bool) : Option Cause :=
  verdict (noX o && o.pm.toNat == pm && fields)

def z7 (r : BitVec 7) : Bool := r == 0#7

/-- Qualifiers of format M (R91). -/
structure Quals where
  iv : Bool := true
  hint : Bool := true
  aop : Nat → Bool := (· == 0)
  sgn : Bool := false
  pk : Bool := false
  clr : Bool := false
  fe : Bool := false
  acq : Bool := false
  rel : Bool := false

def extMOk (e : ExtM) (q : Quals) : Bool :=
  (e.iv == 1#1 || e.idx == 0#7) && (q.iv || e.iv == 0#1) && q.aop e.aop.toNat
  && (e.hint == 0#2 || (q.hint && e.hint != 3#2)) && (q.sgn || e.sgn == 0#1) && e.r1 == 0#4
  && (q.pk || e.pk == 0#1) && (q.clr || e.clr == 0#1) && (q.fe || e.fe == 0#1)
  && (q.acq || e.acq == 0#1) && (q.rel || e.rel == 0#1) && e.r0 == 0#8

def qualOk (o : MOps) (q : Quals) : Bool :=
  match o.x with | none => true | some e => extMOk e q

/-- The placement of a datum of size code `sz` at register d (R90). -/
def placed (d : BitVec 7) (sz : Nat) : Bool :=
  if sz = 5 then d.toNat % 2 == 0 else if sz = 6 then d.toNat % 4 == 0 else decide (sz ≤ 4)

/-- ATOM and RED: the size and the sign bit fit the operation (R91). -/
def aopOk (o : MOps) : Bool :=
  match o.x with
  | none => true
  | some e => decide (e.aop.toNat ≤ 9) && (e.aop != 9#4 || o.sz == 4#3)
      && (e.sgn == 0#1 || e.aop == 1#4 || e.aop == 2#4)

def eOk (o : EOps) (sub : Nat) (mOk : Bool) : Option Cause :=
  verdict (o.x.isNone && o.sp.toNat % 2 == 0 && o.sub.toNat == sub && o.k == 0#8 && mOk)

/-- The CSR numbers listed in spec/10_system_clearing_isa.md R237 and spec/28_system.md R465. -/
def csrListed (n : Nat) : Bool :=
  decide (n ≤ 8) || decide (0x10 ≤ n ∧ n ≤ 0x13) || n == 0x20 || n == 0x21
  || decide (0x100 ≤ n ∧ n ≤ 0x118)
/-- CSRs that are RO in every field. -/
def csrReadOnly (n : Nat) : Bool :=
  n == 0 || n == 8 || decide (0x10 ≤ n ∧ n ≤ 0x13) || n == 0x20 || n == 0x21

/-- The CLASS and IDX pairs of R244. -/
def itemListed (cls idx : Nat) : Bool :=
  (cls == 0 && decide (idx ≤ 95)) || (cls == 1 && decide (idx ≤ 31)) || (cls == 2 && idx == 0)
  || ((cls == 3 || cls == 4 || cls == 6) && decide (idx ≤ 1)) || ((cls == 5 || cls == 7) && idx == 0)
  || (cls == 8 && decide (idx ≤ 11)) || (cls == 9 && decide (idx ≤ 31)) || cls == 10
  || ((cls == 11 || cls == 12) && idx == 0) || ((cls == 13 || cls == 14 || cls == 15) && decide (idx ≤ 3))
  || (cls == 16 && decide (idx ≤ 251)) || ((cls == 17 || cls == 18) && idx == 0)

/-- SAVEX and RESTX: the extension word and the b field (R244); `ref` is the reference field. -/
def itemOk (x : Option Word) (ref b : BitVec 7) : Bool :=
  match x with
  | none => false
  | some w =>
    let cls := w.toNat / 256; let idx := w.toNat % 256
    itemListed cls idx && (z7 ref || isUni ref)
      && (if cls = 17 ∨ cls = 18 then isUni b else z7 b)

/-- The extension word of the conversion family (R161): X required, pm and XP 0. The conversions that write vector results
refuse a uniform code in d, as their callers below ask (notes/assumptions/63.md). -/
def cvtExt (o : VOps) (ok : ExtV → Bool) (res : ExtV → Bool) (fields : Bool) : Option Cause :=
  match o.x with
  | none => some .illegalOpcode
  | some e => verdict (o.pm == 0#3 && e.xp == 0#6 && decide (e.rnd.toNat ≤ 5) && fields && ok e) (res e)

def subFmt (e : ExtV) : Nat := e.sub.toNat / 256 % 64
/-- H, the two bits SUB[15:14] of R161. DESIGN CHOICE (notes/assumptions/82.md): R164's table permits UNPACK H 4 to 7 for
widths 32 and 4, but the field that R161 gives holds none of them, so that they have no word. -/
def subTop (e : ExtV) : Nat := e.sub.toNat / 16384
def seedOk (e : ExtV) : Bool := e.rnd == 5#3 || e.sub.toNat % 256 == 0
def twoRes (e : ExtV) : Bool := !fmtAssigned e.fmt.toNat || !fmtAssigned (subFmt e)

/-- SIGNQ and TERNQ (R161, R166, R169). -/
def codeq (o : VOps) : Option Cause :=
  cvtExt o (fun e =>
      let s := e.sub.toNat; let g := s / 256 % 4; let out := s / 4096 % 4
      (e.fmt == 0#6 || !fmtAssigned e.fmt.toNat) && e.rnd == 0#3 && e.sat == 0#1
      && s % 256 == 0 && s / 1024 % 4 == 0 && s / 16384 == 0 && decide (out ≤ 2)
      && (o.a.toNat % 32 % 2 ^ g == 0) && (out != 1 || o.d.toNat % 2 ^ g == 0))
    (fun e => !fmtAssigned e.fmt.toNat) (isVec o.d && z7 o.b)

/-- LRED and LSCAN (R159). -/
def redExt (o : VOps) : Bool :=
  match o.x with
  | none => true
  | some e =>
    let op := e.sub.toNat; let f := e.fmt.toNat
    decide (op ≤ 5) && e.xp == 0#6 &&
    (if f = 0 then decide (op ≤ 2) && (if op = 0 then decide (e.rnd.toNat ≤ 4) else e.rnd == 0#3 && e.sat == 0#1)
     else (f == 0x0A || f == 0x0B || !fmtAssigned f) && e.rnd == 0#3 && (op == 0 || e.sat == 0#1))

/-- The formats that the matrix engines accept (spec/09_engine_isa.md R199). -/
def matFmt (f : Nat) : Bool := f == 1 || f == 2 || f == 3 || f == 4 || f == 5 || f == 7 || fmtB8 f
/-- MXSTEP's extension word: RND, SAT, XP and SUB are 0 (R197), and FMT is accepted or reserved (R85). -/
def mxstepExt (o : VOps) : Bool :=
  match o.x with
  | none => true
  | some e => (matFmt e.fmt.toNat || !fmtAssigned e.fmt.toNat) && e.rnd == 0#3 && e.sat == 0#1 && e.xp == 0#6 && e.sub == 0#16

/-- The selector of SRD: IMM10, or the extension word that replaces it (spec/04_encoding.md R86). -/
def srSel (o : IOps) : Nat := match o.x with | none => o.imm.toNat | some w => w.toNat

/-- The special-register selectors of spec/02_state.md R28. -/
def srListed (n : Nat) : Bool := decide (n ≤ 0x0E) || decide (0x10 ≤ n ∧ n ≤ 0x13)

/-- The checks of R96 orders 4 and 5 on the instruction's own words: `none` where it passes. A clearing
word that fails ends its collective with RANGE (spec/10_system_clearing_isa.md R250); `illegalOpcode`
stands for that. -/
def check : Instr → Option Cause
  | .nop o => plainV o 0 (z7 o.d && z7 o.a && z7 o.b)
  | .yield o => plainV o 1 (z7 o.d && z7 o.a && z7 o.b)
  | .bra o => verdict (o.x.isNone && o.c == 0#4)
  | .brp o => verdict o.x.isNone
  | .call o => verdict o.x.isNone
  | .ret o => plainV o 0 (z7 o.d && isEven o.a && z7 o.b)
  | .callx o => plainV o 0 (isVec o.d && isEven o.d && isEven o.a && z7 o.b)
  | .jmpx o => plainV o 0 (z7 o.d && isEven o.a && z7 o.b)
  | .brt o => plainV o 0 (z7 o.d && z7 o.b)
  | .exit o => plainV o 0 (z7 o.d && z7 o.a && z7 o.b)
  | .meet o => verdict (o.x.isNone && decide (o.c.toNat ≤ 11))
  | .leave o => plainV o 0 (decide (o.d.toNat ≤ 11) && z7 o.a && z7 o.b)
  | .join o => plainV o 1 (decide (o.d.toNat ≤ 11) && z7 o.a && z7 o.b)
  | .waitm o => plainV o 2 (decide (o.d.toNat ≤ 11) && z7 o.a && z7 o.b)
  | .kmov o => plainV o 0 ((z7 o.b && isUni o.d && decide (o.a.toNat ≤ 11))
      || (o.b == 1#7 && decide (o.d.toNat ≤ 11) && isUni o.a))
  | .meetrd o => plainV o 1 (isVec o.d && isEven o.d && z7 o.a && z7 o.b)
  | .meetwr o => plainV o 2 (z7 o.d && isVec o.a && isEven o.a && z7 o.b)
  | .barSync o => verdict (o.x.isNone && z7 o.d && decide (o.imm.toNat < 64) && o.imm.toNat / 16 % 2 == 0
      && (if o.imm.toNat / 32 % 2 == 1 then isUni o.a else z7 o.a))
  | .barArv o => verdict (o.x.isNone && z7 o.d && decide (o.imm.toNat < 64) && o.imm.toNat / 16 % 2 == 1
      && (if o.imm.toNat / 32 % 2 == 1 then isUni o.a else z7 o.a))
  | .cbarSync o => verdict (o.x.isNone && z7 o.d && z7 o.a && decide (o.imm.toNat < 256))
  | .cbarArv o => verdict (o.x.isNone && z7 o.d && z7 o.a && decide (256 ≤ o.imm.toNat ∧ o.imm.toNat < 512))
  | .gopen o => plainV o 0 (decide (o.d.toNat ≤ 7) && z7 o.a && z7 o.b)
  | .gset o => plainV o 1 (decide (o.d.toNat ≤ 7) && isUni o.a && z7 o.b)
  | .trap o => verdict (o.x.isNone && z7 o.d && z7 o.a && decide (o.imm.toNat < 512))
  | .iadd o => intV o true 5
  | .isub o => intV o true 5
  | .imul o => intV o true 5
  | .imulh o => intV o false 5
  | .imac o => intV o true 5
  | .idiv o => intV o false 1
  | .irem o => intV o false 1
  | .imin o => intV o false 5
  | .imax o => intV o false 5
  | .iabsd o => intV o false 5
  | .iaddmin o => intV o true 5
  | .iaddmax o => intV o true 5
  | .and o => intV o false 1
  | .or o => intV o false 1
  | .xor o => intV o false 1
  | .andn o => intV o false 1
  | .mov o => verdict (isVec o.d && z7 o.a && permOk o && intExt o false 1)
  | .popc o => verdict (isVec o.d && o.a == 1#7 && permOk o && intExt o false 5)
  | .clz o => verdict (isVec o.d && o.a == 2#7 && permOk o && intExt o false 5)
  | .brev o => verdict (isVec o.d && o.a == 3#7 && permOk o && intExt o false 5)
  | .movi o => verdict (isVec o.d && z7 o.a && (o.x.isNone || o.imm == 0#10))
  | .shl o => verdict (isVec o.d && selOk o (· == 0) && intExt o false 5)
  | .shr o => verdict (isVec o.d && selOk o (· == 1) && intExt o false 5)
  | .sar o => verdict (isVec o.d && selOk o (· == 2) && intExt o false 5)
  | .rol o => verdict (isVec o.d && selOk o (· == 3) && intExt o false 5)
  | .bfx o => verdict (isVec o.d && selOk o (· == 0) && intExt o false 1)
  | .bfi o => verdict (isVec o.d && selOk o (· == 1) && intExt o false 1)
  | .lea o => verdict (isVec o.d && isEven o.d && isEven o.a && selOk o (· == 2) && intExt o false 1 8)
  | .iadd64 o => verdict (isVec o.d && isEven o.d && isEven o.a && isEven o.b && selOk o (· == 3)
      && intExt o true 1)
  | .icmp o => verdict (decide (o.d.toNat ≤ 7) && selOk o (fun p => decide (p ≤ 5)) && intExt o false 1)
  | .sel o => verdict (isVec o.d && selOk o (fun _ => true) && intExt o false 1)
  | .fadd o => fltV o 5 true isF32
  | .fsub o => fltV o 5 true isF32
  | .fmul o => fltV o 5 true isF32
  | .ffma o => fltV o 5 true isF32
  | .fmin o => fltV o 0 false isF32
  | .fmax o => fltV o 0 false isF32
  | .faddmin o => fltV o 5 true isF32
  | .fcmp o => verdict (decide (o.d.toNat ≤ 7) && selOk o (fun _ => true) && fltExt o 0 false isF32 (· == 0))
      (fmtRes o)
  | .fclass o => verdict (isVec o.d && z7 o.a && permOk o && fltExt o 0 false isF32 (· == 0)) (fmtRes o)
  | .fdiv o => fltV o 5 true isF32
  | .frcp o => fnV o 0 5
  | .frsq o => fnV o 1 5
  | .fsqrt o => fnV o 2 5
  | .fexp2 o => fnV o 3 0
  | .flog2 o => fnV o 4 0
  | .fsin o => fnV o 5 0
  | .fcos o => fnV o 6 0
  | .ftanh o => fnV o 7 0
  | .hadd2 o => fltV o 5 true isH
  | .hmul2 o => fltV o 5 true isH
  | .hfma2 o => fltV o 5 true isH
  | .hmin2 o => fltV o 0 false isH
  | .hmax2 o => fltV o 0 false isH
  | .dot4 o => verdict (isVec o.d && permOk o
        && fltExt o 5 true dot4Fmt (fun h => h == 0 || dot4Fmt h || (decide (h < 64) && !fmtAssigned h)))
      (fmtRes o || (match o.x with | none => false | some e => !fmtAssigned (subFmt e)))
  | .cvt o => cvtExt o (fun e => subTop e == 0 && seedOk e) twoRes (isVec o.d && z7 o.b)
  | .cvtsr o => cvtExt o (fun e => subTop e == 0 && e.sub.toNat % 256 == 0 && e.rnd == 0#3) twoRes (isVec o.d)
  | .pack o => cvtExt o (fun e => seedOk e && (twoRes e ||
        (let wd := fmtWidth e.fmt.toNat; let ws := fmtWidth (subFmt e)
         decide (2 * wd ≤ ws) && decide (2 * (32 / ws) * (subTop e + 1) ≤ 32 / wd)))) twoRes (isVec o.d)
  | .unpack o => cvtExt o (fun e => seedOk e && (twoRes e ||
        (let wd := fmtWidth e.fmt.toNat; let ws := fmtWidth (subFmt e)
         decide (2 * ws ≤ wd) && decide (32 / wd * (subTop e + 1) ≤ 32 / ws)))) twoRes (isVec o.d && z7 o.b)
  | .qscale o => cvtExt o (fun e => seedOk e && decide (subTop e ≤ 1)
        && (!fmtAssigned e.fmt.toNat || e.fmt == 3#6 || e.fmt == 4#6 || e.fmt == 5#6 || e.fmt == 7#6
            || fmtB8 e.fmt.toNat)
        && (decide (subFmt e ≤ 2) || !fmtAssigned (subFmt e))) twoRes (isVec o.d && z7 o.b)
  | .signq o => codeq o
  | .ternq o => codeq o
  | .lshf o => (match o.x with
      | none => some .illegalOpcode
      | some e => verdict (o.pm == 0#3 && e.xp == 0#6 && e.rnd == 0#3 && e.sat == 0#1 && e.fmt == 0#6
          && decide (e.sub.toNat < 64) && e.sub.toNat % 32 != 0 && isVec o.d))
  | .lperm o => plainV o 0 (isVec o.d)
  | .lbc o => plainV o 0 (isVec o.d)
  | .voteAll o => plainV o 0 (decide (o.d.toNat ≤ 7) && decide (o.a.toNat ≤ 7) && z7 o.b)
  | .voteAny o => plainV o 1 (decide (o.d.toNat ≤ 7) && decide (o.a.toNat ≤ 7) && z7 o.b)
  | .voteBallot o => plainV o 2 (decide (o.a.toNat ≤ 7) && z7 o.b)
  | .voteCount o => plainV o 3 (decide (o.a.toNat ≤ 7) && z7 o.b)
  | .lred o => verdict (o.pm == 0#3 && z7 o.b && redExt o) (fmtRes o)
  | .lscan o => verdict (isVec o.d && o.pm == 0#3 && z7 o.b && redExt o) (fmtRes o)
  | .lmatch o => plainV o 0 (isVec o.d && z7 o.b)
  | .sadd o => uniV o 0 true
  | .ssub o => uniV o 0 true
  | .smul o => uniV o 0 true
  | .sand o => uniV o 0 false
  | .sor o => uniV o 0 false
  | .sxor o => uniV o 0 false
  | .sshl o => uniV o 0 false
  | .sshr o => uniV o 1 false
  | .smin o => uniV o 0 false
  | .smax o => uniV o 1 false
  | .smov o => verdict (isUni o.d && z7 o.a && isUni o.b && selOk o (· == 0) && intExt o false 1)
  | .smovi o => verdict (isUni o.d && z7 o.a && (o.x.isNone || o.imm == 0#10))
  | .scmp o => verdict (isUni o.d && isUni o.a && isUni o.b && selOk o (fun p => decide (p ≤ 5))
      && intExt o false 1)
  | .sld o => verdict (o.x.isNone && isUni o.d && uniPair o.a && placed o.d o.sz.toNat)
  | .srd o => verdict ((o.x.isNone || o.imm == 0#10) && z7 o.a && srListed (srSel o)
      && (isVec o.d || (srSel o != 0 && srSel o != 0x0C))
      && ((srSel o != 0x0A && srSel o != 0x0D) || isEven o.d))
  | .sfromv o => verdict (isUni o.d && z7 o.b && selOk o (· == 0) && intExt o false 1)
  | .ld o => verdict (isVec o.d && isEven o.a && placed o.d o.sz.toNat && qualOk o { acq := true })
  | .ldf o => verdict (isVec o.d && isEven o.a && decide (o.sz.toNat ≤ 4) && (match o.x with
      | none => false | some e => e.fe == 1#1 && extMOk e { fe := true, clr := true, acq := true }))
  | .ldPk o => verdict (isVec o.d && isEven o.a && decide (o.sz.toNat ≤ 4) && (match o.x with
      | none => false | some e => e.pk == 1#1 && e.iv == 1#1 && extMOk e { pk := true, acq := true }))
  | .st o => verdict (isEven o.a && placed o.d o.sz.toNat && qualOk o { rel := true })
  | .stf o => verdict (isEven o.a && placed o.d o.sz.toNat && (match o.x with
      | none => false | some e => e.fe == 1#1 && extMOk e { fe := true, rel := true }))
  | .feopSet o => verdict (isEven o.a && o.sz == 6#3 && (match o.x with
      | none => false | some e => extMOk e { aop := (· == 0), hint := false }))
  | .feopClear o => verdict (isEven o.a && o.sz == 6#3 && (match o.x with
      | none => false | some e => extMOk e { aop := (· == 1), hint := false }))
  | .feopTest o => verdict (isVec o.d && isEven o.a && o.sz == 6#3 && (match o.x with
      | none => false | some e => extMOk e { aop := (· == 2), hint := false }))
  | .atom o => verdict (isVec o.d && isEven o.a && (o.sz == 4#3 || o.sz == 5#3) && placed o.d o.sz.toNat
      && aopOk o && qualOk o { aop := fun _ => true, sgn := true, acq := true, rel := true })
  | .cas o => verdict (isVec o.d && isEven o.a && (o.sz == 4#3 || o.sz == 5#3)
      && placed o.d (o.sz.toNat + 1) && qualOk o { acq := true, rel := true })
  | .red o => verdict (isEven o.a && (o.sz == 4#3 || o.sz == 5#3) && placed o.d o.sz.toNat
      && aopOk o && qualOk o { aop := fun _ => true, sgn := true, rel := true })
  | .fenceAcq o => plainV o 0 (z7 o.d && z7 o.a && z7 o.b)
  | .fenceRel o => plainV o 1 (z7 o.d && z7 o.a && z7 o.b)
  | .fenceAr o => plainV o 2 (z7 o.d && z7 o.a && z7 o.b)
  | .cst o => verdict (isEven o.a && decide (4 ≤ o.sz.toNat) && placed o.d o.sz.toNat && qualOk o { iv := true })
  | .abinit o => plainV o 0 (z7 o.d && isEven o.a)
  | .abexp o => plainV o 1 (z7 o.d && isEven o.a)
  | .abarr o => plainV o 2 (z7 o.d && isEven o.a)
  | .abwait o => plainV o 3 (z7 o.d && isEven o.a)
  | .abtest o => plainV o 4 (decide (o.d.toNat ≤ 7) && isEven o.a)
  | .waitc o => verdict (o.x.isNone && z7 o.d && z7 o.a && decide (64 ≤ o.imm.toNat ∧ o.imm.toNat < 384))
  | .pref o => verdict (z7 o.d && isEven o.a && o.sz == 4#3 && qualOk o { iv := true })
  | .hgl o => plainV o 0 (isVec o.d && uniPair o.b)
  | .hga o => plainV o 0 (uniPair o.b)
  | .obres o => plainV o 0 (decide (o.d.toNat ≤ 15) && uniPair o.a && z7 o.b)
  | .obrel o => plainV o 0 (decide (o.d.toNat ≤ 15) && z7 o.a && z7 o.b)
  | .obset o => plainV o 1 (decide (o.d.toNat ≤ 15) && uniPair o.a && z7 o.b)
  | .acz o => plainV o 0 (decide (o.d.toNat ≤ 15) && z7 o.a && z7 o.b)
  | .acrd o => plainV o 0 (isVec o.d && decide (o.a.toNat ≤ 15) && z7 o.b)
  | .acwr o => plainV o 0 (decide (o.d.toNat ≤ 15) && isVec o.a && z7 o.b)
  | .acst o => verdict (decide (o.d.toNat ≤ 15) && isEven o.a && (o.sz == 3#3 || o.sz == 4#3)
      && qualOk o { iv := true })
  | .mxloop o => (match o.x with
      | none => some .illegalOpcode
      | some e => verdict (decide (o.d.toNat ≤ 15) && decide (o.a.toNat ≤ 15) && uniPair o.b && o.pm == 0#3
          && e.rnd == 0#3 && e.sat == 0#1 && e.xp == 0#6 && e.sub != 0#16
          && (matFmt e.fmt.toNat || !fmtAssigned e.fmt.toNat)) (!fmtAssigned e.fmt.toNat))
  | .mxstep o => verdict (decide (o.d.toNat ≤ 15) && decide (o.a.toNat ≤ 15) && uniPair o.b && o.pm == 0#3
        && mxstepExt o) (fmtRes o)
  | .cpyq o => eOk o 0 (o.m == 0#8)
  | .gthq o => eOk o 0 (o.m == 0#8)
  | .clpost o => eOk o 0 (o.m == 0#8)
  | .clctlQuery o => eOk o 0 (decide (o.m.toNat < 32))
  | .clctlAbort o => eOk o 1 (o.m == 0#8)
  | .epopen o => eOk o 0 (o.m == 0#8)
  | .epstep o => eOk o 1 (o.m == 0#8)
  | .epclose o => eOk o 2 (o.m == 0#8)
  | .rwsend o => eOk o 0 (o.m == 0#8)
  | .lqtake o => eOk o 0 (o.m == 0#8)
  | .csrrd o => (match o.x with
      | none => some .illegalOpcode
      | some w => verdict (o.sub == 0#3 && z7 o.a && z7 o.b && csrListed w.toNat))
  | .csrwr o => (match o.x with
      | none => some .illegalOpcode
      | some w => verdict (o.sub == 1#3 && z7 o.d && isUni o.a && z7 o.b && csrListed w.toNat
          && !csrReadOnly w.toNat))
  | .fragrd o => verdict (o.x.isNone && o.sub == 0#3 && decide (o.d.toNat ≤ 92) && isUni o.a && z7 o.b)
  | .fragres o => verdict (o.x.isNone && o.sub == 1#3 && (z7 o.d || uniPair o.d) && isUni o.a && isUni o.b)
  | .fragkill o => verdict (o.x.isNone && o.sub == 2#3 && z7 o.d && isUni o.a && isUni o.b)
  | .eret o => verdict (o.x.isNone && o.sub == 0#3 && z7 o.d && z7 o.a && z7 o.b)
  | .svcwait o => verdict (o.x.isNone && o.sub == 1#3 && isUni o.d && z7 o.a && z7 o.b)
  | .tlbinv o => verdict (o.x.isNone && o.sub == 0#3 && z7 o.d && (z7 o.a || uniPair o.a) && isUni o.b)
  | .cacheop o => verdict (o.x.isNone && o.sub == 1#3 && z7 o.d && (z7 o.a || uniPair o.a) && isUni o.b)
  | .pmctl o => verdict (o.x.isNone && o.sub == 2#3 && isUni o.d && z7 o.a && isUni o.b)
  | .savex o => verdict (o.sub == 0#3 && isVec o.d && itemOk o.x o.a o.b)
  | .restx o => verdict (o.sub == 1#3 && isVec o.a && itemOk o.x o.d o.b)
  | .cld _ => none
  | .clearingCst o => verdict (o.rd == 0#4)
  | .cadd o => verdict (o.imm == 0#15)
  | .csub o => verdict (o.imm == 0#15)
  | .cmov o => verdict (o.rb == 0#4 && o.imm == 0#15)
  | .cmovi _ => none
  | .cbnz _ => none
  | .cbra o => verdict (o.rd == 0#4)
  | .csend o => verdict (o.imm.toNat % 32 == 0 && decide (o.imm.toNat / 8192 ≤ 2))
  | .crecv o => verdict (o.imm.toNat % 32 == 0 && decide (o.imm.toNat / 8192 ≤ 2))
  | .cred o => verdict (o.imm.toNat % 32 == 0 && decide (o.imm.toNat / 8192 ≤ 2))
  | .ccomp o => verdict (o.imm.toNat % 32 == 0 && decide (o.imm.toNat / 8192 ≤ 2))
  | .csigFe o => verdict (o.imm == 0#15)
  | .csigAb o => verdict (o.imm == 1#15)
  | .cwaitFe o => verdict (o.imm == 0#15)
  | .cwaitPh o => verdict (o.imm == 1#15)
  | .cswred _ => none
  | .cend o => verdict (o.rd == 0#4)
  | .clauseWaitMet => none
  | .clauseWordsArrive => none
  | .longResultReturn => none
  | .cbarCompletion => none
  | .pageWalk => none
  | .storeRegistration => none
  | .homeWriteQueueApply => none
  | .loadServe => none
  | .matrixCommandStart => none
  | .matrixStep => none
  | .matrixCommandEnd => none
  | .copyCommandStart => none
  | .copyDelivery => none
  | .commandEnd => none
  | .collectiveStart => none
  | .clearingMessageArrival => none
  | .collectiveEnd => none
  | .switchSlotTimeout => none
  | .reductionPush => none
  | .heldEndApply => none
  | .rewardMessage => none
  | .escrowAgeExpiry => none
  | .joinTimeout => none
  | .episodeScan => none
  | .queueTailPoll => none
  | .queueAdvance => none
  | .doorbell => none
  | .dependenceReread => none
  | .recordStart => none
  | .workgroupPlacement => none
  | .gangPlacement => none
  | .saveHandlerEntry => none
  | .drainComplete => none
  | .restorePlacement => none
  | .verUpdate => none
  | .watchdogExpiry => none
  | .mailboxMessage => none
  | .faultRecordWrite => none
  | .scrub => none
  | .tenantReset => none
  | .registerWrite => none
  | .qcfgWrite => none
  | .portcfgWrite => none
  | .portTraining => none
  | .freplayWrite => none
  | .islfreqWrite => none
  | .islbudgetWrite => none
  | .plimitWrite => none
  | .telemetrySample => none
  | .thermalShutdown => none
  | .eventSnapshot => none
  | .packageReset => none
  | .imageInstall => none
  | .coreRelease => none
  | .extend => none
  | .attestationRequest => none
  | .fabricRequestArrival => none
  | .fabricReplyArrival => none
  | .acknowledgement => none
  | .fabricReplayTimeout => none
  | .contextQuietExpiry => none
  | .contextClose => none
  | .flitReceive => none
  | .retryGapExpiry => none
  | .retryRequest => none
  | .linkFailure => none
  | .portRetrain => none
  | .ueRmaWrite => none
  | .ueQueueAdvance => none
  | .ueRewardSend => none
  | .ueUnsupportedRequest => none
  | .dieStopsAnswering => none
  | .planeReportsUnreachable => none

end WellFormed

/-- A well-formed instruction: its own words pass the checks of R96 orders 4 and 5. -/
def Instr.wf (i : Instr) : Bool := (WellFormed.check i).isNone

end Sys2Proof
end

