-- ==== Sys2Proof/Decode.lean ====
section
/-! DEFINITION. Decode.lean: bit-field and byte-order helpers, the decoder from instruction words to Instr
(spec/04_encoding.md R81 to R96, spec/10_system_clearing_isa.md R250) and the encoder beside it. -/

namespace Sys2Proof

/-- Bits [hi:lo] of a number (spec/00_scope.md R3). -/
def bitsOf (n hi lo : Nat) : Nat := n / 2 ^ lo % 2 ^ (hi + 1 - lo)

/-- Bit n of a number. -/
def bitOf (n k : Nat) : Bool := n / 2 ^ k % 2 == 1

/-- A w-bit value read as a signed number. -/
def sext (w n : Nat) : Int := if n % 2 ^ w < 2 ^ (w - 1) then (n % 2 ^ w : Int) else (n % 2 ^ w : Int) - 2 ^ w

/-- An integer modulo 2^w. -/
def modW (w : Nat) (z : Int) : Nat := (z % (2 ^ w : Int)).toNat

/-- Little-endian bytes of a number (spec/00_scope.md R2). -/
def leBytes : Nat → Nat → List Byte
  | 0, _ => []
  | k + 1, n => BitVec.ofNat 8 n :: leBytes k (n / 256)

/-- The number whose little-endian bytes are given (spec/00_scope.md R2). -/
def leNat : List Byte → Nat
  | [] => 0
  | b :: bs => b.toNat + 256 * leNat bs

/-- The 32-bit words of a byte string; a last part shorter than a word is dropped. -/
def wordsOf : List Byte → List Word
  | a :: b :: c :: d :: rest => BitVec.ofNat 32 (leNat [a, b, c, d]) :: wordsOf rest
  | _ => []

namespace Decode

/-- The major opcode, bits [31:25] (R81). -/
def opcode (w : Word) : Nat := (w.extractLsb' 25 7).toNat
/-- The X bit (R81). -/
def xbit (w : Word) : Bool := w.getLsbD 24

/-- The class of a major opcode: 0 GEN, 1 MAT, 2 ENG, 3 SYS; none for 0x7F (R74). -/
def classOf (op : Nat) : Option Nat :=
  if op ≤ 0x69 then some 0 else if op ≤ 0x71 then some 1 else if op ≤ 0x79 then some 2
  else if op ≤ 0x7E then some 3 else none

def extV (w : Word) : ExtV :=
  ⟨w.extractLsb' 29 3, w.extractLsb' 28 1, w.extractLsb' 22 6, w.extractLsb' 16 6, w.extractLsb' 0 16⟩
def extM (w : Word) : ExtM :=
  ⟨w.extractLsb' 31 1, w.extractLsb' 24 7, w.extractLsb' 20 4, w.extractLsb' 18 2, w.extractLsb' 17 1,
   w.extractLsb' 13 4, w.extractLsb' 12 1, w.extractLsb' 11 1, w.extractLsb' 10 1, w.extractLsb' 9 1,
   w.extractLsb' 8 1, w.extractLsb' 0 8⟩
def vOps (w : Word) (x : Option Word) : VOps :=
  ⟨w.extractLsb' 17 7, w.extractLsb' 10 7, w.extractLsb' 3 7, w.extractLsb' 0 3, x.map extV⟩
def iOps (w : Word) (x : Option Word) : IOps :=
  ⟨w.extractLsb' 17 7, w.extractLsb' 10 7, w.extractLsb' 0 10, x⟩
def bOps (w : Word) (x : Option Word) : BOps := ⟨w.extractLsb' 20 4, w.extractLsb' 0 20, x⟩
def eOps (w : Word) (x : Option Word) : EOps :=
  ⟨w.extractLsb' 19 5, w.extractLsb' 16 3, w.extractLsb' 8 8, w.extractLsb' 0 8, x⟩
def sOps (w : Word) (x : Option Word) : SOps :=
  ⟨w.extractLsb' 21 3, w.extractLsb' 14 7, w.extractLsb' 7 7, w.extractLsb' 0 7, x⟩
def mOps (w : Word) (x : Option Word) : MOps :=
  ⟨w.extractLsb' 17 7, w.extractLsb' 10 7, w.extractLsb' 7 3, w.extractLsb' 0 7, x.map extM⟩
def c1Ops (w : Word) : C1Ops :=
  ⟨w.extractLsb' 23 4, w.extractLsb' 19 4, w.extractLsb' 15 4, w.extractLsb' 0 15⟩
def c2Ops (w : Word) : C2Ops := ⟨w.extractLsb' 23 4, w.extractLsb' 0 23⟩

/-- The instruction a major opcode and its selector name (R94), from the fields of its word in each format; `none` for an
unassigned opcode or an unlisted selector. The fields are not yet checked. -/
def ofFields (op : Nat) (v : VOps) (i : IOps) (b : BOps) (e : EOps) (s : SOps) (m : MOps) : Option Instr :=
  match op with
  | 0x00 => (match v.pm.toNat with
      | 0 => some (.nop v)
      | 1 => some (.yield v)
      | _ => none)
  | 0x01 => some (.bra b)
  | 0x02 => some (.brp b)
  | 0x03 => some (.call b)
  | 0x04 => some (.ret v)
  | 0x05 => some (.callx v)
  | 0x06 => some (.jmpx v)
  | 0x07 => some (.brt v)
  | 0x08 => some (.exit v)
  | 0x09 => some (.meet b)
  | 0x0A => (match v.pm.toNat with
      | 0 => some (.leave v)
      | 1 => some (.join v)
      | 2 => some (.waitm v)
      | _ => none)
  | 0x0B => (match v.pm.toNat with
      | 0 => some (.kmov v)
      | 1 => some (.meetrd v)
      | 2 => some (.meetwr v)
      | _ => none)
  | 0x0C => some (if i.imm.getLsbD 4 then .barArv i else .barSync i)
  | 0x0D => some (if i.imm.getLsbD 8 then .cbarArv i else .cbarSync i)
  | 0x0E => (match v.pm.toNat with
      | 0 => some (.gopen v)
      | 1 => some (.gset v)
      | _ => none)
  | 0x0F => some (.trap i)
  | 0x10 => some (.iadd v)
  | 0x11 => some (.isub v)
  | 0x12 => some (.imul v)
  | 0x13 => some (.imulh v)
  | 0x14 => some (.imac v)
  | 0x15 => some (.idiv v)
  | 0x16 => some (.irem v)
  | 0x17 => some (.imin v)
  | 0x18 => some (.imax v)
  | 0x19 => some (.iabsd v)
  | 0x1A => some (.iaddmin v)
  | 0x1B => some (.iaddmax v)
  | 0x1C => some (.and v)
  | 0x1D => some (.or v)
  | 0x1E => some (.xor v)
  | 0x1F => some (.andn v)
  | 0x20 => (match v.a.toNat with
      | 0 => some (.mov v)
      | 1 => some (.popc v)
      | 2 => some (.clz v)
      | 3 => some (.brev v)
      | _ => none)
  | 0x21 => some (.movi i)
  | 0x22 => (match v.pm.toNat with
      | 0 => some (.shl v)
      | 1 => some (.shr v)
      | 2 => some (.sar v)
      | 3 => some (.rol v)
      | _ => none)
  | 0x23 => (match v.pm.toNat with
      | 0 => some (.bfx v)
      | 1 => some (.bfi v)
      | 2 => some (.lea v)
      | 3 => some (.iadd64 v)
      | _ => none)
  | 0x24 => some (.icmp v)
  | 0x25 => some (.sel v)
  | 0x26 => some (.fadd v)
  | 0x27 => some (.fsub v)
  | 0x28 => some (.fmul v)
  | 0x29 => some (.ffma v)
  | 0x2A => some (.fmin v)
  | 0x2B => some (.fmax v)
  | 0x2C => some (.faddmin v)
  | 0x2D => some (.fcmp v)
  | 0x2E => some (.fclass v)
  | 0x2F => some (.fdiv v)
  | 0x30 => (match v.a.toNat with
      | 0 => some (.frcp v)
      | 1 => some (.frsq v)
      | 2 => some (.fsqrt v)
      | 3 => some (.fexp2 v)
      | 4 => some (.flog2 v)
      | 5 => some (.fsin v)
      | 6 => some (.fcos v)
      | 7 => some (.ftanh v)
      | _ => none)
  | 0x31 => some (.hadd2 v)
  | 0x32 => some (.hmul2 v)
  | 0x33 => some (.hfma2 v)
  | 0x34 => some (.hmin2 v)
  | 0x35 => some (.hmax2 v)
  | 0x36 => some (.dot4 v)
  | 0x3C => some (.cvt v)
  | 0x3D => some (.cvtsr v)
  | 0x3E => some (.pack v)
  | 0x3F => some (.unpack v)
  | 0x40 => some (.qscale v)
  | 0x41 => some (.signq v)
  | 0x42 => some (.ternq v)
  | 0x44 => some (.lshf v)
  | 0x45 => some (.lperm v)
  | 0x46 => some (.lbc v)
  | 0x47 => (match v.pm.toNat with
      | 0 => some (.voteAll v)
      | 1 => some (.voteAny v)
      | 2 => some (.voteBallot v)
      | 3 => some (.voteCount v)
      | _ => none)
  | 0x48 => some (.lred v)
  | 0x49 => some (.lscan v)
  | 0x4A => some (.lmatch v)
  | 0x4C => some (.sadd v)
  | 0x4D => some (.ssub v)
  | 0x4E => some (.smul v)
  | 0x4F => some (.sand v)
  | 0x50 => some (.sor v)
  | 0x51 => some (.sxor v)
  | 0x52 => (match v.pm.toNat with
      | 0 => some (.sshl v)
      | 1 => some (.sshr v)
      | _ => none)
  | 0x53 => (match v.pm.toNat with
      | 0 => some (.smin v)
      | 1 => some (.smax v)
      | _ => none)
  | 0x54 => some (.smov v)
  | 0x55 => some (.smovi i)
  | 0x56 => some (.scmp v)
  | 0x57 => some (.sld m)
  | 0x58 => some (.srd i)
  | 0x59 => some (.sfromv v)
  | 0x5A => (match m.x with
      | none => some (.ld m)
      | some q => some (if q.pk == 1#1 then .ldPk m else if q.fe == 1#1 then .ldf m else .ld m))
  | 0x5B => (match m.x with
      | none => some (.st m)
      | some q => some (if q.fe == 1#1 then .stf m else .st m))
  | 0x5C => (match m.x with
      | none => some (.feopSet m)
      | some q => (match q.aop.toNat with
        | 0 => some (.feopSet m)
        | 1 => some (.feopClear m)
        | 2 => some (.feopTest m)
        | _ => none))
  | 0x5D => some (.atom m)
  | 0x5E => some (.cas m)
  | 0x5F => some (.red m)
  | 0x60 => (match v.pm.toNat with
      | 0 => some (.fenceAcq v)
      | 1 => some (.fenceRel v)
      | 2 => some (.fenceAr v)
      | _ => none)
  | 0x61 => some (.cst m)
  | 0x62 => (match v.pm.toNat with
      | 0 => some (.abinit v)
      | 1 => some (.abexp v)
      | 2 => some (.abarr v)
      | 3 => some (.abwait v)
      | 4 => some (.abtest v)
      | _ => none)
  | 0x63 => some (.waitc i)
  | 0x64 => some (.pref m)
  | 0x65 => some (.hgl v)
  | 0x66 => some (.hga v)
  | 0x6A => some (.obres v)
  | 0x6B => (match v.pm.toNat with
      | 0 => some (.obrel v)
      | 1 => some (.obset v)
      | _ => none)
  | 0x6C => some (.acz v)
  | 0x6D => some (.acrd v)
  | 0x6E => some (.acwr v)
  | 0x6F => some (.acst m)
  | 0x70 => some (.mxloop v)
  | 0x71 => some (.mxstep v)
  | 0x72 => some (.cpyq e)
  | 0x73 => some (.gthq e)
  | 0x74 => some (.clpost e)
  | 0x75 => (match e.sub.toNat with
      | 0 => some (.clctlQuery e)
      | 1 => some (.clctlAbort e)
      | _ => none)
  | 0x76 => (match e.sub.toNat with
      | 0 => some (.epopen e)
      | 1 => some (.epstep e)
      | 2 => some (.epclose e)
      | _ => none)
  | 0x77 => some (.rwsend e)
  | 0x78 => some (.lqtake e)
  | 0x7A => (match s.sub.toNat with
      | 0 => some (.csrrd s)
      | 1 => some (.csrwr s)
      | _ => none)
  | 0x7B => (match s.sub.toNat with
      | 0 => some (.fragrd s)
      | 1 => some (.fragres s)
      | 2 => some (.fragkill s)
      | _ => none)
  | 0x7C => (match s.sub.toNat with
      | 0 => some (.eret s)
      | 1 => some (.svcwait s)
      | _ => none)
  | 0x7D => (match s.sub.toNat with
      | 0 => some (.tlbinv s)
      | 1 => some (.cacheop s)
      | 2 => some (.pmctl s)
      | _ => none)
  | 0x7E => (match s.sub.toNat with
      | 0 => some (.savex s)
      | 1 => some (.restx s)
      | _ => none)
  | _ => none

/-- The instruction a word and its extension word name. -/
def parse (w : Word) (x : Option Word) : Option Instr :=
  ofFields (opcode w) (vOps w x) (iOps w x) (bOps w x) (eOps w x) (sOps w x) (mOps w x)

/-- Decode one instruction word with its extension word, rejecting by cause (R96 orders 3 to 5). -/
def core (w : Word) (x : Option Word) : Except Cause Instr :=
  match parse w x with
  | none => .error .illegalOpcode
  | some i =>
    match WellFormed.check i with
    | none => .ok i
    | some c => .error c

/-- Why a byte string gives no instruction. -/
inductive Err where
  /-- The words break R96; the cause is the one the split takes. -/
  | cause (c : Cause)
  /-- The bytes end before the instruction does. -/
  | truncated
  deriving DecidableEq, Repr

/-- Decode the first instruction of a list of words, with the words after it. -/
def words : List Word → Except Err (Instr × List Word)
  | [] => .error .truncated
  | w :: rest =>
    if xbit w then
      match rest with
      | [] => .error .truncated
      | x :: rest' =>
        match core w (some x) with
        | .ok i => .ok (i, rest')
        | .error c => .error (.cause c)
    else
      match core w none with
      | .ok i => .ok (i, rest)
      | .error c => .error (.cause c)

/-- Decode the first instruction of a byte string: total on any bytes. -/
def bytes (bs : List Byte) : Except Err (Instr × List Word) := words (wordsOf bs)

/-- The clearing instruction an opcode names (R250), from the fields of its word in each layout; `none` for opcodes 0x10
to 0x1F and unlisted selectors. DESIGN CHOICE (notes/assumptions/88.md): R250 gives CSIG and CWAIT an IMM15 of 0 or 1 and
does not say what another value does; such a word names no instruction, and the collective ends with RANGE. -/
def ofClrFields (op : Nat) (c : C1Ops) (k : C2Ops) : Option Instr :=
  match op with
  | 0x00 => some (.cld c)
  | 0x01 => some (.clearingCst c)
  | 0x02 => some (.cadd c)
  | 0x03 => some (.csub c)
  | 0x04 => some (.cmov c)
  | 0x05 => some (.cmovi k)
  | 0x06 => some (.cbnz k)
  | 0x07 => some (.cbra k)
  | 0x08 => some (.csend c)
  | 0x09 => some (.crecv c)
  | 0x0A => some (.cred c)
  | 0x0B => some (.ccomp c)
  | 0x0C => (match c.imm.toNat with
      | 0 => some (.csigFe c)
      | 1 => some (.csigAb c)
      | _ => none)
  | 0x0D => (match c.imm.toNat with
      | 0 => some (.cwaitFe c)
      | 1 => some (.cwaitPh c)
      | _ => none)
  | 0x0E => some (.cswred c)
  | 0x0F => some (.cend k)
  | _ => none

/-- The clearing instruction a word names. -/
def parseClr (w : Word) : Option Instr := ofClrFields (w.extractLsb' 27 5).toNat (c1Ops w) (c2Ops w)

/-- Decode a clearing word; an error ends the collective with RANGE (R250). -/
def clr (w : Word) : Except Unit Instr :=
  match parseClr w with
  | none => .error ()
  | some i => if (WellFormed.check i).isNone then .ok i else .error ()

end Decode

namespace Encode

def extV (e : ExtV) : Word := e.rnd ++ e.sat ++ e.fmt ++ e.xp ++ e.sub
def extM (e : ExtM) : Word :=
  e.iv ++ e.idx ++ e.aop ++ e.hint ++ e.sgn ++ e.r1 ++ e.pk ++ e.clr ++ e.fe ++ e.acq ++ e.rel ++ e.r0
def xb {α : Type} (x : Option α) : BitVec 1 := if x.isSome then 1#1 else 0#1
def vOps (op : BitVec 7) (o : VOps) : List Word :=
  (op ++ xb o.x ++ o.d ++ o.a ++ o.b ++ o.pm : BitVec 32) :: (o.x.map extV).toList
def iOps (op : BitVec 7) (o : IOps) : List Word :=
  (op ++ xb o.x ++ o.d ++ o.a ++ o.imm : BitVec 32) :: o.x.toList
def bOps (op : BitVec 7) (o : BOps) : List Word :=
  (op ++ xb o.x ++ o.c ++ o.off : BitVec 32) :: o.x.toList
def eOps (op : BitVec 7) (o : EOps) : List Word :=
  (op ++ xb o.x ++ o.sp ++ o.sub ++ o.k ++ o.m : BitVec 32) :: o.x.toList
def sOps (op : BitVec 7) (o : SOps) : List Word :=
  (op ++ xb o.x ++ o.sub ++ o.d ++ o.a ++ o.b : BitVec 32) :: o.x.toList
def mOps (op : BitVec 7) (o : MOps) : List Word :=
  (op ++ xb o.x ++ o.d ++ o.a ++ o.sz ++ o.off : BitVec 32) :: (o.x.map extM).toList
def c1Ops (op : BitVec 5) (o : C1Ops) : List Word := [op ++ o.rd ++ o.ra ++ o.rb ++ o.imm]
def c2Ops (op : BitVec 5) (o : C2Ops) : List Word := [op ++ o.rd ++ o.imm]

end Encode

/-- The words of a well-formed instruction, from the encoding tables of the spec; an event has none. -/
def encode : Instr → List Word
  | .nop o => Encode.vOps 0x00#7 o
  | .yield o => Encode.vOps 0x00#7 o
  | .bra o => Encode.bOps 0x01#7 o
  | .brp o => Encode.bOps 0x02#7 o
  | .call o => Encode.bOps 0x03#7 o
  | .ret o => Encode.vOps 0x04#7 o
  | .callx o => Encode.vOps 0x05#7 o
  | .jmpx o => Encode.vOps 0x06#7 o
  | .brt o => Encode.vOps 0x07#7 o
  | .exit o => Encode.vOps 0x08#7 o
  | .meet o => Encode.bOps 0x09#7 o
  | .leave o => Encode.vOps 0x0A#7 o
  | .join o => Encode.vOps 0x0A#7 o
  | .waitm o => Encode.vOps 0x0A#7 o
  | .kmov o => Encode.vOps 0x0B#7 o
  | .meetrd o => Encode.vOps 0x0B#7 o
  | .meetwr o => Encode.vOps 0x0B#7 o
  | .barSync o => Encode.iOps 0x0C#7 o
  | .barArv o => Encode.iOps 0x0C#7 o
  | .cbarSync o => Encode.iOps 0x0D#7 o
  | .cbarArv o => Encode.iOps 0x0D#7 o
  | .gopen o => Encode.vOps 0x0E#7 o
  | .gset o => Encode.vOps 0x0E#7 o
  | .trap o => Encode.iOps 0x0F#7 o
  | .iadd o => Encode.vOps 0x10#7 o
  | .isub o => Encode.vOps 0x11#7 o
  | .imul o => Encode.vOps 0x12#7 o
  | .imulh o => Encode.vOps 0x13#7 o
  | .imac o => Encode.vOps 0x14#7 o
  | .idiv o => Encode.vOps 0x15#7 o
  | .irem o => Encode.vOps 0x16#7 o
  | .imin o => Encode.vOps 0x17#7 o
  | .imax o => Encode.vOps 0x18#7 o
  | .iabsd o => Encode.vOps 0x19#7 o
  | .iaddmin o => Encode.vOps 0x1A#7 o
  | .iaddmax o => Encode.vOps 0x1B#7 o
  | .and o => Encode.vOps 0x1C#7 o
  | .or o => Encode.vOps 0x1D#7 o
  | .xor o => Encode.vOps 0x1E#7 o
  | .andn o => Encode.vOps 0x1F#7 o
  | .mov o => Encode.vOps 0x20#7 o
  | .popc o => Encode.vOps 0x20#7 o
  | .clz o => Encode.vOps 0x20#7 o
  | .brev o => Encode.vOps 0x20#7 o
  | .movi o => Encode.iOps 0x21#7 o
  | .shl o => Encode.vOps 0x22#7 o
  | .shr o => Encode.vOps 0x22#7 o
  | .sar o => Encode.vOps 0x22#7 o
  | .rol o => Encode.vOps 0x22#7 o
  | .bfx o => Encode.vOps 0x23#7 o
  | .bfi o => Encode.vOps 0x23#7 o
  | .lea o => Encode.vOps 0x23#7 o
  | .iadd64 o => Encode.vOps 0x23#7 o
  | .icmp o => Encode.vOps 0x24#7 o
  | .sel o => Encode.vOps 0x25#7 o
  | .fadd o => Encode.vOps 0x26#7 o
  | .fsub o => Encode.vOps 0x27#7 o
  | .fmul o => Encode.vOps 0x28#7 o
  | .ffma o => Encode.vOps 0x29#7 o
  | .fmin o => Encode.vOps 0x2A#7 o
  | .fmax o => Encode.vOps 0x2B#7 o
  | .faddmin o => Encode.vOps 0x2C#7 o
  | .fcmp o => Encode.vOps 0x2D#7 o
  | .fclass o => Encode.vOps 0x2E#7 o
  | .fdiv o => Encode.vOps 0x2F#7 o
  | .frcp o => Encode.vOps 0x30#7 o
  | .frsq o => Encode.vOps 0x30#7 o
  | .fsqrt o => Encode.vOps 0x30#7 o
  | .fexp2 o => Encode.vOps 0x30#7 o
  | .flog2 o => Encode.vOps 0x30#7 o
  | .fsin o => Encode.vOps 0x30#7 o
  | .fcos o => Encode.vOps 0x30#7 o
  | .ftanh o => Encode.vOps 0x30#7 o
  | .hadd2 o => Encode.vOps 0x31#7 o
  | .hmul2 o => Encode.vOps 0x32#7 o
  | .hfma2 o => Encode.vOps 0x33#7 o
  | .hmin2 o => Encode.vOps 0x34#7 o
  | .hmax2 o => Encode.vOps 0x35#7 o
  | .dot4 o => Encode.vOps 0x36#7 o
  | .cvt o => Encode.vOps 0x3C#7 o
  | .cvtsr o => Encode.vOps 0x3D#7 o
  | .pack o => Encode.vOps 0x3E#7 o
  | .unpack o => Encode.vOps 0x3F#7 o
  | .qscale o => Encode.vOps 0x40#7 o
  | .signq o => Encode.vOps 0x41#7 o
  | .ternq o => Encode.vOps 0x42#7 o
  | .lshf o => Encode.vOps 0x44#7 o
  | .lperm o => Encode.vOps 0x45#7 o
  | .lbc o => Encode.vOps 0x46#7 o
  | .voteAll o => Encode.vOps 0x47#7 o
  | .voteAny o => Encode.vOps 0x47#7 o
  | .voteBallot o => Encode.vOps 0x47#7 o
  | .voteCount o => Encode.vOps 0x47#7 o
  | .lred o => Encode.vOps 0x48#7 o
  | .lscan o => Encode.vOps 0x49#7 o
  | .lmatch o => Encode.vOps 0x4A#7 o
  | .sadd o => Encode.vOps 0x4C#7 o
  | .ssub o => Encode.vOps 0x4D#7 o
  | .smul o => Encode.vOps 0x4E#7 o
  | .sand o => Encode.vOps 0x4F#7 o
  | .sor o => Encode.vOps 0x50#7 o
  | .sxor o => Encode.vOps 0x51#7 o
  | .sshl o => Encode.vOps 0x52#7 o
  | .sshr o => Encode.vOps 0x52#7 o
  | .smin o => Encode.vOps 0x53#7 o
  | .smax o => Encode.vOps 0x53#7 o
  | .smov o => Encode.vOps 0x54#7 o
  | .smovi o => Encode.iOps 0x55#7 o
  | .scmp o => Encode.vOps 0x56#7 o
  | .sld o => Encode.mOps 0x57#7 o
  | .srd o => Encode.iOps 0x58#7 o
  | .sfromv o => Encode.vOps 0x59#7 o
  | .ld o => Encode.mOps 0x5A#7 o
  | .ldf o => Encode.mOps 0x5A#7 o
  | .ldPk o => Encode.mOps 0x5A#7 o
  | .st o => Encode.mOps 0x5B#7 o
  | .stf o => Encode.mOps 0x5B#7 o
  | .feopSet o => Encode.mOps 0x5C#7 o
  | .feopClear o => Encode.mOps 0x5C#7 o
  | .feopTest o => Encode.mOps 0x5C#7 o
  | .atom o => Encode.mOps 0x5D#7 o
  | .cas o => Encode.mOps 0x5E#7 o
  | .red o => Encode.mOps 0x5F#7 o
  | .fenceAcq o => Encode.vOps 0x60#7 o
  | .fenceRel o => Encode.vOps 0x60#7 o
  | .fenceAr o => Encode.vOps 0x60#7 o
  | .cst o => Encode.mOps 0x61#7 o
  | .abinit o => Encode.vOps 0x62#7 o
  | .abexp o => Encode.vOps 0x62#7 o
  | .abarr o => Encode.vOps 0x62#7 o
  | .abwait o => Encode.vOps 0x62#7 o
  | .abtest o => Encode.vOps 0x62#7 o
  | .waitc o => Encode.iOps 0x63#7 o
  | .pref o => Encode.mOps 0x64#7 o
  | .hgl o => Encode.vOps 0x65#7 o
  | .hga o => Encode.vOps 0x66#7 o
  | .obres o => Encode.vOps 0x6A#7 o
  | .obrel o => Encode.vOps 0x6B#7 o
  | .obset o => Encode.vOps 0x6B#7 o
  | .acz o => Encode.vOps 0x6C#7 o
  | .acrd o => Encode.vOps 0x6D#7 o
  | .acwr o => Encode.vOps 0x6E#7 o
  | .acst o => Encode.mOps 0x6F#7 o
  | .mxloop o => Encode.vOps 0x70#7 o
  | .mxstep o => Encode.vOps 0x71#7 o
  | .cpyq o => Encode.eOps 0x72#7 o
  | .gthq o => Encode.eOps 0x73#7 o
  | .clpost o => Encode.eOps 0x74#7 o
  | .clctlQuery o => Encode.eOps 0x75#7 o
  | .clctlAbort o => Encode.eOps 0x75#7 o
  | .epopen o => Encode.eOps 0x76#7 o
  | .epstep o => Encode.eOps 0x76#7 o
  | .epclose o => Encode.eOps 0x76#7 o
  | .rwsend o => Encode.eOps 0x77#7 o
  | .lqtake o => Encode.eOps 0x78#7 o
  | .csrrd o => Encode.sOps 0x7A#7 o
  | .csrwr o => Encode.sOps 0x7A#7 o
  | .fragrd o => Encode.sOps 0x7B#7 o
  | .fragres o => Encode.sOps 0x7B#7 o
  | .fragkill o => Encode.sOps 0x7B#7 o
  | .eret o => Encode.sOps 0x7C#7 o
  | .svcwait o => Encode.sOps 0x7C#7 o
  | .tlbinv o => Encode.sOps 0x7D#7 o
  | .cacheop o => Encode.sOps 0x7D#7 o
  | .pmctl o => Encode.sOps 0x7D#7 o
  | .savex o => Encode.sOps 0x7E#7 o
  | .restx o => Encode.sOps 0x7E#7 o
  | .cld o => Encode.c1Ops 0x00#5 o
  | .clearingCst o => Encode.c1Ops 0x01#5 o
  | .cadd o => Encode.c1Ops 0x02#5 o
  | .csub o => Encode.c1Ops 0x03#5 o
  | .cmov o => Encode.c1Ops 0x04#5 o
  | .cmovi o => Encode.c2Ops 0x05#5 o
  | .cbnz o => Encode.c2Ops 0x06#5 o
  | .cbra o => Encode.c2Ops 0x07#5 o
  | .csend o => Encode.c1Ops 0x08#5 o
  | .crecv o => Encode.c1Ops 0x09#5 o
  | .cred o => Encode.c1Ops 0x0A#5 o
  | .ccomp o => Encode.c1Ops 0x0B#5 o
  | .csigFe o => Encode.c1Ops 0x0C#5 o
  | .csigAb o => Encode.c1Ops 0x0C#5 o
  | .cwaitFe o => Encode.c1Ops 0x0D#5 o
  | .cwaitPh o => Encode.c1Ops 0x0D#5 o
  | .cswred o => Encode.c1Ops 0x0E#5 o
  | .cend o => Encode.c2Ops 0x0F#5 o
  | .clauseWaitMet => []
  | .clauseWordsArrive => []
  | .longResultReturn => []
  | .cbarCompletion => []
  | .pageWalk => []
  | .storeRegistration => []
  | .homeWriteQueueApply => []
  | .loadServe => []
  | .matrixCommandStart => []
  | .matrixStep => []
  | .matrixCommandEnd => []
  | .copyCommandStart => []
  | .copyDelivery => []
  | .commandEnd => []
  | .collectiveStart => []
  | .clearingMessageArrival => []
  | .collectiveEnd => []
  | .switchSlotTimeout => []
  | .reductionPush => []
  | .heldEndApply => []
  | .rewardMessage => []
  | .escrowAgeExpiry => []
  | .joinTimeout => []
  | .episodeScan => []
  | .queueTailPoll => []
  | .queueAdvance => []
  | .doorbell => []
  | .dependenceReread => []
  | .recordStart => []
  | .workgroupPlacement => []
  | .gangPlacement => []
  | .saveHandlerEntry => []
  | .drainComplete => []
  | .restorePlacement => []
  | .verUpdate => []
  | .watchdogExpiry => []
  | .mailboxMessage => []
  | .faultRecordWrite => []
  | .scrub => []
  | .tenantReset => []
  | .registerWrite => []
  | .qcfgWrite => []
  | .portcfgWrite => []
  | .portTraining => []
  | .freplayWrite => []
  | .islfreqWrite => []
  | .islbudgetWrite => []
  | .plimitWrite => []
  | .telemetrySample => []
  | .thermalShutdown => []
  | .eventSnapshot => []
  | .packageReset => []
  | .imageInstall => []
  | .coreRelease => []
  | .extend => []
  | .attestationRequest => []
  | .fabricRequestArrival => []
  | .fabricReplyArrival => []
  | .acknowledgement => []
  | .fabricReplayTimeout => []
  | .contextQuietExpiry => []
  | .contextClose => []
  | .flitReceive => []
  | .retryGapExpiry => []
  | .retryRequest => []
  | .linkFailure => []
  | .portRetrain => []
  | .ueRmaWrite => []
  | .ueQueueAdvance => []
  | .ueRewardSend => []
  | .ueUnsupportedRequest => []
  | .dieStopsAnswering => []
  | .planeReportsUnreachable => []

/-- The instruction whose bits are w, numbered as spec/opcode_table.json numbers them, read by the decoder
from the bytes the words are stored as. A word that core code refuses is read as a clearing word
(notes/assumptions/7.md). -/
def decodeTableWord (nbits w : Nat) : Option Instr :=
  let v := w % 2 ^ nbits
  match Decode.bytes (leBytes 8 v) with
  | .ok (i, _) => some i
  | .error _ =>
    match Decode.clr (BitVec.ofNat 32 v) with
    | .ok i => some i
    | .error _ => none

end Sys2Proof
end

