-- ==== Sys2Proof/Config.lean ====
section
/-! DEFINITION. Config.lean: what is fixed for one machine and no rule of the spec gives, and the free
values. Every opaque constant has no body that a proof could see (notes/assumptions/5.md). -/

namespace Sys2Proof.Config

/-- A value the spec leaves open, fresh for every count; notes/assumptions/5.md lists what takes one. -/
opaque freeValue : Nat → BitVec 32

/-- An address the spec does not state: of a fault, or of the service warp's local allocation
(notes/assumptions/5.md), fresh for every count. -/
opaque freeAddr : Nat → BitVec 64

/-- What a unit of the hub reads from another device's memory, or a read that has no state to wait in of a word that a
switch slice owns: a byte by its address and the moment (notes/assumptions/5.md). -/
opaque farByte : Nat → Nat → BitVec 8

/-- The port cycles for which a gap must persist before a retry request goes out, which the spec leaves open
(spec/19_compression.md R360). -/
opaque gapWait : BitVec 32

/-- The SLH-DSA-SHA2-128s signature of a report, by the device's private key, which never leaves the
vault (spec/28_system.md R461); the argument is the report's bytes 0x000 to 0x15F as one number. -/
opaque signature : Nat → BitVec 62848

/-- The device serial of an attestation report (spec/28_system.md R461). -/
opaque serial : BitVec 64

/-- The 32-byte identity public key (spec/28_system.md R461), as one little-endian number. -/
opaque identityKey : BitVec 256

end Sys2Proof.Config
end

