-- ==== Sys2Proof/Machine/State.lean ====
section
/-! DEFINITION. State.lean: everything the spec gives the machine, as plain data, and the state after
reset. INVENTORY.md lists each piece with its rule and its reset value. -/

namespace Sys2Proof.Machine

open Sys2Proof

/-- Thread states (spec/12_divergence.md R260, spec/02_state.md R36). -/
inductive TState where
  | active | exited | parked | held | atBar | atCbar
  deriving DecidableEq, Repr

/-- A guard slot (spec/02_state.md R25, spec/05_control.md R121). -/
inductive Guard where
  | unresolved | yes | no
  deriving DecidableEq, Repr

/-- What a thread waits for inside an instruction (spec/02_state.md R32): a WAITM on a mask (R111), or an
ABWAIT on the object at a physical address while its phase equals the parity (R190). -/
inductive LWait where
  | none
  | waitm (k : Nat)
  | abwait (pa : Nat) (parity : Bool)
  deriving DecidableEq, Repr

/-- One thread: a lane of a warp (spec/02_state.md R18, R32). -/
structure Thread where
  st    : TState := .exited
  addr  : Nat := 0             -- position: clause-header address (R80)
  slot  : Nat := 0             -- position: slot index (R80)
  meet  : BitVec 64 := 0       -- meet register (R26)
  preds : BitVec 8 := 0        -- p0 to p6; bit 7 is kept 0 and p7 reads true (R22)
  cause : Option Cause := none -- while parked (R36)
  faddr : Nat := 0             -- faulting address while parked
  findex : Nat := 0            -- fragment-table entry while parked
  opnd  : Nat := 0             -- awaited barrier or cohort (R36 WOPND)
  wait  : LWait := .none
  naddr : Nat := 0             -- where it continues when its wait ends (R80)
  nslot : Nat := 0
  nmark : Bool := false        -- its wait stands under a switch marker (R77)
  cdone : Bool := false        -- its cohort phase has completed, its core not yet told (R120)
  frag  : BitVec 32 := 0       -- %frag (R29)
  pend  : Option (Cause × Nat) := none  -- return-time fault not yet taken (R172, R270)
  pendIss : Nat := 0           -- the issue that fault belongs to (R268)
  deriving DecidableEq, Repr

/-- A clause in an instruction buffer: absent, present, or a fetch that failed (R101, R264, R265). -/
inductive Clause where
  | absent
  | present (ws : List Word)
  | failed (c : Cause) (addr : Nat)
  deriving DecidableEq, Repr

/-- A PC group (spec/12_divergence.md R261, R264). -/
structure Group where
  addr  : Nat
  slot  : Nat
  mask  : Word
  count : Nat := 0             -- pass-over count, 0 to 63
  stamp : Nat := 0             -- formation, for the grant order
  ib    : Bool := false        -- holds an instruction-buffer entry
  words : Clause := .absent
  deriving DecidableEq, Repr

/-- Why a split is parked mid-run (spec/04_encoding.md R78). A parked split whose kind is `running` was
stopped by its warp fault slot (spec/12_divergence.md R270). -/
inductive Park where
  | running | marker | clauseWait | waitc | obres
  | svcwait                     -- the service warp at SVCWAIT (spec/10_system_clearing_isa.md R238)
  deriving DecidableEq, Repr

/-- A split that issues or is parked mid-run (spec/12_divergence.md R263). -/
structure Split where
  mask   : Word
  addr   : Nat                 -- header address of the clause it is in
  slot   : Nat                 -- next slot to issue; N when the clause is done and its second one is next
  words  : List Word           -- the clause: header and the words after it
  second : Bool := false       -- in the second clause of its run
  park   : Park := .running
  checked : Bool := false      -- the clause's header and wait have passed their checks
  yield  : Bool := false       -- the run has issued a YIELD (spec/05_control.md R124)
  ib     : Bool := true        -- holds an instruction-buffer entry; a restored one waits for its grant (R264, R277)
  stamp  : Nat := 0            -- formation of a restored one, for the grant order
  deriving DecidableEq, Repr

/-- The kinds of outstanding accesses and long results of a thread. -/
inductive OpKind where
  | ld | st | ldf | stf | atom | cas | red | feSet | feClear | feTest
  | fn                          -- a result already computed, not yet returned (R77, R127)
  | acrd                        -- an accumulator read (R202)
  | status                      -- a CLCTL.query word (R222)
  | barArr | cbarArr            -- arrivals waiting for earlier stores to register (R118)
  | abArr                       -- an ABARR of a split (R191)
  | hga                         -- a reduction of an HGA (R195)
  | emu                         -- a misaligned load, one byte at a time (spec/15_memory_model.md R319)
  | pref                        -- a PREF of another device's line (R193)
  | far                         -- a lane's read of another device's memory within an instruction (R172, R323)
  deriving DecidableEq, Repr

/-- One outstanding access or long result (spec/15_memory_model.md R312 to R316, spec/04_encoding.md R77). -/
structure Op where
  id    : Nat                   -- issue order
  lane  : Nat
  kind  : OpKind
  mask  : Word := 0             -- the split of an ABARR, the lanes of an ACRD, the readers of an SLD
  va    : Nat := 0
  pa    : Nat := 0
  size  : Nat := 4              -- bytes, or granules of a FEOP
  data  : Nat := 0              -- store data, operand, expected value, count
  data2 : Nat := 0              -- the new value of a CAS; the mode of a BAR arrival
  aop   : Nat := 0
  sz    : Nat := 4              -- size code of the result's extension (R90)
  sgn   : Bool := false
  acq   : Bool := false
  rel   : Bool := false
  clr   : Bool := false
  dest  : Option (BitVec 7) := none
  skip  : Nat := 0              -- bit n: uniform register dest + n was written by a later issue (R151)
  done  : Bool := false         -- served or applied; the result is in `val`
  val   : Nat := 0
  err   : Bool := false         -- met a lasting error or a lost device (R172)
  fab   : Bool := false         -- went out as a fabric request (R449)
  stale : Bool := false         -- its core has acquired since the request went out (spec/15_memory_model.md R314)
  iss   : Nat := 0              -- the issue it belongs to (spec/12_divergence.md R268)
  deriving DecidableEq, Repr

/-- Handler mode of a tenant warp (spec/10_system_clearing_isa.md R233, R235). -/
inductive Mode where
  | tenant | save | restore
  deriving DecidableEq, Repr

/-- One warp slot (spec/02_state.md R18, R32). -/
structure Warp where
  live   : Bool := false        -- the slot holds a warp
  wg     : Nat := 0             -- workgroup number
  index  : Nat := 0             -- w within the workgroup
  tenant : Nat := 0
  nv     : Nat := 8             -- declared counts (R18)
  ns     : Nat := 8
  nt     : Nat := 0
  na     : Nat := 0
  v      : FMap Word := []      -- vector register n of lane L at n * 32 + L
  s      : FMap Word := []      -- uniform registers
  t      : FMap (BitVec 64) := []   -- tile registers (R23)
  a      : FMap Word := []      -- accumulator N element e at N * 512 + e (R24)
  k      : FMap Word := []      -- convergence masks
  g      : FMap Guard := []     -- guard slots
  th     : FMap Thread := []
  cmat   : Nat := 0             -- counters (R27)
  ccopy  : Nat := 0
  cclr   : Nat := 0
  caux   : Nat := 0
  age    : Nat := 0
  energy : Nat := 0
  groups : List Group := []
  bound  : FMap (Nat × Nat) := []  -- lanes parked at a run boundary for their results, with their positions (R77)
  parked : List Split := []     -- splits parked mid-run, oldest first
  run    : Option Split := none -- the split whose run is in progress
  ops    : List Op := []        -- outstanding accesses, in issue order
  wfault : Option Cause := none -- warp fault slot (R32, R270)
  wfaddr : Nat := 0             -- the faulting address that goes with it (spec/26_faults_checkpoint.md R421)
  wpend  : Option Cause := none -- a warp fault to be taken at the next run boundary (spec/09_engine_isa.md R210)
  apass  : Nat := 0             -- arbitration pass-over count (R298)
  wdog   : Nat := 0             -- watchdog count (R423)
  mode   : Mode := .tenant
  sv     : FMap Word := []      -- handler scratch v88 to v95
  ss     : FMap Word := []      -- handler scratch s28 to s31
  sp     : FMap (BitVec 8) := []  -- handler predicates, per lane
  eret   : Bool := false        -- its handler has issued ERET
  bad    : List Nat := []       -- register cells holding a lasting error (R425): v n*32+L, s 4096+n, p 8192+n*32+L
  saving : Bool := false        -- a save request has reached it (R428)
  restored : Bool := false      -- restored, and its first selection not yet made (spec/12_divergence.md R277)
  drained : Bool := false       -- its drain has ended and its handler runs (R429)
  lcnt   : FMap Nat := []       -- pass-over counts by lane, as saved or restored (R275)
  recs   : FMap Word := []      -- resume records: word m of record k at 16 * k + m (R230)
  ldfs   : FMap Word := []      -- waiting LDFs: word j of entry i of lane L at 12 * L + 3 * i + j (R37)
  moved  : List (Nat × Nat) := []  -- saved and new base of each restored tile (R231)
  refused : Option Bool := none -- the record's check in a restore handler: not made yet, passed, or refused (R39)
  deriving DecidableEq, Repr

/-- A fragment-table entry (spec/12_divergence.md R268, R269; spec/10_system_clearing_isa.md R239). -/
structure Frag where
  valid  : Bool := false
  pend   : Bool := false
  gen    : Nat := 0
  tenant : Nat := 0
  slot   : Nat := 0             -- warp slot
  mask   : Word := 0
  addr   : Nat := 0             -- recorded position
  pslot  : Nat := 0
  kept   : Bool := false        -- its warp has entered its save handler: no reference acts on it, and it is freed with the
                                -- workgroup (spec/26_faults_checkpoint.md R429, spec/10_system_clearing_isa.md R243)
  deriving DecidableEq, Repr

/-- The counter classes (spec/04_encoding.md R95). -/
inductive Ctr where
  | mat | copy | clr | aux
  deriving DecidableEq, Repr

/-- A command of a matrix engine, the copy engine, the clearing engine or the join unit
(spec/09_engine_isa.md R211, R230; spec/17_matrix_copy.md R334, R340). -/
structure Cmd where
  id     : Nat                  -- issue order
  slot   : Nat                  -- warp slot
  wg     : Nat
  tenant : Nat
  ctr    : Ctr
  op     : Nat                  -- major opcode
  sub    : Nat := 0
  guard  : Option Nat := none   -- guarded by this slot (R76)
  gst    : Guard := .yes        -- the state the command takes (R122)
  va     : Nat := 0             -- block address
  block  : Nat := 0             -- the block's bytes as read at issue, one little-endian number
  acc    : Nat := 0
  tile   : BitVec 64 := 0       -- captured record (R201)
  desc   : BitVec 64 := 0       -- loop descriptor
  fmtB   : Nat := 0
  steps  : Nat := 1
  units  : Nat := 0             -- completed steps, destination elements of a CPYQ, destination bytes of a GTHQ
  wrow   : Nat := 0             -- current weight-buffer row
  data   : FMap Word := []      -- register values of an ACWR; codes a copy has made and not yet delivered, by element
  lines  : List Nat := []       -- physical lines of an ACST (R203); source lines a copy has counted
  mask   : Word := 0
  sz     : Nat := 4
  eng    : Nat := 0             -- 0 to 3 matrix engine, 4 copy engine, 5 clearing, 6 join unit, 7 an HGA
  stamp  : Nat := 0             -- entry into its queue
  started : Bool := false
  ended  : Bool := false
  status : Nat := 0
  loweredD : Nat := 0           -- bytes by which each barrier has been lowered (R214)
  loweredS : Nat := 0
  statedD : Nat := 0            -- the stated counts
  statedS : Nat := 0
  failAt : Bool := false        -- a failure was met; no further delivery (R341)
  local_ : Nat := 0             -- local allocation base and size of the issuing workgroup
  lsize  : Nat := 0
  dest   : Nat := 0             -- CLCTL.query destination
  idx    : Option (Nat × Nat) := none  -- row of a GTHQ and its index, as read once (spec/09_engine_isa.md R220)
  srcLine : Nat := 0            -- the source line a copy reads (spec/17_matrix_copy.md R342)
  srcBits : Nat := 0            -- bits of it that have returned and are not yet counted
  scaleD : Nat := 0             -- scale bytes that the destination barrier has been lowered by (spec/17_matrix_copy.md R342)
  head   : Nat := 0             -- the header and the mask of an expanding copy, as read at its start (R341)
  maskOf : Nat := 0
  deriving DecidableEq, Repr

/-- The issue slot of a partition (spec/13_scheduling.md R298). -/
structure Part where
  holder : Option Nat := none
  runs   : Nat := 0
  yielded : Bool := false
  deriving DecidableEq, Repr

/-- A TLB entry: a successful leaf translation tagged by tenant (spec/15_memory_model.md R327). -/
structure Tlb where
  tenant : Nat
  vbase  : Nat
  span   : Nat                  -- 64 KiB or 512 MiB
  pbase  : Nat
  perm   : Nat                  -- bit 0 RD, bit 1 WR, bit 2 EX
  deriving DecidableEq, Repr

/-- A walk in progress, whose result PAGE_WALK enters unless a TLBINV came first (R327, R248). -/
structure Walk where
  core   : Nat
  tenant : Nat
  va     : Nat
  dead   : Bool := false
  deriving DecidableEq, Repr

/-- One compute core. -/
structure Core where
  released : Bool := false
  stopped  : Bool := false      -- the service warp has faulted (R246)
  csr    : FMap Word := []      -- CSRs whose value differs from reset (R237, R465)
  cycle  : Nat := 0             -- %cycle (R30)
  tenant : Nat := 0xFF          -- CORE_TENANT
  warps  : FMap Warp := []      -- slot 0 to 63, 64 the service warp
  parts  : FMap Part := []
  frags  : FMap Frag := []
  ver    : FMap Word := []      -- %ver copies per tenant (R31)
  copies : FMap Word := []      -- L1 valid unowned words, by word address
  owned  : List Nat := []       -- L1 owned words
  l1Bad  : List Nat := []       -- words of the L1 that hold a lasting error (R424)
  tlb    : List Tlb := []
  ob     : FMap Byte := []      -- operand buffer bytes
  wb     : FMap Byte := []      -- weight buffer bytes
  wbOwner : Option Nat := none  -- workgroup that holds the weight buffer (R209)
  bufBad : List Nat := []       -- lasting errors: operand rows, 1024 + weight rows, 2048 + slot * 16 + acc
  cmds   : List Cmd := []       -- outstanding commands, in issue order
  mbox   : List Nat := []       -- mailbox messages not yet reported (R238)
  slotEv : List Nat := []       -- warp fault slots set and not yet reported
  dogEv  : List Nat := []       -- watchdog expiries not yet reported
  reported : List Nat := []     -- fault events reported and not yet dealt with, oldest first (R419, R422)
  supCode : Nat := 0            -- the last cause group of the first of them that has been dealt with (R419)
  heldEv : List Nat := []       -- entries, as generation * 64 + index, and warps, as 2^16 + slot, on HOLD (R420)
  deriving DecidableEq, Repr

/-- An LDF waiting at its home (spec/08_memory_isa.md R177, R179), in order of arrival. -/
structure LdfWait where
  gran : Nat
  core : Nat
  op   : Nat
  clr  : Bool
  deriving DecidableEq, Repr

/-- A named barrier or a cohort barrier (spec/05_control.md R117, R120). -/
structure Bar where
  fixed : Option Nat := none    -- an explicit expected count fixed by the phase's first arrival
  begun : Bool := false         -- an arrival of this phase has been counted
  arrived : Nat := 0
  phase : Bool := false
  deriving DecidableEq, Repr

/-- Where a workgroup stands (spec/13_scheduling.md R288 to R296, spec/26_faults_checkpoint.md R428 to R431). -/
inductive WgState where
  | resident | saving | saved | restoring | ended
  deriving DecidableEq, Repr

/-- A workgroup that has been placed. -/
structure Wg where
  launch : Nat := 0
  index  : Nat := 0
  x : Nat := 0
  y : Nat := 0
  z : Nat := 0
  core   : Nat := 0
  slots  : List Nat := []       -- warp slots in warp order
  lbase  : Nat := 0             -- offset of the allocation in the core's flat space
  lsize  : Nat := 0
  age    : Nat := 0
  bars   : FMap Bar := []
  st     : WgState := .resident
  area   : Option Nat := none   -- save area in use
  failed : Bool := false        -- a handler of it has faulted (R432)
  away   : List Nat := []       -- live threads of each warp while it is saved (spec/05_control.md R120)
  freed  : List Nat := []       -- barrier n, or 16 + cohort, whose phase completed while it was saved (R117, R120)
  wfaults : FMap (Cause × Nat) := []  -- warp fault slots, with their addresses, of its warps while it is saved
  fragIds : FMap Word := []     -- %frag of its threads while it is saved, by 32 * warp index + lane (R29)
  waits  : FMap Bool := []      -- threads saved at a clause start behind a marker that their LDFs hold, by 32 * warp index
                                -- + lane: at their run boundary, or (true) in a split parked mid-run (R279)
  deriving DecidableEq, Repr

/-- A started launch (spec/13_scheduling.md R282 to R297). -/
structure Launch where
  tenant : Nat
  queue  : Nat
  recNo  : Nat                  -- record number in its queue
  recVa  : Nat
  order  : Nat                  -- start order
  code   : Nat
  param  : Nat
  nv : Nat
  ns : Nat
  nt : Nat
  na : Nat
  energy : Nat
  lsize  : Nat
  threads : Nat
  gx : Nat
  gy : Nat
  gz : Nat
  flags  : Nat
  donea  : Nat
  patches : List (Nat × Nat × Nat) := []  -- word offset, width in bits, value (R93)
  cohorts : List (Nat × Nat × Nat) := []  -- cohort, FIRST, LAST (R286)
  cbarmap : Nat := 0
  gang   : List Nat := []       -- linear indices placed in one step (R293)
  next   : Nat := 0             -- next unplaced linear index
  cbars  : FMap Bar := []
  ended  : Nat := 0             -- workgroups that have ended
  status : Nat := 0
  done   : Bool := false
  told   : List (Nat × Nat) := []  -- completions of a cohort (first) not yet received by a core (R120)
  redirect : FMap Nat := []     -- clause registered per cause code (R420)
  deriving DecidableEq, Repr

/-- A launch queue (spec/13_scheduling.md R280, R281, spec/28_system.md R457). -/
structure Queue where
  en    : Bool := false
  prio  : Nat := 0
  log2n : Nat := 0
  ring  : Nat := 0
  ctla  : Nat := 0
  head  : Nat := 0              -- records retired
  tail  : Nat := 0              -- last TAIL read
  next  : Nat := 0              -- next record to start
  error : Bool := false
  fin   : List Nat := []        -- completed records at or past HEAD
  met   : Option (Bool × Bool) := none  -- dependences of record `next` as last read
  deriving DecidableEq, Repr

/-- A tenant block (spec/28_system.md R457, R458; spec/23_episodes.md R390, R391). -/
structure Tenant where
  active : Bool := false
  resetting : Bool := false
  rgen   : Nat := 0
  root   : Nat := 0
  coreset : Nat := 0
  poolBase : Nat := 0
  poolSize : Nat := 0
  poolCount : Nat := 0
  areas  : List Nat := []       -- save areas in use
  ringBase : Nat := 0
  ringK  : Nat := 0             -- k - 4
  consumed : Nat := 0
  evpage : Nat := 0
  granted : List (Nat × Nat) := []  -- counters granted: place (0 to 191 core, 192 to 195 die, 196 hub), number
  evseq  : Nat := 0
  queues : FMap Queue := []
  epver  : Word := 0
  eplag  : Nat := 0
  epesc  : Nat := 0x01000000
  epjto  : Nat := 0x04000000
  epq    : FMap (Nat × Nat) := []   -- learner queue: ring base, LOG2N
  lqHead : FMap Nat := []       -- records taken from each learner queue
  lqTail : FMap Nat := []       -- records released to each learner queue
  drops  : FMap Nat := []       -- the eight drop counters in R391's order
  faultSeq : Nat := 0
  policy : FMap Nat := []
  deriving DecidableEq, Repr

/-- A join-table entry's state (spec/23_episodes.md R394). -/
inductive EpState where
  | free | open_ | closed | joined | scan
  deriving DecidableEq, Repr

/-- A join-table entry (spec/23_episodes.md R393). -/
structure Episode where
  st     : EpState := .free
  gen    : Nat := 0
  key    : Nat := 0
  tenant : Nat := 0
  buf    : Nat := 0
  cap    : Nat := 0
  ver    : Word := 0
  gamma  : Word := 0
  lambda : Word := 0
  policy : Nat := 0
  nstep  : Nat := 0
  missing : Nat := 0
  len    : Nat := 0             -- L
  vl     : Word := 0
  term   : Bool := false
  tclose : Nat := 0
  trunc  : Bool := false
  outs   : List (List Byte) := []  -- release records of the scan not yet written (R401)
  hid    : Nat := 0             -- release records written and not yet shown to the learner (spec/22_program_advantage.md R388)
  bad    : Bool := false        -- its words in hub SRAM hold a lasting error (spec/26_faults_checkpoint.md R425)
  deriving DecidableEq, Repr

/-- A reward message with its tenant and arrival cycle (spec/23_episodes.md R392, R396). -/
structure Reward where
  tenant : Nat
  key    : Nat
  step   : Nat
  reward : Word
  flags  : Nat
  at_    : Nat
  bad    : Bool := false        -- its words in escrow hold a lasting error
  deriving DecidableEq, Repr

/-- A fault record or ASYNC record waiting to be written (spec/26_faults_checkpoint.md R421). -/
structure FaultRec where
  tenant : Nat
  body   : Nat                  -- bytes 0x00 to 0x2B
  deriving DecidableEq, Repr

/-- A collective posted to a clearing engine (spec/10_system_clearing_isa.md R254, R255). -/
structure Coll where
  id     : Nat
  tenant : Nat
  core   : Nat
  slot   : Nat                  -- the poster's warp index in its workgroup
  cmd    : Nat                  -- the CLPOST command it came from
  wg     : Nat
  va     : Nat                  -- block address
  block  : Nat
  seq    : Nat                  -- the member's count before it (R369)
  local_ : Nat
  lsize  : Nat
  abort  : Bool := false
  deriving DecidableEq, Repr

/-- A clearing message (spec/21_collectives.md R369). -/
structure Msg where
  dev    : Nat                  -- receiving device and die
  die    : Nat
  tenant : Nat
  group  : Nat
  stream : Nat
  seq    : Nat
  src    : Nat                  -- source rank
  chan   : Nat
  kind   : Nat                  -- 0 raw, 1 sign, 2 ternary, 3 a reduction result, its slot chunk in `src`
  count  : Nat                  -- elements
  data   : List Byte
  arrived : Bool := false       -- in the die's inbox
  req    : Nat := 0             -- the fabric request it leaves by
  deriving DecidableEq, Repr

/-- A step of a built-in algorithm (spec/21_collectives.md R375 to R379, spec/26_faults_checkpoint.md R438, R439). -/
inductive BOp where
  | copy (first : Nat)                                -- SRC to DST, from element first of DST
  | send (rk first count code role : Nat)             -- from DST
  | sendSrc (rk first count : Nat)                    -- raw, from SRC
  | recvAdd (frm first count code : Nat)
  | recv (frm first count code : Nat)
  | own (chunk first count code role : Nat)           -- code the own chunk, or take it raw, to forward it
  | fwd (rk chunk : Nat)                              -- send the image kept for a chunk, unchanged
  | keep (frm chunk first count code : Nat)           -- receive, keep the image, write it decoded
  | contribute (chunk : Nat)
  | await (chunk : Nat)
  | castWrite
  | restoreCheck
  | agree (rk : Nat)
  | agreeFrom (frm : Nat)
  | restoreWrite
  deriving DecidableEq, Repr

/-- A clearing processor (spec/10_system_clearing_isa.md R249). -/
structure Clear where
  coll : Option Coll := none
  c    : FMap (BitVec 64) := []
  pc   : Nat := 0
  rank : Nat := 0
  size : Nat := 0
  todo : List BOp := []         -- remaining steps of a built-in algorithm
  kept : FMap Msg := []         -- images kept for forwarding, by chunk
  agreed : List (Nat × Nat) := []  -- status and step of members, its own first (R439)
  sent : List Nat := []         -- slot chunks contributed and not yet complete
  asked : Bool := false         -- its CWAIT.fe waits in a granule's queue
  got  : Option Nat := none     -- what that wait was served; 2^32 where it met a lasting error
  ended : Option Nat := none    -- final status, not yet written
  gone  : Option Nat := none     -- status at its next message step: its group has lost a member, or its handle was revoked (R383, R384)
  deriving DecidableEq, Repr

/-- An end of a collective held for its pre-empted workgroup (spec/09_engine_isa.md R232). -/
structure Held where
  wg     : Nat
  slot   : Nat                  -- the poster's warp index
  cmd    : Nat
  status : Nat
  off    : Nat                  -- block offset in the allocation
  bar    : Nat                  -- BAR word of the block
  applied : Bool := false       -- applied, its workgroup not yet out of its handlers
  deriving DecidableEq, Repr

/-- A packet of the fabric: its header's fields and its payload (spec/27_fabric.md R446). -/
structure Packet where
  kind : Nat
  vc   : Nat
  typ  : Nat
  coded : Bool
  len  : Nat
  src  : Nat
  tenant : Nat
  dst  : Nat
  ctx  : Nat
  seq  : Nat
  addr : Nat                    -- [39:0] local address
  opn  : Nat                    -- [47:40]
  bmask : Nat                   -- [63:48]
  arg  : Nat
  data : List Byte
  deriving DecidableEq, Repr

/-- A request kept by its source (spec/27_fabric.md R448, R449). -/
structure Request where
  seq   : Nat
  kind  : Nat                   -- R447
  core  : Nat
  op    : Nat                   -- the access or command it serves
  addr  : Nat
  sends : Nat := 1
  timer : Nat := 0
  pkt   : Packet
  quiet : Bool := false         -- a write whose bytes are counted with its command's remainder (spec/09_engine_isa.md R214)
  replied : Bool := false       -- its reply has come; it takes effect here in SEQ order
  data  : List Byte := []       -- the reply's payload
  err   : Bool := false         -- the reply reports an error, or the request has failed
  deriving DecidableEq, Repr

/-- A delivery context at its source (spec/27_fabric.md R448). -/
structure Ctx where
  core   : Nat                  -- source core, or 192 + die for a clearing engine
  tenant : Nat
  dest   : Nat
  ctx    : Nat
  next   : Nat := 0
  reqs   : List Request := []
  acked  : Nat := 0             -- every SEQ below it has taken effect and been acknowledged
  idle   : Nat := 0             -- cycles with no packet sent
  pushed : List Nat := []       -- reduction pushes of it that the switch has taken, by SEQ (R323, R453)
  deriving DecidableEq, Repr

/-- A delivery context at its target (spec/27_fabric.md R448, R449). -/
structure Target where
  src   : Nat
  ctx   : Nat
  next  : Nat := 0
  early : List Packet := []     -- held arrivals
  replies : List (Nat × Packet) := []  -- kept replies by SEQ
  part  : List Byte := []       -- a clearing message whose last packet has not come
  closing : Bool := false       -- its source has closed it, and a kept reply is not yet acknowledged (R452)
  deriving DecidableEq, Repr

/-- A flit: its sequence number, the packet it belongs to, whether it is the packet's last, its bits. -/
structure Flit where
  seq  : Nat
  last : Bool
  bits : List Byte
  link : Nat := 0               -- the live link it is striped to (spec/19_compression.md R359)
  deriving DecidableEq, Repr

/-- A fabric port (spec/27_fabric.md R443, spec/19_compression.md R356 to R361). -/
structure Port where
  en     : Bool := false
  ue     : Bool := false        -- MODE
  live   : Nat := 0             -- LIVE bits
  st     : Nat := 0             -- STATE
  retrains : Nat := 0
  fails  : Nat := 0             -- consecutive failed trainings
  slotLimit : Nat := 0          -- PORTSW
  txTab  : FMap (List Nat) := []   -- coding tables that differ from reset, per channel
  rxTab  : FMap (List Nat) := []
  txSeq  : Nat := 0
  rxSeq  : Nat := 0             -- next expected
  retry  : List Flit := []      -- sent and not acknowledged
  window : List Flit := []      -- held early arrivals
  part   : List Byte := []      -- accepted flits of a packet not yet whole
  waiting : List Packet := []   -- packets to send, not yet coded
  unacked : List Packet := []   -- packets sent and not seen acknowledged, oldest first
  gap    : Bool := false        -- a gap is being waited on
  gapAge : Nat := 0             -- port cycles the gap has lasted (R360)
  failed : Bool := false        -- a flit failed its link check and a retry request for it is due (R360)
  discards : Nat := 0
  drops  : Nat := 0
  wantRetry : Option Nat := none  -- retry request to send: next expected number
  full   : List Nat := []       -- virtual channels without credit at the next hop (R447)
  deriving DecidableEq, Repr

/-- A reduction slot or a root's accumulation (spec/21_collectives.md R380, R381). -/
structure Slot where
  tenant : Nat
  group  : Nat
  stream : Nat
  seq    : Nat
  chunk  : Nat
  dtype  : Nat
  size   : Nat
  op     : Nat
  elems  : Nat
  atRoot : Bool := false        -- forwarded: the root's accumulation, or, of a root elsewhere, only who has gone on to it
  root   : Nat                  -- rank of its root (spec/21_collectives.md R379)
  age    : Nat := 0             -- cycles since its first contribution (R381)
  bitmap : List Nat := []       -- ranks that have contributed
  acc    : FMap Int := []       -- per element, in units of 2^-160
  nan    : List Nat := []
  pinf   : List Nat := []
  ninf   : List Nat := []
  deriving DecidableEq, Repr

/-- A contribution on its way to a slot or root (spec/21_collectives.md R379, R381). -/
structure Push where
  tenant : Nat
  group  : Nat
  stream : Nat
  seq    : Nat
  chunk  : Nat
  rank   : Nat
  dtype  : Nat
  size   : Nat                  -- group size
  op     : Nat
  root   : Nat                  -- rank of the slot chunk's root (R379)
  data   : List Byte
  deriving DecidableEq, Repr

/-- A group handle (spec/21_collectives.md R368). -/
structure CGroup where
  handle : Nat
  tenant : Nat
  members : List (Nat × Nat)    -- device, die, in rank order
  lost   : Bool := false        -- a member has been lost (R383)
  deriving DecidableEq, Repr

/-- A residual-object descriptor (spec/21_collectives.md R373). -/
structure Resid where
  handle : Nat
  tenant : Nat
  nstream : Nat
  nrole  : Nat
  elems  : Nat
  base   : Nat
  pages  : List Nat := []       -- physical pages of 64 KiB the hypervisor recorded (spec/26_faults_checkpoint.md R436)
  deriving DecidableEq, Repr

/-- One compute die's shared units. -/
structure Die where
  ltlb   : List Tlb := []
  queue  : List Coll := []      -- posted collectives not yet started (R255)
  procs  : FMap Clear := []
  counts : FMap Nat := []       -- collectives posted, by key of tenant, group and STREAM (R369)
  held   : List Held := []
  freplay : Nat := 0x4000
  fquiet : Nat := 0x10000
  freplays : Nat := 16
  answers : Bool := true
  halted : Bool := false        -- the die has stopped: nothing of it runs or writes (R383)
  ev     : FMap Nat := []       -- event counters: 0 to 15 EVSEL, 16 to 31 EVCNT, 32 EVCTL
  deriving DecidableEq, Repr

/-- The mint (spec/28_system.md R459 to R462). -/
structure Mint where
  meas   : FMap Nat := []       -- MEAS0 to MEAS7, 256 bits each
  stat   : Nat := 0             -- MINTSTAT
  step   : Nat := 1             -- boot step of R460
  locked : Bool := false
  stopped : Bool := false       -- boot has stopped at an image whose signature failed (R460)
  images : FMap (List Byte) := []   -- the bytes of installed images 2 and 3: the clearing ROM's shadow, the port controllers' firmware
  supBase : Nat := 0            -- where the installed supervisor lies, and its length
  supLen : Nat := 0
  installed : List Nat := []    -- images installed: 0 boot firmware, 1 supervisor, 2 clearing ROM, 3 fabric firmware
  boots  : Nat := 0             -- boot count
  queue  : List (Nat × Nat) := []  -- waiting requests: the way each came (0 mailbox, 1 management port), its nonce
  latched : Option (Nat × Nat × FMap Nat) := none  -- the report in hand: its way, its nonce and MEAS as latched
  reports : List (Nat × Nat) := []  -- reports given: way, and bytes 0x000 to 0x15F
  busy   : List (Nat × Nat) := []  -- requests answered BUSY: the way each came and went, its nonce (R461)
  deriving DecidableEq, Repr

/-- The clock and power controller (spec/28_system.md R470 to R473). -/
structure Power where
  freq   : FMap Nat := []       -- ISLFREQ where it differs from 1,050
  budget : FMap Nat := []       -- ISLBUDGET where it differs from 64
  swBudget : FMap Nat := []     -- BUDGET last written by software
  swFreq : FMap Nat := []       -- MHZ last written by software
  mw     : FMap Nat := []       -- ISLSTAT.MW
  cur    : FMap Nat := []       -- ISLSTAT.CUR where it differs from 1,050
  railDrop : FMap Nat := []     -- MHz by which a quarter is lowered for rail current (R471)
  hot    : List Nat := []       -- quarters being throttled (R473)
  plimit : Nat := 6000
  samples : List Nat := []      -- last 64 package samples, in 0.1 W, newest first
  ppower : Nat := 0
  amps   : Nat := 0
  curlim : Bool := false
  pwrlim : Bool := false
  cycles : Nat := 0             -- controller cycles since the last sample (R471)
  down   : Bool := false        -- rails down after a shutdown (R473)
  deriving DecidableEq, Repr

/-- The unit that acts in this step: a warp of a core, or a clearing processor of a die; the source of what it sends over
the fabric (a core, 192 + die, or 196 the hub), and the command or collective it acts for. -/
structure Cur where
  core : Nat := 0
  slot : Nat := 0
  src  : Nat := 196
  job  : Option Nat := none
  deriving DecidableEq, Repr

/-- The modes of a system core (spec/28_system.md R456). -/
inductive SysMode where
  | m | hs | vs | u
  deriving DecidableEq, Repr

/-- One of the sixteen system cores (spec/01_machine.md R7): what the spec gives it. -/
structure SysCore where
  released : Bool := false      -- it runs (spec/28_system.md R460)
  mode    : SysMode := .m
  faulted : Bool := false       -- its last register access raised an access fault (R456)
  data    : Nat := 0            -- what its last register read gave
  deriving DecidableEq, Repr

/-- The operands of an event: which unit, and what comes with it. -/
structure Arg where
  core : Nat := 0
  slot : Nat := 0
  idx  : Nat := 0
  a    : Nat := 0
  b    : Nat := 0
  data : List Byte := []
  hart : Nat := 0               -- the system core that makes a register access (R456)
  deriving DecidableEq, Repr

/-- One turn: which agent acts next, or what arrives from outside (notes/assumptions/3.md). -/
inductive Turn where
  | issue (core part : Nat)     -- a partition's issue slot
  | service (core : Nat)        -- the service warp
  | clear (die proc : Nat)      -- a clearing processor
  | event (e : Instr) (arg : Arg)
  | cycles (cls unit n : Nat)   -- time passes: 0 core, 1 join unit, 2 die edge, 3 port, 4 hub, 5 clock and power controller,
                                -- 6 the switches of a plane
  | write (pa : Nat) (data : List Byte)   -- system software or a remote device writes memory
  | damage (pa n : Nat)         -- stored bytes take a lasting error
  | damageReg (core slot cell : Nat)
  | damageBuf (core row : Nat)
  | damageL1 (core word : Nat)
  | damageHub (n : Nat)         -- join-table entry n, or escrow message n - 2^20
  | evict (core word : Nat)     -- the L1 gives up a copy
  | supervise (core : Nat) (mapped : Bool)  -- the supervisor goes on; the hypervisor's answer where it asks (R419)
  | askHeld (core ev : Nat) (kill : Bool) (mask : Nat)  -- the hypervisor asks for what is on HOLD (R420)
  | tlbDrop (core : Nat)        -- the L1 TLB and the die's TLB give up their entries
  | credit (port vc : Nat) (full : Bool)  -- a virtual channel of a port has lost, or got, its credit (R447)
  | sysMode (hart : Nat) (m : SysMode)      -- a system core changes its mode
  | sysRelease (hart : Nat)     -- the boot firmware, on system core 0, releases another (R460)
  | sysRead (hart idx off : Nat)  -- a system core reads a register (R456)
  | ueRead (port pa n : Nat)    -- an RMA read comes at an Ultra Ethernet port (R454)
  deriving DecidableEq, Repr

/-- How the instruction just issued leaves its split: it goes on, it has not issued and is tried again, it
parks mid-run, its threads have new positions, or it has ended its run by choice. -/
inductive Flow where
  | advance | stall | park (p : Park) | moved
  deriving DecidableEq, Repr

/-- The whole machine. -/
structure State where
  agenda : List Turn
  cur    : Cur
  arg    : Arg
  flow   : Flow
  fresh  : Nat
  nextId : Nat
  dev    : Nat                  -- device index (R28)
  joined : Bool                 -- the domain is joined
  flat   : Nat                  -- flat size in 256 KiB steps (R308)
  mem    : List Host.Cell
  full   : List Nat             -- full granules of flat SRAM
  ldfq   : List LdfWait
  errs   : List Nat             -- bytes holding a lasting error
  spare  : FMap Nat             -- spare rows used, per slice: a core's, 192 the join table's, 193 the escrow's (R426)
  cores  : FMap Core
  dies   : FMap Die
  ports  : FMap Port
  planes : List Nat             -- Mbovas planes fixed at boot (R444)
  booted : Bool
  walks  : List Walk
  tenants : FMap Tenant
  placed : Nat                  -- placement count (R290)
  rrTenant : FMap Nat           -- the tenant whose record started last, by priority (R288)
  refused : List (Nat × Nat)    -- launches and the cores that have refused them for energy since their last placement (R466)
  launches : FMap Launch
  wgs    : FMap Wg
  outCores : List Nat           -- cores out of placement (R426)
  episodes : FMap Episode
  joinedQ : List Nat            -- entries in the order they reached JOINED
  escrow : List Reward
  rewardsOut : List Reward      -- rewards sent by RWSEND and not yet accepted, `at_` their command
  joinCycle : Nat
  msgs   : List Msg             -- clearing messages in transit and in inboxes
  groups : List CGroup
  resids : List Resid
  slots  : List Slot
  pushes : List Push
  ctxs   : List Ctx
  targets : List Target
  lost   : List Nat             -- lost devices (R450)
  domain : List Nat             -- device indices present in the domain
  recs   : List FaultRec        -- fault records waiting to be written
  mint   : Mint
  power  : Power
  sysBase : Nat
  sysSize : Nat
  scrub  : FMap Nat             -- scrub periods
  log_   : List (Nat × Nat)     -- error log: kind and address (R424)
  hubEv  : FMap Nat             -- event counters: 0 to 7 EVSEL, 16 to 23 EVCNT, 32 EVCTL
  hubCycle : Nat                -- hub cycles since the last counter snapshot (R468)
  entrySvc : Nat                -- entries of the measured supervisor image
  entrySave : Nat
  entryRestore : Nat
  sys    : FMap SysCore         -- the system cores (spec/01_machine.md R7)
  ueWins : List (Nat × Nat × Nat)  -- windows of the ports' memory endpoints: port, physical base, size (R455)
  uePorts : FMap Nat            -- tenant bound to port p's endpoints: rewards at p, queue advances at 72 + p, memory at 144 + p (R455)
  ueOut  : List (Nat × Bool × List Byte)  -- completions sent: port, whether an error completion, the bytes read (R454)
  fetched : FMap (FMap Byte)    -- bytes of other devices that an access, command or collective has read, by its number (R317, R323)
  fetchBad : FMap Nat           -- those whose read of another device has failed, with the status it ends with (spec/27_fabric.md R450)
  swOwned : List Nat            -- words of this device that a switch slice owns (spec/15_memory_model.md R310)
  swAsked : List Nat            -- lines of it that have been recalled from the slice
  utfortSt : Option Nat         -- the status that the last utfort has exited with (spec/26_faults_checkpoint.md R440)
  errCnt : FMap Nat             -- transient errors by unit: core, 192 + die, 196 the hub (R424)
  told   : List (Nat × Nat)     -- what the hypervisor has been told: 0 slice without a spare row, 1 service warp stopped (R426, R246)
  deriving DecidableEq, Repr

/-- Why the machine stops. -/
inductive Fault where
  /-- Raised by every step while the rails are down after a thermal shutdown, until PACKAGE_RESET
  (spec/28_system.md R473). Safe: nothing runs without power. -/
  | poweredOff
  deriving DecidableEq, Repr

/-- Why a step has no meaning. -/
inductive Refusal where
  /-- Raised by an arm of exec whose instruction is not modelled. Safe. -/
  | notModelled (mnemonic : String)
  deriving DecidableEq, Repr

/-- The machine right after package reset (spec/28_system.md R459, R460; INVENTORY.md lists each value). -/
def State.reset : State where
  agenda := []
  cur := {}
  arg := {}
  flow := .advance
  fresh := 0
  nextId := 0
  dev := 0
  joined := false
  flat := 11
  mem := []
  full := []
  ldfq := []
  errs := []
  spare := []
  cores := []
  dies := []
  ports := []
  planes := []
  booted := false
  walks := []
  tenants := []
  placed := 0
  rrTenant := []
  refused := []
  launches := []
  wgs := []
  outCores := []
  episodes := []
  joinedQ := []
  escrow := []
  rewardsOut := []
  joinCycle := 0
  msgs := []
  groups := []
  resids := []
  slots := []
  pushes := []
  ctxs := []
  targets := []
  lost := []
  domain := []
  recs := []
  mint := {}
  power := {}
  sysBase := 0
  sysSize := 0
  scrub := []
  log_ := []
  hubEv := []
  hubCycle := 0
  entrySvc := 0
  entrySave := 0
  entryRestore := 0
  sys := []
  ueWins := []
  uePorts := []
  ueOut := []
  fetched := []
  fetchBad := []
  swOwned := []
  swAsked := []
  utfortSt := none
  errCnt := []
  told := []

end Sys2Proof.Machine
end

