-- ==== Sys2Proof/Machine/Ops.lean ====
section
/-! DEFINITION. Machine/Ops.lean: finite maps, memory, access to the parts of the state, address
translation, and taking an exception (spec/12_divergence.md R268, R270). -/

namespace Sys2Proof.Machine

open Sys2Proof

/-- n bytes at an offset of a little-endian number. -/
def blockField (x off n : Nat) : Nat := x / 2 ^ (8 * off) % 2 ^ (8 * n)

/-! ### Finite maps -/

def fget {α : Type} (d : α) : FMap α → Nat → α
  | [], _ => d
  | (k', v) :: m, k => if k' = k then v else fget d m k

def ferase {α : Type} : FMap α → Nat → FMap α
  | [], _ => []
  | (k', v) :: m, k => if k' = k then ferase m k else (k', v) :: ferase m k

def finsert {α : Type} (k : Nat) (v : α) : FMap α → FMap α
  | [] => [(k, v)]
  | (k', v') :: m => if k < k' then (k, v) :: (k', v') :: m else (k', v') :: finsert k v m

/-- Set one key, keeping the keys rising. -/
def fset {α : Type} (m : FMap α) (k : Nat) (v : α) : FMap α := finsert k v (ferase m k)

def fhas {α : Type} (m : FMap α) (k : Nat) : Bool := m.any (·.1 == k)

/-! ### Memory (spec/01_machine.md R10, spec/00_scope.md R2) -/

/-- One byte; an unlisted address reads 0 (notes/assumptions/1.md). -/
def rd8 (m : List Host.Cell) (a : Nat) : Byte := fget 0#8 m a

/-- Write one byte, keeping the canonical form. -/
def wr8 (m : List Host.Cell) (a : Nat) (b : Byte) : List Host.Cell :=
  if b = 0#8 then ferase m a else fset m a b

def rdBytes (m : List Host.Cell) : Nat → Nat → List Byte
  | _, 0 => []
  | a, n + 1 => rd8 m a :: rdBytes m (a + 1) n

def wrBytes : List Host.Cell → Nat → List Byte → List Host.Cell
  | m, _, [] => m
  | m, a, b :: bs => wrBytes (wr8 m a b) (a + 1) bs

/-- Addresses strictly rising and no byte equal to what an unlisted address reads as. -/
def memWf : List Host.Cell → Bool
  | [] => true
  | [(_, b)] => b != 0#8
  | (a, b) :: (a', b') :: m => decide (a < a') && b != 0#8 && memWf ((a', b') :: m)

/-- A number of n bytes at a physical address. -/
def State.rdN (s : State) (a n : Nat) : Nat := leNat (rdBytes s.mem a n)

/-- Whether word number w holds one of n bytes at a. -/
def inWords (a n w : Nat) : Bool := decide (a / 4 ≤ w ∧ w ≤ (a + n - 1) / 4)

/-! ### The address map (spec/01_machine.md R10 to R13) -/

def flatBase : Nat := 0x010000000000
def flatStep : Nat := 0x400000
def isHbm (pa : Nat) : Bool := decide (pa < 0x10000000000)
/-- The HBM stack of a local address, the die it is attached to, and the address within it (R12). -/
def hbmStack (pa : Nat) : Nat := bitsOf pa 15 12 ^^^ bitsOf pa 23 20
def hbmDie (pa : Nat) : Nat := hbmStack pa / 4
def hbmLocal (pa : Nat) : Nat := bitsOf pa 39 16 * 2 ^ 12 + bitsOf pa 11 0
def isFlat (pa : Nat) : Bool := decide (flatBase ≤ pa ∧ pa < flatBase + 192 * flatStep)
def flatCore (pa : Nat) : Nat := (pa - flatBase) / flatStep
def flatOff (pa : Nat) : Nat := (pa - flatBase) % flatStep
/-- The flat size in bytes (R11, R308). -/
def State.flatBytes (s : State) : Nat := s.flat * 0x40000
def isFabric (pa : Nat) : Bool := decide (2 ^ 55 ≤ pa ∧ pa < 2 ^ 56)
def fabricDev (pa : Nat) : Nat := bitsOf pa 51 40
/-- A fabric address the device may use (R13, spec/27_fabric.md R444). -/
def State.fabricOk (s : State) (pa : Nat) : Bool :=
  isFabric pa && bitsOf pa 54 52 == 0 && fabricDev pa != s.dev && s.domain.contains (fabricDev pa)
  && !s.lost.contains (fabricDev pa) && !s.planes.isEmpty

/-- The core whose slice is the home of a local line, or of a flat byte (spec/15_memory_model.md R309). -/
def homeCore (pa : Nat) : Option Nat :=
  if isFlat pa then some (flatCore pa)
  else if isHbm pa then
    let n := bitsOf pa 39 7
    let h := (n ^^^ (n / 2 ^ 16) ^^^ (n / 2 ^ 32)) % 2 ^ 16
    some (h * 192 / 2 ^ 16)
  else none

/-- The plane of a fabric line among m planes (R309). -/
def homePlane (pa m : Nat) : Nat :=
  let n := bitsOf pa 39 7
  let h := (n ^^^ (n / 2 ^ 16) ^^^ (n / 2 ^ 32)) % 2 ^ 16
  h * m / 2 ^ 16

/-! ### Parts of the state -/

def State.core (s : State) (c : Nat) : Core := fget {} s.cores c
def State.setCore (s : State) (c : Nat) (k : Core) : State := { s with cores := fset s.cores c k }
def State.updCore (s : State) (c : Nat) (f : Core → Core) : State := s.setCore c (f (s.core c))
def Core.warp (k : Core) (w : Nat) : Warp := fget {} k.warps w
def Core.setWarp (k : Core) (w : Nat) (x : Warp) : Core := { k with warps := fset k.warps w x }
def State.warpAt (s : State) (c w : Nat) : Warp := (s.core c).warp w
def State.setWarpAt (s : State) (c w : Nat) (x : Warp) : State :=
  s.updCore c (·.setWarp w x)
def State.updWarpAt (s : State) (c w : Nat) (f : Warp → Warp) : State :=
  s.setWarpAt c w (f (s.warpAt c w))
/-- The warp that issues in this step. -/
def State.warp (s : State) : Warp := s.warpAt s.cur.core s.cur.slot
def State.setWarp (s : State) (x : Warp) : State := s.setWarpAt s.cur.core s.cur.slot x
def State.updWarp (s : State) (f : Warp → Warp) : State := s.setWarp (f s.warp)
def State.die (s : State) (d : Nat) : Die := fget {} s.dies d
def State.updDie (s : State) (d : Nat) (f : Die → Die) : State :=
  { s with dies := fset s.dies d (f (s.die d)) }
def State.port (s : State) (p : Nat) : Port := fget {} s.ports p
def State.updPort (s : State) (p : Nat) (f : Port → Port) : State :=
  { s with ports := fset s.ports p (f (s.port p)) }
def State.tenant (s : State) (t : Nat) : Tenant := fget {} s.tenants t
def State.updTenant (s : State) (t : Nat) (f : Tenant → Tenant) : State :=
  { s with tenants := fset s.tenants t (f (s.tenant t)) }
def Tenant.queue (t : Tenant) (q : Nat) : Queue := fget {} t.queues q
def State.updQueue (s : State) (t q : Nat) (f : Queue → Queue) : State :=
  s.updTenant t fun x => { x with queues := fset x.queues q (f (x.queue q)) }
def State.wg (s : State) (g : Nat) : Wg := fget {} s.wgs g
def State.updWg (s : State) (g : Nat) (f : Wg → Wg) : State :=
  { s with wgs := fset s.wgs g (f (s.wg g)) }
def State.launch (s : State) (n : Nat) : Option Launch := (s.launches.find? (·.1 == n)).map (·.2)
def State.updLaunch (s : State) (n : Nat) (f : Launch → Launch) : State :=
  match s.launch n with
  | none => s
  | some l => { s with launches := fset s.launches n (f l) }
def Warp.thread (w : Warp) (l : Nat) : Thread := fget {} w.th l
def Warp.setThread (w : Warp) (l : Nat) (t : Thread) : Warp := { w with th := fset w.th l t }
def Warp.updThread (w : Warp) (l : Nat) (f : Thread → Thread) : Warp := w.setThread l (f (w.thread l))
/-- A number no other item of the machine has. -/
def State.newId (s : State) : Nat × State := (s.nextId, { s with nextId := s.nextId + 1 })
/-- A free value (notes/assumptions/5.md). -/
def State.free (s : State) : Word × State := (Config.freeValue s.fresh, { s with fresh := s.fresh + 1 })

/-- CSR resets (spec/10_system_clearing_isa.md R237, spec/28_system.md R465). -/
def csrReset (n : Nat) : Word :=
  if n = 0x001 then 8#32 else if n = 0x002 then 64#32 else if n = 0x003 then 0x04030201#32
  else if n = 0x004 then 0x100B0806#32 else if n = 0x005 then 256#32 else if n = 0x006 then 0x40000000#32
  else if n = 0x007 then 0xFF#32 else if 0x100 ≤ n ∧ n ≤ 0x107 then 0x00F00000#32 else 0#32
/-- Some words leave the L1 where they are unowned copies, with their errors. -/
def Core.dropWords (k : Core) (p : Nat → Bool) : Core :=
  { k with copies := k.copies.filter fun x => !p x.1
           l1Bad := k.l1Bad.filter fun w => !p w || k.owned.contains w }
/-- Owned words of a core leave its L1 for their homes; one with a lasting error takes the error along
(notes/assumptions/90.md). -/
def State.giveUp (s : State) (c : Nat) (p : Nat → Bool) : State :=
  let k := s.core c
  let lost := (k.l1Bad.filter fun w => p w && k.owned.contains w).flatMap fun w => (List.range 4).map (· + 4 * w)
  ({ s with errs := s.errs ++ lost } : State).updCore c fun k =>
    { k with owned := k.owned.filter fun w => !p w, l1Bad := k.l1Bad.filter fun w => !(p w && k.owned.contains w) }
def Core.rawCsr (k : Core) (n : Nat) : Word := fget (csrReset n) k.csr n
def Core.setCsr (k : Core) (n : Nat) (v : Word) : Core := { k with csr := fset k.csr n v }

/-! ### Event counters (spec/28_system.md R465 to R467) -/

/-- A counter's count and its wrap bit after n events of a source, tenant by its filter. -/
def evAdd (sel cnt : Nat) (frozen : Bool) (code tenant n : Nat) : Nat × Bool :=
  if !frozen && bitsOf sel 7 0 == code && (bitsOf sel 23 20 == 15 || bitsOf sel 23 20 == tenant) then
    ((cnt + n) % 2 ^ 48, decide (2 ^ 48 ≤ cnt + n))
  else (cnt, false)

/-- n events of a source of a core count; a core whose CSRs hold their resets counts nothing. -/
def Core.count (k : Core) (code tenant n : Nat) : Core :=
  if k.csr.isEmpty then k
  else (List.range 8).foldl (fun k i =>
    let ctl := (k.rawCsr 0x118).toNat
    let cnt := (k.rawCsr (0x108 + i)).toNat + 2 ^ 32 * (k.rawCsr (0x110 + i)).toNat
    let (x, wrap) := evAdd (k.rawCsr (0x100 + i)).toNat cnt (bitOf ctl i) code tenant n
    if x = cnt then k
    else
      let k := (k.setCsr (0x108 + i) (BitVec.ofNat 32 x)).setCsr (0x110 + i) (BitVec.ofNat 32 (x / 2 ^ 32))
      if wrap then k.setCsr 0x118 (BitVec.ofNat 32 ctl ||| BitVec.ofNat 32 (2 ^ (8 + i))) else k) k
def State.countCore (s : State) (c code tenant n : Nat) : State := s.updCore c (·.count code tenant n)

/-- Counters of a die or of the hub: EVSEL at i, EVCNT at 16 + i, EVCTL at 32. -/
def evCount (m : FMap Nat) (code tenant n : Nat) : FMap Nat :=
  if m.isEmpty then m
  else (List.range 16).foldl (fun m i =>
    let ctl := fget 0 m 32; let cnt := fget 0 m (16 + i)
    let (x, wrap) := evAdd (fget 0x00F00000 m i) cnt (bitOf ctl i) code tenant n
    if x = cnt then m
    else
      let m := fset m (16 + i) x
      if wrap && !bitOf ctl (16 + i) then fset m 32 (ctl + 2 ^ (16 + i)) else m) m
def State.countDie (s : State) (d code tenant n : Nat) : State :=
  if (s.die d).ev.isEmpty then s else s.updDie d fun k => { k with ev := evCount k.ev code tenant n }
/-- n bytes of HBM are read (code 2) or written (code 3): they count at the die of their stack
(spec/28_system.md R466, notes/assumptions/71.md). -/
def State.countHbm (s : State) (pa code tenant n : Nat) : State :=
  if isHbm pa then s.countDie (hbmDie pa) code tenant n else s
/-- n bytes at a physical address are read for a tenant. -/
def State.countRead (s : State) (pa tenant n : Nat) : State := s.countHbm pa 2 tenant n
def State.countHub (s : State) (code tenant n : Nat) : State := { s with hubEv := evCount s.hubEv code tenant n }

/-! ### Masks and lanes -/

def allLanes : List Nat := List.range 32
def lanesOf (m : Word) : List Nat := allLanes.filter fun l => m.getLsbD l
def laneBit (l : Nat) : Word := BitVec.ofNat 32 (2 ^ l)
def maskOf (ls : List Nat) : Word := ls.foldl (fun m l => m ||| laneBit l) 0#32
/-- The lanes that hold a live thread (spec/05_control.md R113). -/
def Warp.liveMask (w : Warp) : Word := maskOf (allLanes.filter fun l => (w.thread l).st != .exited)
def Warp.liveCount (w : Warp) : Nat := (allLanes.filter fun l => (w.thread l).st != .exited).length
/-- The mask of the issuing split. -/
def State.mask (s : State) : Word :=
  match s.warp.run with | none => 0#32 | some r => r.mask
def State.lanes (s : State) : List Nat := lanesOf s.mask
def State.lowest (s : State) : Nat := s.lanes.headD 0

/-! ### Clauses (spec/04_encoding.md R72, R79, R80) -/

def hdrN (h : Word) : Nat := (h.extractLsb' 0 4).toNat
def hdrCls (h : Word) : Nat := (h.extractLsb' 4 3).toNat
def hdrCont (h : Word) : Bool := h.getLsbD 7
def hdrSw (h : Word) (k : Nat) : Bool := h.getLsbD (8 + k)
def hdrWctr (h : Word) : Nat := (h.extractLsb' 23 3).toNat
def hdrWthr (h : Word) : Nat := (h.extractLsb' 26 5).toNat
def hdrGe (h : Word) : Bool := h.getLsbD 26
def hdrGslot (h : Word) : Nat := (h.extractLsb' 23 3).toNat

/-- The words of a clause from slot k on: each instruction with its extension word and the index of its
word in the clause. -/
def instrsFrom : List Word → Nat → List (Word × Option Word × Nat)
  | [], _ => []
  | w :: rest, i =>
    if Decode.xbit w then
      match rest with
      | [] => [(w, none, i)]
      | x :: rest' => (w, some x, i) :: instrsFrom rest' (i + 2)
    else (w, none, i) :: instrsFrom rest (i + 1)

def clauseInstrs : List Word → List (Word × Option Word × Nat)
  | [] => []
  | h :: rest => (instrsFrom rest 1).take (hdrN h)

/-- The number of words a clause's header and instructions take. -/
def clauseLen (ws : List Word) : Nat :=
  match (clauseInstrs ws).getLast? with
  | none => 1
  | some (_, x, i) => i + (if x.isSome then 2 else 1)

def Split.hdr (r : Split) : Word := r.words.headD 0#32
/-- The word address of the instruction at the split's slot. -/
def Split.wordAddr (r : Split) : Nat :=
  match (clauseInstrs r.words)[r.slot]? with
  | none => r.addr
  | some (_, _, i) => r.addr + 4 * i
/-- The address after the clause's last word. -/
def Split.after (r : Split) : Nat := r.addr + 4 * clauseLen r.words
/-- The position after the instruction at the split's slot (R79, R125). -/
def Split.nextPos (r : Split) : Nat × Nat :=
  if r.slot + 1 < hdrN r.hdr then (r.addr, r.slot + 1) else (r.after, 0)

/-! ### Translation (spec/15_memory_model.md R307, R324 to R328) -/

/-- What an access needs (R326). -/
inductive Need where
  | rd | wr | rw | ex
  deriving DecidableEq, Repr

def Need.ok (n : Need) (perm : Nat) : Bool :=
  match n with
  | .rd => bitOf perm 0
  | .wr => bitOf perm 1
  | .rw => bitOf perm 0 && bitOf perm 1
  | .ex => bitOf perm 2

def flatVa : Nat := 0x40000000000000

/-- Bytes one set of check bits covers: 32 in HBM, 4 in SRAM (spec/26_faults_checkpoint.md R424). -/
def checkSpan (pa : Nat) : Nat := if isFlat pa then 4 else 32

/-- A core owns a word of a range and the word holds a lasting error in its L1, which a recall meets (R424, R316). -/
def State.ownerBad (s : State) (pa n : Nat) : Bool :=
  s.cores.any fun k => k.2.l1Bad.any fun w => inWords pa n w && k.2.owned.contains w
/-- Whether a read of n bytes at a physical address meets a lasting error. -/
def State.bad (s : State) (pa n : Nat) : Bool :=
  let g := checkSpan pa
  (s.errs.any fun e => decide (pa / g * g ≤ e ∧ e < (pa + n - 1) / g * g + g)) || s.ownerBad pa n

/-- Check of a table entry (R325, R326). -/
def entryOk (e level : Nat) : Bool :=
  bitOf e 63 && bitsOf e 58 56 == 0 && bitsOf e 15 0 == 0 &&
  (if bitOf e 62 then level != 0 && (level != 1 || bitsOf e 28 16 == 0)
   else level != 2 && bitsOf e 61 59 == 0 && isHbm (bitsOf e 55 16 * 2 ^ 16))

/-- The reserved range of the system cores (spec/28_system.md R462). -/
def State.inSys (s : State) (pa : Nat) : Bool := decide (s.sysBase ≤ pa ∧ pa < s.sysBase + s.sysSize)

/-- Some of n bytes hold the installed supervisor, which is locked until package reset (R460). -/
def State.imageLocked (s : State) (pa n : Nat) : Bool :=
  s.mint.locked && decide (s.mint.supBase < pa + n ∧ pa < s.mint.supBase + s.mint.supLen)

/-- A system core. -/
def State.sysCore (s : State) (h : Nat) : SysCore := fget {} s.sys h
def State.updSys (s : State) (h : Nat) (f : SysCore → SysCore) : State := { s with sys := fset s.sys h (f (s.sysCore h)) }
/-- The register access in hand raises an access fault, without another effect (R456). -/
def State.accessFault (s : State) : State := s.updSys s.arg.hart fun k => { k with faulted := true }
/-- A register access of system core arg.hart: a core that has not been released makes none, and one in VS-mode or U-mode
faults (R456, R460); f may find an access fault too. -/
def State.mmio (s : State) (f : State → State) : State :=
  let k := s.sysCore s.arg.hart
  if !k.released then s
  else if k.mode = .vs ∨ k.mode = .u then s.accessFault
  else f (s.updSys s.arg.hart fun k => { k with faulted := false })

/-- One of n bytes lies in it. -/
def State.meetsSys (s : State) (pa n : Nat) : Bool := decide (s.sysBase < pa + n ∧ pa < s.sysBase + s.sysSize)

/-- A byte of this device as its home gives it: what a switch slice owns is recalled from there for the read, and the
slice's value, which this device does not hold, is a free one (spec/15_memory_model.md R310; notes/assumptions/5.md). -/
def State.homeByte (s : State) (a : Nat) : Byte := if s.swOwned.contains (a / 4) then Config.farByte a s.nextId else rd8 s.mem a
def State.homeN (s : State) (a n : Nat) : Nat :=
  if s.swOwned.isEmpty then s.rdN a n else leNat ((List.range n).map fun i => s.homeByte (a + i))

/-- The walk: a leaf's base, span, physical base and permissions (R326). -/
def State.walk (s : State) (tenant va : Nat) : Option Tlb :=
  let rd (a : Nat) : Option Nat := if s.bad a 8 then none else some (s.homeN a 8)
  match rd ((s.tenant tenant).root + 8 * bitsOf va 54 42) with
  | none => none
  | some e0 =>
    if !entryOk e0 0 then none else
    match rd (bitsOf e0 55 16 * 2 ^ 16 + 8 * bitsOf va 41 29) with
    | none => none
    | some e1 =>
      if !entryOk e1 1 then none else
      if bitOf e1 62 then
        some ⟨tenant, va / 2 ^ 29 * 2 ^ 29, 2 ^ 29, bitsOf e1 55 16 * 2 ^ 16,
              bitsOf e1 61 61 + 2 * bitsOf e1 60 60 + 4 * bitsOf e1 59 59⟩
      else
        match rd (bitsOf e1 55 16 * 2 ^ 16 + 8 * bitsOf va 28 16) with
        | none => none
        | some e2 =>
          if !entryOk e2 2 then none else
          some ⟨tenant, va / 2 ^ 16 * 2 ^ 16, 2 ^ 16, bitsOf e2 55 16 * 2 ^ 16,
                bitsOf e2 61 61 + 2 * bitsOf e2 60 60 + 4 * bitsOf e2 59 59⟩

def tlbFind (ts : List Tlb) (tenant va : Nat) : Option Tlb :=
  ts.find? fun t => t.tenant == tenant && decide (t.vbase ≤ va ∧ va < t.vbase + t.span)

/-- The entry an access of a core uses: the L1 TLB, the die's TLB, else a walk (R327). -/
def State.leaf (s : State) (core tenant va : Nat) : Option Tlb :=
  match tlbFind (s.core core).tlb tenant va with
  | some t => some t
  | none =>
    match tlbFind (s.die (core / 48)).ltlb tenant va with
    | some t => some t
    | none => s.walk tenant va

/-- Whether an access of a core starts a walk, for PAGE_WALK to enter later (R327). -/
def State.misses (s : State) (core tenant va : Nat) : Bool :=
  (tlbFind (s.core core).tlb tenant va).isNone && (tlbFind (s.die (core / 48)).ltlb tenant va).isNone

/-- Check the target of a walked translation (R326; R13, R14; spec/28_system.md R462). -/
def State.target (s : State) (pa : Nat) : Except Cause Nat :=
  if isHbm pa && !s.inSys pa then .ok pa
  else if s.fabricOk pa then .ok pa
  else .error .protection

/-- The flat window (R307). -/
def State.flatAccess (s : State) (tenant va : Nat) (need : Need) : Except Cause Nat :=
  let off := va - flatVa
  if 0x30000000 ≤ off then .error .translation
  else if need = .ex then .error .protection
  else if (s.core (off / flatStep)).tenant != tenant then .error .protection
  else if s.flatBytes ≤ off % flatStep then .error .flatUnpopulated
  else .ok (flatBase + off)

/-- An access in a tenant's space (R324, R326, R307). -/
def State.translate (s : State) (core tenant va : Nat) (need : Need) : Except Cause Nat :=
  if 2 ^ 55 ≤ va then .error .translation
  else if bitsOf va 54 42 = 0x1000 then s.flatAccess tenant va need
  else
    match s.leaf core tenant va with
    | none => .error .translation
    | some t => if need.ok t.perm then s.target (t.pbase + (va - t.vbase)) else .error .protection

/-- A physical access of the service warp (spec/10_system_clearing_isa.md R246). -/
def State.physical (s : State) (core pa : Nat) : Except Cause Nat :=
  if isHbm pa then .ok pa
  else if isFlat pa then (if s.flatBytes ≤ flatOff pa then .error .flatUnpopulated else .ok pa)
  else if 0x020001000000 + core * 0x10000 ≤ pa ∧ pa < 0x020001000000 + (core + 1) * 0x10000 then .ok pa
  else if s.fabricOk pa then .ok pa
  else .error .protection

/-- An access of the issuing warp: its tenant's space, or the space SVCSPACE names (R246). -/
def State.access (s : State) (va : Nat) (need : Need) : Except Cause Nat :=
  if s.cur.slot = 64 then
    let sp := ((s.core s.cur.core).rawCsr 7).toNat % 256
    if sp < 16 then s.translate s.cur.core sp va need
    else if sp = 0xFF then s.physical s.cur.core va
    else .error .protection
  else s.translate s.cur.core s.warp.tenant va need

/-- Note the walk an access starts. -/
def State.noteWalk (s : State) (core tenant va : Nat) : State :=
  if va < 2 ^ 55 ∧ bitsOf va 54 42 ≠ 0x1000 ∧ s.misses core tenant va ∧
      !s.walks.contains ⟨core, tenant, va / 2 ^ 16 * 2 ^ 16, false⟩ then
    ({ s with walks := s.walks ++ [⟨core, tenant, va / 2 ^ 16 * 2 ^ 16, false⟩] } : State).countDie (core / 48) 9 tenant 1
  else s

/-! ### Taking an exception (spec/12_divergence.md R268, R270; spec/10_system_clearing_isa.md R235, R246) -/

/-- One faulting lane: lane, cause, faulting address. -/
abbrev LaneFault := Nat × Cause × Nat

/-- The lowest-numbered free entry of a core's fragment table (R268). -/
def Core.freeFrag (k : Core) : Option Nat :=
  (List.range 64).find? fun i => !(fget ({} : Frag) k.frags i).valid

/-- %frag of an entry (spec/02_state.md R29). -/
def fragId (core slot idx : Nat) : Word := BitVec.ofNat 32 (2 ^ 31 + core * 2 ^ 14 + slot * 2 ^ 7 + idx)

/-- Park lanes of a warp under a fragment-table entry (R268). -/
def Warp.parkLanes (w : Warp) (core slot idx addr pslot : Nat) (fs : List LaneFault) : Warp :=
  fs.foldl (fun w f => w.updThread f.1 fun t =>
    { t with st := .parked, cause := some f.2.1, faddr := f.2.2, findex := idx, addr := addr, slot := pslot
             wait := .none, pend := none, pendIss := 0, frag := fragId core slot idx }) w

/-- Set a warp fault slot and tell the service warp (R270, R238). -/
def State.setWfault (s : State) (core slot : Nat) (c : Cause) (fa : Nat := 0) : State :=
  (s.updWarpAt core slot fun w => { w with wfault := some c, wfaddr := fa }).updCore core fun k =>
    if c = .warpAbort ∨ k.slotEv.contains slot then k else { k with slotEv := k.slotEv ++ [slot] }

/-- A core's service warp has faulted: it stops, and the system cores are interrupted (R246). -/
def State.stopService (s : State) (core : Nat) : State :=
  let s := s.updCore core fun k => { k with stopped := true }
  { s with told := s.told ++ [(1, core)] }

/-- Faults of some lanes of a tenant warp: one fragment for the issue (R268), or FRAG_FULL (R270).
The second result tells whether the lanes have left. -/
def State.fragment (s : State) (core slot addr pslot : Nat) (fs : List LaneFault) : State × Bool :=
  let k := s.core core
  match k.freeFrag with
  | none => (s.setWfault core slot .fragFull, false)
  | some i =>
    let old := fget ({} : Frag) k.frags i
    let w := k.warp slot
    let e : Frag := { valid := true, pend := true, gen := (old.gen + 1) % 1024, tenant := w.tenant, slot := slot
                      mask := maskOf (fs.map (·.1)), addr := addr, pslot := pslot }
    let k := { k with frags := fset k.frags i e }
    ((s.setCore core (k.setWarp slot (w.parkLanes core slot i addr pslot fs))).countCore core 6 w.tenant 1, true)

/-- Take the faults of some lanes of the issuing split, found at issue at a position. A service warp stops
(R246), a handler stops with the cause in its warp fault slot (R235), a tenant warp parks the lanes in one
fragment; with no free entry the instruction takes effect in no lane (R270). -/
def State.takeFaults (s : State) (addr pslot : Nat) (fs : List LaneFault) : State × Bool :=
  match fs with
  | [] => (s, true)
  | (_, c, fa) :: _ =>
    if s.cur.slot = 64 then
      ({ s.stopService s.cur.core with flow := .stall }, false)
    else if s.warp.mode ≠ .tenant then
      ({ s.setWfault s.cur.core s.cur.slot c fa with flow := .stall }, false)
    else
      match s.fragment s.cur.core s.cur.slot addr pslot fs with
      | (s', true) =>
        let gone := maskOf (fs.map (·.1))
        (s'.updWarp fun w => { w with run := w.run.map fun r => { r with mask := r.mask &&& ~~~gone } }, true)
      | (s', false) => ({ s' with flow := .stall }, false)

/-- The position of the instruction being issued. -/
def State.here (s : State) : Nat × Nat :=
  match s.warp.run with | none => (0, 0) | some r => (r.addr, r.slot)

/-- The whole issuing split faults with one cause and address (R418 "split"). -/
def State.faultSplitAt (s : State) (addr pslot : Nat) (c : Cause) (fa : Nat) : State :=
  (s.takeFaults addr pslot (s.lanes.map fun l => (l, c, fa))).1
def State.faultSplit (s : State) (c : Cause) (fa : Nat) : State :=
  s.faultSplitAt s.here.1 s.here.2 c fa

/-- A split fault whose faulting address the spec does not state: a free value (notes/assumptions/5.md). -/
def State.faultOpenAt (s : State) (addr pslot : Nat) (c : Cause) : State :=
  ({ s with fresh := s.fresh + 1 } : State).faultSplitAt addr pslot c (Config.freeAddr s.fresh).toNat
def State.faultOpen (s : State) (c : Cause) : State := s.faultOpenAt s.here.1 s.here.2 c

/-- Lane faults first, then the effect in the lanes that did not fault (R268, R270). -/
def State.withFaults (s : State) (fs : List LaneFault) (f : State → State) : State :=
  match s.takeFaults s.here.1 s.here.2 fs with
  | (s', true) => f s'
  | (s', false) => s'

end Sys2Proof.Machine
end

