-- ==== Sys2Proof/Machine/Link.lean ====
section
/-! DEFINITION. Machine/Link.lean: packets, link coding, and what leaves this device over the fabric: requests in
their contexts, ports that code packets and cut them into flits (spec/27_fabric.md R444 to R449,
spec/19_compression.md R355 to R361). -/

namespace Sys2Proof.Machine

open Sys2Proof

/-- Divide a list into blocks of n. -/
def blocksOf {α : Type} (n : Nat) : Nat → List α → List (List α)
  | 0, _ => []
  | _, [] => []
  | k + 1, xs => xs.take n :: blocksOf n k (xs.drop n)

/-! ### Link coding (R356 to R358) -/

/-- The table after reset and retrain. -/
def codeTable : List Nat := (List.range 16).map fun i => 0x7F - i
/-- Bits of a number, most significant first. -/
def bitsMsb (n v : Nat) : List Bool := (List.range n).map fun i => v.testBit (n - 1 - i)
def ofMsb (bs : List Bool) : Nat := bs.foldl (fun n b => 2 * n + b.toNat) 0
/-- Trailing bits of an element: 7 for BF16 (TYPE 1), 23 for FP32 (TYPE 2). -/
def trailing (typ : Nat) : Nat := if typ = 1 then 7 else 23
def elemBytes (typ : Nat) : Nat := if typ = 1 then 2 else 4
def elemExp (typ x : Nat) : Nat := x / 2 ^ trailing typ % 256

/-- The code of an exponent byte found at an entry, or absent. -/
def expCode (i e : Nat) : List Bool :=
  if i < 4 then false :: bitsMsb 2 i
  else if i < 12 then true :: false :: bitsMsb 3 (i - 4)
  else if i < 16 then true :: true :: false :: bitsMsb 2 (i - 12)
  else true :: true :: true :: bitsMsb 8 e
/-- The table after an element (R357). -/
def tableAfter (tab : List Nat) (e : Nat) : List Nat :=
  let i := tab.findIdx (· == e)
  if 16 ≤ i then tab.set 15 e
  else if i = 0 then tab
  else (tab.set i (tab.getD (i - 1) 0)).set (i - 1) e
/-- The code of one element. -/
def elemCode (typ : Nat) (tab : List Nat) (x : Nat) : List Bool :=
  let e := elemExp typ x
  expCode (tab.findIdx (· == e)) e ++ bitsMsb 1 (x / 2 ^ (trailing typ + 8)) ++ bitsMsb (trailing typ) x
/-- The codes of some elements, and the table after them. -/
def codeElems (typ : Nat) (tab : List Nat) : List Nat → List Bool × List Nat
  | [] => ([], tab)
  | x :: xs =>
    let r := codeElems typ (tableAfter tab (elemExp typ x)) xs
    (elemCode typ tab x ++ r.1, r.2)

/-- The exponent byte at the head of a stream, and the rest. -/
def expDecode (tab : List Nat) : List Bool → Option (Nat × List Bool)
  | false :: a :: b :: r => some (tab.getD (ofMsb [a, b]) 0, r)
  | true :: false :: a :: b :: c :: r => some (tab.getD (4 + ofMsb [a, b, c]) 0, r)
  | true :: true :: false :: a :: b :: r => some (tab.getD (12 + ofMsb [a, b]) 0, r)
  | true :: true :: true :: r => if r.length < 8 then none else some (ofMsb (r.take 8), r.drop 8)
  | _ => none
/-- n elements from a stream, and the table after them. -/
def decodeElems (typ : Nat) : Nat → List Nat → List Bool → Option (List Nat × List Nat)
  | 0, tab, _ => some ([], tab)
  | n + 1, tab, bs =>
    match expDecode tab bs with
    | none => none
    | some (e, r) =>
      let k := trailing typ
      if r.length < k + 1 then none
      else
        let x := ofMsb (r.take 1) * 2 ^ (k + 8) + e * 2 ^ k + ofMsb ((r.drop 1).take k)
        match decodeElems typ n (tableAfter tab e) (r.drop (k + 1)) with
        | none => none
        | some (xs, t) => some (x :: xs, t)

/-- Stream bit k is bit k mod 8 of byte k div 8. -/
def streamByte (bs : List Bool) : Byte :=
  BitVec.ofNat 8 (((List.range 8).zip bs).foldl (fun n x => n + x.2.toNat * 2 ^ x.1) 0)
def streamBytes (bs : List Bool) : List Byte := (blocksOf 8 (bs.length / 8 + 1) bs).map streamByte
def streamBits (xs : List Byte) : List Bool := xs.flatMap fun b => (List.range 8).map fun i => b.getLsbD i

/-- The elements of a payload. -/
def payloadElems (typ : Nat) (bs : List Byte) : List Nat :=
  (blocksOf (elemBytes typ) (bs.length / elemBytes typ) bs).map leNat
/-- A payload as it is sent: the bytes, whether coded, and the table after it. -/
def codePayload (typ : Nat) (tab : List Nat) (bs : List Byte) : List Byte × Bool × List Nat :=
  if typ = 0 then (bs, false, tab)
  else
    let r := codeElems typ tab (payloadElems typ bs)
    let out := streamBytes r.1
    if bs.length ≤ out.length then (bs, false, r.2) else (out, true, r.2)
/-- A payload of n bytes as it is received. -/
def decodePayload (typ n : Nat) (coded : Bool) (tab : List Nat) (bs : List Byte) : Option (List Byte × List Nat) :=
  if typ = 0 then some (bs.take n, tab)
  else if coded then
    match decodeElems typ (n / elemBytes typ) tab (streamBits bs) with
    | none => none
    | some (xs, t) => some (xs.flatMap fun x => leBytes (elemBytes typ) x, t)
  else some (bs.take n, (codeElems typ tab (payloadElems typ (bs.take n))).2)

/-! ### Packets (R446, R447) -/

/-- The virtual channel of a kind. -/
def kindVc (kind : Nat) : Nat :=
  match kind with
  | 0 | 1 | 2 => 0
  | 3 | 4 => 1
  | 5 => 2
  | 6 => 3
  | 7 | 8 => 4
  | 9 => 5
  | _ => 7
/-- The 32-byte header; LEN is the length of the payload before it is coded. -/
def Packet.header (p : Packet) : List Byte :=
  leBytes 1 p.kind ++ leBytes 1 (p.vc % 8 + 8 * (p.typ % 4) + (if p.coded then 32 else 0)) ++ leBytes 2 p.len
    ++ leBytes 2 (p.src % 4096 + 4096 * (p.tenant % 16)) ++ leBytes 2 (p.dst % 4096) ++ leBytes 4 p.ctx ++ leBytes 4 p.seq
    ++ leBytes 8 (p.addr % 2 ^ 40 + 2 ^ 40 * (p.opn % 256) + 2 ^ 48 * (p.bmask % 2 ^ 16)) ++ leBytes 8 p.arg
/-- A header's fields. -/
def packetOf (bs : List Byte) : Packet :=
  let x := leNat (bs.take 32); let b := blockField x 1 1; let a := blockField x 0x10 8
  { kind := blockField x 0 1, vc := bitsOf b 2 0, typ := bitsOf b 4 3, coded := bitOf b 5, len := blockField x 2 2,
    src := blockField x 4 2 % 4096, tenant := blockField x 4 2 / 4096, dst := blockField x 6 2 % 4096, ctx := blockField x 8 4,
    seq := blockField x 0xC 4, addr := bitsOf a 39 0, opn := bitsOf a 47 40, bmask := bitsOf a 63 48, arg := blockField x 0x18 8,
    data := bs.drop 32 }
/-- Whether a packet's TYPE may be nonzero: chunks, reduction pushes and results, and clearing messages. -/
def Packet.marks (p : Packet) : Bool := p.kind == 3 || p.kind == 4 || p.kind == 10 || (p.kind == 5 && p.arg % 256 == 1)
/-- A packet that is discarded. -/
def packetBad (bs : List Byte) : Bool :=
  let x := leNat (bs.take 32); let p := packetOf bs
  bs.length < 32 || bitsOf (blockField x 1 1) 7 6 != 0 || blockField x 6 2 / 4096 != 0 || p.typ == 3
    || (p.typ != 0 && !p.marks) || decide (10 < p.kind)

/-! ### Ports that send (R359 to R361) -/

def Port.txTable (x : Port) (c : Nat) : List Nat := fget codeTable x.txTab c
def Port.rxTable (x : Port) (c : Nat) : List Nat := fget codeTable x.rxTab c
/-- The links of a port that are live. -/
def liveLinks (live : Nat) : List Nat := (List.range 4).filter fun i => live.testBit i
/-- The live link that a flit is striped to: the links in turn, by flit number (notes/assumptions/70.md). -/
def stripe (live seq : Nat) : Nat := let ls := liveLinks live; ls.getD (seq % max 1 ls.length) 0
/-- The flits of a packet's bytes, numbered from n and striped across the live links. -/
def flitsOf (live n : Nat) (bs : List Byte) : List Flit :=
  let ps := blocksOf 64 (bs.length / 64 + 1) bs
  (ps.zip (List.range ps.length)).map fun x =>
    let q := (n + x.2) % 65536
    { seq := q, last := decide (x.2 + 1 = ps.length), bits := x.1, link := stripe live q }

/-- Packets that wait at a port in Mbovas mode are coded and cut into flits while the retry buffer has room for them, the oldest whose virtual
channel has credit first (R447); each comes back with the bytes sent and the bytes saved. -/
def Port.pumpGo : Nat → Port → Port × List (Packet × Nat × Nat)
  | 0, x => (x, [])
  | n + 1, x =>
    match x.waiting.find? fun p => !x.full.contains p.vc with
    | none => (x, [])
    | some p =>
      if x.st ≠ 2 ∨ x.ue then (x, [])
      else
        let c := codePayload p.typ (x.txTable p.vc) p.data
        let bs := ({ p with coded := c.2.1 } : Packet).header ++ c.1
        let fs := flitsOf x.live x.txSeq bs
        if 256 < x.retry.length + fs.length then (x, [])
        else
          let x := { x with waiting := x.waiting.erase p, txTab := if p.typ = 0 then x.txTab else fset x.txTab p.vc c.2.2,
                            txSeq := (x.txSeq + fs.length) % 65536, retry := x.retry ++ fs, unacked := x.unacked ++ [p] }
          let r := Port.pumpGo n x
          (r.1, (p, bs.length, p.data.length - c.1.length) :: r.2)

/-! ### Contributions and results (R447, R453; notes/assumptions/31.md) -/

/-- What a contribution or a result says of itself in its header, so that its payload is its elements: TYPE tells FP32 and
BF16 from INT32, and a collective is known by its group, its stream and the last bits of its number there. -/
structure Tag where
  group  : Nat
  stream : Nat
  seq    : Nat
  chunk  : Nat
  who    : Nat                  -- the contributing rank, or the die that a result is for
  root   : Nat
  op     : Nat
  deriving DecidableEq, Repr
/-- The last bits of a collective's number in its stream. -/
def tagSeq (n : Nat) : Nat := n % 8
def Tag.low (t : Tag) : Nat := t.who % 2 ^ 14 + 2 ^ 14 * (t.root % 2 ^ 14) + 2 ^ 28 * (t.op % 2) + 2 ^ 29 * tagSeq t.seq
def Tag.addr (t : Tag) : Nat := t.stream % 2 ^ 32 + 2 ^ 32 * (t.low % 2 ^ 8)
def Tag.opn (t : Tag) : Nat := t.low / 2 ^ 8 % 2 ^ 8
def Tag.bmask (t : Tag) : Nat := t.low / 2 ^ 16
def Tag.arg (t : Tag) : Nat := t.chunk % 2 ^ 32 + 2 ^ 32 * (t.group % 2 ^ 32)
/-- The tag in a packet's header. -/
def Packet.tag (p : Packet) : Tag :=
  let n := p.addr / 2 ^ 32 % 2 ^ 8 + 2 ^ 8 * (p.opn % 2 ^ 8) + 2 ^ 16 * (p.bmask % 2 ^ 16)
  { group := p.arg / 2 ^ 32 % 2 ^ 32, stream := p.addr % 2 ^ 32, seq := n / 2 ^ 29, chunk := p.arg % 2 ^ 32, who := n % 2 ^ 14,
    root := n / 2 ^ 14 % 2 ^ 14, op := n / 2 ^ 28 % 2 }
/-- The packet TYPE of a payload of raw elements: 2 FP32, 1 BF16, 0 other data (spec/19_compression.md R355). -/
def typOf (dtype : Nat) : Nat := if dtype = 0 then 2 else if dtype = 1 then 1 else 0
/-- The format that a reduction's TYPE stands for. -/
def redOfTyp (typ : Nat) : Nat := if typ = 2 then 0 else if typ = 1 then 1 else 0x0A
/-- The contribution that a packet brings; the group's members count its ranks. -/
def State.pushOf (s : State) (p : Packet) : Push :=
  let t := p.tag
  let n := match s.groups.find? fun g => g.handle == t.group && g.tenant == p.tenant with | none => 0 | some g => g.members.length
  { tenant := p.tenant, group := t.group, stream := t.stream, seq := t.seq, chunk := t.chunk, rank := t.who, dtype := redOfTyp p.typ,
    size := n, op := t.op, root := t.root, data := p.data }
/-- A contribution that leaves its port reaches the switch, which takes it once however often it is sent (R323). -/
def State.toSwitch (s : State) (p : Packet) : State :=
  let new (x : Ctx) : Bool := x.ctx == p.ctx && !x.pushed.contains p.seq
  if p.kind = 4 ∧ s.ctxs.any new then
    { s with pushes := s.pushes ++ [s.pushOf p],
             ctxs := s.ctxs.map fun x => if new x then { x with pushed := x.pushed ++ [p.seq] } else x }
  else s

/-- A port sends what it can; fabric bytes and saved bytes are counted at its die (spec/28_system.md R466). -/
def State.pump (s : State) (n : Nat) : State :=
  let x := s.port n
  let r := x.pumpGo x.waiting.length
  let sent (s : State) (y : Packet × Nat × Nat) : State :=
    ((s.countDie (n / 18) 5 y.1.tenant y.2.1).countDie (n / 18) 6 y.1.tenant y.2.2).toSwitch y.1
  r.2.foldl sent { s with ports := fset s.ports n r.1 }

/-- The port of an address's plane (R444). -/
def State.planePort (s : State) (addr : Nat) : Option Nat := s.planes[homePlane addr s.planes.length]?
/-- The port that a packet leaves by: that of its address's plane, or, a contribution, of its slot chunk's (R453). -/
def State.portFor (s : State) (p : Packet) : Option Nat :=
  if p.kind = 4 then s.planes[p.tag.chunk % max 1 s.planes.length]? else s.planePort p.addr
/-- A packet goes to its port. -/
def State.transmit (s : State) (p : Packet) : State :=
  match s.portFor p with
  | none => s
  | some n => (s.updPort n fun x => { x with waiting := x.waiting ++ [p] }).pump n

/-! ### Requests (R447 to R449) -/

/-- What a request carries. -/
structure Sent where
  tenant : Nat
  dest : Nat
  kind : Nat
  op : Nat := 0
  addr : Nat := 0
  opn : Nat := 0
  bmask : Nat := 0
  arg : Nat := 0
  typ : Nat := 0
  data : List Byte := []
  quiet : Bool := false
  deriving DecidableEq, Repr

/-- A request takes the next SEQ of the context of its source core, tenant and device, which the first request of a
key without one creates; a payload is marked where it holds whole elements (spec/19_compression.md R355); `src` is a core, or 192 + die for a clearing engine. -/
def State.request (s : State) (src : Nat) (r : Sent) : State :=
  let is (x : Ctx) : Bool := x.core == src && x.tenant == r.tenant && x.dest == r.dest
  let (id, s) := s.newId
  let cs := if s.ctxs.any is then s.ctxs
    else s.ctxs ++ [{ core := src, tenant := r.tenant, dest := r.dest, ctx := id % 2 ^ 32 }]
  match cs.find? is with
  | none => s
  | some x =>
    let typ := if r.typ ≠ 0 ∧ r.data.length % elemBytes r.typ ≠ 0 then 0 else r.typ
    let p : Packet := { kind := r.kind, vc := kindVc r.kind, typ := typ, coded := false, len := r.data.length, src := s.dev,
                        tenant := r.tenant, dst := r.dest, ctx := x.ctx, seq := x.next % 2 ^ 32, addr := r.addr % 2 ^ 40,
                        opn := r.opn, bmask := r.bmask, arg := r.arg, data := r.data }
    let q : Request := { seq := x.next, kind := r.kind, core := src, op := r.op, addr := r.addr, pkt := p, quiet := r.quiet }
    let add (y : Ctx) : Ctx := if is y then { y with next := y.next + 1, idle := 0, reqs := y.reqs ++ [q] } else y
    ({ s with ctxs := cs.map add } : State).transmit p

/-! ### What a command or a collective reads and writes of other devices (R316, R317, R323) -/

/-- The number under which a request of the acting unit is kept; a unit of the hub acts for no command. -/
def State.job (s : State) : Nat := s.cur.job.getD (2 ^ 64)
/-- The acting unit is the copy or matrix engine of a core, with a command, or a clearing processor with a collective. -/
def State.acts (s : State) (core slot src job : Nat) : State := { s with cur := { core := core, slot := slot, src := src, job := some job } }

/-- An engine write to another device leaves in chunks of at most 4,096 bytes. -/
def State.postChunks (typ tenant : Nat) (quiet : Bool) : Nat → State → Nat → List Byte → State
  | 0, s, _, _ => s
  | _, s, _, [] => s
  | k + 1, s, pa, bs =>
    let r : Sent := { tenant := tenant, dest := fabricDev pa, kind := 3, op := s.job, addr := pa, typ := typ, data := bs.take 4096,
                      quiet := quiet }
    State.postChunks typ tenant quiet k (s.request s.cur.src r) (pa + 4096) (bs.drop 4096)
/-- Writes of a command or collective that have not reached their homes on other devices. -/
def State.posted (s : State) (job : Nat) : Bool := s.ctxs.any fun x => x.reqs.any fun r => r.kind == 3 && r.op == job

/-- A read of n bytes at a physical address that must first come from another unit, as a status past those of R213; and
what it asks for. -/
def needCode (pa n : Nat) : Nat := 2 ^ 16 + (pa * 256 + n)
def needOf (st : Nat) : Option (Nat × Nat) := if st < 2 ^ 16 then none else some ((st - 2 ^ 16) / 256, (st - 2 ^ 16) % 256)

/-- A switch slice owns a word of a range of this device's memory (R310). -/
def State.swHeld (s : State) (pa n : Nat) : Bool := s.swOwned.any (inWords pa n)
/-- A line is recalled from its switch slice, once (R310; notes/assumptions/31.md gives the packet). -/
def State.swRecall (s : State) (pa : Nat) : State :=
  let a := pa / 128 * 128
  if s.swAsked.contains a then s
  else ({ s with swAsked := s.swAsked ++ [a] } : State).transmit
    { kind := 9, vc := 5, typ := 0, coded := false, len := 0, src := s.dev, tenant := 0, dst := s.dev, ctx := 0, seq := 0, addr := a,
      opn := 0, bmask := 0, arg := 0, data := [] }

/-- A read of the acting engine at a physical address: at the home where that is here and no switch slice owns a word of
it; of another device's memory, what has come for this command; else it must wait. -/
def State.jobRead (s : State) (pa n : Nat) : Except Nat Nat :=
  if isFabric pa then
    match (s.fetchBad.find? (·.1 == s.job)) with
    | some x => .error x.2
    | none =>
      let got := fget [] s.fetched s.job
      match (List.range n).find? fun i => !fhas got (pa + i) with
      | some i => .error (needCode (pa + i) (min (pa + n) ((pa + i) / 128 * 128 + 128) - (pa + i)))
      | none => .ok (leNat ((List.range n).map fun i => fget 0#8 got (pa + i)))
  else if s.swHeld pa n then .error (needCode pa (min n 128))
  else if s.bad pa n then .error 4 else .ok (s.rdN pa n)
/-- Ask for what a read needs, once. -/
def State.ask (s : State) (tenant pa n : Nat) : State :=
  if isFabric pa then
    if s.ctxs.any fun x => x.reqs.any fun r => r.kind == 0 && r.op == s.job && r.addr == pa then s
    else s.request s.cur.src { tenant := tenant, dest := fabricDev pa, kind := 0, op := s.job, addr := pa, arg := n }
  else s.swRecall pa
/-- One step of the acting command or collective, from s to t, which ended it with a status or did not: a step that lacks
bytes has no effect and asks for them; one that has all of them drops what it has fetched. -/
def State.jobStep (s t : State) (tenant : Nat) (st : Option Nat) : State :=
  match st.bind needOf with
  | some x => s.ask tenant x.1 x.2
  | none => { t with fetched := ferase t.fetched s.job, fetchBad := ferase t.fetchBad s.job }

/-- A clearing message as it travels (notes/assumptions/31.md). -/
def msgBytes (m : Msg) : List Byte :=
  leBytes 1 m.tenant ++ leBytes 1 m.kind ++ leBytes 1 m.chan ++ leBytes 1 0 ++ leBytes 4 m.src ++ leBytes 4 m.group
    ++ leBytes 4 m.stream ++ leBytes 8 m.seq ++ leBytes 8 m.count ++ m.data

end Sys2Proof.Machine
end

