-- ==== Sys2Proof/Machine/Operands.lean ====
section
/-! DEFINITION. Machine/Operands.lean: reading and writing registers, every operand form of the formats,
and the checks an instruction makes of its warp before it acts (spec/02_state.md R19, R22;
spec/04_encoding.md R82, R84; spec/10_system_clearing_isa.md R233, R235; spec/26_faults_checkpoint.md R425). -/

namespace Sys2Proof.Machine

open Sys2Proof

/-! ### Registers -/

/-- Whether a register code names a handler scratch register of this warp (R235). -/
def Warp.scratch (w : Warp) (code : Nat) : Bool :=
  decide (w.mode ≠ .tenant) && (decide (88 ≤ code ∧ code < 96) || decide (124 ≤ code ∧ code < 128))

/-- A register operand in a lane: a vector code reads the lane's register, a uniform code is broadcast (R82). -/
def Warp.reg (w : Warp) (code lane : Nat) : Word :=
  if code < 96 then
    if w.scratch code then fget 0 w.sv (code * 32 + lane) else fget 0 w.v (code * 32 + lane)
  else if w.scratch code then fget 0 w.ss (code - 96) else fget 0 w.s (code - 96)

/-- Outstanding uniform results issued before a number no longer write a register: a later-issued write
of it stands (spec/06_vector.md R151). -/
def Warp.skipOps (w : Warp) (code before : Nat) : Warp :=
  { w with ops := w.ops.map fun o => match o.dest with
      | some d => if 96 ≤ d.toNat ∧ d.toNat ≤ code ∧ code < d.toNat + 4 ∧ o.id < before then
          { o with skip := o.skip ||| 2 ^ (code - d.toNat) } else o
      | none => o }

/-- Write a register: in one lane for a vector code, once for a uniform code. -/
def Warp.setReg (w : Warp) (code lane : Nat) (x : Word) : Warp :=
  if code < 96 then
    if w.scratch code then { w with sv := fset w.sv (code * 32 + lane) x }
    else { w with v := fset w.v (code * 32 + lane) x, bad := w.bad.filter (· != code * 32 + lane) }
  else
    let w := if w.ops.isEmpty then w else w.skipOps code (w.ops.foldl (fun n o => max n (o.id + 1)) 0)
    if w.scratch code then { w with ss := fset w.ss (code - 96) x }
    else { w with s := fset w.s (code - 96) x, bad := w.bad.filter (· != 4096 + (code - 96)) }

/-- A 64-bit value in a register pair, low word first (spec/00_scope.md R2). -/
def Warp.reg64 (w : Warp) (code lane : Nat) : Nat :=
  (w.reg code lane).toNat + 2 ^ 32 * (w.reg (code + 1) lane).toNat

def Warp.setReg64 (w : Warp) (code lane n : Nat) : Warp :=
  (w.setReg code lane (BitVec.ofNat 32 n)).setReg (code + 1) lane (BitVec.ofNat 32 (n / 2 ^ 32))

/-- Where `bad` lists predicate p of a lane. -/
def predCell (p lane : Nat) : Nat := 8192 + p * 32 + lane

/-- Predicate p of a lane; p7 reads true (R22). Handler predicates in handler mode (R235). -/
def Warp.pred (w : Warp) (p lane : Nat) : Bool :=
  if p = 7 then true
  else if w.mode ≠ .tenant then (fget 0 w.sp lane).getLsbD p
  else (w.thread lane).preds.getLsbD p

def setBit8 (b : BitVec 8) (p : Nat) (x : Bool) : BitVec 8 :=
  if x then b ||| BitVec.ofNat 8 (2 ^ p) else b &&& ~~~(BitVec.ofNat 8 (2 ^ p))

/-- Write predicate p of a lane; a write to p7 is discarded (R22). -/
def Warp.setPred (w : Warp) (p lane : Nat) (x : Bool) : Warp :=
  if p = 7 then w
  else if w.mode ≠ .tenant then { w with sp := fset w.sp lane (setBit8 (fget 0 w.sp lane) p x) }
  else ({ w with bad := w.bad.filter (· != predCell p lane) } : Warp).updThread lane fun t => { t with preds := setBit8 t.preds p x }

/-- Write a value per lane of a list to a vector code, from values computed before any write. -/
def Warp.setLanes (w : Warp) (code : Nat) (xs : List (Nat × Word)) : Warp :=
  xs.foldl (fun w x => w.setReg code x.1 x.2) w

/-- The lane whose b operand lane L reads (R84), before the test that it is in the split. -/
def permLane (pm xp lane : Nat) : Nat :=
  if pm = 0 then lane
  else if pm ≤ 5 then lane ^^^ 2 ^ (pm - 1)
  else if pm = 6 then 8 * (lane / 8) + (lane + 1) % 8
  else if xp < 32 then xp
  else if xp / 8 = 4 then
    let w := 2 ^ (xp % 8 + 1)
    w * (lane / w) + (w - 1 - lane % w)
  else 8 * (lane / 8) + (lane % 8 + xp % 8) % 8

/-- Operand b of a permuting instruction in a lane (R84): a source lane outside the split reads its own. -/
def Warp.regB (w : Warp) (mask : Word) (o : VOps) (lane : Nat) : Word :=
  let xp := match o.x with | none => 0 | some e => e.xp.toNat
  let src := permLane o.pm.toNat xp lane
  w.reg o.b.toNat (if mask.getLsbD src then src else lane)

/-! ### Checks at issue -/

/-- A register operand: first code, how many registers, and whether it is read. -/
structure Span where
  code : Nat
  len  : Nat
  read : Bool
  deriving DecidableEq, Repr

def rSpan (c : BitVec 7) (n : Nat := 1) : Span := ⟨c.toNat, n, true⟩
def wSpan (c : BitVec 7) (n : Nat := 1) : Span := ⟨c.toNat, n, false⟩

/-- Registers a datum of a size code takes (R90). -/
def szRegs (sz : Nat) : Nat := if sz = 5 then 2 else if sz = 6 then 4 else 1

def v3 (o : VOps) : List Span := [wSpan o.d, rSpan o.a, rSpan o.b]
def v4 (o : VOps) : List Span := [rSpan o.d, rSpan o.a, rSpan o.b]
def vB (o : VOps) : List Span := [wSpan o.d, rSpan o.b]
def vA (o : VOps) : List Span := [wSpan o.d, rSpan o.a]
def mAddr (o : MOps) : List Span :=
  rSpan o.a 2 :: (match o.x with | none => [] | some e => if e.iv = 1#1 then [rSpan e.idx] else [])
def vSub (o : VOps) : Nat := match o.x with | none => 0 | some e => e.sub.toNat
def groupSpans (o : VOps) : List Span :=
  let s := vSub o; let n := 2 ^ (s / 256 % 4)
  [rSpan o.a n, wSpan o.d (if s / 4096 % 4 = 1 then n else 1)]
def uOpt (c : BitVec 7) : List Span := if c = 0#7 then [] else [rSpan c]
def uOpt2 (c : BitVec 7) : List Span := if c = 0#7 then [] else [rSpan c 2]

/-- The vector and uniform register operands of an instruction (R19). -/
def spans : Instr → List Span
  | .call o => [⟨2 * o.c.toNat, 2, false⟩]
  | .ret o => [rSpan o.a 2]
  | .callx o => [wSpan o.d 2, rSpan o.a 2]
  | .jmpx o => [rSpan o.a 2]
  | .brt o => [rSpan o.a]
  | .kmov o => if o.b = 0#7 then [wSpan o.d] else [rSpan o.a]
  | .meetrd o => [wSpan o.d 2]
  | .meetwr o => [rSpan o.a 2]
  | .barSync o | .barArv o => if o.imm.getLsbD 5 then [rSpan o.a] else []
  | .gset o => [rSpan o.a]
  | .iadd o | .isub o | .imul o | .imulh o | .idiv o | .irem o | .imin o | .imax o | .iabsd o
  | .and o | .or o | .xor o | .andn o | .shl o | .shr o | .sar o | .rol o | .bfx o | .sel o
  | .fadd o | .fsub o | .fmul o | .fmin o | .fmax o | .fdiv o | .hadd2 o | .hmul2 o | .hmin2 o | .hmax2 o
  | .cvtsr o | .lshf o | .lperm o | .lbc o
  | .sadd o | .ssub o | .smul o | .sand o | .sor o | .sxor o | .sshl o | .sshr o | .smin o | .smax o
  | .scmp o => v3 o
  | .imac o | .iaddmin o | .iaddmax o | .bfi o | .ffma o | .faddmin o | .hfma2 o | .dot4 o | .pack o => v4 o
  | .mov o | .popc o | .clz o | .brev o | .fclass o | .frcp o | .frsq o | .fsqrt o | .fexp2 o | .flog2 o
  | .fsin o | .fcos o | .ftanh o | .smov o => vB o
  | .movi o | .smovi o => [wSpan o.d]
  | .lea o => [wSpan o.d 2, rSpan o.a 2, rSpan o.b]
  | .iadd64 o => [wSpan o.d 2, rSpan o.a 2, rSpan o.b 2]
  | .icmp o | .fcmp o => [rSpan o.a, rSpan o.b]
  | .cvt o | .unpack o | .qscale o | .lred o | .lscan o | .lmatch o | .sfromv o => vA o
  | .signq o | .ternq o => groupSpans o
  | .voteBallot o | .voteCount o => [wSpan o.d]
  | .sld o => wSpan o.d (szRegs o.sz.toNat) :: mAddr o
  | .srd o => [wSpan o.d (if WellFormed.srSel o = 0x0A ∨ WellFormed.srSel o = 0x0D then 2 else 1)]
  | .ld o | .ldf o | .ldPk o => wSpan o.d (szRegs o.sz.toNat) :: mAddr o
  | .st o | .stf o | .red o => rSpan o.d (szRegs o.sz.toNat) :: mAddr o
  | .cst o => rSpan o.d (szRegs o.sz.toNat) :: mAddr o
  | .feopSet o | .feopClear o | .feopTest o => rSpan o.d :: mAddr o
  | .atom o => rSpan o.d (szRegs o.sz.toNat) :: mAddr o
  | .cas o => rSpan o.d (szRegs (o.sz.toNat + 1)) :: mAddr o
  | .abinit o | .abexp o | .abarr o | .abwait o | .abtest o => [rSpan o.a 2, rSpan o.b]
  | .pref o => mAddr o
  | .hgl o => [wSpan o.d, rSpan o.a, rSpan o.b 2]
  | .hga o => [rSpan o.d, rSpan o.a, rSpan o.b 2]
  | .obres o | .obset o => [rSpan o.a 2]
  | .acrd o => [wSpan o.d 16]
  | .acwr o => [rSpan o.a 16]
  | .acst o => mAddr o
  | .mxloop o | .mxstep o => [rSpan o.b 2]
  | .cpyq o | .gthq o | .clpost o | .clctlAbort o | .epopen o | .epstep o | .epclose o | .rwsend o
  | .lqtake o => [⟨96 + o.sp.toNat, 2, true⟩]
  | .clctlQuery o => [⟨96 + o.sp.toNat, 2, true⟩, ⟨96 + o.m.toNat, 1, false⟩]
  | .csrrd o => [wSpan o.d]
  | .csrwr o => [rSpan o.a]
  | .fragrd o => [wSpan o.d 4, rSpan o.a]
  | .fragres o => uOpt2 o.d ++ [rSpan o.a, rSpan o.b]
  | .fragkill o => [rSpan o.a, rSpan o.b]
  | .svcwait o => [wSpan o.d]
  | .tlbinv o | .cacheop o => uOpt2 o.a ++ [rSpan o.b]
  | .pmctl o => [wSpan o.d, rSpan o.b]
  | .savex o => wSpan o.d :: uOpt o.a ++ uOpt o.b
  | .restx o => rSpan o.a :: uOpt o.d ++ uOpt o.b
  | _ => []

/-- The tile and accumulator operands of an instruction (R19). -/
def tileOf : Instr → Option Nat
  | .obres o | .obrel o | .obset o => some o.d.toNat
  | .mxloop o | .mxstep o => some o.a.toNat
  | _ => none
def accOf : Instr → Option Nat
  | .acz o | .acwr o => some o.d.toNat
  | .mxloop o | .mxstep o => some o.d.toNat
  | .acrd o => some o.a.toNat
  | .acst o => some o.d.toNat
  | _ => none

/-- A span lies within the declared counts, or names handler scratch registers (R19, R235). -/
def Warp.spanOk (w : Warp) (p : Span) : Bool :=
  (List.range p.len).all fun n => w.scratch (p.code + n) ||
    (if p.code < 96 then decide (p.code + n < w.nv) else decide (p.code + n - 96 < w.ns))

/-- R19: every register operand lies within the warp's declared counts. -/
def Warp.countsOk (w : Warp) (i : Instr) : Bool :=
  (spans i).all w.spanOk
  && (match tileOf i with | none => true | some t => decide (t < w.nt))
  && (match accOf i with | none => true | some a => decide (a < w.na))

/-- A SYS instruction (R74), and those that handler mode refuses (R233). -/
def isSys : Instr → Bool
  | .csrrd _ | .csrwr _ | .fragrd _ | .fragres _ | .fragkill _ | .eret _ | .svcwait _ | .tlbinv _
  | .cacheop _ | .pmctl _ | .savex _ | .restx _ => true
  | _ => false
def svcOnly : Instr → Bool
  | .csrwr _ | .fragrd _ | .fragres _ | .fragkill _ | .svcwait _ | .tlbinv _ | .cacheop _ | .pmctl _ => true
  | _ => false

/-- An instruction that names a convergence mask, the meet register or a guard slot (R235). -/
def namesMask : Instr → Bool
  | .meet _ | .leave _ | .join _ | .waitm _ | .kmov _ | .meetrd _ | .meetwr _ | .gopen _ | .gset _ => true
  | _ => false

/-- SAVEX and RESTX name their own context in handler mode and a reference in the service warp (R244, R245). -/
def refOk (svc : Bool) : Instr → Bool
  | .savex o => (svc == (o.a != 0#7)) && (!svc || (match o.x with
      | none => true | some w => decide (w.toNat / 256 ≤ 7)))
  | .restx o => (svc == (o.d != 0#7)) && (!svc || (match o.x with
      | none => true | some w => decide (w.toNat / 256 ≤ 2)))
  | .eret _ => !svc
  | _ => true

/-- A register operand holds a lasting error in a lane; a handler's scratch registers are in the service store. -/
def Warp.cellBad (w : Warp) (code lane : Nat) : Bool :=
  !w.scratch code && w.bad.contains (if code < 96 then code * 32 + lane else 4096 + (code - 96))

/-- Some lane reads a register of a range that holds a lasting error. -/
def Warp.rangeBad (w : Warp) (mask : Word) (code n : Nat) : Bool :=
  !w.bad.isEmpty && (List.range n).any fun i => (lanesOf mask).any fun l => w.cellBad (code + i) l

/-- The predicate an instruction reads in each lane (R22). -/
def predOf : Instr → Option Nat
  | .brp o => some (o.c.toNat % 8)
  | .sel o => some o.pm.toNat
  | .voteAll o | .voteAny o | .voteBallot o | .voteCount o => some o.a.toNat
  | _ => none

/-- The lanes whose operands an instruction reads: the lowest one of its split where it takes its value from there
(spec/06_vector.md R149, spec/10_system_clearing_isa.md R244), else all. -/
def readers (mask : Word) : Instr → Word
  | .sfromv _ => mask &&& -mask
  | .restx o => if [1, 8, 9, 11, 12].contains (match o.x with | none => 0 | some w => w.toNat / 256 % 256) then mask &&& -mask else mask
  | _ => mask

/-- The split reads a register or a predicate that holds a lasting error (R425). -/
def Warp.readsBad (w : Warp) (mask : Word) (i : Instr) : Bool :=
  ((spans i).any fun p => p.read && w.rangeBad (readers mask i) p.code p.len)
  || (match predOf i with
      | none => false
      | some p => w.mode == .tenant && p != 7 && (lanesOf mask).any fun l => w.bad.contains (predCell p l))

/-- The first check an instruction fails before it acts: its cause, and whether it is taken at the header. -/
def State.gate (s : State) (i : Instr) : Option (Cause × Bool) :=
  let w := s.warp
  let svc := s.cur.slot == 64
  if isSys i && !svc && w.mode == .tenant then some (.privileged, true)
  else if svcOnly i && !svc then some (.privileged, false)
  else if isSys i && !refOk svc i then some (.illegalOpcode, false)
  else if namesMask i && w.mode != .tenant then some (.illegalOpcode, false)
  else if !w.countsOk i then some (.illegalOpcode, false)
  else if w.readsBad s.mask i then some (.dataUncorrectable, false)
  else none

/-- The effect of an instruction that passes its checks, or the fault of its whole split. -/
def State.gated (s : State) (i : Instr) (f : State → State) : Host.Outcome State Fault Refusal :=
  match s.gate i with
  | none => .next (f s)
  | some (c, true) => .next (s.faultOpenAt s.here.1 0 c)
  | some (c, false) => .next (s.faultOpen c)

/-- Write one value per lane of the split into a vector register (short result). -/
def State.perLane (s : State) (d : BitVec 7) (f : Warp → Nat → Word) : State :=
  let w := s.warp
  s.setWarp (w.setLanes d.toNat (s.lanes.map fun l => (l, f w l)))

/-- Write one predicate per lane of the split. -/
def State.perPred (s : State) (p : Nat) (f : Warp → Nat → Bool) : State :=
  let w := s.warp
  s.setWarp ((s.lanes.map fun l => (l, f w l)).foldl (fun v x => v.setPred p x.1 x.2) w)

/-- Write a uniform or vector destination with one value for the whole split. -/
def State.oneValue (s : State) (d : BitVec 7) (x : Word) : State :=
  if 96 ≤ d.toNat then s.updWarp (·.setReg d.toNat 0 x) else s.perLane d fun _ _ => x

/-- The lanes of the split whose value of a uniform operand differs from the lowest lane's (R82, R273). -/
def State.differing (s : State) (code len : Nat) : List (Nat × Nat) :=
  let w := s.warp
  if 96 ≤ code then []
  else
    let v (l : Nat) : Nat := if len = 2 then w.reg64 code l else (w.reg code l).toNat
    (s.lanes.filter fun l => v l != v s.lowest).map fun l => (l, v l)

end Sys2Proof.Machine
end

