-- ==== Sys2Proof/Machine/Home.lean ====
section
/-! DEFINITION. Machine/Home.lean: what happens at a home: ownership, writes that enter the home order,
lasting errors, full-empty granules and async barrier objects (spec/15_memory_model.md R311 to R317,
spec/08_memory_isa.md R176 to R190, spec/26_faults_checkpoint.md R424 to R426). -/

namespace Sys2Proof.Machine

open Sys2Proof

/-! ### Ownership and L1 copies -/

/-- Every core gives up ownership of the words of a range (R312, R316). -/
def State.recall (s : State) (pa n : Nat) : State :=
  { s with cores := s.cores.map fun x => (x.1, { x.2 with
      owned := x.2.owned.filter fun w => !inWords pa n w
      l1Bad := x.2.l1Bad.filter fun w => !(inWords pa n w && x.2.owned.contains w) }) }

/-- A core's unowned copies of a range are dropped. -/
def State.dropCopies (s : State) (c pa n : Nat) : State := s.updCore c (·.dropWords (inWords pa n))

/-- Loads and stores on their way to another device went out before the acquire; what they bring is not kept, and a store
makes its core no owner (R312, R314). -/
def Warp.staleLoads (w : Warp) : Warp := { w with ops := w.ops.map fun o => if o.fab then { o with stale := true } else o }
/-- The acquire: the core's valid unowned words are dropped (R314). -/
def State.acquire (s : State) (c : Nat) : State :=
  s.updCore c fun k => { k.dropWords (fun _ => true) with warps := k.warps.map fun w => (w.1, w.2.staleLoads) }

/-- What the cores, but one of them, have sent to words of a range of another device went out before the words were taken
from them (R312, R313). -/
def State.staleOps (s : State) (pa n : Nat) (but : Option Nat) : State :=
  let go (o : Op) : Op := if o.fab && inWords pa n (o.pa / 4) then { o with stale := true } else o
  { s with cores := s.cores.map fun x => if but = some x.1 then x else
      (x.1, { x.2 with warps := x.2.warps.map fun w => (w.1, { w.2 with ops := w.2.ops.map go }) }) }

/-- Whether a core owns a word of a range. -/
def State.ownedIn (s : State) (pa n : Nat) : Bool := s.cores.any fun x => x.2.owned.any (inWords pa n)

/-! ### Lasting errors -/

/-- An ASYNC record (R421): cause 0x0B, FLAGS 1, the line's virtual address, the home core. -/
def State.asyncRec (s : State) (tenant va home : Nat) : State :=
  let r : FaultRec := ⟨tenant, 0x0B + 2 ^ 8 + va / 128 * 128 * 2 ^ (8 * 0x10) + home * 2 ^ (8 * 0x25)⟩
  { s with recs := s.recs ++ [r] }

/-- One of a slice's 64 spare rows is taken, if it has one; a slice with none left takes its core out of placement, and the
hypervisor is told (R426). -/
def State.takeSpare (s : State) (c : Nat) : State :=
  let used := fget 0 s.spare c
  let s : State := { s with spare := fset s.spare c (min 64 (used + 1)) }
  if used = 63 then
    { s with told := s.told ++ [(0, c)], outCores := if c < 192 ∧ !s.outCores.contains c then s.outCores ++ [c] else s.outCores }
  else s
/-- A flat row with a lasting error is remapped to a spare row, which reads zero (R426). -/
def State.remapRow (s : State) (pa : Nat) : State :=
  let row := pa / 128 * 128; let c := flatCore pa
  if fget 0 s.spare c < 64 then
    { s.takeSpare c with mem := wrBytes s.mem row (List.replicate 128 0#8), errs := s.errs.filter fun e => decide (e < row ∨ row + 128 ≤ e) }
  else s

/-- A home meets a lasting error at a granule (R426). -/
def State.meetsError (s : State) (tenant va pa : Nat) : State :=
  let s := s.asyncRec tenant va ((homeCore pa).getD 0xFF)
  if isFlat pa then s.remapRow pa else s

/-- Whether a write of n bytes is discarded: it covers in part some granule, or in SRAM some word, that holds a lasting
error (R424, R426). -/
def State.discards (s : State) (pa n : Nat) : Bool :=
  let g := checkSpan pa
  let part (lo g : Nat) : Bool := decide (lo < pa + n ∧ pa < lo + g) && !decide (pa ≤ lo ∧ lo + g ≤ pa + n)
  (s.errs.any fun e => part (e / g * g) g) || s.cores.any fun k => k.2.l1Bad.any fun w => k.2.owned.contains w && part (4 * w) 4
/-- Words of this device that a slice owns and a write covers in part come back with the slice's bytes (R310). -/
def State.takeBack (s : State) (pa n : Nat) : State :=
  if s.swHeld pa n then
    { s with mem := ([pa / 4, (pa + n - 1) / 4].filter s.swOwned.contains).foldl (fun m w =>
        wrBytes m (4 * w) ((List.range 4).map fun i => s.homeByte (4 * w + i))) s.mem }
  else s

/-- The write of one granule's part at its home: the owner is recalled, the bytes enter the home order; a
part write over a lasting error is discarded, and one of the locked supervisor image (spec/28_system.md R460). The second result tells whether it was written. -/
def State.homePart (s : State) (tenant va pa : Nat) (bs : List Byte) : State × Bool :=
  if s.imageLocked pa bs.length then (s, false)
  else if s.discards pa bs.length then (s.meetsError tenant va pa, false)
  else
    let d := (homeCore pa).getD 0 / 48
    let s := if !(s.die d).ev.isEmpty && s.ownedIn pa bs.length then s.countDie d 4 tenant 1 else s
    let s := ((s.recall pa bs.length).countHbm pa 3 tenant bs.length).takeBack pa bs.length
    ({ s with mem := wrBytes s.mem pa bs, swOwned := s.swOwned.filter fun w => !inWords pa bs.length w,
              errs := s.errs.filter fun e => decide (e < pa ∨ pa + bs.length ≤ e) }, true)

/-- How many distinct neighbours a list of numbers has in turn: at least as many as it has distinct members. -/
def runsOf : List Nat → Nat
  | [] => 0
  | [_] => 1
  | a :: b :: r => (if a = b then 0 else 1) + runsOf (b :: r)
/-- The lines of which a core's L1 holds a word. -/
def Core.l1Lines (k : Core) : List Nat :=
  (k.copies.map (fun (x : Nat × Word) => x.1 / 32) ++ k.owned.map (· / 32)).eraseDups
/-- The L1 holds 256 KiB, 2,048 lines of 128 bytes (R306, spec/01_machine.md R7): one line past that makes it give up a
line other than the one just brought, whose choice the spec leaves open. -/
def State.fitL1 (s : State) (c line : Nat) : State :=
  let k := s.core c
  if runsOf (k.copies.map fun x => x.1 / 32) + runsOf (k.owned.map (· / 32)) ≤ 2048 then s
  else
    let ls := k.l1Lines
    if ls.length ≤ 2048 then s
    else
      let (x, s) := s.free
      let others := ls.filter (· != line)
      let out := others.getD (x.toNat % max 1 others.length) 0
      (s.updCore c (·.dropWords (· / 32 == out))).giveUp c (· / 32 == out)

/-- The words a store of n bytes makes its core own: those that hold one of them, and of another device's only those it
covers whole, since the rest of such a word is not here. -/
def ownWords (pa n : Nat) : List Nat :=
  if isFabric pa then (List.range ((pa + n) / 4 - (pa + 3) / 4)).map (· + (pa + 3) / 4)
  else (List.range ((pa + n - 1) / 4 + 1 - pa / 4)).map (· + pa / 4)
/-- A store of a core registers (R312). -/
def State.register (s : State) (c tenant va pa : Nat) (bs : List Byte) : State :=
  match s.homePart tenant va pa bs with
  | (s, false) => s
  | (s, true) =>
    let n := bs.length
    ((s.dropCopies c pa n).updCore c fun k =>
      { k with owned := k.owned ++ (ownWords pa n).filter fun w => !k.owned.contains w }).fitL1 c (pa / 128)

/-! ### Operations by number -/

/-- The warp key and the operation of a core with this number. -/
def State.findOp (s : State) (c id : Nat) : Option (Nat × Op) :=
  (s.core c).warps.findSome? fun x => (x.2.ops.find? (·.id == id)).map fun o => (x.1, o)

def Warp.updOp (w : Warp) (id : Nat) (f : Op → Op) : Warp :=
  { w with ops := w.ops.map fun o => if o.id = id then f o else o }

def State.updOp (s : State) (c id : Nat) (f : Op → Op) : State :=
  s.updCore c fun k => { k with warps := k.warps.map fun x => (x.1, x.2.updOp id f) }

/-! ### Reads of another device within an instruction or a fetch (R172, R323) -/

/-- The lane number of what a warp reads from another device to fetch a clause, and of its HGA's reductions. -/
def fetchLane : Nat := 32
/-- What a read of another device's memory by a lane, made for an instruction that waits for it, has brought: the bytes,
or that it failed; none while it has not returned. -/
def Warp.farRead (w : Warp) (lane pa n : Nat) : Option (Option Nat) :=
  match w.ops.find? fun o => o.kind == .far && o.lane == lane && o.done && decide (o.pa ≤ pa ∧ pa + n ≤ o.pa + o.size) with
  | none => none
  | some o => some (if o.err then none else some (o.val / 2 ^ (8 * (pa - o.pa)) % 2 ^ (8 * n)))
/-- Ask for n bytes of another device for a lane, once. -/
def State.farAsk (s : State) (c w lane va pa n : Nat) : State :=
  if (s.warpAt c w).ops.any fun o => o.kind == .far && o.lane == lane && decide (o.pa ≤ pa ∧ pa + n ≤ o.pa + o.size) then s
  else
    let (id, s) := s.newId
    s.updWarpAt c w fun w => { w with ops := w.ops ++ [{ id := id, lane := lane, kind := .far, va := va, pa := pa, size := n }] }
/-- What some lanes have read of another device is dropped once their instruction or fetch has used it. -/
def Warp.farDone (w : Warp) (p : Op → Bool) : Warp := { w with ops := w.ops.filter fun o => !(o.kind == .far && p o) }

/-! ### Full-empty granules (R176 to R180) -/

def State.isFull (s : State) (g : Nat) : Bool := s.full.contains g
def State.empty (s : State) (g : Nat) : State := { s with full := s.full.filter (· != g) }

/-- Extension of a datum on load (R90). -/
def extend (sz n : Nat) : Nat :=
  match sz with
  | 0 => n % 2 ^ 8
  | 1 => modW 32 (sext 8 n)
  | 2 => n % 2 ^ 16
  | 3 => modW 32 (sext 16 n)
  | _ => n

/-- The queue key of a clearing processor's CWAIT.fe (spec/10_system_clearing_isa.md R252). -/
def clearKey (d p : Nat) : Nat := 256 + 4 * d + p
/-- Serve a clearing processor's wait. -/
def State.serveClear (s : State) (key got : Nat) : State :=
  s.updDie ((key - 256) / 4) fun k =>
    { k with procs := fset k.procs ((key - 256) % 4) { fget ({} : Clear) k.procs ((key - 256) % 4) with got := some got } }

/-- Serve the LDFs queued on a granule from the head, while it is full (R179). -/
def State.serveGo (g : Nat) : Nat → State → State
  | 0, s => s
  | n + 1, s =>
    if !s.isFull g then s
    else
      match s.ldfq.find? (·.gran == g) with
      | none => s
      | some x =>
        let s := { s with ldfq := s.ldfq.erase x }
        if 256 ≤ x.core then
          if s.bad x.op 4 then (s.serveClear x.core (2 ^ 32)).serveGo g n
          else (s.serveClear x.core (s.rdN x.op 4)).empty g
        else
        let pa := match s.findOp x.core x.op with | none => 16 * g | some (_, o) => o.pa
        let sz := match s.findOp x.core x.op with | none => 1 | some (_, o) => o.size
        if s.bad pa sz then s.updOp x.core x.op (fun o => { o with done := true, err := true }) |>.serveGo g n
        else
          let s := (s.updOp x.core x.op fun o => { o with done := true, val := extend o.sz (s.rdN pa sz) }).dropCopies
            x.core pa sz
          if x.clr then s.empty g else State.serveGo g n s
def State.serve (s : State) (g : Nat) : State := State.serveGo g s.ldfq.length s

/-- Fill a granule and serve its queue (R178, R179). -/
def State.fill (s : State) (g : Nat) : State :=
  (if s.isFull g then s else { s with full := g :: s.full }).serve g

/-- Fill every granule that holds one of n bytes of flat SRAM. -/
def State.fillRange (s : State) (pa n : Nat) : State :=
  if isFlat pa ∧ n ≠ 0 then
    (List.range ((pa + n - 1) / 16 + 1 - pa / 16)).foldl (fun s i => s.fill (pa / 16 + i)) s
  else s

/-- An engine, clearing or fabric write, granule by granule: the written bytes enter the home order and fill
the flat granules they reach (R176, R317). -/
def State.engineGo (tenant : Nat) : Nat → State → Nat → Nat → List Byte → State
  | 0, s, _, _, _ => s
  | _, s, _, _, [] => s
  | k + 1, s, va, pa, bs =>
    let n := 32 - pa % 32
    let part := bs.take n
    let s := match s.homePart tenant va pa part with
      | (s, true) => s.fillRange pa part.length
      | (s, false) => s
    State.engineGo tenant k s (va + n) (pa + n) (bs.drop n)

/-- An engine write; one to another device goes there as chunks, marked with the type of its elements
(spec/19_compression.md R355). -/
def State.engineWrite (s : State) (tenant va pa : Nat) (bs : List Byte) (typ : Nat := 0) (quiet : Bool := false) : State :=
  if isFabric pa then State.postChunks typ tenant quiet (bs.length / 4096 + 1) s pa bs
  else State.engineGo tenant (bs.length / 32 + 2) s va pa bs

/-! ### Async barrier objects (R188, R190) -/

/-- The four words of an object. -/
structure AbObj where
  bytes : Word
  arrivals : Word
  flags : Word
  reload : Word
  deriving DecidableEq, Repr

/-- The object's words as they are stored; who reads them tests `State.bad` first. -/
def State.abRead (s : State) (pa : Nat) : AbObj :=
  let w (i : Nat) : Word := BitVec.ofNat 32 (s.rdN (pa + 4 * i) 4)
  ⟨w 0, w 1, w 2, w 3⟩

/-- A malformed object: VALID 0 or a nonzero reserved bit. -/
def AbObj.malformed (o : AbObj) : Bool := o.flags.toNat / 4 != 2 ^ 29
def AbObj.phase (o : AbObj) : Bool := o.flags.getLsbD 0

def abInit (reload : Word) : AbObj :=
  ⟨BitVec.ofNat 32 (reload.toNat % 2 ^ 16 * 128), BitVec.ofNat 32 (reload.toNat / 2 ^ 16), 0x80000000#32, reload⟩

/-- Update of R190: the UNDER flag, and the completion when both words are zero. -/
def AbObj.update (o : AbObj) (addBytes subArr : Word) : AbObj :=
  let w0 := o.bytes + addBytes; let w1 := o.arrivals - subArr
  let f := if w1.getLsbD 31 then o.flags ||| 2#32 else o.flags
  if w0 = 0#32 ∧ w1 = 0#32 then
    let i := abInit o.reload
    ⟨i.bytes, i.arrivals, f ^^^ 1#32, o.reload⟩
  else ⟨w0, w1, f, o.reload⟩

def AbObj.toBytes (o : AbObj) : List Byte :=
  leBytes 4 o.bytes.toNat ++ leBytes 4 o.arrivals.toNat ++ leBytes 4 o.flags.toNat ++ leBytes 4 o.reload.toNat

/-- Write an object at its home; it changes no full-empty bit. -/
def State.abWrite (s : State) (tenant va pa : Nat) (o : AbObj) : State := (s.homePart tenant va pa o.toBytes).1

/-- An engine delivery of n bytes on an object; a malformed object is left as it is (R190). The words of an object that hold
a lasting error are left as R426 has it for a write that the home discards (notes/assumptions/89.md). -/
def State.abDeliver (s : State) (tenant va pa n : Nat) : State :=
  let o := s.abRead pa
  if s.bad pa 16 then s.meetsError tenant va pa
  else if o.malformed then s else s.abWrite tenant va pa (o.update (-(BitVec.ofNat 32 n)) 0#32)

/-! ### Writes of the hub and of engines in a tenant's space -/

/-- A translation that uses no TLB: the launch unit, the join unit and the system cores. -/
def noCore : Nat := 4096
def State.hubTranslate (s : State) (tenant va : Nat) (need : Need) : Except Cause Nat :=
  s.translate noCore tenant va need

/-- An engine write of the hub in a tenant's space; one that does not translate changes nothing. -/
def State.hubWrite (s : State) (tenant va : Nat) (bs : List Byte) : State :=
  match s.hubTranslate tenant va .wr with
  | .error _ => s
  | .ok pa => s.engineWrite tenant va pa bs

/-- What a unit of the hub reads: of another device's memory, or of a word that a switch slice owns, a free value at each
moment (notes/assumptions/5.md). -/
def State.hubBytes (s : State) (pa n : Nat) : Nat :=
  if isFabric pa then leNat ((List.range n).map fun i => Config.farByte (pa + i) s.nextId) else s.homeN pa n
/-- A read of n bytes within one page in a tenant's space, with the failure of R287. -/
def State.hubReadIn (s : State) (tenant va n : Nat) : Except Cause Nat :=
  match s.hubTranslate tenant va .rd with
  | .error c => .error c
  | .ok pa => if s.bad pa n then .error .dataUncorrectable else .ok (s.hubBytes pa n)

/-- A read of the hub that may cross a page. -/
def State.hubRead (s : State) (tenant va n : Nat) : Except Cause Nat :=
  let k := 65536 - va % 65536
  if n ≤ k then s.hubReadIn tenant va n
  else match s.hubReadIn tenant va k, s.hubReadIn tenant (va + k) (n - k) with
    | .ok a, .ok b => .ok (a + 2 ^ (8 * k) * b)
    | .error c, _ => .error c
    | _, .error c => .error c

end Sys2Proof.Machine
end

