-- ==== Sys2Proof/Machine/Threads.lean ====
section
/-! DEFINITION. Machine/Threads.lean: where threads stand and what they wait for: groups, meets, WAITM,
barriers, exits, and the end of a workgroup and of a launch (spec/12_divergence.md R260 to R272,
spec/05_control.md R106 to R120, spec/13_scheduling.md R296, R297). -/

namespace Sys2Proof.Machine

open Sys2Proof

/-! ### Groups and arrival -/

/-- Threads join the group at a position, which takes the larger count (R261). -/
def joinGroup (addr slot : Nat) (m : Word) (cnt stamp : Nat) : List Group → List Group
  | [] => [{ addr := addr, slot := slot, mask := m, count := cnt, stamp := stamp }]
  | g :: gs =>
    if g.addr = addr ∧ g.slot = slot then { g with mask := g.mask ||| m, count := max g.count cnt } :: gs
    else g :: joinGroup addr slot m cnt stamp gs

/-- Lanes leave every group, and an empty group goes with its buffer entry (R264). -/
def dropLanes (m : Word) (gs : List Group) : List Group :=
  (gs.map fun g => { g with mask := g.mask &&& ~~~m }).filter fun g => g.mask != 0#32

def meetValid (m : BitVec 64) : Bool := m.getLsbD 63
def meetMask (m : BitVec 64) : Nat := (m.extractLsb' 56 4).toNat
def meetAddr (m : BitVec 64) : Nat := (m.extractLsb' 0 55).toNat
def meetClear (m : BitVec 64) : BitVec 64 := m &&& 0x7FFFFFFFFFFFFFFF#64
def meetMake (k addr : Nat) : BitVec 64 := BitVec.ofNat 64 (2 ^ 63 + k * 2 ^ 56 + addr % 2 ^ 55)

def Warp.kmask (w : Warp) (k : Nat) : Word := fget 0#32 w.k k
def Warp.inMask (w : Warp) (k l : Nat) : Bool := (w.kmask k).getLsbD l
def Warp.setMask (w : Warp) (k : Nat) (m : Word) : Warp := { w with k := fset w.k k m }

/-- A lane becomes eligible at a position, untested. A thread of a warp whose save has taken it and whose
handler has not begun only takes the position, to be saved with it. -/
def Warp.place (w : Warp) (stamp l addr slot : Nat) : Warp :=
  let mine := decide (w.mode = .tenant) || !w.drained
  let w := if w.mode = .tenant ∨ w.drained then
    { w with groups := joinGroup addr slot (laneBit l) 0 stamp w.groups } else w
  if mine then
    w.updThread l fun t => { t with st := .active, addr := addr, slot := slot, wait := .none }
  else w

/-- What a lane's meet does at a clause start: it holds the lane there, or a lane outside the named mask loses it
(R108, R267). -/
def Warp.meetsAt (w : Warp) (l addr slot : Nat) : Bool :=
  let t := w.thread l
  decide (w.mode = .tenant ∧ slot = 0 ∧ meetValid t.meet ∧ meetAddr t.meet = addr) && w.inMask (meetMask t.meet) l
def Warp.unmeet (w : Warp) (l slot : Nat) : Warp :=
  let t := w.thread l
  if w.mode = .tenant ∧ slot = 0 ∧ meetValid t.meet ∧ !w.inMask (meetMask t.meet) l then
    w.setThread l { t with meet := meetClear t.meet } else w

/-- A lane reaches a position: held there by its meet, or eligible there (R108). -/
def Warp.arrive (w : Warp) (stamp l addr slot : Nat) : Warp :=
  if w.meetsAt l addr slot then
    w.updThread l fun t => { t with st := .held, addr := addr, slot := slot, wait := .none }
  else (w.unmeet l slot).place stamp l addr slot

/-- Lanes of a warp reach positions. -/
def State.arriveLanes (s : State) (c w : Nat) (ls : List (Nat × Nat × Nat)) : State :=
  let (id, s) := s.newId
  s.updWarpAt c w fun wp => ls.foldl (fun wp x => wp.arrive id x.1 x.2.1 x.2.2) wp

/-! ### Results -/

def OpKind.long : OpKind → Bool
  | .ld | .ldf | .atom | .cas | .fn | .acrd | .status => true
  | _ => false

def Op.covers (o : Op) (l : Nat) : Bool := if o.mask = 0#32 then o.lane == l else o.mask.getLsbD l

/-- A lane has a long result that has not been written (R77). -/
def Warp.awaits (w : Warp) (l : Nat) : Bool := w.ops.any fun o => o.kind.long && o.covers l

/-- Operations of a lane that a release waits for: stores not registered, and home operations not accepted (R315). -/
def Op.unordered (o : Op) : Bool :=
  match o.kind with
  | .st | .stf | .atom | .cas | .red | .feSet | .feClear | .feTest => !o.done
  | _ => false
def Warp.unregistered (w : Warp) (l before : Nat) : Bool :=
  w.ops.any fun o => o.unordered && o.covers l && decide (o.id < before)

/-- Lanes go to positions: a lane behind a marker first waits for its results (R77), the others arrive. -/
def State.goAll (s : State) (c w : Nat) (marker : Bool) (ts : List (Nat × Nat × Nat)) : State :=
  let wp := s.warpAt c w
  let wait := if marker then ts.filter (fun t => wp.awaits t.1) else []
  let wp := wait.foldl (fun (wp : Warp) t =>
    let wp : Warp := if wp.mode = .tenant then
      wp.updThread t.1 (fun x => { x with st := .active, wait := .none, addr := t.2.1, slot := t.2.2 }) else wp
    ({ wp with bound := fset wp.bound t.1 (t.2.1, t.2.2) } : Warp)) wp
  (s.setWarpAt c w wp).arriveLanes c w (ts.filter fun t => !(wait.any fun u => u.1 == t.1))

/-- Threads whose wait has ended go on at the position after it (R80). -/
def State.resume (s : State) (c w : Nat) (ls : List Nat) : State :=
  let wp := s.warpAt c w
  let pos (l : Nat) : Nat × Nat × Nat := (l, (wp.thread l).naddr, (wp.thread l).nslot)
  let marked := ls.filter fun l => (wp.thread l).nmark
  let s := if marked.isEmpty then s else s.goAll c w true (marked.map pos)
  s.arriveLanes c w ((ls.filter fun l => !(wp.thread l).nmark).map pos)

/-- Lanes parked at a run boundary whose results are in go on (R77, R263). -/
def State.wakeBound (s : State) (c w : Nat) : State :=
  let wp := s.warpAt c w
  let ready := wp.bound.filter fun x => !wp.awaits x.1
  if ready.isEmpty then s
  else
    (s.setWarpAt c w { wp with bound := wp.bound.filter fun x => wp.awaits x.1 }).arriveLanes c w
      (ready.map fun x => (x.1, x.2.1, x.2.2))

/-- Where a lane stands that can be taken on a returning result: a group, or a split parked at its marker; a restored
split, whose words have not been fetched, stands at its saved slot (R276, R279). -/
def Warp.standsAt (w : Warp) (l : Nat) : Option (Nat × Nat) :=
  match w.groups.find? (·.mask.getLsbD l) with
  | some g => some (g.addr, g.slot)
  | none =>
    match w.parked.find? (fun p => p.park == .marker && p.mask.getLsbD l) with
    | some p => some (if p.words.isEmpty ∨ p.slot < hdrN p.hdr then (p.addr, p.slot) else (p.after, 0))
    | none =>
      match w.bound.find? (·.1 == l) with
      | some b => some b.2
      | none =>
        let t := w.thread l
        if w.mode = .save ∧ !w.drained ∧ t.st ≠ .exited ∧ t.st ≠ .parked then some (t.addr, t.slot) else none

/-- Remove lanes from every place that would let them issue. -/
def Warp.remove (w : Warp) (m : Word) : Warp :=
  { w with groups := dropLanes m w.groups
           bound := w.bound.filter fun x => !m.getLsbD x.1
           parked := (w.parked.map fun p => { p with mask := p.mask &&& ~~~m }).filter fun p => p.mask != 0#32
           run := match w.run with
             | none => none
             | some r => if r.mask &&& ~~~m = 0#32 then none else some { r with mask := r.mask &&& ~~~m } }

/-- A lane waits for a result of an issue, which may yet fault. An LDF may wait without limit, so none is waited for here. -/
def Warp.owes (w : Warp) (iss l : Nat) : Bool :=
  w.ops.any fun o => o.kind.long && o.kind != .ldf && o.iss == iss && o.covers l
/-- A lane stands in a group, at its run boundary, with no marker that holds it. -/
def Warp.grouped (w : Warp) (l : Nat) : Bool := w.groups.any (·.mask.getLsbD l)
/-- A lane stands with a fault on its returning result that is due: at a run boundary at once, at a marker when no lane
of the issue that waits there with it may yet have one. -/
def Warp.pendsAt (w : Warp) (l : Nat) : Bool :=
  (w.thread l).pend.isSome &&
  (match w.standsAt l with
   | none => false
   | some pos => w.grouped l || !allLanes.any fun m => w.standsAt m == some pos && w.owes (w.thread l).pendIss m)

/-- Return-time faults are taken where their lanes have parked, one fragment for each issue and position (R172, R268). -/
def State.takePendGo (c w : Nat) : Nat → State → State
  | 0, s => s
  | n + 1, s =>
    let wp := s.warpAt c w
    if wp.wfault.isSome then s
    else
      match allLanes.find? wp.pendsAt with
      | none => s
      | some l0 =>
        let pos := (wp.standsAt l0).getD (0, 0)
        let fs := (allLanes.filter fun l => (wp.thread l).pend.isSome && wp.standsAt l == some pos
            && (wp.thread l).pendIss == (wp.thread l0).pendIss).map fun l =>
          (l, ((wp.thread l).pend.getD (.dataUncorrectable, 0)).1, ((wp.thread l).pend.getD (.dataUncorrectable, 0)).2)
        if w = 64 then s.stopService c
        else if wp.mode = .save ∧ !wp.drained then
          -- the drain: the lanes are saved parked under an entry number no other parked lane of the warp has
          let used := allLanes.filterMap fun l => if (wp.thread l).st = .parked then some (wp.thread l).findex else none
          let i := ((List.range 64).find? fun i => !used.contains i).getD 63
          State.takePendGo c w n (s.updWarpAt c w fun wp => wp.parkLanes c w i pos.1 pos.2 fs)
        else if wp.mode ≠ .tenant then
          (s.updWarpAt c w fun wp => fs.foldl (fun wp f => wp.updThread f.1 fun t => { t with pend := none }) wp).setWfault
            c w .dataUncorrectable ((wp.thread l0).pend.getD (.dataUncorrectable, 0)).2
        else
          match s.fragment c w pos.1 pos.2 fs with
          | (s, true) => State.takePendGo c w n (s.updWarpAt c w (·.remove (maskOf (fs.map (·.1)))))
          | (s, false) => s
def State.takePend (s : State) (c w : Nat) : State := State.takePendGo c w 32 s

/-! ### Meets and WAITM (R110, R111) -/

/-- Release every set of held threads whose condition holds, and held threads outside their mask. -/
def Warp.releaseMeets (w : Warp) (stamp : Nat) : Warp :=
  allLanes.foldl (fun w l =>
    let t := w.thread l
    if t.st = .held then
      let k := meetMask t.meet; let a := meetAddr t.meet
      let go (w : Warp) (l : Nat) : Warp :=
        let t := w.thread l
        (w.setThread l { t with meet := meetClear t.meet }).place stamp l t.addr t.slot
      if !w.inMask k l then go w l
      else
        let ms := lanesOf (w.kmask k)
        if ms.all fun m => (w.thread m).st == .held && meetMask (w.thread m).meet == k && meetAddr (w.thread m).meet == a
        then ms.foldl go w else w
    else w) w

/-- Release WAITM waiters: alone when outside the mask, together when every member waits (R111). -/
def Warp.releaseWaitm (w : Warp) : Warp × List Nat :=
  allLanes.foldl (fun (w, out) l =>
    match (w.thread l).wait with
    | .waitm k =>
      let go (x : Warp × List Nat) (l : Nat) : Warp × List Nat :=
        (x.1.updThread l (fun t => { t with wait := .none }), x.2 ++ [l])
      if !w.inMask k l then go (w, out) l
      else
        let ms := lanesOf (w.kmask k)
        if ms.all fun m => (w.thread m).wait == .waitm k then ms.foldl go (w, out) else (w, out)
    | _ => (w, out)) (w, ([] : List Nat))

/-- Re-evaluate a warp's masks; a handler's writes take effect at its ERET (spec/10_system_clearing_isa.md R247). -/
def State.settleMasks (s : State) (c w : Nat) : State :=
  if (s.warpAt c w).mode ≠ .tenant ∧ (s.warpAt c w).drained then s
  else
  let (id, s) := s.newId
  let wp := (s.warpAt c w).releaseMeets id
  let (wp, out) := wp.releaseWaitm
  let s := s.setWarpAt c w wp
  if out.isEmpty then s
  else (s.resume c w out).updWarpAt c w (·.releaseMeets id)

/-! ### Instruction-buffer entries (R264) -/

def partSlots (q : Nat) : List Nat := (List.range 16).map (· + 16 * q)

def Warp.entries (w : Warp) : Nat :=
  (w.groups.filter (·.ib)).length + (w.parked.filter (·.ib)).length + (if w.run.isSome then 1 else 0)

/-- A restored split as the grant sees it. -/
def Split.asGroup (p : Split) : Group := { addr := p.addr, slot := p.slot, mask := p.mask, stamp := p.stamp }
/-- A group, or a restored split, that lacks an entry, with its warp slot. -/
def Core.lacking (k : Core) (q : Nat) : List (Nat × Group) :=
  (partSlots q).flatMap fun w => ((k.warp w).groups.filter (fun g => !g.ib) ++
    ((k.warp w).parked.filter fun p => !p.ib).map Split.asGroup).map fun g => (w, g)

def olderGroup (a b : Nat × Group) : Bool :=
  decide (a.2.stamp < b.2.stamp) || (a.2.stamp == b.2.stamp &&
    (decide (a.2.addr < b.2.addr) || (a.2.addr == b.2.addr && decide (a.1 < b.1))))

def pick {α : Type} (lt : α → α → Bool) : List α → Option α
  | [] => none
  | x :: xs => some (xs.foldl (fun m y => if lt y m then y else m) x)

/-- Insertion sort, stable: an element goes before the first one it must precede. -/
def insertBy {α : Type} (lt : α → α → Bool) (x : α) : List α → List α
  | [] => [x]
  | y :: ys => if lt x y then x :: y :: ys else y :: insertBy lt x ys
def sortBy {α : Type} (lt : α → α → Bool) (xs : List α) : List α := xs.foldl (fun l x => insertBy lt x l) []

def Core.grantGo (q : Nat) : Nat → Core → Core
  | 0, k => k
  | n + 1, k =>
    match pick olderGroup (k.lacking q) with
    | none => k
    | some (w, g) =>
      let wp := k.warp w
      Core.grantGo q n (k.setWarp w { wp with
        groups := wp.groups.map fun h => if h.mask = g.mask then { h with ib := true } else h
        parked := wp.parked.map fun p => if p.mask = g.mask then { p with ib := true } else p })

/-- Grant the free entries of a partition, oldest group first. The service warp has entries of its own. -/
def State.grant (s : State) (c q : Nat) : State :=
  if q = 4 then
    s.updWarpAt c 64 fun w => { w with groups := w.groups.map fun g => { g with ib := true } }
  else
    s.updCore c fun k =>
      let used := ((partSlots q).map fun w => (k.warp w).entries).foldl (· + ·) 0
      Core.grantGo q (16 - used) k
def State.grantAll (s : State) (c : Nat) : State := [0, 1, 2, 3].foldl (fun s q => s.grant c q) s

/-! ### Barriers (R117, R120, R272) -/

/-- Live threads of a workgroup; those of a warp that is saved, or still in its restore handler, count as they were
saved. -/
def State.liveIn (s : State) (g : Nat) : Nat :=
  let x := s.wg g
  match x.st with
  | .ended => 0
  | .saved => x.away.foldl (· + ·) 0
  | .restoring => ((x.slots.zip x.away).map fun y =>
      if (s.warpAt x.core y.1).mode = .restore then y.2 else (s.warpAt x.core y.1).liveCount).foldl (· + ·) 0
  | _ => (x.slots.map fun w => (s.warpAt x.core w).liveCount).foldl (· + ·) 0

/-- A warp whose threads stand in its saved record: its handler has begun, and a completion is kept for its restore. -/
def Warp.stowed (w : Warp) : Bool := w.mode != .tenant && w.drained
/-- A workgroup keeps the completion of barrier n (16 + cohort for a cohort barrier) for the threads of warps whose
handlers have begun, or that are saved (R117, R120). -/
def State.keepFreed (s : State) (g n : Nat) : State :=
  let x := s.wg g
  if x.st = .saved ∨ x.slots.any fun w => (s.warpAt x.core w).stowed then
    s.updWg g fun x => { x with freed := if x.freed.contains n then x.freed else x.freed ++ [n] }
  else s

/-- A lane has an arrival that has not been counted yet (R118). -/
def Warp.arriving (w : Warp) (k : OpKind) (l : Nat) : Bool := w.ops.any fun o => o.kind == k && o.covers l

/-- Release threads of one warp that wait at a barrier, with their acquire. -/
def State.releaseFrom (s : State) (c w : Nat) (p : Warp → Nat → Bool) : State :=
  let wp := s.warpAt c w
  let ls := allLanes.filter (p wp)
  if ls.isEmpty then s
  else
    let wp := ls.foldl (fun wp l => wp.updThread l fun t => { t with st := .active, opnd := 0, cdone := false }) wp
    ((((s.setWarpAt c w wp).acquire c).resume c w ls).settleMasks c w).grant c (w / 16)

/-- Complete a named barrier's phase when its arrivals reach its expected count (R117). A .sync thread whose own arrival
has not been counted stays, and its arrival counts in the next phase (notes/assumptions/23.md). -/
def State.settleBar (s : State) (g n : Nat) : State :=
  let x := s.wg g
  let b := fget {} x.bars n
  if b.begun ∧ b.fixed.getD (s.liveIn g) ≤ b.arrived then
    let s := (s.updWg g fun x => { x with bars := fset x.bars n { phase := !b.phase } }).keepFreed g n
    x.slots.foldl (fun s w => s.releaseFrom x.core w fun wp l =>
      !wp.stowed && (wp.thread l).st == .atBar && (wp.thread l).opnd == n && !wp.arriving .barArr l) s
  else s
def State.settleBars (s : State) (g : Nat) : State := (List.range 16).foldl (fun s n => s.settleBar g n) s

/-- The member workgroups of a cohort, by linear index (R286). -/
def Launch.member (l : Launch) (coh i : Nat) : Bool :=
  coh == 0 || l.cohorts.any fun x => x.1 == coh && decide (x.2.1 ≤ i ∧ i ≤ x.2.2)
/-- The placed workgroups of a launch. -/
def State.wgsOf (s : State) (n : Nat) : List (Nat × Wg) := s.wgs.filter (·.2.launch == n)

/-- Complete a cohort barrier's phase; each core with waiters is told in its own time (R120). -/
def State.settleCbar (s : State) (n coh : Nat) : State :=
  match s.launch n with
  | none => s
  | some l =>
    let b := fget {} l.cbars coh
    let ms := (s.wgsOf n).filter fun x => l.member coh x.2.index
    if b.begun ∧ (ms.map fun x => s.liveIn x.1).foldl (· + ·) 0 ≤ b.arrived then
      let waits (wp : Warp) (i : Nat) : Bool :=
        !wp.stowed && (wp.thread i).st == .atCbar && (wp.thread i).opnd == coh && !wp.arriving .cbarArr i && !(wp.thread i).cdone
      let here := ms.filter fun x => x.2.st != .ended && x.2.st != .saved
      let cs := (here.filter fun x => x.2.slots.any fun w => allLanes.any (waits (s.warpAt x.2.core w))).map (·.2.core)
      let s := here.foldl (fun s x => x.2.slots.foldl (fun s w => s.updWarpAt x.2.core w fun wp =>
        (allLanes.filter (waits wp)).foldl (fun wp i => wp.updThread i fun t => { t with cdone := true }) wp) s) s
      let s := (ms.filter fun x => x.2.st != .ended).foldl (fun s x => s.keepFreed x.1 (16 + coh)) s
      s.updLaunch n fun l => { l with cbars := fset l.cbars coh { phase := !b.phase }
                                      told := l.told ++ (cs.eraseDups.map fun c => (coh, c)) }
    else s
def State.settleCbars (s : State) (n : Nat) : State :=
  match s.launch n with
  | none => s
  | some l => (l.cbars.map (·.1)).foldl (fun s c => s.settleCbar n c) s

/-! ### Launch queues (spec/13_scheduling.md R281, R283) -/

/-- The status of a failed read of the hub: 4 DATA_UNCORRECTABLE, 3 TRANSLATION (R287). -/
def hubStatus (c : Cause) : Nat := if c = .dataUncorrectable then 4 else 3

/-- The 64 bytes of record i of a queue. -/
def State.recordAt (s : State) (t q i : Nat) : Except Nat Nat :=
  let x := (s.tenant t).queue q
  match s.hubRead t (x.ring + 64 * (i % 2 ^ x.log2n)) 64 with
  | .error c => .error (hubStatus c)
  | .ok r => .ok r

/-- A dependence of a record: enabled, event word, value. -/
def depOf (r k : Nat) : Bool × Nat × Nat :=
  let a := blockField r (0x18 + 16 * k) 8
  (bitOf a 63, bitsOf a 54 0, blockField r (0x20 + 16 * k) 8)
/-- A dependence as it is read now: met, or the status of a failed read. -/
def State.depRead (s : State) (t : Nat) (d : Bool × Nat × Nat) : Except Nat Bool :=
  if !d.1 then .ok true
  else match s.hubRead t d.2.1 8 with
    | .error c => .error (hubStatus c)
    | .ok v => .ok (decide (d.2.2 ≤ v))

/-- The dependences of a queue's next record are read again; one found met stays so, and a record that cannot be read
shows none of them met. -/
def State.reread (s : State) (t q : Nat) : State :=
  let x := (s.tenant t).queue q
  if !x.en ∨ x.tail ≤ x.next then s
  else match s.recordAt t q x.next with
    | .error _ => s.updQueue t q fun x => { x with met := some (x.met.getD (false, false)) }
    | .ok r =>
      let old := x.met.getD (false, false)
      let rd (k : Nat) : Bool := match s.depRead t (depOf r k) with | .error _ => false | .ok b => b
      s.updQueue t q fun x => { x with met := some (old.1 || rd 0, old.2 || rd 1) }
/-- The launch unit reads every waiting event word of a tenant again. -/
def State.rereadAll (s : State) (t : Nat) : State := (s.tenant t).queues.foldl (fun s q => s.reread t q.1) s

/-! ### The end of a launch (R284, R297) -/

/-- HEAD moves past completed records. -/
def headGo (fin : List Nat) : Nat → Nat → Nat
  | 0, h => h
  | n + 1, h => if fin.contains h then headGo fin n (h + 1) else h

/-- The hub adds to an event word: at its home here, or by an atomic request to another device. -/
def State.addWord (s : State) (tenant va pa n : Nat) : State :=
  if isFabric pa then
    s.request 196 { tenant := tenant, dest := fabricDev pa, kind := 2, op := 2 ^ 64, addr := pa, data := leBytes 8 n }
  else (s.homePart tenant va pa (leBytes 8 (s.hubBytes pa 8 + n))).1
/-- A record completes: STATUS, then the DONEA add, then HEAD (R297). -/
def State.finishRecord (s : State) (tenant q recNo recVa donea status : Nat) : State :=
  let s := s.hubWrite tenant (recVa + 0x16) (leBytes 2 status)
  let s :=
    if bitOf donea 63 ∧ bitsOf donea 62 55 ≠ 0 then
      match s.hubTranslate tenant (bitsOf donea 54 0) .rw with
      | .error _ => s
      | .ok pa => (s.addWord tenant (bitsOf donea 54 0) pa (bitsOf donea 62 55)).rereadAll tenant
    else s
  let x := (s.tenant tenant).queue q
  let fin := recNo :: x.fin
  let h := headGo fin fin.length x.head
  let s := s.updQueue tenant q fun x => { x with head := h, fin := fin.filter fun r => decide (h ≤ r) }
  s.hubWrite tenant (x.ctla + 8) (leBytes 8 h)

/-- Whether some operation of a launch's threads has not yet reached its home. -/
def State.stillOut (s : State) (n : Nat) : Bool :=
  s.cores.any fun x => x.2.warps.any fun w => (s.wg w.2.wg).launch == n && w.2.ops.any (·.unordered)

/-- A launch whose workgroups have all ended, and whose stores have all registered, completes (R297). -/
def State.settleLaunch (s : State) (n : Nat) : State :=
  match s.launch n with
  | none => s
  | some l =>
    if !l.done ∧ l.ended = l.gx * l.gy * l.gz ∧ !s.stillOut n then
      let s := s.updLaunch n fun l => { l with done := true }
      s.finishRecord l.tenant l.queue l.recNo l.recVa l.donea l.status
    else s

/-! ### Commands by number -/

def State.cmdOf (s : State) (c id : Nat) : Option Cmd := (s.core c).cmds.find? (·.id == id)
def State.updCmd (s : State) (c id : Nat) (f : Cmd → Cmd) : State :=
  s.updCore c fun k => { k with cmds := k.cmds.map fun x => if x.id = id then f x else x }

/-! ### Queues of the matrix engines (spec/09_engine_isa.md R207, spec/17_matrix_copy.md R334 to R336) -/

/-- Commands in an engine's queue: those that have not ended. -/
def Core.queued (k : Core) (e : Nat) : List Cmd := k.cmds.filter fun x => x.eng == e && !x.ended
def Core.head (k : Core) (e : Nat) : Option Cmd := pick (fun a b => decide (a.stamp < b.stamp)) (k.queued e)
def Cmd.weight (x : Cmd) : Nat := if x.op = 0x70 then x.steps - x.units else 1

/-- An older command of the same warp naming the same accumulator is outstanding. -/
def Core.olderAcc (k : Core) (x : Cmd) : Bool :=
  k.cmds.any fun y => decide (y.eng < 4 ∧ y.id < x.id) && !y.ended && y.slot == x.slot && y.acc == x.acc

/-- The decision of R336, for each queued command in issue order. -/
def State.migrate (s : State) (c : Nat) : State :=
  let thr := ((s.core c).rawCsr 5).toNat
  if thr = 0 then s
  else (s.core c).cmds.foldl (fun s x0 =>
    let k := s.core c
    match k.cmds.find? (·.id == x0.id) with
    | none => s
    | some x =>
      if decide (x.eng < 4) && !x.ended && ((k.head x.eng).map (·.id)) != some x.id && !k.olderAcc x then
        let ahead := ((k.queued x.eng).filter fun y => decide (y.stamp < x.stamp)).foldl (fun n y => n + y.weight) 0
        match (List.range 4).find? fun e => (k.queued e).isEmpty with
        | some e =>
          if thr < ahead then
            let (id, s) := s.newId
            (s.updCmd c x.id fun x => { x with eng := e, stamp := id }).countCore c 9 x.tenant 1
          else s
        | none => s
      else s) s

/-- Commands have left a core, which was `k` before: where that leaves an engine with nothing running and nothing queued,
migration is decided (R336). -/
def State.emptied (s : State) (c : Nat) (k : Core) : State :=
  if (List.range 4).any fun e => !(k.queued e).isEmpty && ((s.core c).queued e).isEmpty then s.migrate c else s

/-! ### The end of threads and of a workgroup (R106, R296) -/

/-- End threads: out of every mask, meet invalid, results discarded when they return. -/
def Warp.exitLanes (w : Warp) (m : Word) : Warp :=
  let w := w.remove m
  let w := { w with k := w.k.map fun x => (x.1, x.2 &&& ~~~m)
                    ops := w.ops.map fun o => if o.kind.long && o.mask == 0#32 && m.getLsbD o.lane then
                      { o with dest := none } else o }
  (lanesOf m).foldl (fun w l => w.updThread l fun t =>
    { t with st := .exited, meet := meetClear t.meet, cause := none, faddr := 0, findex := 0, opnd := 0
             wait := .none, pend := none, cdone := false }) w

def Warp.counters (w : Warp) : Nat := w.cmat + w.ccopy + w.cclr + w.caux

/-- The warp key of a warp whose slot is freed while operations of it are outstanding. -/
def retiredKey (g w : Nat) : Nat := 128 * (g + 1) + w

/-- A warp leaves its slot, whose registers keep what they hold until the next warp takes it; its outstanding accesses
still complete (R106, R296). -/
def State.freeSlot (s : State) (g c w : Nat) : State :=
  s.updCore c fun k =>
    let wp := k.warp w
    let k := { k with warps := fset k.warps w { v := wp.v, s := wp.s, a := wp.a, th := wp.th.map fun t => (t.1, { preds := t.2.preds }) }
                      frags := k.frags.map fun f => if f.2.valid && f.2.slot == w then
                        (f.1, { f.2 with valid := false, pend := false, mask := 0#32, kept := false }) else f
                      parts := k.parts.map fun p => if p.2.holder = some w then
                        (p.1, { p.2 with holder := none, runs := 0 }) else p
                      slotEv := k.slotEv.filter (· != w), dogEv := k.dogEv.filter (· != w) }
    let ops := wp.ops.filter fun o => o.kind != .far && o.kind != .pref && o.kind != .emu
    if ops.isEmpty then k
    else k.setWarp (retiredKey g w) { wg := wp.wg, index := wp.index, tenant := wp.tenant, ops := ops }

/-- A workgroup leaves its core: slots, allocation, weight buffer (R296, R429). -/
def State.vacate (s : State) (g : Nat) (st : WgState) : State :=
  let x := s.wg g
  let s := x.slots.foldl (fun s w => s.freeSlot g x.core w) s
  let s := s.updCore x.core fun k => { k with wbOwner := if k.wbOwner = some g then none else k.wbOwner }
  (s.updWg g fun x => { x with st := st, slots := [], bars := if st = .saved then x.bars else [] }).grantAll x.core

/-- Every warp of a workgroup has left its save handler and its stores have registered: the workgroup is saved, and
leaves its core. -/
def State.finishSave (s : State) (g : Nat) : State :=
  let x := s.wg g
  if x.st = .saving ∧ !x.slots.isEmpty ∧ x.slots.all fun w => (s.warpAt x.core w).eret && !(s.warpAt x.core w).ops.any (·.unordered) then
    let ids := x.slots.flatMap fun w =>
      let wp := s.warpAt x.core w
      allLanes.filterMap fun l => if (wp.thread l).frag = 0#32 then none else some (32 * wp.index + l, (wp.thread l).frag)
    let live := x.slots.map fun w => (s.warpAt x.core w).liveCount
    (s.updWg g fun x => { x with away := live, fragIds := ids }).vacate g .saved
  else s

/-- A fault record (spec/26_faults_checkpoint.md R421). -/
def faultBody (cause flags mask pos addr launch wg warp core frag : Nat) : Nat :=
  cause + flags * 2 ^ 8 + mask * 2 ^ 32 + pos * 2 ^ 64 + addr * 2 ^ 128 + launch * 2 ^ 192 + wg * 2 ^ 256
    + warp * 2 ^ 288 + core * 2 ^ 296 + frag * 2 ^ 320

/-- A save area returns to its tenant's pool. -/
def State.freeArea (s : State) (tenant : Nat) (a : Option Nat) : State :=
  match a with
  | none => s
  | some k => s.updTenant tenant fun t => { t with areas := t.areas.filter (· != k) }

/-- A fault in a save or restore handler ends its workgroup, with one record for each such warp (R432). -/
def State.settleHandler (s : State) (g : Nat) : State :=
  let x := s.wg g
  let bad := x.slots.filter fun w => (s.warpAt x.core w).mode != .tenant && (s.warpAt x.core w).wfault.isSome
  if bad.isEmpty then s
  else
    let t := (s.warpAt x.core (x.slots.headD 0)).tenant
    let va := match s.launch x.launch with | none => 0 | some l => l.recVa
    let rec_ (w : Nat) : FaultRec :=
      let wp := s.warpAt x.core w
      ⟨t, faultBody (match wp.wfault with | some c => c.code | none => 0) 2 wp.liveMask.toNat 0 wp.wfaddr va x.index wp.index x.core 0⟩
    let s := { s with recs := s.recs ++ bad.map rec_ }
    let k := s.core x.core
    let s := (s.updCore x.core fun k => { k with cmds := k.cmds.filter (·.wg != g) }).emptied x.core k
    let s := s.freeArea t x.area
    let s := s.vacate g .ended
    let s := s.updWg g fun x => { x with failed := true, area := none }
    let s := s.updLaunch x.launch fun l => { l with ended := l.ended + 1 }
    s.settleLaunch x.launch

/-- End a workgroup when every thread has ended and every counter is 0 (R106). -/
def State.settleEnd (s : State) (g : Nat) : State :=
  let x := s.wg g
  if x.st = .resident ∧ !x.slots.isEmpty ∧ 192 ≤ g ∧ s.liveIn g = 0 ∧
      x.slots.all (fun w => (s.warpAt x.core w).counters == 0) then
    let s := s.vacate g .ended
    let s := s.updLaunch x.launch fun l => { l with ended := l.ended + 1 }
    s.settleLaunch x.launch
  else s

/-- A fault of the warp that waits for a run boundary is taken there (spec/09_engine_isa.md R210). -/
def State.takeWpend (s : State) (c w : Nat) : State :=
  let wp := s.warpAt c w
  match wp.wpend with
  | none => s
  | some e =>
    if wp.run.isNone ∧ wp.parked.isEmpty ∧ wp.wfault.isNone then
      (s.updWarpAt c w fun wp => { wp with wpend := none }).setWfault c w e
    else s

/-- Everything a change of a warp's threads, results or counters brings about. -/
def State.settle (s : State) (c w : Nat) : State :=
  let s := s.wakeBound c w
  let s := s.takePend c w
  let s := s.takeWpend c w
  let s := s.settleMasks c w
  let g := (s.warpAt c w).wg
  let s := s.settleHandler g
  let s := s.settleBars g
  let s := s.settleCbars (s.wg g).launch
  let s := s.finishSave g
  let s := s.settleEnd g
  s.grant c (w / 16)

/-- Threads of a tenant warp end together. -/
def State.exitLanes (s : State) (c w : Nat) (m : Word) : State :=
  (s.updWarpAt c w (·.exitLanes m)).settle c w

/-- Count the arrivals whose threads' earlier stores have registered (R118, R120). -/
def State.countArrivals (s : State) (c w : Nat) : State :=
  let wp := s.warpAt c w
  wp.ops.foldl (fun s o =>
    if (o.kind == .barArr || o.kind == .cbarArr) && !(s.warpAt c w).unregistered o.lane o.id then
      let s := s.updWarpAt c w fun wp => { wp with ops := wp.ops.filter (·.id != o.id) }
      if o.kind == .barArr then
        s.updWg wp.wg fun x =>
          let b := fget {} x.bars o.aop
          let b := if b.begun then b else
            { b with begun := true, fixed := if o.data2 = 1 ∧ 1 ≤ o.data ∧ o.data ≤ 1024 then some o.data else none }
          { x with bars := fset x.bars o.aop { b with arrived := b.arrived + 1 } }
      else
        s.updLaunch (s.wg wp.wg).launch fun l =>
          let b := fget {} l.cbars o.aop
          { l with cbars := fset l.cbars o.aop { b with begun := true, arrived := b.arrived + 1 } }
    else s) s

/-- An arrival completes its phase at the first moment its count is reached (R117): count, then settle. -/
def State.settleArrivals (s : State) (c w : Nat) : State := (s.countArrivals c w).settle c w

/-- Waiters at async barriers whose phase now differs from their parity go on, with an acquire (R190, R191). -/
def State.wakeAb (s : State) : State :=
  s.cores.foldl (fun s x => x.2.warps.foldl (fun s y =>
    let wp := s.warpAt x.1 y.1
    let ls := allLanes.filter fun l => match (wp.thread l).wait with
      | .abwait pa par => !s.bad pa 16 && (s.abRead pa).phase != par
      | _ => false
    if ls.isEmpty then s
    else
      (((s.setWarpAt x.1 y.1 (ls.foldl (fun wp l => wp.updThread l fun t => { t with wait := .none }) wp)).acquire
        x.1).resume x.1 y.1 ls).settle x.1 y.1) s) s

end Sys2Proof.Machine
end

