-- ==== Sys2Proof/Machine/Issue.lean ====
section
/-! DEFINITION. Machine/Issue.lean: clauses, runs and the choice of what issues: fetching and checking a
clause, arbitration of a partition's slot, selection of a split, and what follows an instruction
(spec/04_encoding.md R72 to R80, spec/12_divergence.md R262 to R265, spec/13_scheduling.md R298). -/

namespace Sys2Proof.Machine

open Sys2Proof

/-! ### Fetching a clause (R93, R101, R265) -/

/-- The launch's patch overlay of a code word, entries in table order (R93). -/
def Launch.overlay (l : Launch) (addr : Nat) (w : Word) : Word :=
  l.patches.foldl (fun w p =>
    if l.code + 4 * p.1 = addr then
      BitVec.ofNat 32 (w.toNat / 2 ^ p.2.1 * 2 ^ p.2.1 + p.2.2 % 2 ^ p.2.1)
    else w) w

/-- Why a fetch has no word: it fails, or another device or a switch slice has not answered yet. -/
inductive Miss where
  | fault (c : Cause)
  | wait (va pa : Nat)
  deriving DecidableEq, Repr

/-- Fetch one word of a warp's code. Supervisor code is fetched at physical addresses; code in another device's memory
comes by requests (spec/15_memory_model.md R323). -/
def State.fetchWord (s : State) (c w a : Nat) : Except Miss Word :=
  let wp := s.warpAt c w
  if w = 64 ∨ wp.mode ≠ .tenant then
    if !isHbm a then .error (.fault .protection)
    else if s.swHeld a 4 then .error (.wait a a)
    else if s.bad a 4 then .error (.fault .dataUncorrectable) else .ok (BitVec.ofNat 32 (s.rdN a 4))
  else
    match s.translate c wp.tenant a .ex with
    | .error e => .error (.fault e)
    | .ok pa =>
      let word (n : Nat) : Word := match s.launch (s.wg wp.wg).launch with
        | none => BitVec.ofNat 32 n
        | some l => l.overlay a (BitVec.ofNat 32 n)
      if isFabric pa then
        match wp.farRead fetchLane pa 4 with
        | none => .error (.wait a pa)
        | some none => .error (.fault .dataUncorrectable)
        | some (some n) => .ok (word n)
      else if s.swHeld pa 4 then .error (.wait a pa)
      else if s.bad pa 4 then .error (.fault .dataUncorrectable)
      else .ok (word (s.rdN pa 4))

def State.fetchInstrs (s : State) (c w : Nat) : Nat → Nat → Except Miss (List Word)
  | 0, _ => .ok []
  | n + 1, a =>
    match s.fetchWord c w a with
    | .error e => .error e
    | .ok x =>
      if Decode.xbit x then
        match s.fetchWord c w (a + 4) with
        | .error e => .error e
        | .ok y =>
          match State.fetchInstrs s c w n (a + 8) with
          | .error e => .error e
          | .ok r => .ok (x :: y :: r)
      else
        match State.fetchInstrs s c w n (a + 4) with
        | .error e => .error e
        | .ok r => .ok (x :: r)

/-- The header's own conditions (R73). -/
def hdrLegal (h : Word) : Bool :=
  let n := h.toNat
  !bitOf n 31 && hdrN h != 0 && decide (hdrCls h ≤ 3) &&
  (if hdrCls h = 2 then
     bitsOf n 30 27 == 0 && bitsOf n 22 8 == 0 && (bitOf n 26 || bitsOf n 25 23 == 0)
   else
     decide (hdrWctr h ≤ 5) && (hdrWctr h != 0 || hdrWthr h == 0) && bitsOf n 22 (8 + hdrN h) == 0)

/-- The words of a clause: its header and, when that is legal, its instructions. -/
def State.fetchWords (s : State) (c w a : Nat) : Except Miss (List Word) :=
  if a % 4 ≠ 0 then .error (.fault .misaligned)
  else
    match s.fetchWord c w a with
    | .error e => .error e
    | .ok h =>
      if !hdrLegal h then .ok [h]
      else
        match s.fetchInstrs c w (hdrN h) (a + 4) with
        | .error e => .error e
        | .ok r => .ok (h :: r)
/-- Fetch a clause; absent while a word of it has not come. -/
def State.fetchClause (s : State) (c w a : Nat) : Clause :=
  match s.fetchWords c w a with
  | .ok ws => .present ws
  | .error (.fault e) => .failed e a
  | .error (.wait _ _) => .absent
/-- A word that a fetch lacks: of another device it is asked for, and from a switch slice it is recalled (R310). -/
def State.fetchNeed (s : State) (c w va pa : Nat) : State :=
  if isFabric pa then s.farAsk c w fetchLane va pa 4 else s.swRecall pa
/-- Ask for the word that a fetch lacks; what it has read of another device is dropped once the fetch is complete. -/
def State.fetchAsk (s : State) (c w : Nat) (x : Except Miss (List Word)) (a : Nat) : State :=
  match x with
  | .error (.wait va pa) => s.fetchNeed c w va pa
  | _ => s.updWarpAt c w (·.farDone fun o => o.lane == fetchLane && decide (a ≤ o.va ∧ o.va < a + 128))

/-! ### Legality of a clause (R73, R74, R79) -/

/-- A control transfer (R79). -/
def isTransferWord (w : Word) : Bool :=
  decide (1 ≤ Decode.opcode w ∧ Decode.opcode w ≤ 8) || (Decode.opcode w == 0x7C && w.toNat / 2 ^ 21 % 8 == 0)

/-- The clause is legal apart from the conditions on the clause that follows it. -/
def clauseLegal (ws : List Word) : Bool :=
  match ws with
  | [] => false
  | h :: _ =>
    let is := (clauseInstrs ws).map (·.1)
    hdrLegal h
    && (is.dropLast.all fun w => !isTransferWord w)
    && (!hdrCont h || !((is.getLast?.map isTransferWord).getD false))
    && (is.all fun w => match Decode.classOf (Decode.opcode w) with | none => true | some k => k == hdrCls h)

/-- What is wrong with a split's clause before its first instruction issues: cause, and the faulting
address where the spec states it (R73, R74, R96 orders 1 and 2). A split that starts past slot 0 has its own clause
checked and not the next one's header (notes/assumptions/64.md). DESIGN CHOICE (notes/assumptions/81.md): R96 does not
order the cause of a next header that cannot be fetched against PRIVILEGED; the fetch's cause comes first. -/
def State.clauseFault (s : State) (c w : Nat) (r : Split) : Option (Cause × Option Nat) :=
  let next : Option (Cause × Option Nat) :=
    if hdrCont r.hdr ∧ !r.second ∧ r.slot = 0 then
      match s.fetchWord c w r.after with
      | .error (.fault e) => some (e, some r.after)
      | .error (.wait _ _) => none
      | .ok h2 =>
        if hdrCont h2 ∨ 24 < hdrN r.hdr + hdrN h2 then some (.illegalClause, none) else none
    else none
  if !clauseLegal r.words then some (.illegalClause, none)
  else if next.isSome then next
  else if hdrCls r.hdr = 3 ∧ w ≠ 64 ∧ (s.warpAt c w).mode = .tenant then some (.privileged, none)
  else none

/-- The clause wait of R75. -/
def Warp.waitMet (w : Warp) (h : Word) : Bool :=
  if hdrCls h = 2 then true
  else
    let t := hdrWthr h
    match hdrWctr h with
    | 0 => true
    | 1 => decide (w.cmat ≤ t)
    | 2 => decide (w.ccopy ≤ t)
    | 3 => decide (w.cclr ≤ t)
    | 4 => decide (w.caux ≤ t)
    | _ => decide (w.cmat ≤ t ∧ w.ccopy ≤ t ∧ w.cclr ≤ t ∧ w.caux ≤ t)

/-- The counter a WAITC names (R192): 1 mat, 2 copy, 3 clr, 4 aux, 5 all. -/
def Warp.ctrMet (w : Warp) (ctr n : Nat) : Bool :=
  match ctr with
  | 1 => decide (w.cmat ≤ n)
  | 2 => decide (w.ccopy ≤ n)
  | 3 => decide (w.cclr ≤ n)
  | 4 => decide (w.caux ≤ n)
  | _ => decide (w.cmat ≤ n ∧ w.ccopy ≤ n ∧ w.cclr ≤ n ∧ w.caux ≤ n)

/-- The operand-buffer rows in use on a core: those of valid tile records, and those that outstanding
commands read or write (R200, R201, R218). -/
def tileRows (t : BitVec 64) : Nat × Nat := (bitsOf t.toNat 56 47, bitsOf t.toNat 46 36)
def Core.rowUsed (k : Core) (r : Nat) : Bool :=
  let hit (t : BitVec 64) : Bool := t.getLsbD 63 && decide ((tileRows t).1 ≤ r ∧ r < (tileRows t).1 + (tileRows t).2)
  (k.warps.any fun w => decide (w.1 < 64) && w.2.t.any fun t => hit t.2) || k.cmds.any fun c => hit c.tile
/-- The lowest base of a run of free rows (R200). -/
def Core.freeRun (k : Core) (n : Nat) : Option Nat :=
  let free := (List.range 1024).map fun r => !k.rowUsed r
  let rec go (l : List Bool) (i : Nat) (run : Nat) : Option Nat :=
    match l with
    | [] => none
    | b :: l => if b then (if run + 1 = n then some (i + 1 - n) else go l (i + 1) (run + 1)) else go l (i + 1) 0
  go free 0 0

/-- The event that SVCWAIT reports next, as its word (spec/10_system_clearing_isa.md R238). -/
def Core.nextEvent (k : Core) : Option Word :=
  let low (l : List Nat) : Nat := l.foldl min 63
  if !k.mbox.isEmpty then some 0x03000000#32
  else if !k.slotEv.isEmpty then some (BitVec.ofNat 32 (0x02000000 + low k.slotEv))
  else if !k.dogEv.isEmpty then some (BitVec.ofNat 32 (0x05000000 + low k.dogEv))
  else match k.frags.find? fun f => f.2.valid && f.2.pend with
    | some f => some (BitVec.ofNat 32 (0x01000000 + f.1))
    | none => none

/-- A split parked mid-run can go on (R263, R75, R192, R200, R238). -/
def State.parkReady (s : State) (c : Nat) (w : Warp) (p : Split) : Bool :=
  p.ib && match p.park with
  | .running => true
  | .marker => (lanesOf p.mask).all fun l => !w.awaits l
  | .clauseWait => w.waitMet p.hdr
  | .waitc =>
    (match (clauseInstrs p.words)[p.slot]? with
     | none => true
     | some (x, _, _) => w.ctrMet (x.toNat / 2 ^ 6 % 8) (x.toNat % 64))
  | .obres =>
    (match (clauseInstrs p.words)[p.slot]? with
     | none => true
     | some (x, _, _) =>
       let rows := (w.reg64 (x.toNat / 2 ^ 10 % 128) 0) % 2 ^ 11
       ((s.core c).freeRun rows).isSome)
  | .svcwait => (s.core c).nextEvent.isSome

/-! ### Selection (R262, R265) -/

def Group.selectable (g : Group) : Bool := g.ib && g.words != .absent

def lowerPos (a b : Group) : Bool := decide (a.addr < b.addr) || (a.addr == b.addr && decide (a.slot < b.slot))

/-- The group R262 chooses. -/
def Warp.choose (w : Warp) (fairlim : Nat) : Option Group :=
  let s := w.groups.filter (·.selectable)
  if s.any fun g => decide (fairlim ≤ g.count) then
    pick (fun a b => decide (b.count < a.count) || (a.count == b.count && lowerPos a b)) s
  else pick lowerPos s

/-- The group that R262 would choose among all of a warp's groups can be selected (R277). -/
def Warp.firstHeld (w : Warp) (fairlim : Nat) : Bool :=
  match ({ w with groups := w.groups.map fun g => { g with ib := true, words := .present [] } } : Warp).choose fairlim with
  | none => true
  | some g => w.groups.any fun h => h.addr == g.addr && h.slot == g.slot && h.selectable

/-- The split a chosen group issues as. -/
def Group.split (g : Group) : Split :=
  { mask := g.mask, addr := g.addr, slot := g.slot,
    words := match g.words with | .present ws => ws | _ => [] }

/-- The warp is ready (R298): a parked split can go on, or the chosen group's clause wait is met. A warp that a
save request has reached starts no further run (spec/26_faults_checkpoint.md R428). -/
def State.ready (s : State) (c w : Nat) : Bool :=
  let k := s.core c; let wp := k.warp w
  wp.live && wp.wfault.isNone && !wp.eret && wp.run.isNone &&
  ((wp.parked.any fun p => s.parkReady c wp p) ||
   (match (if wp.saving && wp.mode == .tenant then none else wp.choose ((k.rawCsr 1).toNat % 64)) with
    | none => false
    | some g => (!wp.restored || wp.firstHeld ((k.rawCsr 1).toNat % 64)) &&
      match g.words with
      | .present ws => !clauseLegal ws || wp.waitMet (ws.headD 0#32)
      | _ => true))

/-- A split of n threads issues: sources 0x02 and 0x03 (spec/28_system.md R466). -/
def State.countIssue (s : State) (c tenant n : Nat) : State := (s.countCore c 2 tenant 1).countCore c 3 tenant n

/-- Begin the run of the split R262 chooses. -/
def State.select (s : State) (c w : Nat) : State :=
  let k := s.core c; let wp := k.warp w
  match wp.parked.find? fun p => s.parkReady c wp p with
  | some p =>
    (s.setWarpAt c w { wp with parked := wp.parked.erase p, run := some { p with park := .running } }).countIssue c wp.tenant
      (lanesOf p.mask).length
  | none =>
    match wp.choose ((k.rawCsr 1).toNat % 64) with
    | none => s
    | some g =>
      let gs := (wp.groups.filter fun h => !(h.addr == g.addr && h.slot == g.slot)).map fun h =>
        if h.selectable then { h with count := min (h.count + 1) 63 } else h
      (s.setWarpAt c w { wp with groups := gs, run := some g.split, restored := false }).countIssue c wp.tenant (lanesOf g.mask).length

/-- Arbitration of a partition's issue slot (R298): the warp that takes it. -/
def State.arbitrate (s : State) (c q : Nat) : State × Option Nat :=
  let k := s.core c
  let p := fget ({} : Part) k.parts q
  let rs := (partSlots q).filter fun w => s.ready c w
  let keep (w : Nat) : Bool := rs.contains w && !p.yielded && decide (p.runs < 32)
  match p.holder with
  | some w =>
    if keep w then
      (s.updCore c fun k => { k with parts := fset k.parts q { p with runs := p.runs + 1 } }, some w)
    else go rs (rs.filter (· != w))
  | none => go rs rs
where
  go (rs others : List Nat) : State × Option Nat :=
    let take (w : Nat) (s : State) : State × Option Nat :=
      (s.updCore c fun k => { k with parts := fset k.parts q { holder := some w, runs := 1, yielded := false } }, some w)
    let older (a b : Nat) : Bool :=
      let x := s.warpAt c a; let y := s.warpAt c b
      decide (x.age < y.age) || (x.age == y.age && decide (a < b))
    let count (w : Nat) : Nat := (s.warpAt c w).apass
    match others with
    | [] => match rs with
      | [] => (s.updCore c fun k => { k with parts := fset k.parts q { fget ({} : Part) k.parts q with yielded := true } }, none)
      | w :: _ => take w s
    | _ =>
      let best := if others.any fun w => decide (15 ≤ count w) then
          pick (fun a b => decide (count b < count a) || (count a == count b && older a b)) others
        else pick older others
      match best with
      | none => (s, none)
      | some w =>
        let s := rs.foldl (fun s v => s.updWarpAt c v fun x =>
          { x with apass := if v = w then 0 else min (x.apass + 1) 63 }) s
        take w s

/-! ### After an instruction -/

/-- The instruction does not issue now and is tried again. -/
def State.stalled (s : State) : State := { s with flow := .stall }

/-- The holder of the acting warp's partition has stalled: the next turn arbitrates (R124, R298). -/
def State.stallSlot (s : State) : State :=
  if s.cur.slot < 64 then
    s.updCore s.cur.core fun k =>
      { k with parts := fset k.parts (s.cur.slot / 16) { fget ({} : Part) k.parts (s.cur.slot / 16) with yielded := true } }
  else s

/-- The run in progress gives up the slot at its end (R124). -/
def State.yields (s : State) : Bool := match s.warp.run with | none => false | some r => r.yield

/-- The run ends with no thread left in it. -/
def State.dropRun (s : State) : State :=
  let t := s.updWarp fun w => { w with run := none }
  if s.yields then t.stallSlot else t

/-- The run ends and its threads go to positions; behind a marker they wait for their results (R77). -/
def State.endRun (s : State) (marker : Bool) (ts : List (Nat × Nat × Nat)) : State :=
  let wait := (marker && ts.any fun t => s.warp.awaits t.1) || s.yields
  let s := (s.updWarp fun w => { w with run := none }).goAll s.cur.core s.cur.slot marker ts
  if wait then s.stallSlot else s

/-- Whether the instruction being issued stands under a switch marker. -/
def State.marked (s : State) : Bool :=
  match s.warp.run with | none => false | some r => hdrSw r.hdr r.slot

/-- The position after the instruction being issued. -/
def State.nextPos (s : State) : Nat × Nat :=
  match s.warp.run with | none => (0, 0) | some r => r.nextPos

/-- A control transfer: each remaining thread of the split goes to an address, slot 0 (R101). -/
def State.transfer (s : State) (target : Nat → Nat) : State :=
  { s.endRun s.marked (s.lanes.map fun l => (l, target l, 0)) with flow := .moved }

/-- Threads leave the split to wait inside the instruction; they go on at the position after it (R80). -/
def State.leaveToWait (s : State) (ls : List Nat) (f : Thread → Thread) : State :=
  let h := s.here; let n := s.nextPos; let mk := s.marked
  s.updWarp fun w =>
    let w := ls.foldl (fun (w : Warp) l => w.updThread l fun t =>
      f { t with addr := h.1, slot := h.2, naddr := n.1, nslot := n.2, nmark := mk }) w
    { w with run := w.run.map fun r => { r with mask := r.mask &&& ~~~(maskOf ls) } }

/-- Park the running split. -/
def State.parkRun (s : State) (p : Park) : State :=
  (s.updWarp fun w => match w.run with
    | none => w
    | some r => { w with run := none, parked := w.parked ++ [{ r with park := p }] }).stallSlot

/-- The next clause's header, which the checks of a split's clause need, where another device has not sent it yet. -/
def State.headWait (s : State) (r : Split) : Option (Nat × Nat) :=
  if hdrCont r.hdr ∧ !r.second ∧ r.slot = 0 ∧ clauseLegal r.words then
    match s.fetchWord s.cur.core s.cur.slot r.after with
    | .error (.wait va pa) => some (va, pa)
    | _ => none
  else none

/-- The checks before a clause's first instruction, in the run's split: a fault, a park, or on it goes; it waits for a
header that it must see. -/
def State.startClause (s : State) : State :=
  match s.warp.run with
  | none => s
  | some r =>
    match s.headWait r with
    | some (va, pa) => s.fetchNeed s.cur.core s.cur.slot va pa
    | none =>
    match s.clauseFault s.cur.core s.cur.slot r with
    | some (e, some a) => s.faultSplitAt r.addr 0 e a
    | some (e, none) => s.faultOpenAt r.addr 0 e
    | none =>
      let s := s.updWarp fun w => { w with run := w.run.map fun r => { r with checked := true } }
      if s.warp.waitMet r.hdr then s else s.parkRun .clauseWait

/-- Fetch the words of the run's clause where they are not at hand, then make its checks (R101). -/
def State.openClause (s : State) : State :=
  match s.warp.run with
  | none => s
  | some r =>
    if r.words.isEmpty then
      let x := s.fetchWords s.cur.core s.cur.slot r.addr
      let s := s.fetchAsk s.cur.core s.cur.slot x r.addr
      match x with
      | .ok ws => (s.updWarp fun w => { w with run := w.run.map fun r => { r with words := ws } }).startClause
      | .error (.fault e) => s.faultSplitAt r.addr r.slot e r.addr
      | .error (.wait _ _) => s
    else s.startClause

/-- A run none of whose threads is left ends; a warp stopped by its fault slot keeps its split. -/
def State.tidy (s : State) : State :=
  match s.warp.run with
  | none => s
  | some r =>
    if r.mask = 0#32 then s.dropRun
    else if s.warp.wfault.isSome then s.parkRun .running else s

/-- Enter the second clause of a run: held threads leave, the words are fetched, the checks are made. -/
def State.enterSecond (s : State) : State :=
  match s.warp.run with
  | none => s
  | some r =>
    let a := r.after
    let w := s.warp
    let stay := (lanesOf r.mask).filter fun l => !w.meetsAt l a 0
    let held := (lanesOf r.mask).filter fun l => w.meetsAt l a 0
    -- a thread outside the mask that its meet names keeps no meet (R108)
    let w := stay.foldl (fun w l => w.unmeet l 0) w
    let r' := { r with mask := maskOf stay, addr := a, slot := 0, second := true, words := [], checked := false }
    let s := s.setWarp { w with run := if stay.isEmpty then none else some r' }
    -- what the held threads complete is released before the second clause issues (R110)
    let s := if held.isEmpty then s
      else (s.arriveLanes s.cur.core s.cur.slot (held.map fun l => (l, a, 0))).settleMasks s.cur.core s.cur.slot
    if stay.isEmpty then (if r.yield then s.stallSlot else s) else s.openClause

/-- What follows an instruction that its split has passed: the marker, the next slot, the next clause, the
end of the run (R77 to R80). -/
def State.advance (s : State) : State :=
  match s.warp.run with
  | none => s
  | some r =>
    if r.mask = 0#32 then s.dropRun
    else
      let mark := hdrSw r.hdr r.slot
      let stop := mark && (lanesOf r.mask).any fun l => s.warp.awaits l || (s.warp.thread l).pend.isSome
      let last := decide (hdrN r.hdr ≤ r.slot + 1)
      if last && !(hdrCont r.hdr && !r.second) then s.endRun mark ((lanesOf r.mask).map fun l => (l, r.after, 0))
      else
        let s := s.updWarp fun w => { w with run := some { r with slot := r.slot + 1 } }
        if stop then s.parkRun .marker
        else if last then s.enterSecond else s

/-- What follows any instruction, by the way it left its split. -/
def State.afterIssue (s : State) : State :=
  let s := if s.flow = .stall then s else s.updWarp (·.farDone fun o => decide (o.lane < fetchLane))
  let s := match s.flow with
    | .advance => s.advance
    | .stall => s
    | .park p => s.parkRun p
    | .moved => s
  s.tidy.settle s.cur.core s.cur.slot

/-- One or more cycles of a core's clock pass: %cycle and the watchdog counts (R30, R423). -/
def Warp.tick (w : Warp) (n : Nat) : Warp :=
  if w.live ∧ w.wfault.isNone ∧ (allLanes.any fun l => (w.thread l).st != .exited && (w.thread l).st != .parked) then
    { w with wdog := w.wdog + n }
  else w
/-- Splits parked at a marker: of the service warp, or of the core's tenant. -/
def Core.markers (k : Core) (service : Bool) : Nat :=
  (k.warps.filter fun x => (x.1 == 64) == service).foldl (fun n x => n + (x.2.parked.filter (·.park == .marker)).length) 0
/-- A partition whose holder stands between two runs and is not ready: the holder has stalled there (R298). -/
def State.idleHolder (s : State) (c : Nat) (p : Part) : Bool :=
  match p.holder with
  | none => false
  | some w => !p.yielded && (s.warpAt c w).run.isNone && !s.ready c w
/-- At each cycle a holder between two runs has its selection point, and one that is not ready there stalls (R298). -/
def State.noteStalls (s : State) (c : Nat) : State :=
  if (s.core c).parts.any fun p => s.idleHolder c p.2 then
    s.updCore c fun k => { k with parts := k.parts.map fun p => if s.idleHolder c p.2 then (p.1, { p.2 with yielded := true }) else p }
  else s
/-- Cycles of a core pass. Splits of its tenant that wait at a marker count under source 0x07; the service warp's count
there is of no tenant (spec/28_system.md R467). -/
def State.passCycles (s : State) (c n : Nat) : State :=
  let s := s.noteStalls c
  (s.updCore c fun k => ((k.count 1 k.tenant n).count 7 k.tenant (n * k.markers false)).count 7 0xFF (n * k.markers true)).updCore c fun k => { k with cycle := k.cycle + n, warps := k.warps.map fun x => (x.1, if x.1 < 64 then x.2.tick n else x.2) }

/-- Before an instruction issues: a run that stands at the end of its first clause enters the second one; a
split that starts at a clause is checked. -/
def State.beforeIssue (s : State) : State :=
  match s.warp.run with
  | none => s
  | some r =>
    (if hdrN r.hdr ≤ r.slot ∧ clauseLegal r.words then s.enterSecond
     else if r.checked then s else s.openClause).tidy

/-- The instruction at the split's slot, with the fate of words that are none (R96). -/
inductive Fate where
  | none
  | cause (c : Cause)
  | run (i : Instr)
  deriving DecidableEq, Repr

def State.nextInstr (s : State) : Fate :=
  match s.warp.run with
  | none => .none
  | some r =>
    match (clauseInstrs r.words)[r.slot]? with
    | none => .none
    | some (w, x, _) =>
      match Decode.core w x with
      | .ok i => .run i
      | .error c =>
        if c = .formatReserved then
          match Decode.parse w x with
          | none => .cause c
          | some i => if s.warp.countsOk i then .cause c else .cause .illegalOpcode
        else .cause c

/-- The issue state: the acting warp, its flow, its watchdog count at 0 (R423). -/
def State.atIssue (s : State) (c w : Nat) : State :=
  { s with cur := { core := c, slot := w, src := c }, flow := .advance }

/-- The run in progress has an instruction to issue: its clause has come and passed its checks. -/
def State.due (s : State) : Bool := match s.warp.run with | none => false | some r => r.checked

/-- A split's turn in a partition: the running split of the holder, else the one arbitration and selection
choose; the second result tells whether an instruction is due. DESIGN CHOICE (notes/assumptions/74.md): the spec states
no number of cycles for an issue; every turn of a partition or of the service warp passes one cycle of its core, so that
two partitions of a core never issue in one cycle. -/
def State.turnOf (s : State) (c q : Nat) : State × Bool :=
  let s := s.passCycles c 1
  match (partSlots q).find? fun w => (s.warpAt c w).run.isSome with
  | some w =>
    let s := s.atIssue c w
    if s.warp.wfault.isSome then ((s.parkRun .running).settle c w, false)
    else
      let s := s.beforeIssue
      if s.due then (s, true) else (s.settle c w, false)
  | none =>
    match s.arbitrate c q with
    | (s, none) => (s, false)
    | (s, some w) =>
      let s := ((s.atIssue c w).select c w).beforeIssue
      if s.due then (s, true) else (s.settle c w, false)

/-- The service warp's turn: its own path (R299); it passes one cycle of its core (DESIGN CHOICE, notes/assumptions/74.md). -/
def State.turnOfService (s : State) (c : Nat) : State × Bool :=
  let s := s.passCycles c 1
  if (s.core c).stopped then (s, false)
  else if (s.warpAt c 64).run.isNone && !s.ready c 64 then (s, false)
  else
    let s := s.atIssue c 64
    let s := (if s.warp.run.isSome then s else s.select c 64).beforeIssue
    if s.due then (s, true) else (s.settle c 64, false)

end Sys2Proof.Machine
end

