-- ==== Sys2Proof/Machine/Control.lean ====
section
/-! DEFINITION. Machine/Control.lean: control flow and convergence instructions
(spec/05_control.md R100 to R125, spec/04_encoding.md R92). -/

namespace Sys2Proof.Machine

open Sys2Proof

/-- The target of a B-format instruction: the branch word's address + 4 × OFF (R87). -/
def State.branchTarget (s : State) (off : BitVec 20) : Nat :=
  match s.warp.run with
  | none => 0
  | some r => modW 64 ((r.wordAddr : Int) + 4 * sext 20 off.toNat)

/-- The fall-through of the clause (R79). -/
def State.fallThrough (s : State) : Nat := match s.warp.run with | none => 0 | some r => r.after

/-- NOP changes no state (R124). -/
def execNop (o : VOps) (s : State) : Host.Outcome State Fault Refusal := s.gated (.nop o) id

/-- YIELD gives up the issue slot at the end of its run (R124). -/
def execYield (o : VOps) (s : State) : Host.Outcome State Fault Refusal :=
  s.gated (.yield o) (·.updWarp fun w => { w with run := w.run.map fun r => { r with yield := true } })

/-- BRA (R102). -/
def execBra (o : BOps) (s : State) : Host.Outcome State Fault Refusal :=
  s.gated (.bra o) fun s => let t := s.branchTarget o.off; s.transfer fun _ => t

/-- BRP: a thread branches when its predicate, inverted under C[3], is true (R103). -/
def execBrp (o : BOps) (s : State) : Host.Outcome State Fault Refusal :=
  s.gated (.brp o) fun s =>
    let t := s.branchTarget o.off; let n := s.fallThrough; let w := s.warp
    let p := o.c.toNat % 8
    s.transfer fun l => if w.pred p l != o.c.getLsbD 3 then t else n

/-- CALL: link, then branch (R104). -/
def execCall (o : BOps) (s : State) : Host.Outcome State Fault Refusal :=
  s.gated (.call o) fun s =>
    let t := s.branchTarget o.off; let n := s.fallThrough
    let s := s.updWarp fun w => s.lanes.foldl (fun w l => w.setReg64 (2 * o.c.toNat) l n) w
    s.transfer fun _ => t

/-- RET: each thread goes to the address in its pair; a lane with bit 0 or 1 set faults MISALIGNED (R104). -/
def execRet (o : VOps) (s : State) : Host.Outcome State Fault Refusal :=
  s.gated (.ret o) fun s =>
    let w := s.warp
    let a (l : Nat) : Nat := w.reg64 o.a.toNat l
    s.withFaults ((s.lanes.filter fun l => a l % 4 != 0).map fun l => (l, .misaligned, a l)) fun s => s.transfer a

/-- The words of the target block from a list of entry numbers, or the lowest failing word (R92). -/
def State.blockWord (s : State) (w0 : Nat) (e : Nat) : Except Miss Word :=
  s.fetchWord s.cur.core s.cur.slot (w0 + 4 * e)

/-- The first of some words that cannot be fetched, or have not come. -/
def State.blockFault (s : State) (w0 : Nat) (es : List Nat) : Option (Miss × Nat) :=
  es.findSome? fun e => match s.blockWord w0 e with | .ok _ => none | .error c => some (c, w0 + 4 * e)

/-- A word of the target block is not there: the whole split faults, or waits for it. -/
def State.blockMiss (s : State) (x : Miss × Nat) : State :=
  match x.1 with
  | .fault c => s.faultSplit c x.2
  | .wait va pa => (s.farAsk s.cur.core s.cur.slot fetchLane va pa 4).stalled
/-- What has been read of the target block is dropped once the instruction goes on. -/
def State.blockDone (s : State) (w0 : Nat) : State :=
  s.updWarp (·.farDone fun o => o.lane == fetchLane && decide (w0 ≤ o.va ∧ o.va < w0 + 1024))

/-- The target an entry yields: word 0's address + 4 × its signed offset. -/
def State.blockTarget (s : State) (w0 e : Nat) : Nat :=
  match s.blockWord w0 e with
  | .error _ => 0
  | .ok x => modW 64 ((w0 : Int) + 4 * sext 32 x.toNat)

/-- Word 0 of the target block: its count, or the fault of the whole split (R92). -/
def State.withBlock (s : State) (f : Nat → Nat → State) : State :=
  let w0 := s.fallThrough
  match s.blockWord w0 0 with
  | .error c => s.blockMiss (c, w0)
  | .ok x =>
    if bitsOf x.toNat 31 8 ≠ 0xB7B700 ∨ x.toNat % 256 = 0 then s.faultOpen .illegalClause
    else f w0 (x.toNat % 256)

/-- JMPX and CALLX: the address must be one that an entry yields (R105). -/
def State.indirect (s : State) (a : BitVec 7) (link : Option (BitVec 7)) : State :=
  s.withBlock fun w0 count =>
    let es := (List.range count).map (· + 1)
    match s.blockFault w0 es with
    | some x => s.blockMiss x
    | none =>
      let w := s.warp
      let addr (l : Nat) : Nat := w.reg64 a.toNat l
      let ts := es.map fun e => s.blockTarget w0 e
      s.withFaults ((s.lanes.filter fun l => !ts.contains (addr l)).map fun l => (l, .targetUnlisted, addr l)) fun s =>
        let s := match link with
          | none => s
          | some d => s.updWarp fun w => s.lanes.foldl (fun w l => w.setReg64 d.toNat l (w0 + 4 * (count + 1))) w
        (s.blockDone w0).transfer addr

/-- CALLX (R105). -/
def execCallx (o : VOps) (s : State) : Host.Outcome State Fault Refusal :=
  s.gated (.callx o) fun s => s.indirect o.a (some o.d)

/-- JMPX (R105). -/
def execJmpx (o : VOps) (s : State) : Host.Outcome State Fault Refusal :=
  s.gated (.jmpx o) fun s => s.indirect o.a none

/-- BRT: each thread takes the entry its index names (R105). -/
def execBrt (o : VOps) (s : State) : Host.Outcome State Fault Refusal :=
  s.gated (.brt o) fun s => s.withBlock fun w0 count =>
    let w := s.warp
    let ix (l : Nat) : Nat := (w.reg o.a.toNat l).toNat
    let used := (List.range count).filter fun e => s.lanes.any fun l => ix l == e
    match s.blockFault w0 (used.map (· + 1)) with
    | some x => s.blockMiss x
    | none =>
      s.withFaults ((s.lanes.filter fun l => decide (count ≤ ix l)).map fun l => (l, .branchRange, ix l)) fun s =>
        let t (l : Nat) : Nat := s.blockTarget w0 (ix l + 1)
        (s.blockDone w0).transfer t

/-- EXIT ends each thread of the split (R106). -/
def execExit (o : VOps) (s : State) : Host.Outcome State Fault Refusal :=
  s.gated (.exit o) fun s =>
    let t := s.updWarp (·.exitLanes s.mask)
    { (if s.yields then t.stallSlot else t) with flow := .moved }

/-- MEET arms each thread's meet register and adds the thread to the mask (R107). -/
def execMeet (o : BOps) (s : State) : Host.Outcome State Fault Refusal :=
  s.gated (.meet o) fun s =>
    let k := o.c.toNat; let t := s.branchTarget o.off; let m := s.mask
    s.updWarp fun w =>
      let w := w.setMask k (w.kmask k ||| m)
      (lanesOf m).foldl (fun w l => w.updThread l fun x => { x with meet := meetMake k t }) w

/-- LEAVE removes each thread from the mask, and clears a meet that names it (R109). -/
def execLeave (o : VOps) (s : State) : Host.Outcome State Fault Refusal :=
  s.gated (.leave o) fun s =>
    let k := o.d.toNat; let m := s.mask
    s.updWarp fun w =>
      let w := w.setMask k (w.kmask k &&& ~~~m)
      (lanesOf m).foldl (fun w l => w.updThread l fun x =>
        if meetMask x.meet = k then { x with meet := meetClear x.meet } else x) w

/-- JOIN adds each thread to the mask (R109). -/
def execJoin (o : VOps) (s : State) : Host.Outcome State Fault Refusal :=
  s.gated (.join o) fun s => let k := o.d.toNat; let m := s.mask; s.updWarp fun w => w.setMask k (w.kmask k ||| m)

/-- WAITM holds the members of the mask; the others pass (R111). -/
def execWaitm (o : VOps) (s : State) : Host.Outcome State Fault Refusal :=
  s.gated (.waitm o) fun s =>
    let k := o.d.toNat; let w := s.warp
    s.leaveToWait (s.lanes.filter fun l => w.inMask k l) fun t => { t with wait := .waitm k }

/-- Armed threads that a write of mask k removes from it lose their meet, against R114's sentence on KMOV
(notes/assumptions/95.md); held ones are released by R110 (R267). -/
def Warp.disarm (w : Warp) (k : Nat) (m : Word) : Warp :=
  (allLanes.filter fun l => w.inMask k l && !m.getLsbD l && (w.thread l).st != .held).foldl (fun w l =>
    w.updThread l fun t => if meetMask t.meet = k then { t with meet := meetClear t.meet } else t) w

/-- KMOV moves a whole mask (R114). -/
def execKmov (o : VOps) (s : State) : Host.Outcome State Fault Refusal :=
  s.gated (.kmov o) fun s =>
    if o.b = 0#7 then s.updWarp fun w => w.setReg o.d.toNat 0 (w.kmask o.a.toNat)
    else s.updWarp fun w => (w.disarm o.d.toNat (w.reg o.a.toNat 0 &&& w.liveMask)).setMask o.d.toNat
      (w.reg o.a.toNat 0 &&& w.liveMask)

/-- MEETRD (R115). -/
def execMeetrd (o : VOps) (s : State) : Host.Outcome State Fault Refusal :=
  s.gated (.meetrd o) fun s =>
    let ls := s.lanes
    s.updWarp fun w => ls.foldl (fun w l => w.setReg64 o.d.toNat l (w.thread l).meet.toNat) w

/-- A value MEETWR refuses: a reserved bit, MASK 12 to 15, or ADDR[1:0] not 0 (R115). -/
def meetBad (n : Nat) : Bool :=
  bitsOf n 62 60 != 0 || bitOf n 55 || decide (12 ≤ bitsOf n 59 56) || n % 4 != 0

/-- MEETWR (R115). -/
def execMeetwr (o : VOps) (s : State) : Host.Outcome State Fault Refusal :=
  s.gated (.meetwr o) fun s =>
    let w := s.warp
    let v (l : Nat) : Nat := w.reg64 o.a.toNat l
    s.withFaults ((s.lanes.filter fun l => meetBad (v l)).map fun l => (l, .recordInvalid, v l)) fun s =>
      let ls := s.lanes
      s.updWarp fun w => ls.foldl (fun w l => w.updThread l fun t => { t with meet := BitVec.ofNat 64 (v l) }) w

/-- Record one arrival for each lane, to be counted once its earlier stores have registered (R118). -/
def State.addArrivals (s : State) (k : OpKind) (n data mode : Nat) : State :=
  let ls := s.lanes
  ls.foldl (fun s l =>
    let (id, s) := s.newId
    s.updWarp fun w =>
      { w with ops := w.ops ++ [{ id := id, lane := l, kind := k, aop := n, data := data, data2 := mode, rel := true }] }) s

/-- BAR: the arrivals, and for .sync the wait (R116, R117). -/
def State.bar (s : State) (o : IOps) (sync : Bool) : State :=
  let n := o.imm.toNat % 16
  let cnt := if o.imm.getLsbD 5 then (s.warp.reg o.a.toNat s.lowest).toNat % 2 ^ 11 else 0
  let mode := if o.imm.getLsbD 5 then 1 else 0
  let c := s.cur.core; let w := s.cur.slot
  let s := s.addArrivals .barArr n cnt mode
  let s := if sync then s.leaveToWait s.lanes fun t => { t with st := .atBar, opnd := n } else s
  s.countArrivals c w

/-- BAR.sync (R117). -/
def execBarSync (o : IOps) (s : State) : Host.Outcome State Fault Refusal := s.gated (.barSync o) fun s => s.bar o true

/-- BAR.arv (R117). -/
def execBarArv (o : IOps) (s : State) : Host.Outcome State Fault Refusal := s.gated (.barArv o) fun s => s.bar o false

/-- Whether the warp's workgroup may arrive at a cohort barrier (R120). -/
def State.cohortOk (s : State) (coh : Nat) : Bool :=
  match s.launch (s.wg s.warp.wg).launch with
  | none => false
  | some l => bitOf l.cbarmap coh && l.member coh (s.wg s.warp.wg).index

/-- CBAR: a cohort with no barrier faults CBAR_NONRESIDENT; else the arrivals and, for .sync, the wait (R120). -/
def State.cbar (s : State) (o : IOps) (sync : Bool) : State :=
  let coh := o.imm.toNat % 256
  if !s.cohortOk coh then s.faultSplit .cbarNonresident coh
  else
    let c := s.cur.core; let w := s.cur.slot
    let s := s.addArrivals .cbarArr coh 0 0
    let s := if sync then s.leaveToWait s.lanes fun t => { t with st := .atCbar, opnd := coh } else s
    s.countArrivals c w

/-- CBAR.sync (R120). -/
def execCbarSync (o : IOps) (s : State) : Host.Outcome State Fault Refusal := s.gated (.cbarSync o) fun s => s.cbar o true

/-- CBAR.arv (R120). -/
def execCbarArv (o : IOps) (s : State) : Host.Outcome State Fault Refusal := s.gated (.cbarArv o) fun s => s.cbar o false

/-- GOPEN sets a guard slot to unresolved (R121). -/
def execGopen (o : VOps) (s : State) : Host.Outcome State Fault Refusal :=
  s.gated (.gopen o) fun s => s.updWarp fun w => { w with g := fset w.g o.d.toNat .unresolved }

/-- TRAP: SOFTWARE_TRAP in every thread, recorded past the trap (R125). -/
def execTrap (o : IOps) (s : State) : Host.Outcome State Fault Refusal :=
  s.gated (.trap o) fun s => let n := s.nextPos; s.faultSplitAt n.1 n.2 .softwareTrap (o.imm.toNat % 512)

end Sys2Proof.Machine
end

