-- ==== Sys2Proof/Machine/Num.lean ====
section
/-! DEFINITION. Machine/Num.lean: the number formats, exact values and the one rounding
(spec/03_numbers.md R41 to R63). -/

namespace Sys2Proof.Machine

open Sys2Proof

/-! ### Formats and decoding (R41 to R51) -/

/-- A decoded value: (-1)^neg * m * 2^e when finite. -/
inductive FVal where
  | nan (neg : Bool)
  | inf (neg : Bool)
  | fin (neg : Bool) (m : Nat) (e : Int)
  deriving DecidableEq, Repr

/-- A floating format: bit of the sign (none when unsigned), trailing bits, bias, largest finite magnitude
code, infinity and NaN codes, and whether it has a negative zero (R43, R47 to R50). -/
structure FFmt where
  sign : Option Nat
  t    : Nat
  bias : Nat
  gmax : Nat
  inf  : Option Nat
  nan  : Option Nat
  nz   : Bool
  deriving DecidableEq, Repr

def fp32 : FFmt := ⟨some 31, 23, 127, 0x7F7FFFFF, some 0x7F800000, some 0x7FC00000, true⟩
def bf16 : FFmt := ⟨some 15, 7, 127, 0x7F7F, some 0x7F80, some 0x7FC0, true⟩
def fp16 : FFmt := ⟨some 15, 10, 15, 0x7BFF, some 0x7C00, some 0x7E00, true⟩
def e4m3 : FFmt := ⟨some 7, 3, 7, 0x7E, none, some 0x7F, true⟩
def e5m2 : FFmt := ⟨some 7, 2, 15, 0x7B, some 0x7C, some 0x7E, true⟩
def e2m1 : FFmt := ⟨some 3, 1, 1, 7, none, none, true⟩
/-- The binary8 format of a code (R41, R48). -/
def b8 (f : Nat) : FFmt :=
  let p := f % 8
  match f / 8 with
  | 2 => ⟨some 7, p - 1, 2 ^ (7 - p), 0x7E, some 0x7F, some 0x80, false⟩
  | 3 => ⟨some 7, p - 1, 2 ^ (7 - p), 0x7F, none, some 0x80, false⟩
  | 4 => ⟨none, p - 1, 2 ^ (8 - p), 0xFD, some 0xFE, some 0xFF, false⟩
  | _ => ⟨none, p - 1, 2 ^ (8 - p), 0xFE, none, some 0xFF, false⟩

/-- The floating formats of R41 other than E8M0. -/
def ffmt (f : Nat) : Option FFmt :=
  match f with
  | 0 => some fp32 | 1 => some bf16 | 2 => some fp16 | 3 => some e4m3 | 4 => some e5m2 | 5 => some e2m1
  | _ => if WellFormed.fmtB8 f then some (b8 f) else none

/-- Integer formats: width and signedness (R51). -/
def ifmt (f : Nat) : Option (Nat × Bool) :=
  match f with
  | 7 => some (8, true) | 8 => some (8, false) | 9 => some (16, true) | 10 => some (32, true)
  | 11 => some (32, false) | 12 => some (4, true)
  | _ => none

/-- The value of a magnitude code on a format's grid. -/
def gridVal (f : FFmt) (g : Nat) : Nat × Int :=
  let e := g / 2 ^ f.t; let m := g % 2 ^ f.t
  if e = 0 then (m, 1 - (f.bias : Int) - f.t) else (2 ^ f.t + m, (e : Int) - f.bias - f.t)

/-- Decode a floating code (R43, R47, R48). -/
def decodeF (f : FFmt) (c : Nat) : FVal :=
  match f.sign with
  | none =>
    if f.nan = some c then .nan false else if f.inf = some c then .inf false
    else .fin false (gridVal f c).1 (gridVal f c).2
  | some b =>
    let neg := bitOf c b; let g := c % 2 ^ b
    if f.nz = false ∧ c = 2 ^ b then .nan false
    else if f.inf = some g then .inf neg
    else if f.gmax < g then .nan neg
    else .fin neg (gridVal f g).1 (gridVal f g).2

/-- Decode an element of a format code (R41). Integers carry their integer values (R162). -/
def decodeE (f c : Nat) : FVal :=
  match ffmt f with
  | some x => decodeF x c
  | none =>
    if f = 6 then (if c = 0xFF then .nan false else .fin false 1 ((c : Int) - 127))
    else match ifmt f with
      | some (w, true) => let z := sext w c; .fin (decide (z < 0)) z.natAbs 0
      | _ => .fin false c 0

def dec32 (w : Word) : FVal := decodeF fp32 w.toNat

/-! ### Exact values before rounding -/

/-- The integer square root, by bits. -/
def isqrtGo (n : Nat) : Nat → Nat → Nat
  | 0, r => r
  | k + 1, r => let r' := r + 2 ^ k; isqrtGo n k (if r' * r' ≤ n then r' else r)
def isqrt (n : Nat) : Nat := isqrtGo n (Nat.log2 n / 2 + 1) 0

/-- A positive magnitude, exact: a quotient n / d * 2^x, a square root of one, or an irrational number known
to lie strictly between m * 2^x and (m + 1) * 2^x. -/
inductive Mag where
  | rat (n d : Nat) (x : Int)
  | root (n d : Nat) (x : Int)
  | near (m : Nat) (x : Int)
  deriving DecidableEq, Repr

/-- Floor of n / d * 2^s and whether it is exact. -/
def quot (n d : Nat) (s : Int) : Nat × Bool :=
  let a := if 0 ≤ s then n * 2 ^ s.toNat else n
  let b := if 0 ≤ s then d else d * 2 ^ (-s).toNat
  (a / b, a % b == 0)

/-- Floor of the magnitude times 2^k, and whether it is exact. -/
def Mag.floorAt (m : Mag) (k : Int) : Nat × Bool :=
  match m with
  | .rat n d x => quot n d (x + k)
  | .root n d x => let q := quot n d (x + 2 * k); let r := isqrt q.1; (r, q.2 && r * r == q.1)
  | .near n x => ((quot n 1 (x + k)).1, false)

/-- Floor of the base-2 logarithm of a positive magnitude. -/
def Mag.log2 (m : Mag) : Int :=
  let guess : Int := match m with
    | .rat n d x => (Nat.log2 n : Int) - Nat.log2 d + x
    | .root n d x => ((Nat.log2 n : Int) - Nat.log2 d + x) / 2
    | .near n x => (Nat.log2 n : Int) + x
  if 1 ≤ (m.floorAt (-guess)).1 then
    (if 1 ≤ (m.floorAt (-(guess + 1))).1 then guess + 1 else guess) else guess - 1

/-- An exact result before its rounding. -/
inductive Ex where
  | nan (neg : Bool)
  | inf (neg : Bool)
  | zero (neg : Bool)
  | num (neg : Bool) (m : Mag)
  deriving DecidableEq, Repr

def Ex.ofF : FVal → Ex
  | .nan n => .nan n
  | .inf n => .inf n
  | .fin n m e => if m = 0 then .zero n else .num n (.rat m 1 e)

/-- An exact dyadic z * 2^e; `zn` is the sign of an exact zero. -/
def Ex.ofInt (z : Int) (e : Int) (zn : Bool) : Ex :=
  if z = 0 then .zero zn else .num (decide (z < 0)) (.rat z.natAbs 1 e)

/-! ### Rounding (R53 to R58, R61) -/

/-- Where a magnitude lies on a grid: the grid index at or below it, its place against the middle of the gap
(0 on the point, 1 below the middle, 2 at it, 3 above it), and the 32 bits of the fraction (R54, R61). -/
structure Place where
  g : Nat
  at_ : Nat
  d : Nat
  deriving DecidableEq, Repr

def placeAt (m : Mag) (q : Int) (base : Nat) : Place :=
  let n := m.floorAt (-q)
  let h := (m.floorAt (1 - q))
  let at_ := if n.2 then 0 else if h.1 % 2 = 0 then 1 else if h.2 then 2 else 3
  ⟨base + n.1, at_, if n.2 then 0 else (m.floorAt (32 - q)).1 - n.1 * 2 ^ 32⟩

/-- On a floating grid, which above the largest finite value keeps the spacing of the top binade (R54). -/
def placeF (f : FFmt) (m : Mag) : Place :=
  let e : Int := min (max (m.log2 + f.bias) 1) (max (f.gmax / 2 ^ f.t : Nat) 1)
  placeAt m (e - f.bias - f.t) ((e - 1).toNat * 2 ^ f.t)

/-- On the integers (R60). -/
def placeI (m : Mag) : Place := placeAt m 0 0

def mix32 (x : Word) : Word :=
  let x := x ^^^ (x >>> 16)
  let x := x * 0x7FEB352D#32
  let x := x ^^^ (x >>> 15)
  let x := x * 0x846CA68B#32
  x ^^^ (x >>> 16)
def rot16 (x : Word) : Word := (x <<< 16) ||| (x >>> 16)

/-- The hash of position i (0 to 7) with its neighbours' fractions (R61). -/
def srHash (dPrev dNext : Nat) (i seed : Nat) : Nat :=
  (mix32 (BitVec.ofNat 32 dPrev ^^^ rot16 (BitVec.ofNat 32 dNext) ^^^ BitVec.ofNat 32 (i * 0x9E3779B1)
    ^^^ BitVec.ofNat 32 (seed * 0x01010101))).toNat

/-- Whether a rounding takes the larger-magnitude neighbour (R53, R54, R61). -/
def roundsUp (rnd : Nat) (neg : Bool) (p : Place) (h : Nat) : Bool :=
  match rnd with
  | 0 => p.at_ == 3 || (p.at_ == 2 && p.g % 2 == 1)
  | 1 => false
  | 2 => p.at_ != 0 && !neg
  | 3 => p.at_ != 0 && neg
  | 4 => decide (2 ≤ p.at_)
  | _ => decide (2 ^ 32 ≤ p.d + h)

def signed (f : FFmt) (neg : Bool) (g : Nat) : Nat :=
  match f.sign with | some b => if neg then g + 2 ^ b else g | none => g

/-- Overflow into a floating format (R55). -/
def overflowF (f : FFmt) (rnd : Nat) (sat neg : Bool) : Nat :=
  if rnd = 1 ∨ (rnd = 2 ∧ neg) ∨ (rnd = 3 ∧ !neg) ∨ sat then signed f neg f.gmax
  else match f.inf, f.nan with
    | some i, _ => signed f neg i
    | none, some n => if f = e4m3 then signed f neg n else n
    | none, none => signed f neg f.gmax

/-- A result that rounds to zero (R57). -/
def zeroCode (f : FFmt) (neg : Bool) : Nat := if f.nz then signed f neg 0 else 0

/-- Round an exact value into a floating format; `h` is the hash of stochastic rounding. An infinite value
stays infinite unless `infSat` (R54, R55, R57, R58). -/
def roundF (f : FFmt) (rnd : Nat) (sat infSat : Bool) (h : Nat) (x : Ex) : Nat :=
  match x with
  | .nan neg => (match f.nan with | none => 0 | some n => if f = e4m3 then signed f neg n else n)
  | .inf neg =>
    if f.sign = none ∧ neg then (if infSat then 0 else f.nan.getD 0)
    else if infSat then signed f neg f.gmax
    else (match f.inf, f.nan with
      | some i, _ => signed f neg i
      | none, some n => if f = e4m3 then signed f neg n else n
      | none, none => signed f neg f.gmax)
  | .zero neg => zeroCode f neg
  | .num neg m =>
    let p := placeF f m
    let g := if roundsUp rnd neg p h then p.g + 1 else p.g
    if f.sign = none ∧ neg then (if g = 0 then 0 else if sat then 0 else f.nan.getD 0)
    else if g = 0 then zeroCode f neg
    else if f.gmax < g then overflowF f rnd sat neg
    else signed f neg g

/-- Round into E8M0, which has no zero (R57, R58). Its grid is the powers of two, code c at place c + 1, and, below
them, zero; a tie goes to the even code (R53), and one with zero to zero (notes/assumptions/8.md). -/
def e8Up (rnd : Nat) (neg : Bool) (p : Place) (h : Nat) : Bool :=
  if rnd = 0 then p.at_ == 3 || (p.at_ == 2 && p.g % 2 == 0) else roundsUp rnd neg p h
def e8m0Grid : FFmt := ⟨none, 0, 128, 255, none, some 0xFF, false⟩
def roundE8 (rnd : Nat) (sat : Bool) (h : Nat) (x : Ex) : Nat :=
  match x with
  | .nan _ => 0xFF
  | .inf neg => if neg then (if sat then 0 else 0xFF) else if sat then 0xFE else 0xFF
  | .zero _ => if sat then 0 else 0xFF
  | .num neg m =>
    let p := placeF e8m0Grid m
    let g := if e8Up rnd neg p h then p.g + 1 else p.g
    if neg then (if g = 0 then 0 else if sat then 0 else 0xFF)
    else if p.g = 0 then 0
    else if 255 < g then
      (if rnd = 1 ∨ rnd = 3 ∨ sat then 0xFE else 0xFF)
    else g - 1

/-- Round into an integer format, clamping (R55, R57, R60). -/
def roundI (w : Nat) (sg : Bool) (rnd h : Nat) (x : Ex) : Nat :=
  let hi : Int := if sg then 2 ^ (w - 1) - 1 else 2 ^ w - 1
  let lo : Int := if sg then -(2 ^ (w - 1)) else 0
  let z : Int := match x with
    | .nan _ => 0
    | .inf neg => if neg then lo else hi
    | .zero _ => 0
    | .num neg m =>
      let p := placeI m
      let g : Int := if roundsUp rnd neg p h then p.g + 1 else p.g
      if neg then -g else g
  modW w (max lo (min hi z))

/-- The discarded fraction of an exact value in a destination format, 0 when nothing is discarded (R61). -/
def discard (dst : Nat) (x : Ex) : Nat :=
  match x with
  | .num _ m =>
    (match ffmt dst with
     | some f => (placeF f m).d
     | none => if dst = 6 then (placeF e8m0Grid m).d else (placeI m).d)
  | _ => 0

/-- Round an exact value into the format of a code (R54 to R58, R60). -/
def roundTo (dst rnd : Nat) (sat infSat : Bool) (h : Nat) (x : Ex) : Nat :=
  match ffmt dst with
  | some f => roundF f rnd sat infSat h x
  | none =>
    if dst = 6 then roundE8 rnd sat h x
    else match ifmt dst with
      | some (w, sg) => roundI w sg rnd h x
      | none => 0

/-- RoundNE32 (R70). -/
def ne32 (x : Ex) : Word := BitVec.ofNat 32 (roundF fp32 0 false false 0 x)
def neBf (x : Ex) : Nat := roundF bf16 0 false false 0 x

/-- A conversion that holds every value of its source is exact and keeps infinities (R59). -/
def holdsAll (src dst : Nat) : Bool :=
  src == dst || (dst == 0 && (decide (src ≤ 6) || WellFormed.fmtB8 src))
  || (dst == 1 && (decide (3 ≤ src ∧ src ≤ 6) || WellFormed.fmtB8 src))
  || (dst == 2 && (decide (3 ≤ src ∧ src ≤ 5)
      || ((decide (0x13 ≤ src ∧ src ≤ 0x17) || decide (0x1B ≤ src ∧ src ≤ 0x1F)
        || decide (0x24 ≤ src ∧ src ≤ 0x27) || decide (0x2C ≤ src ∧ src ≤ 0x2F)) && src % 8 != 0)))

/-- Conv of R162: one element from format src to format dst. DESIGN CHOICE (notes/assumptions/83.md): an integer conversion
that does not narrow, but whose value the destination does not hold (INT8 -1 to UINT32), wraps with saturation off, as R60
has it for a narrowing one; R55 case 3 could be read as saturating it. -/
def conv (src dst rnd : Nat) (sat : Bool) (h : Nat) (c : Nat) : Nat :=
  match ifmt src, ifmt dst with
  | some (ws, sg), some (wd, dg) =>
    let z : Int := if sg then sext ws c else (c : Int)
    if sat then
      (let hi : Int := if dg then 2 ^ (wd - 1) - 1 else 2 ^ wd - 1
       let lo : Int := if dg then -(2 ^ (wd - 1)) else 0
       modW wd (max lo (min hi z)))
    else modW wd z
  | _, _ => roundTo dst rnd sat (sat && !holdsAll src dst) h (Ex.ofF (decodeE src c))

/-! ### Exact arithmetic (R138) -/

def FVal.isNan : FVal → Bool | .nan _ => true | _ => false
def FVal.neg : FVal → Bool | .nan n => n | .inf n => n | .fin n _ _ => n
def FVal.isZero : FVal → Bool | .fin _ 0 _ => true | _ => false
def FVal.flip : FVal → FVal
  | .nan n => .nan n | .inf n => .inf (!n) | .fin n m e => .fin (!n) m e
def FVal.abs : FVal → FVal
  | .nan _ => .nan false | .inf _ => .inf false | .fin _ m e => .fin false m e
/-- The signed numerator of a finite value at exponent k, at or below its own. -/
def alignInt (neg : Bool) (m : Nat) (e k : Int) : Int :=
  let z : Int := m * 2 ^ (e - k).toNat
  if neg then -z else z

/-- x + y, exact; `rdn` decides the sign of an exact zero of opposite signs (R138). -/
def addE (rdn : Bool) (x y : FVal) : Ex :=
  match x, y with
  | .nan _, _ | _, .nan _ => .nan false
  | .inf a, .inf b => if a = b then .inf a else .nan false
  | .inf a, _ => .inf a
  | _, .inf b => .inf b
  | .fin a m e, .fin b n f =>
    let k := min e f
    Ex.ofInt (alignInt a m e k + alignInt b n f k) k (if a = b then a else rdn)

/-- x * y, exact. -/
def mulF (x y : FVal) : FVal :=
  match x, y with
  | .nan _, _ | _, .nan _ => .nan false
  | .inf a, .inf b => .inf (a != b)
  | .inf a, .fin b n _ => if n = 0 then .nan false else .inf (a != b)
  | .fin a m _, .inf b => if m = 0 then .nan false else .inf (a != b)
  | .fin a m e, .fin b n f => .fin (a != b) (m * n) (e + f)

def mulE (x y : FVal) : Ex := Ex.ofF (mulF x y)
/-- x * y + z, exact. -/
def fmaE (rdn : Bool) (x y z : FVal) : Ex := addE rdn (mulF x y) z

/-- x / y, exact. -/
def divE (x y : FVal) : Ex :=
  match x, y with
  | .nan _, _ | _, .nan _ => .nan false
  | .inf _, .inf _ => .nan false
  | .inf a, .fin b _ _ => .inf (a != b)
  | .fin a _ _, .inf b => .zero (a != b)
  | .fin a m e, .fin b n f =>
    if m = 0 then (if n = 0 then .nan false else .zero (a != b))
    else if n = 0 then .inf (a != b)
    else .num (a != b) (.rat m n (e - f))

/-- The square root, exact. -/
def sqrtE (x : FVal) : Ex :=
  match x with
  | .nan _ => .nan false
  | .inf n => if n then .nan false else .inf false
  | .fin n m e => if m = 0 then .zero n else if n then .nan false else .num false (.root m 1 e)

/-- Comparison of two values that are not NaN: -1, 0 or 1; zeros are equal. -/
def cmpF (x y : FVal) : Int :=
  match x, y with
  | .inf a, .inf b => if a = b then 0 else if a then -1 else 1
  | .inf a, _ => if a then -1 else 1
  | _, .inf b => if b then 1 else -1
  | .fin a m e, .fin b n f =>
    let k := min e f
    (alignInt a m e k - alignInt b n f k).sign
  | _, _ => 0

/-! ### The functions of opcode 0x30 (R142) -/

/-- pi and ln 2 as fixed-point numbers, with 640 and 512 fraction bits. -/
def piFix : Nat := 0x3243f6a8885a308d313198a2e03707344a4093822299f31d0082efa98ec4e6c89452821e638d01377be5466cf34e90c6cc0ac29b7c97c50dd3f84d5b5b54709179216d5d98979fb1bd1310ba698dfb5ac
def ln2Fix : Nat := 0xb17217f7d1cf79abc9e3b39803f2f6af40f343267298b62d8a0d175b8baafa2be7b876206debac98559552fb4afa1b10ed2eae35c138214427573b291169b825

/-- Sum of t^n / n! from a term on, fixed point with p fraction bits. -/
def expGo (p t : Nat) : Nat → Nat → Nat → Nat
  | 0, _, _ => 0
  | fuel + 1, n, term => term + expGo p t fuel (n + 1) (term * t / 2 ^ p / (n + 1))
/-- e^t for 0 ≤ t < 1. -/
def expFix (p t : Nat) : Nat := expGo p t 120 0 (2 ^ p)

/-- Alternating series for sin and cos: terms of degree n, n + 2, … -/
def trigGo (p t2 : Nat) : Nat → Nat → Int → Int
  | 0, _, _ => 0
  | fuel + 1, n, term => term + trigGo p t2 fuel (n + 2) (-(term * t2 / 2 ^ p / ((n + 1) * (n + 2) : Nat)))
def sinFix (p t : Nat) : Int := trigGo p (t * t / 2 ^ p) 64 1 t
def cosFix (p t : Nat) : Int := trigGo p (t * t / 2 ^ p) 64 0 (2 ^ p)

/-- The irrational result whose fixed-point value with p fraction bits is z. -/
def Ex.ofFix (z : Int) (p : Nat) : Ex :=
  if 0 ≤ z then .num false (.near z.toNat (-(p : Int))) else .num true (.near ((-z).toNat - 1) (-(p : Int)))

/-- 2^y (R142). -/
def exp2E (x : FVal) : Ex :=
  match x with
  | .nan _ => .nan false
  | .inf n => if n then .zero false else .inf false
  | .fin n m e =>
    if m = 0 then .num false (.rat 1 1 0)
    else
      let p : Nat := 480
      let y : Int := if 0 ≤ e then ((m * 2 ^ (min e 16).toNat * 2 ^ p : Nat) : Int) else ((if 0 ≤ (p : Int) + e then m * 2 ^ ((p : Int) + e).toNat else 1 : Nat) : Int)
      let y := if n then -y else y
      let i : Int := y / ((2 ^ p : Nat) : Int)
      let fr : Nat := (y % ((2 ^ p : Nat) : Int)).toNat
      let i := max (-400) (min 400 i)
      if fr = 0 then .num false (.rat 1 1 i)
      else .num false (.near (expFix p (fr * (ln2Fix / 2 ^ 32) / 2 ^ p)) (i - p))

/-- ln of f / 2^p for 1 ≤ f / 2^p < 2, by 2 atanh((f - 1) / (f + 1)). -/
def atanhGo (p u2 : Nat) : Nat → Nat → Nat → Nat
  | 0, _, _ => 0
  | fuel + 1, n, term => term / n + atanhGo p u2 fuel (n + 2) (term * u2 / 2 ^ p)
def lnFix (p f : Nat) : Nat :=
  let u := (f - 2 ^ p) * 2 ^ p / (f + 2 ^ p)
  2 * atanhGo p (u * u / 2 ^ p) 160 1 u

/-- log2 x (R142). -/
def log2E (x : FVal) : Ex :=
  match x with
  | .nan _ => .nan false
  | .inf n => if n then .nan false else .inf false
  | .fin n m e =>
    if m = 0 then .inf true
    else if n then .nan false
    else
      let k : Nat := Nat.log2 m
      let i : Int := k + e
      if m = 2 ^ k then Ex.ofInt i 0 false
      else
        let p : Nat := 448
        let f : Nat := m * 2 ^ (p - k)
        let frac : Nat := lnFix p f * 2 ^ p / (ln2Fix / 2 ^ 64)
        Ex.ofFix (i * ((2 ^ p : Nat) : Int) + frac) p

/-- sin or cos of a finite nonzero value: reduced by multiples of pi / 2 with full precision. -/
def trigE (cos : Bool) (neg : Bool) (m : Nat) (e : Int) : Ex :=
  let p : Nat := 400
  let q : Nat := 640
  let x : Nat := if 0 ≤ (q : Int) + e then m * 2 ^ ((q : Int) + e).toNat else 0
  let half := piFix / 2
  let n := x / half
  let r := (x % half) / 2 ^ (q - p)
  let quad := (if cos then n + 1 else n) % 4
  let v := if quad % 2 = 0 then sinFix p r else cosFix p r
  let v := if 2 ≤ quad then -v else v
  Ex.ofFix (if neg ∧ !cos then -v else v) p

def sinE (x : FVal) : Ex :=
  match x with
  | .nan _ | .inf _ => .nan false
  | .fin n m e => if m = 0 then .zero n else trigE false n m e
def cosE (x : FVal) : Ex :=
  match x with
  | .nan _ | .inf _ => .nan false
  | .fin n m e => if m = 0 then .num false (.rat 1 1 0) else trigE true n m e

/-- tanh x (R142): ±1.0 from magnitude 10 on. -/
def tanhE (x : FVal) : Ex :=
  match x with
  | .nan _ => .nan false
  | .inf n => .num n (.rat 1 1 0)
  | .fin n m e =>
    if m = 0 then .zero n
    else if cmpF (.fin false m e) (.fin false 10 0) ≥ 0 then .num n (.rat 1 1 0)
    else
      let p : Nat := 448
      -- e^(2x) = 2^i * e^r with 2x = i ln 2 + r
      let t : Nat := if 0 ≤ (p : Int) + 1 + e then m * 2 ^ ((p : Int) + 1 + e).toNat else 0
      let l : Nat := ln2Fix / 2 ^ 64
      let i := t / l
      let ex := expFix p (t % l) * 2 ^ i
      let v := (ex - 2 ^ p) * 2 ^ p / (ex + 2 ^ p)
      .num n (.near v (-(p : Int)))

end Sys2Proof.Machine
end

