-- ==== Sys2Proof/Machine/Flags.lean ====
section
/-! DEFINITION. Machine/Flags.lean: the conditions that write predicates, and the classification word
(spec/06_vector.md R136, R140, R141). No instruction sets a condition flag (R126). -/

namespace Sys2Proof.Machine

open Sys2Proof

/-- ICMP and SCMP conditions (R136): 0 eq, 1 ne, 2 lt, 3 le, 4 gt, 5 ge. -/
def icond (c : Nat) (x y : Int) : Bool :=
  match c with
  | 0 => decide (x = y)
  | 1 => decide (x ≠ y)
  | 2 => decide (x < y)
  | 3 => decide (x ≤ y)
  | 4 => decide (x > y)
  | _ => decide (x ≥ y)

/-- FCMP conditions (R140). -/
def fcond (c : Nat) (x y : FVal) : Bool :=
  let un := x.isNan || y.isNan
  match c with
  | 0 => !un && decide (cmpF x y = 0)
  | 1 => un || decide (cmpF x y ≠ 0)
  | 2 => !un && decide (cmpF x y < 0)
  | 3 => !un && decide (cmpF x y ≤ 0)
  | 4 => !un && decide (cmpF x y > 0)
  | 5 => !un && decide (cmpF x y ≥ 0)
  | 6 => un
  | _ => !un

/-- FCLASS: the bit a word's class sets (R141). -/
def fclassBit (w : Word) : Nat :=
  let neg := w.getLsbD 31; let e := w.toNat / 2 ^ 23 % 256; let m := w.toNat % 2 ^ 23
  if e = 255 then (if m ≠ 0 then 8 else if neg then 0 else 7)
  else if e = 0 then
    (if m = 0 then (if neg then 3 else 4) else if neg then 2 else 5)
  else if neg then 1 else 6

end Sys2Proof.Machine
end

