-- ==== Sys2Proof/Machine/IntVec.lean ====
section
/-! DEFINITION. Machine/IntVec.lean: integer vector instructions and uniform arithmetic
(spec/06_vector.md R126 to R136, R146, R147). -/

namespace Sys2Proof.Machine

open Sys2Proof

/-! ### Types and packed elements (R129, spec/03_numbers.md R52) -/

/-- The type field TY (R85); .i32 with X = 0. -/
def vTy (o : VOps) : Nat := match o.x with | none => 0 | some e => e.fmt.toNat / 8
def vSat (o : VOps) : Bool := match o.x with | none => false | some e => e.sat == 1#1
def tyWidth (ty : Nat) : Nat := if ty < 2 then 32 else if ty < 4 then 16 else 8
def tySigned (ty : Nat) : Bool := ty % 2 == 0

/-- Element k of width w of a register, as bits. -/
def elemN (w : Nat) (x : Word) (k : Nat) : Nat := x.toNat / 2 ^ (w * k) % 2 ^ w

/-- A register from its elements of width w, element 0 lowest. -/
def packElems (w : Nat) : List Nat → Nat
  | [] => 0
  | e :: es => e % 2 ^ w + 2 ^ w * packElems w es
def ofElems (w : Nat) (es : List Nat) : Word := BitVec.ofNat 32 (packElems w es)

/-- An element's value under a type. -/
def tyVal (ty n : Nat) : Int := if tySigned ty then sext (tyWidth ty) n else (n : Int)

/-- Fit: wrap, or clamp to the type's range (R129). -/
def fit (ty : Nat) (sat : Bool) (z : Int) : Nat :=
  let w := tyWidth ty
  if sat then
    let hi : Int := if tySigned ty then 2 ^ (w - 1) - 1 else 2 ^ w - 1
    let lo : Int := if tySigned ty then -(2 ^ (w - 1)) else 0
    modW w (max lo (min hi z))
  else modW w z

/-- A computation per element on bits: x, y and the old d. -/
def mapElems (w : Nat) (f : Nat → Nat → Nat → Nat) (x y z : Word) : Word :=
  ofElems w ((List.range (32 / w)).map fun k => f (elemN w x k) (elemN w y k) (elemN w z k))

/-- A typed operation per element on values (R129, R130). -/
def tyOp (o : VOps) (op : Int → Int → Int → Int) (x y z : Word) : Word :=
  let ty := vTy o
  mapElems (tyWidth ty) (fun a b c => fit ty (vSat o) (op (tyVal ty a) (tyVal ty b) (tyVal ty c))) x y z

/-- An integer vector instruction: in each lane a, permuted b and the old d give the new d. -/
def State.intVec (s : State) (o : VOps) (f : Word → Word → Word → Word) : State :=
  let m := s.mask
  s.perLane o.d fun w l => f (w.reg o.a.toNat l) (w.regB m o l) (w.reg o.d.toNat l)

/-- The same with operand b not permuted: pm is the selector. -/
def State.selVec (s : State) (o : VOps) (f : Word → Word → Word → Word) : State :=
  s.perLane o.d fun w l => f (w.reg o.a.toNat l) (w.reg o.b.toNat l) (w.reg o.d.toNat l)

/-! ### Operations -/

def iaddOp (x y _ : Int) : Int := x + y
def isubOp (x y _ : Int) : Int := x - y
def imulOp (x y _ : Int) : Int := x * y
def imacOp (x y z : Int) : Int := z + x * y
def iminOp (x y _ : Int) : Int := min x y
def imaxOp (x y _ : Int) : Int := max x y
/-- |x - y|, written unsigned: it always fits (R130). -/
def iabsdOp (x y _ : Int) : Int := (x - y).natAbs
/-- The high w bits of the product (R130). -/
def imulhOp (w : Nat) (x y _ : Int) : Int := x * y / 2 ^ w
/-- The fitted sum as a value of the type. -/
def fitted (o : VOps) (z : Int) : Int := tyVal (vTy o) (fit (vTy o) (vSat o) z)
def iaddminOp (o : VOps) (x y z : Int) : Int := min z (fitted o (x + y))
def iaddmaxOp (o : VOps) (x y z : Int) : Int := max z (fitted o (x + y))

/-- Shifts, counts as unsigned elements (R132). -/
def shlEl (w x c : Nat) : Nat := if w ≤ c then 0 else x * 2 ^ c % 2 ^ w
def shrEl (w x c : Nat) : Nat := if w ≤ c then 0 else x / 2 ^ c
def sarEl (w x c : Nat) : Nat := modW w (sext w x / 2 ^ (min c w))
def rolEl (w x c : Nat) : Nat := let k := c % w; (x * 2 ^ k + x / 2 ^ (w - k)) % 2 ^ w
def popEl (w x : Nat) : Nat := ((List.range w).filter fun i => bitOf x i).length
def clzEl (w x : Nat) : Nat := if x = 0 then w else w - 1 - Nat.log2 x
def brevEl (w x : Nat) : Nat := (List.range w).foldl (fun a i => if bitOf x i then a + 2 ^ (w - 1 - i) else a) 0

/-- Division truncated toward zero, with the corners of R131. -/
def idivW (sg : Bool) (x y : Word) : Word :=
  if y = 0#32 then 0xFFFFFFFF#32
  else if sg then BitVec.ofNat 32 (modW 32 (Int.tdiv x.toInt y.toInt)) else BitVec.ofNat 32 (x.toNat / y.toNat)
def iremW (sg : Bool) (x y : Word) : Word :=
  if y = 0#32 then x
  else if sg then BitVec.ofNat 32 (modW 32 (x.toInt - y.toInt * Int.tdiv x.toInt y.toInt))
  else BitVec.ofNat 32 (x.toNat % y.toNat)

/-- Position and length of a bit field, clipped to the register (R134). -/
def bfField (y : Word) : Nat × Nat :=
  let pos := y.toNat % 256; let len := y.toNat / 256 % 256
  (pos, if 32 ≤ pos then 0 else min len (32 - pos))
def bfxW (sg : Bool) (x y : Word) : Word :=
  let (pos, len) := bfField y
  let f := x.toNat / 2 ^ pos % 2 ^ len
  if len = 0 then 0#32 else if sg then BitVec.ofNat 32 (modW 32 (sext len f)) else BitVec.ofNat 32 f
def bfiW (x y z : Word) : Word :=
  let (pos, len) := bfField y
  let m := BitVec.ofNat 32 ((2 ^ len - 1) * 2 ^ pos)
  (z &&& ~~~m) ||| (BitVec.ofNat 32 (x.toNat * 2 ^ pos) &&& m)

/-- A long result computed at issue: one operation for each lane of the split (R127). -/
def State.longLanes (s : State) (d : BitVec 7) (f : Warp → Nat → Word) : State :=
  let w := s.warp
  s.lanes.foldl (fun s l =>
    let (id, s) := s.newId
    s.updWarp fun x => { x with ops := x.ops ++ [{ id := id, lane := l, kind := .fn, dest := some d, done := true, val := (f w l).toNat }] }) s

/-! ### Meanings -/

/-- IADD (R130). -/
def execIadd (o : VOps) (s : State) : Host.Outcome State Fault Refusal := s.gated (.iadd o) (·.intVec o (tyOp o iaddOp))
/-- ISUB (R130). -/
def execIsub (o : VOps) (s : State) : Host.Outcome State Fault Refusal := s.gated (.isub o) (·.intVec o (tyOp o isubOp))
/-- IMUL (R130). -/
def execImul (o : VOps) (s : State) : Host.Outcome State Fault Refusal := s.gated (.imul o) (·.intVec o (tyOp o imulOp))
/-- IMULH (R130). -/
def execImulh (o : VOps) (s : State) : Host.Outcome State Fault Refusal :=
  s.gated (.imulh o) (·.intVec o (tyOp o (imulhOp (tyWidth (vTy o)))))
/-- IMAC (R130). -/
def execImac (o : VOps) (s : State) : Host.Outcome State Fault Refusal := s.gated (.imac o) (·.intVec o (tyOp o imacOp))
/-- IDIV, a long result (R131). -/
def execIdiv (o : VOps) (s : State) : Host.Outcome State Fault Refusal :=
  s.gated (.idiv o) fun s => let m := s.mask
    s.longLanes o.d fun w l => idivW (tySigned (vTy o)) (w.reg o.a.toNat l) (w.regB m o l)
/-- IREM, a long result (R131). -/
def execIrem (o : VOps) (s : State) : Host.Outcome State Fault Refusal :=
  s.gated (.irem o) fun s => let m := s.mask
    s.longLanes o.d fun w l => iremW (tySigned (vTy o)) (w.reg o.a.toNat l) (w.regB m o l)
/-- IMIN (R130). -/
def execImin (o : VOps) (s : State) : Host.Outcome State Fault Refusal := s.gated (.imin o) (·.intVec o (tyOp o iminOp))
/-- IMAX (R130). -/
def execImax (o : VOps) (s : State) : Host.Outcome State Fault Refusal := s.gated (.imax o) (·.intVec o (tyOp o imaxOp))
/-- IABSD (R130). -/
def execIabsd (o : VOps) (s : State) : Host.Outcome State Fault Refusal := s.gated (.iabsd o) (·.intVec o (tyOp o iabsdOp))
/-- IADDMIN (R130). -/
def execIaddmin (o : VOps) (s : State) : Host.Outcome State Fault Refusal :=
  s.gated (.iaddmin o) (·.intVec o (tyOp o (iaddminOp o)))
/-- IADDMAX (R130). -/
def execIaddmax (o : VOps) (s : State) : Host.Outcome State Fault Refusal :=
  s.gated (.iaddmax o) (·.intVec o (tyOp o (iaddmaxOp o)))
/-- AND (R130). -/
def execAnd (o : VOps) (s : State) : Host.Outcome State Fault Refusal := s.gated (.and o) (·.intVec o fun x y _ => x &&& y)
/-- OR (R130). -/
def execOr (o : VOps) (s : State) : Host.Outcome State Fault Refusal := s.gated (.or o) (·.intVec o fun x y _ => x ||| y)
/-- XOR (R130). -/
def execXor (o : VOps) (s : State) : Host.Outcome State Fault Refusal := s.gated (.xor o) (·.intVec o fun x y _ => x ^^^ y)
/-- ANDN: x and not y (R130). -/
def execAndn (o : VOps) (s : State) : Host.Outcome State Fault Refusal :=
  s.gated (.andn o) (·.intVec o fun x y _ => x &&& ~~~y)
/-- MOV: the permuted b, all 32 bits (R132). -/
def execMov (o : VOps) (s : State) : Host.Outcome State Fault Refusal := s.gated (.mov o) (·.intVec o fun _ y _ => y)
/-- POPC (R132). -/
def execPopc (o : VOps) (s : State) : Host.Outcome State Fault Refusal :=
  s.gated (.popc o) (·.intVec o fun _ y _ => mapElems (tyWidth (vTy o)) (fun a _ _ => popEl (tyWidth (vTy o)) a) y 0#32 0#32)
/-- CLZ (R132). -/
def execClz (o : VOps) (s : State) : Host.Outcome State Fault Refusal :=
  s.gated (.clz o) (·.intVec o fun _ y _ => mapElems (tyWidth (vTy o)) (fun a _ _ => clzEl (tyWidth (vTy o)) a) y 0#32 0#32)
/-- BREV (R132). -/
def execBrev (o : VOps) (s : State) : Host.Outcome State Fault Refusal :=
  s.gated (.brev o) (·.intVec o fun _ y _ => mapElems (tyWidth (vTy o)) (fun a _ _ => brevEl (tyWidth (vTy o)) a) y 0#32 0#32)

/-- The immediate of MOVI and SMOVI: Sext(IMM10), or the extension word (R133). -/
def immOf (o : IOps) : Word := match o.x with | none => o.imm.signExtend 32 | some w => w
/-- MOVI (R133). -/
def execMovi (o : IOps) (s : State) : Host.Outcome State Fault Refusal :=
  s.gated (.movi o) (·.perLane o.d fun _ _ => immOf o)

/-- A shift per element, by the unpermuted b (R132). -/
def State.shiftVec (s : State) (o : VOps) (f : Nat → Nat → Nat → Nat) : State :=
  s.selVec o (mapElems (tyWidth (vTy o)) fun x c _ => f (tyWidth (vTy o)) x c)
/-- SHL (R132). -/
def execShl (o : VOps) (s : State) : Host.Outcome State Fault Refusal := s.gated (.shl o) (·.shiftVec o shlEl)
/-- SHR (R132). -/
def execShr (o : VOps) (s : State) : Host.Outcome State Fault Refusal := s.gated (.shr o) (·.shiftVec o shrEl)
/-- SAR (R132). -/
def execSar (o : VOps) (s : State) : Host.Outcome State Fault Refusal := s.gated (.sar o) (·.shiftVec o sarEl)
/-- ROL (R132). -/
def execRol (o : VOps) (s : State) : Host.Outcome State Fault Refusal := s.gated (.rol o) (·.shiftVec o rolEl)
/-- BFX (R134). -/
def execBfx (o : VOps) (s : State) : Host.Outcome State Fault Refusal :=
  s.gated (.bfx o) (·.selVec o fun x y _ => bfxW (tySigned (vTy o)) x y)
/-- BFI (R134). -/
def execBfi (o : VOps) (s : State) : Host.Outcome State Fault Refusal := s.gated (.bfi o) (·.selVec o bfiW)

/-- Write a 64-bit pair in each lane of the split from values computed before any write. -/
def State.perLane64 (s : State) (d : BitVec 7) (f : Warp → Nat → Nat) : State :=
  let w := s.warp
  s.setWarp ((s.lanes.map fun l => (l, f w l)).foldl (fun v x => v.setReg64 d.toNat x.1 x.2) w)

/-- LEA: a pair plus a shifted, extended index, modulo 2^64 (R135). -/
def execLea (o : VOps) (s : State) : Host.Outcome State Fault Refusal :=
  s.gated (.lea o) (·.perLane64 o.d fun w l =>
    let y := w.reg o.b.toNat l
    let e : Int := if tySigned (vTy o) then y.toInt else (y.toNat : Int)
    modW 64 ((w.reg64 o.a.toNat l : Int) + e * 2 ^ (vSub o % 8)))
/-- IADD64 (R135). -/
def execIadd64 (o : VOps) (s : State) : Host.Outcome State Fault Refusal :=
  s.gated (.iadd64 o) (·.perLane64 o.d fun w l =>
    let x := w.reg64 o.a.toNat l; let y := w.reg64 o.b.toNat l
    if !vSat o then (x + y) % 2 ^ 64
    else if tySigned (vTy o) then modW 64 (max (-(2 ^ 63)) (min (2 ^ 63 - 1) (sext 64 x + sext 64 y)))
    else min (x + y) (2 ^ 64 - 1))
/-- The value of a whole register under .i32 or .n32. -/
def wordVal (sg : Bool) (x : Word) : Int := if sg then x.toInt else (x.toNat : Int)
/-- ICMP writes a predicate (R136). -/
def execIcmp (o : VOps) (s : State) : Host.Outcome State Fault Refusal :=
  s.gated (.icmp o) (·.perPred o.d.toNat fun w l =>
    icond o.pm.toNat (wordVal (tySigned (vTy o)) (w.reg o.a.toNat l)) (wordVal (tySigned (vTy o)) (w.reg o.b.toNat l)))
/-- SEL (R136). -/
def execSel (o : VOps) (s : State) : Host.Outcome State Fault Refusal :=
  s.gated (.sel o) (·.perLane o.d fun w l =>
    if w.pred o.pm.toNat l then w.reg o.a.toNat l else w.reg o.b.toNat l)

/-! ### Uniform arithmetic (R146, R147) -/

/-- Once per split, on uniform registers. -/
def State.uni (s : State) (o : VOps) (f : Word → Word → Word) : State :=
  s.updWarp fun w => w.setReg o.d.toNat 0 (f (w.reg o.a.toNat 0) (w.reg o.b.toNat 0))

/-- SADD (R147). -/
def execSadd (o : VOps) (s : State) : Host.Outcome State Fault Refusal :=
  s.gated (.sadd o) (·.uni o fun x y => tyOp o iaddOp x y 0#32)
/-- SSUB (R147). -/
def execSsub (o : VOps) (s : State) : Host.Outcome State Fault Refusal :=
  s.gated (.ssub o) (·.uni o fun x y => tyOp o isubOp x y 0#32)
/-- SMUL (R147). -/
def execSmul (o : VOps) (s : State) : Host.Outcome State Fault Refusal :=
  s.gated (.smul o) (·.uni o fun x y => tyOp o imulOp x y 0#32)
/-- SAND (R147). -/
def execSand (o : VOps) (s : State) : Host.Outcome State Fault Refusal := s.gated (.sand o) (·.uni o (· &&& ·))
/-- SOR (R147). -/
def execSor (o : VOps) (s : State) : Host.Outcome State Fault Refusal := s.gated (.sor o) (·.uni o (· ||| ·))
/-- SXOR (R147). -/
def execSxor (o : VOps) (s : State) : Host.Outcome State Fault Refusal := s.gated (.sxor o) (·.uni o (· ^^^ ·))
/-- SSHL (R147). -/
def execSshl (o : VOps) (s : State) : Host.Outcome State Fault Refusal :=
  s.gated (.sshl o) (·.uni o fun x y => BitVec.ofNat 32 (shlEl 32 x.toNat y.toNat))
/-- SSHR: arithmetic under .i32, logical under .n32 (R147). -/
def execSshr (o : VOps) (s : State) : Host.Outcome State Fault Refusal :=
  s.gated (.sshr o) (·.uni o fun x y =>
    BitVec.ofNat 32 (if tySigned (vTy o) then sarEl 32 x.toNat y.toNat else shrEl 32 x.toNat y.toNat))
/-- SMIN (R147). -/
def execSmin (o : VOps) (s : State) : Host.Outcome State Fault Refusal :=
  s.gated (.smin o) (·.uni o fun x y => tyOp o iminOp x y 0#32)
/-- SMAX (R147). -/
def execSmax (o : VOps) (s : State) : Host.Outcome State Fault Refusal :=
  s.gated (.smax o) (·.uni o fun x y => tyOp o imaxOp x y 0#32)
/-- SMOV (R147). -/
def execSmov (o : VOps) (s : State) : Host.Outcome State Fault Refusal := s.gated (.smov o) (·.uni o fun _ y => y)
/-- SMOVI (R147). -/
def execSmovi (o : IOps) (s : State) : Host.Outcome State Fault Refusal :=
  s.gated (.smovi o) fun s => s.updWarp fun w => w.setReg o.d.toNat 0 (immOf o)
/-- SCMP writes 1 or 0 (R147). -/
def execScmp (o : VOps) (s : State) : Host.Outcome State Fault Refusal :=
  s.gated (.scmp o) (·.uni o fun x y =>
    if icond o.pm.toNat (wordVal (tySigned (vTy o)) x) (wordVal (tySigned (vTy o)) y) then 1#32 else 0#32)

end Sys2Proof.Machine
end

