-- ==== Sys2Proof/Machine/FloatVec.lean ====
section
/-! DEFINITION. Machine/FloatVec.lean: floating vector instructions (spec/06_vector.md R137 to R145). -/

namespace Sys2Proof.Machine

open Sys2Proof

/-! ### Modifiers and rounding across lanes -/

def vRnd (o : VOps) : Nat := match o.x with | none => 0 | some e => e.rnd.toNat
/-- The format code, with the row's default for X = 0 (R137). -/
def vFmt (o : VOps) (dflt : Nat) : Nat := match o.x with | none => dflt | some e => e.fmt.toNat
/-- The stochastic-rounding seed, SUB[7:0] (R63). -/
def vSeed (o : VOps) : Nat := vSub o % 256

/-- Round the element of a slot of a lane into a format; under SR the group is lanes 8g to 8g + 7 of the same
slot, and a lane outside the split has D = 0 (spec/03_numbers.md R61, R62). -/
def roundLane (mask : Word) (dst rnd : Nat) (sat infSat : Bool) (seed : Nat) (ex : Nat → Nat → Ex) (l j : Nat) : Nat :=
  let i := l % 8
  let d (k : Nat) : Nat :=
    let m := 8 * (l / 8) + k % 8
    if mask.getLsbD m then discard dst (ex m j) else 0
  let h := if rnd = 5 then srHash (d (i + 7)) (d (i + 1)) i seed else 0
  roundTo dst rnd sat infSat h (ex l j)

/-- A rounded vector instruction into a format: element j of each lane from its exact value. -/
def State.fltVec (s : State) (o : VOps) (dst : Nat) (ex : Warp → Nat → Nat → Ex) : State :=
  let m := s.mask; let wd := WellFormed.fmtWidth dst
  s.perLane o.d fun w l => ofElems wd ((List.range (32 / wd)).map fun j =>
    roundLane m dst (vRnd o) (vSat o) false (vSeed o) (ex w) l j)

/-- Operands of a lane's element, decoded: a, permuted b, old d. -/
def fX (o : VOps) (f : Nat) (w : Warp) (l j : Nat) : FVal :=
  decodeE f (elemN (WellFormed.fmtWidth f) (w.reg o.a.toNat l) j)
def fY (o : VOps) (mask : Word) (f : Nat) (w : Warp) (l j : Nat) : FVal :=
  decodeE f (elemN (WellFormed.fmtWidth f) (w.regB mask o l) j)
def fZ (o : VOps) (f : Nat) (w : Warp) (l j : Nat) : FVal :=
  decodeE f (elemN (WellFormed.fmtWidth f) (w.reg o.d.toNat l) j)

/-- A two-operand operation, and one with the old d (R138). -/
def State.flt2 (s : State) (o : VOps) (f : Nat) (op : FVal → FVal → Ex) : State :=
  let m := s.mask; s.fltVec o f fun w l j => op (fX o f w l j) (fY o m f w l j)
def State.flt3 (s : State) (o : VOps) (f : Nat) (op : FVal → FVal → FVal → Ex) : State :=
  let m := s.mask; s.fltVec o f fun w l j => op (fX o f w l j) (fY o m f w l j) (fZ o f w l j)

/-- Round down is the mode under which an exact zero difference is -0 (R138). -/
def isRdn (o : VOps) : Bool := vRnd o == 3

/-- MinNum and MaxNum on codes of a format (R139). -/
def minNumC (f : Nat) (mx : Bool) (x y : Nat) : Nat :=
  let a := decodeE f x; let b := decodeE f y
  if a.isNan && b.isNan then (match ffmt f with | some t => t.nan.getD 0 | none => 0)
  else if a.isNan then y
  else if b.isNan then x
  else
    let c := cmpF a b
    let c := if mx then -c else c
    if c < 0 || (a.isZero && b.isZero && (if mx then !a.neg && b.neg else a.neg && !b.neg)) then x else y

/-- A selection of one of two codes per element, bit for bit (R139). -/
def State.fltMin (s : State) (o : VOps) (f : Nat) (mx : Bool) : State :=
  let wd := WellFormed.fmtWidth f
  s.intVec o (mapElems wd fun x y _ => minNumC f mx x y)

/-! ### Meanings -/

/-- FADD (R138). -/
def execFadd (o : VOps) (s : State) : Host.Outcome State Fault Refusal :=
  s.gated (.fadd o) (·.flt2 o 0 (addE (isRdn o)))
/-- FSUB (R138). -/
def execFsub (o : VOps) (s : State) : Host.Outcome State Fault Refusal :=
  s.gated (.fsub o) (·.flt2 o 0 fun x y => addE (isRdn o) x y.flip)
/-- FMUL (R138). -/
def execFmul (o : VOps) (s : State) : Host.Outcome State Fault Refusal := s.gated (.fmul o) (·.flt2 o 0 mulE)
/-- FFMA (R138). -/
def execFfma (o : VOps) (s : State) : Host.Outcome State Fault Refusal :=
  s.gated (.ffma o) (·.flt3 o 0 (fmaE (isRdn o)))
/-- FMIN (R139). -/
def execFmin (o : VOps) (s : State) : Host.Outcome State Fault Refusal := s.gated (.fmin o) (·.fltMin o 0 false)
/-- FMAX (R139). -/
def execFmax (o : VOps) (s : State) : Host.Outcome State Fault Refusal := s.gated (.fmax o) (·.fltMin o 0 true)
/-- FADDMIN: MinNum of the old d and the rounded sum (R139). -/
def execFaddmin (o : VOps) (s : State) : Host.Outcome State Fault Refusal :=
  s.gated (.faddmin o) fun s =>
    let m := s.mask
    s.perLane o.d fun w l =>
      let sum := roundLane m 0 (vRnd o) (vSat o) false (vSeed o)
        (fun l j => addE (isRdn o) (fX o 0 w l j) (fY o m 0 w l j)) l 0
      BitVec.ofNat 32 (minNumC 0 false (w.reg o.d.toNat l).toNat sum)
/-- FCMP writes a predicate (R140). -/
def execFcmp (o : VOps) (s : State) : Host.Outcome State Fault Refusal :=
  s.gated (.fcmp o) (·.perPred o.d.toNat fun w l =>
    fcond o.pm.toNat (dec32 (w.reg o.a.toNat l)) (dec32 (w.reg o.b.toNat l)))
/-- FCLASS (R141). -/
def execFclass (o : VOps) (s : State) : Host.Outcome State Fault Refusal :=
  s.gated (.fclass o) (·.intVec o fun _ y _ => BitVec.ofNat 32 (2 ^ fclassBit y))

/-- A long FP32 result of the permuted b, or of a and b (R127, R142). -/
def State.fltLong (s : State) (o : VOps) (op : FVal → FVal → Ex) : State :=
  let m := s.mask; let w := s.warp
  s.longLanes o.d fun _ l => BitVec.ofNat 32 (roundLane m 0 (vRnd o) (vSat o) false (vSeed o)
    (fun l _ => op (dec32 (w.reg o.a.toNat l)) (dec32 (w.regB m o l))) l 0)

/-- FDIV, a long result (R138). -/
def execFdiv (o : VOps) (s : State) : Host.Outcome State Fault Refusal := s.gated (.fdiv o) (·.fltLong o divE)
/-- FRCP (R142). -/
def execFrcp (o : VOps) (s : State) : Host.Outcome State Fault Refusal :=
  s.gated (.frcp o) (·.fltLong o fun _ y => divE (.fin false 1 0) y)
/-- 1 / √y, exact (R142). -/
def rsqE (y : FVal) : Ex :=
  match y with
  | .nan _ => .nan false
  | .inf n => if n then .nan false else .zero false
  | .fin n m e => if m = 0 then .inf n else if n then .nan false else .num false (.root 1 m (-e))
/-- FRSQ (R142). -/
def execFrsq (o : VOps) (s : State) : Host.Outcome State Fault Refusal :=
  s.gated (.frsq o) (·.fltLong o fun _ y => rsqE y)
/-- FSQRT (R142). -/
def execFsqrt (o : VOps) (s : State) : Host.Outcome State Fault Refusal :=
  s.gated (.fsqrt o) (·.fltLong o fun _ y => sqrtE y)
/-- FEXP2 (R142). -/
def execFexp2 (o : VOps) (s : State) : Host.Outcome State Fault Refusal :=
  s.gated (.fexp2 o) (·.fltLong o fun _ y => exp2E y)
/-- FLOG2 (R142). -/
def execFlog2 (o : VOps) (s : State) : Host.Outcome State Fault Refusal :=
  s.gated (.flog2 o) (·.fltLong o fun _ y => log2E y)
/-- FSIN (R142). -/
def execFsin (o : VOps) (s : State) : Host.Outcome State Fault Refusal :=
  s.gated (.fsin o) (·.fltLong o fun _ y => sinE y)
/-- FCOS (R142). -/
def execFcos (o : VOps) (s : State) : Host.Outcome State Fault Refusal :=
  s.gated (.fcos o) (·.fltLong o fun _ y => cosE y)
/-- FTANH (R142). -/
def execFtanh (o : VOps) (s : State) : Host.Outcome State Fault Refusal :=
  s.gated (.ftanh o) (·.fltLong o fun _ y => tanhE y)

/-- HADD2 (R143). -/
def execHadd2 (o : VOps) (s : State) : Host.Outcome State Fault Refusal :=
  s.gated (.hadd2 o) (·.flt2 o (vFmt o 1) (addE (isRdn o)))
/-- HMUL2 (R143). -/
def execHmul2 (o : VOps) (s : State) : Host.Outcome State Fault Refusal :=
  s.gated (.hmul2 o) (·.flt2 o (vFmt o 1) mulE)
/-- HFMA2 (R143). -/
def execHfma2 (o : VOps) (s : State) : Host.Outcome State Fault Refusal :=
  s.gated (.hfma2 o) (·.flt3 o (vFmt o 1) (fmaE (isRdn o)))
/-- HMIN2 (R143). -/
def execHmin2 (o : VOps) (s : State) : Host.Outcome State Fault Refusal :=
  s.gated (.hmin2 o) (·.fltMin o (vFmt o 1) false)
/-- HMAX2 (R143). -/
def execHmax2 (o : VOps) (s : State) : Host.Outcome State Fault Refusal :=
  s.gated (.hmax2 o) (·.fltMin o (vFmt o 1) true)

/-- The exact sum of values; infinities of both signs, or a NaN, give NaN (R67, R144). -/
def sumF (xs : List FVal) : FVal :=
  if xs.any (·.isNan) then .nan false
  else
    let isInf (n : Bool) (v : FVal) : Bool := v == .inf n
    let p := xs.any (isInf false); let q := xs.any (isInf true)
    if p && q then .nan false else if p then .inf false else if q then .inf true
    else
      let ex (v : FVal) : Int := match v with | .fin _ _ e => e | _ => 0
      let k := xs.foldl (fun k v => min k (ex v)) 0
      let z := xs.foldl (fun (z : Int) v => match v with | .fin n m e => z + alignInt n m e k | _ => z) 0
      .fin (decide (z < 0)) z.natAbs k

/-- z + S with one rounding to come; an exact zero S leaves z (R144). -/
def dotE (rdn : Bool) (z s : FVal) : Ex :=
  match s with
  | .nan _ => .nan false
  | _ => if z.isNan then .nan false else if s.isZero then Ex.ofF z else addE rdn z s

/-- DOT4 (R144, R145). -/
def execDot4 (o : VOps) (s : State) : Host.Outcome State Fault Refusal :=
  s.gated (.dot4 o) fun s =>
    let m := s.mask
    let fa := vFmt o 3
    let fb := if vSub o / 256 % 64 = 0 then fa else vSub o / 256 % 64
    s.fltVec o 0 fun w l _ =>
      let prods := (List.range 4).map fun k =>
        mulF (decodeE fa (elemN 8 (w.reg o.a.toNat l) k)) (decodeE fb (elemN 8 (w.regB m o l) k))
      dotE (isRdn o) (dec32 (w.reg o.d.toNat l)) (sumF prods)

end Sys2Proof.Machine
end

