-- ==== Sys2Proof/Machine/Convert.lean ====
section
/-! DEFINITION. Machine/Convert.lean: conversions, block scales and the sign and ternary codes
(spec/07_lanes_convert.md R161 to R169, spec/03_numbers.md R62, R64, R65). -/

namespace Sys2Proof.Machine

open Sys2Proof

/-! ### A uniform operand (spec/04_encoding.md R82, spec/12_divergence.md R273) -/

/-- The differing lanes fault NONUNIFORM; the others go on with the operand's value. -/
def State.withUniform (s : State) (code : BitVec 7) (f : Word → State → State) : State :=
  let x := s.warp.reg code.toNat s.lowest
  s.withFaults ((s.differing code.toNat 1).map fun d => (d.1, .nonuniform, d.2)) (f x)

/-! ### Conv across lanes (R162) -/

def cvtDst (o : VOps) : Nat := match o.x with | none => 0 | some e => e.fmt.toNat
def cvtSrc (o : VOps) : Nat := match o.x with | none => 0 | some e => WellFormed.subFmt e
def cvtTop (o : VOps) : Nat := match o.x with | none => 0 | some e => WellFormed.subTop e

/-- Conv of the source code of slot j in lane l; under SR the group is lanes 8g to 8g + 7 of slot j. -/
def convLane (mask : Word) (src dst rnd : Nat) (sat : Bool) (seed : Nat) (code : Nat → Nat → Nat) (l j : Nat) : Nat :=
  let i := l % 8
  let d (k : Nat) : Nat :=
    let m := 8 * (l / 8) + k % 8
    if mask.getLsbD m then discard dst (Ex.ofF (decodeE src (code m j))) else 0
  let h := if rnd = 5 then srHash (d (i + 7)) (d (i + 1)) i seed else 0
  conv src dst rnd sat h (code l j)

/-- CVT's element count (R163). -/
def cvtCount (src dst : Nat) : Nat := 32 / max (WellFormed.fmtWidth src) (WellFormed.fmtWidth dst)

/-- CVT under a rounding mode and seed. -/
def State.cvt (s : State) (o : VOps) (rnd seed : Nat) : State :=
  let m := s.mask; let src := cvtSrc o; let dst := cvtDst o
  let ws := WellFormed.fmtWidth src; let wd := WellFormed.fmtWidth dst
  s.perLane o.d fun w l => ofElems wd ((List.range (cvtCount src dst)).map fun j =>
    convLane m src dst rnd (vSat o) seed (fun l j => elemN ws (w.reg o.a.toNat l) j) l j)

/-- CVT (R163). -/
def execCvt (o : VOps) (s : State) : Host.Outcome State Fault Refusal :=
  s.gated (.cvt o) (·.cvt o (vRnd o) (vSeed o))
/-- CVTSR: CVT under SR with the seed in b (R163). -/
def execCvtsr (o : VOps) (s : State) : Host.Outcome State Fault Refusal :=
  s.gated (.cvtsr o) (·.withUniform o.b fun x s => s.cvt o 5 (x.toNat % 256))

/-- PACK (R164). -/
def execPack (o : VOps) (s : State) : Host.Outcome State Fault Refusal :=
  s.gated (.pack o) fun s =>
    let mk := s.mask; let src := cvtSrc o; let dst := cvtDst o; let h := cvtTop o
    let ws := WellFormed.fmtWidth src; let wd := WellFormed.fmtWidth dst
    let m := 32 / ws; let q := 32 / wd
    s.perLane o.d fun w l => ofElems wd ((List.range q).map fun j =>
      let code (l j : Nat) : Nat :=
        if j < 2 * m * h + m then elemN ws (w.reg o.a.toNat l) (j - 2 * m * h)
        else elemN ws (w.reg o.b.toNat l) (j - 2 * m * h - m)
      if 2 * m * h ≤ j ∧ j < 2 * m * (h + 1) then
        convLane mk src dst (vRnd o) (vSat o) (vSeed o) code l j
      else elemN wd (w.reg o.d.toNat l) j)

/-- UNPACK (R164). -/
def execUnpack (o : VOps) (s : State) : Host.Outcome State Fault Refusal :=
  s.gated (.unpack o) fun s =>
    let mk := s.mask; let src := cvtSrc o; let dst := cvtDst o
    let ws := WellFormed.fmtWidth src; let wd := WellFormed.fmtWidth dst
    let q := 32 / wd
    s.perLane o.d fun w l => ofElems wd ((List.range q).map fun j =>
      convLane mk src dst (vRnd o) (vSat o) (vSeed o) (fun l j => elemN ws (w.reg o.a.toNat l) (q * cvtTop o + j)) l j)

/-! ### Block scales (R64, R65, R165) -/

/-- Floor of the base-2 logarithm of a finite nonzero value. -/
def floorLog (v : FVal) : Int := match v with | .fin _ m e => (Nat.log2 m : Int) + e | _ => 0

/-- EmaxElem of an element format. -/
def emaxElem (f : Nat) : Int :=
  match ffmt f with
  | some x => floorLog (.fin false (gridVal x x.gmax).1 (gridVal x x.gmax).2)
  | none => 0

/-- The scale X of a block. -/
def blockScale (dst : Nat) (xs : List FVal) : Nat :=
  if xs.any fun v => match v with | .fin _ _ _ => false | _ => true then 0xFF
  else
    let ys := xs.filter fun v => !v.isZero
    match ys with
    | [] => 127
    | y :: ys =>
      let top := ys.foldl (fun t v => max t (floorLog v)) (floorLog y)
      (max 0 (top - emaxElem dst + 127)).toNat

/-- An element as it is coded under a scale: x * 2^(127 - X) * Q, exact. -/
def scaled (dst X : Nat) (v : FVal) : Ex :=
  match v with
  | .fin n m e => Ex.ofF (.fin n m (e + 127 - X + (if dst = 7 then 6 else 0)))
  | v => Ex.ofF v

/-- QSCALE (R165). -/
def execQscale (o : VOps) (s : State) : Host.Outcome State Fault Refusal :=
  s.gated (.qscale o) fun s =>
    let m := s.mask; let src := cvtSrc o; let dst := cvtDst o
    let ws := WellFormed.fmtWidth src; let wd := WellFormed.fmtWidth dst
    let half (l : Nat) : Nat := if ws = 32 then 0 else l / 16
    let n := cvtCount src dst
    s.perLane o.d fun w l =>
      let val (l j : Nat) : FVal := decodeE src (elemN ws (w.reg o.a.toNat l) j)
      let X (b : Nat) : Nat := blockScale dst
        ((lanesOf m).filter (fun k => half k == b) |>.flatMap fun k => (List.range (32 / ws)).map (val k))
      let xb := X (half l)
      if cvtTop o = 0 then BitVec.ofNat 32 xb
      else if xb = 0xFF then 0#32
      else ofElems wd ((List.range n).map fun j =>
        roundLane m dst (vRnd o) (vSat o) false (vSeed o) (fun k j => scaled dst xb (val k j)) l j)

/-! ### Sign and ternary codes (R166 to R169) -/

/-- A block's scale in BF16 and the 2-bit code of each element: 0 zero or plus, 1 plus one, 3 minus. -/
structure Coded where
  s : Nat
  codes : List Nat
  decs : List Word
  deriving DecidableEq, Repr

def canonNan : Word := 0x7FC00000#32
/-- A BF16 scale widened to FP32, with a sign. -/
def widen (s : Nat) (neg : Bool) : Word :=
  if s % 2 ^ 15 > 0x7F80 then canonNan else BitVec.ofNat 32 (s * 2 ^ 16) ^^^ (if neg then 0x80000000#32 else 0#32)
/-- x < 0: false for zeros and NaNs. -/
def isNegF (v : FVal) : Bool := !v.isNan && v.neg && !v.isZero

/-- SIGNQ of a block of 2^lg FP32 elements (R167). -/
def signCode (lg : Nat) (xs : List Word) : Coded :=
  let vs := xs.map dec32
  let S := vs.foldl (fun S v => ne32 (addE false (dec32 S) v.abs)) 0#32
  let s := match dec32 S with
    | .fin n m e => neBf (Ex.ofF (.fin n m (e - lg)))
    | v => neBf (Ex.ofF v)
  let negs := vs.map isNegF
  ⟨s, negs.map fun n => if n then 1 else 0, negs.map fun n => widen s n⟩

/-- TERNQ of a block of FP32 elements (R168). -/
def ternCode (xs : List Word) : Coded :=
  let vs := xs.map fun x => (dec32 x)
  let s := if vs.any (·.isNan) then 0x7FC0
    else neBf (Ex.ofF (vs.foldl (fun (a : FVal) v => if cmpF a v.abs < 0 then v.abs else a) (.fin false 0 0)))
  let sv := decodeF bf16 s
  let half : FVal := match sv with | .fin n m e => .fin n m (e - 1) | v => v
  let code (v : FVal) : Nat :=
    if sv.isNan || sv.isZero then 0
    else if cmpF v.abs half ≥ 0 then (if isNegF v then 3 else 1) else 0
  let cs := vs.map code
  ⟨s, cs, cs.map fun c => if sv.isNan then canonNan else if c = 0 then 0#32 else widen s (c == 3)⟩

/-- Pack codes of `bits` bits, element 0 lowest, into one number. -/
def packCodes (bits : Nat) : List Nat → Nat
  | [] => 0
  | c :: cs => c + 2 ^ bits * packCodes bits cs

/-- SIGNQ and TERNQ deliver scale, decoded values or code words (R169). -/
def State.codeGroup (s : State) (o : VOps) (tern : Bool) : State :=
  let mk := s.mask; let w := s.warp
  let g := vSub o / 256 % 4; let out := vSub o / 4096 % 4
  let xs := (List.range (32 * 2 ^ g)).map fun e =>
    if mk.getLsbD (e % 32) then w.reg (o.a.toNat + e / 32) (e % 32) else 0#32
  let r := if tern then ternCode xs else signCode (5 + g) xs
  match out with
  | 0 => s.perLane o.d fun _ _ => BitVec.ofNat 32 r.s
  | 1 =>
    let ls := s.lanes
    s.setWarp ((List.range (2 ^ g)).foldl (fun w k =>
      w.setLanes (o.d.toNat + k) (ls.map fun l => (l, r.decs.getD (32 * k + l) 0#32))) w)
  | _ =>
    let bits := packCodes (if tern then 2 else 1) r.codes
    s.perLane o.d fun _ l => BitVec.ofNat 32 (bits / 2 ^ (32 * l))

/-- SIGNQ (R167). -/
def execSignq (o : VOps) (s : State) : Host.Outcome State Fault Refusal := s.gated (.signq o) (·.codeGroup o false)
/-- TERNQ (R168). -/
def execTernq (o : VOps) (s : State) : Host.Outcome State Fault Refusal := s.gated (.ternq o) (·.codeGroup o true)

end Sys2Proof.Machine
end

