-- ==== Sys2Proof/Machine/Lanes.lean ====
section
/-! DEFINITION. Machine/Lanes.lean: cross-lane instructions, special registers and SFROMV
(spec/07_lanes_convert.md R152 to R160, spec/06_vector.md R148, R149, spec/02_state.md R28 to R31). -/

namespace Sys2Proof.Machine

open Sys2Proof

/-- The value of register a that lane l reads from lane i: its own where i is outside the split (R153). -/
def Warp.fromLane (w : Warp) (mask : Word) (a i l : Nat) : Word := w.reg a (if mask.getLsbD i then i else l)

/-- LSHF (R155). -/
def execLshf (o : VOps) (s : State) : Host.Outcome State Fault Refusal :=
  s.gated (.lshf o) fun s =>
    let m := s.mask; let k := vSub o % 32; let dn := bitOf (vSub o) 5
    s.perLane o.d fun w l =>
      if dn then (if 32 ≤ l + k then w.reg o.b.toNat l else w.fromLane m o.a.toNat (l + k) l)
      else if l < k then w.reg o.b.toNat l else w.fromLane m o.a.toNat (l - k) l

/-- LPERM (R156). -/
def execLperm (o : VOps) (s : State) : Host.Outcome State Fault Refusal :=
  s.gated (.lperm o) fun s => let m := s.mask
    s.perLane o.d fun w l => w.fromLane m o.a.toNat ((w.reg o.b.toNat l).toNat % 32) l

/-- LBC (R156). -/
def execLbc (o : VOps) (s : State) : Host.Outcome State Fault Refusal :=
  s.gated (.lbc o) (·.withUniform o.b fun x s =>
    let m := s.mask
    s.perLane o.d fun w l => w.fromLane m o.a.toNat (x.toNat % 32) l)

/-- The lanes of the split whose predicate is true (R157). -/
def State.ballot (s : State) (p : Nat) : Word := let w := s.warp; maskOf (s.lanes.filter fun l => w.pred p l)

/-- VOTE.all (R157). -/
def execVoteAll (o : VOps) (s : State) : Host.Outcome State Fault Refusal :=
  s.gated (.voteAll o) fun s => let b := s.ballot o.a.toNat; let m := s.mask; s.perPred o.d.toNat fun _ _ => b == m
/-- VOTE.any (R157). -/
def execVoteAny (o : VOps) (s : State) : Host.Outcome State Fault Refusal :=
  s.gated (.voteAny o) fun s => let b := s.ballot o.a.toNat; s.perPred o.d.toNat fun _ _ => b != 0#32
/-- VOTE.ballot (R157). -/
def execVoteBallot (o : VOps) (s : State) : Host.Outcome State Fault Refusal :=
  s.gated (.voteBallot o) fun s => s.oneValue o.d (s.ballot o.a.toNat)
/-- VOTE.count (R157). -/
def execVoteCount (o : VOps) (s : State) : Host.Outcome State Fault Refusal :=
  s.gated (.voteCount o) fun s => s.oneValue o.d (BitVec.ofNat 32 (lanesOf (s.ballot o.a.toNat)).length)

/-- LMATCH (R158). -/
def execLmatch (o : VOps) (s : State) : Host.Outcome State Fault Refusal :=
  s.gated (.lmatch o) fun s => let ls := s.lanes
    s.perLane o.d fun w l => maskOf (ls.filter fun m => w.reg o.a.toNat m == w.reg o.a.toNat l)

/-- One Op of a reduction (R159): the format is INT32 with X = 0. -/
def redOp (o : VOps) (x y : Word) : Word :=
  let f := vFmt o 10; let op := vSub o % 8
  match op with
  | 0 =>
    if f = 0 then BitVec.ofNat 32 (roundF fp32 (vRnd o) (vSat o) false 0 (addE (isRdn o) (dec32 x) (dec32 y)))
    else
      (let ty := if f = 10 then 0 else 1
       BitVec.ofNat 32 (fit ty (vSat o) (tyVal ty x.toNat + tyVal ty y.toNat)))
  | 1 =>
    if f = 0 then BitVec.ofNat 32 (minNumC 0 false x.toNat y.toNat)
    else if wordVal (f == 10) y < wordVal (f == 10) x then y else x
  | 2 =>
    if f = 0 then BitVec.ofNat 32 (minNumC 0 true x.toNat y.toNat)
    else if wordVal (f == 10) x < wordVal (f == 10) y then y else x
  | 3 => x &&& y
  | 4 => x ||| y
  | _ => x ^^^ y

/-- A node with an absent operand passes the other on (spec/03_numbers.md R68). -/
def node (op : Word → Word → Word) (x y : Option Word) : Option Word :=
  match x, y with
  | some a, some b => some (op a b)
  | some a, none => some a
  | none, y => y

/-- One level of the tree of R68. -/
def treeLevel (op : Word → Word → Word) : List (Option Word) → List (Option Word)
  | x :: y :: r => node op x y :: treeLevel op r
  | r => r
def reduceTree (op : Word → Word → Word) (xs : List (Option Word)) : Option Word :=
  ((treeLevel op (treeLevel op (treeLevel op (treeLevel op (treeLevel op xs)))))).headD none

/-- One step of the scan of R69, at distance k. -/
def scanStep (op : Word → Word → Word) (k : Nat) (xs : List (Option Word)) : List (Option Word) :=
  (List.range 32).map fun l => if k ≤ l then node op (xs.getD (l - k) none) (xs.getD l none) else xs.getD l none

/-- The operands of the 32 lanes; a lane outside the split has none. -/
def Warp.operands (w : Warp) (m : Word) (a : Nat) : List (Option Word) :=
  allLanes.map fun l => if m.getLsbD l then some (w.reg a l) else none

/-- LRED (R160). -/
def execLred (o : VOps) (s : State) : Host.Outcome State Fault Refusal :=
  s.gated (.lred o) fun s =>
    s.oneValue o.d ((reduceTree (redOp o) (s.warp.operands s.mask o.a.toNat)).getD 0#32)

/-- LSCAN (R160). -/
def execLscan (o : VOps) (s : State) : Host.Outcome State Fault Refusal :=
  s.gated (.lscan o) fun s =>
    let xs := [1, 2, 4, 8, 16].foldl (fun xs k => scanStep (redOp o) k xs) (s.warp.operands s.mask o.a.toNat)
    s.perLane o.d fun _ l => (xs.getD l none).getD 0#32

/-! ### Special registers (R148, spec/02_state.md R28) -/

/-- The value of a special register of 64 bits or less in a lane; the counters and masks as they stand. -/
def State.special (s : State) (n l : Nat) : Nat :=
  let w := s.warp; let c := s.cur.core; let g := s.wg w.wg
  match n with
  | 0x00 => l
  | 0x01 => s.cur.slot
  | 0x02 => g.x
  | 0x03 => g.y
  | 0x04 => g.z
  | 0x05 => (match s.launch g.launch with | none => 0 | some x => x.gx * x.gy * x.gz)
  | 0x06 => c % 48
  | 0x07 => c / 48
  | 0x08 => s.dev
  | 0x09 => if s.cur.slot = 64 then 0xFF else w.tenant
  | 0x0A => flatVa + c * flatStep + g.lbase
  | 0x0B => s.mask.toNat
  | 0x0C => (w.thread l).frag.toNat
  | 0x0D => (s.core c).cycle
  | 0x0E => (fget 0#32 (s.core c).ver w.tenant).toNat
  | 0x10 => w.cmat
  | 0x11 => w.ccopy
  | 0x12 => w.cclr
  | _ => w.caux

/-- The service warp belongs to no workgroup, grid or tenant: the spec states no value for its coordinates,
its grid, its local allocation and its policy version (notes/assumptions/5.md). -/
def serviceOpen (n : Nat) : Bool := decide (2 ≤ n ∧ n ≤ 5) || n == 0x0A || n == 0x0E

/-- SRD (R148). -/
def execSrd (o : IOps) (s : State) : Host.Outcome State Fault Refusal :=
  s.gated (.srd o) fun s =>
    let n := WellFormed.srSel o
    let (v, s) : (Nat → Nat) × State :=
      if s.cur.slot = 64 ∧ serviceOpen n then
        (fun _ => if n = 0x0A then (Config.freeAddr s.fresh).toNat else (Config.freeValue s.fresh).toNat,
         { s with fresh := s.fresh + 1 })
      else (s.special n, s)
    if n = 0x0A ∨ n = 0x0D then
      (if 96 ≤ o.d.toNat then s.updWarp fun w => w.setReg64 o.d.toNat 0 (v 0)
       else s.updWarp fun w => s.lanes.foldl (fun w l => w.setReg64 o.d.toNat l (v l)) w)
    else if 96 ≤ o.d.toNat then s.updWarp fun w => w.setReg o.d.toNat 0 (BitVec.ofNat 32 (v 0))
    else s.perLane o.d fun _ l => BitVec.ofNat 32 (v l)

/-- SFROMV (R149). -/
def execSfromv (o : VOps) (s : State) : Host.Outcome State Fault Refusal :=
  s.gated (.sfromv o) fun s => s.updWarp fun w => w.setReg o.d.toNat 0 (w.reg o.a.toNat s.lowest)

end Sys2Proof.Machine
end

