-- ==== Sys2Proof/Machine/MemInstr.lean ====
section
/-! DEFINITION. Machine/MemInstr.lean: memory, atomic and synchronisation instructions as they issue
(spec/08_memory_isa.md R170 to R193, spec/06_vector.md R150). What their accesses do at the homes comes
with the events of Machine/CoreEvents.lean. -/

namespace Sys2Proof.Machine

open Sys2Proof

/-! ### Addresses and checks (R171, R173, spec/04_encoding.md R90, R91) -/

def szBytes (sz : Nat) : Nat := if sz ≤ 1 then 1 else if sz ≤ 3 then 2 else if sz = 4 then 4 else if sz = 5 then 8 else 16

def mAop (o : MOps) : Nat := match o.x with | none => 0 | some e => e.aop.toNat
def mAcq (o : MOps) : Bool := match o.x with | none => false | some e => e.acq == 1#1
def mRel (o : MOps) : Bool := match o.x with | none => false | some e => e.rel == 1#1
def mClr (o : MOps) : Bool := match o.x with | none => false | some e => e.clr == 1#1
def mSgn (o : MOps) : Bool := match o.x with | none => false | some e => e.sgn == 1#1

/-- The effective address of a lane. -/
def Warp.ea (w : Warp) (o : MOps) (scale lane : Nat) : Nat :=
  let ix : Int := match o.x with
    | none => 0
    | some e => if e.iv = 1#1 then (w.reg e.idx.toNat lane).toInt else 0
  modW 64 (w.reg64 o.a.toNat lane + ix + sext 7 o.off.toNat * scale)

/-- The checks of R171 on one address: alignment, translation and target, then the memory class. -/
def State.reach (s : State) (need : Need) (size : Nat) (mis : Cause) (flatOnly : Bool) (va : Nat) : Except Cause Nat :=
  if va % size ≠ 0 then .error mis
  else
    match s.access va need with
    | .error c => .error c
    | .ok pa => if flatOnly && !isFlat pa then .error .protection else .ok pa

/-- Note the walk that the issuing warp's access starts. -/
def State.touch (s : State) (va : Nat) : State :=
  if s.cur.slot = 64 then
    let sp := ((s.core s.cur.core).rawCsr 7).toNat % 256
    if sp < 16 then s.noteWalk s.cur.core sp va else s
  else s.noteWalk s.cur.core s.warp.tenant va

/-- Lane by lane: the lanes whose address fails its checks fault, the others act on their physical address. -/
def State.eachLane (s : State) (va : Nat → Nat) (acc : Nat → Except Cause Nat)
    (f : State → Nat → Nat → State) : State :=
  let fs := s.lanes.filterMap fun l => match acc l with | .ok _ => none | .error c => some (l, c, va l)
  let s := s.lanes.foldl (fun s l => s.touch (va l)) s
  s.withFaults fs fun s => s.lanes.foldl (fun s l => match acc l with | .ok pa => f s l pa | .error _ => s) s

/-- Add an operation of the issuing warp. -/
def State.addOp (s : State) (o : Op) : State :=
  let (id, s) := s.newId
  s.updWarp fun w => { w with ops := w.ops ++ [{ o with id := id }] }

/-- n consecutive registers as one number, the first lowest. -/
def Warp.regN (w : Warp) (code lane : Nat) : Nat → Nat
  | 0 => 0
  | n + 1 => (w.reg code lane).toNat + 2 ^ 32 * w.regN (code + 1) lane n

/-- The datum of a store of a size code. -/
def Warp.datum (w : Warp) (d : BitVec 7) (sz lane : Nat) : Nat :=
  w.regN d.toNat lane (szRegs sz) % 2 ^ (8 * szBytes sz)

/-! ### What a thread reads (R174; spec/15_memory_model.md R313) -/

/-- How many bytes an operation covers. -/
def Op.len (o : Op) : Nat := match o.kind with | .feSet | .feClear | .feTest => 16 * o.size | _ => o.size
def Op.overlaps (o : Op) (pa n : Nat) : Bool := decide (o.pa < pa + n ∧ pa < o.pa + o.len)
/-- Operations that write memory or a full-empty bit. -/
def OpKind.writes : OpKind → Bool
  | .st | .stf | .atom | .cas | .red | .feSet | .feClear | .abArr | .hga => true
  | _ => false

/-- A write of some lanes to a range that has not reached its home. -/
def Warp.conflicts (w : Warp) (m : Word) (pa n : Nat) : Bool :=
  w.ops.any fun o => o.kind.writes && !o.done && o.overlaps pa n && (lanesOf m).any o.covers
/-- What a read made now waits for: the lane's home operations and its earlier loads of those bytes, which have not been
served (R174); not its pending stores, whose bytes it takes from them, nor an LDF that waits at its granule. -/
def State.blocked (s : State) (m : Word) (pa n : Nat) : Bool :=
  s.warp.ops.any fun o => o.kind != .st && (o.kind.writes || o.kind == .ld || o.kind == .ldf) && !o.done && o.overlaps pa n
    && (lanesOf m).any o.covers && !(o.kind == .ldf && s.ldfq.any fun x => x.core == s.cur.core && x.op == o.id)

/-- Whether the L1 holds every word of a range, all as copies; or, of another device's memory, all as owned words. Words
of one line are copies of one moment, so that a load returns its bytes from one point of the home order (R318). -/
def Core.hits (k : Core) (pa n : Nat) : Bool :=
  let ws := (List.range ((pa + n - 1) / 4 + 1 - pa / 4)).map (· + pa / 4)
  ws.all (fhas k.copies) || (isFabric pa && ws.all k.owned.contains)

/-- A load of a core meets a lasting error: in the words of its L1 that serve it, or at the home (R424, R425). -/
def State.loadBad (s : State) (c pa n : Nat) (hit : Bool) : Bool :=
  if hit then (s.core c).l1Bad.any (inWords pa n) else s.bad pa n
/-- One byte as a core's L1 or the home gives it. -/
def State.byteFor (s : State) (c : Nat) (hit : Bool) (a : Nat) : Byte :=
  if hit && fhas (s.core c).copies (a / 4) then BitVec.ofNat 8 ((fget 0#32 (s.core c).copies (a / 4)).toNat / 2 ^ (8 * (a % 4)))
  else rd8 s.mem a

/-- The latest pending store of a lane to a byte, before an operation number. -/
def Warp.forward (w : Warp) (lane before a : Nat) : Option Byte :=
  w.ops.foldl (fun r o =>
    if o.kind == .st && o.covers lane && decide (o.id < before ∧ o.pa ≤ a ∧ a < o.pa + o.size) then
      some (BitVec.ofNat 8 (o.data / 2 ^ (8 * (a - o.pa)))) else r) none

/-- The bytes a load of a lane returns when it is served now, from the L1 or at the home (R313). -/
def State.bytesFor (s : State) (c w lane before pa n : Nat) (hit : Bool) : List Byte :=
  (List.range n).map fun i => ((s.warpAt c w).forward lane before (pa + i)).getD (s.byteFor c hit (pa + i))
def State.loadBytes (s : State) (c w lane before pa n : Nat) : List Byte :=
  s.bytesFor c w lane before pa n ((s.core c).hits pa n)

/-- Words come into a line of a core's L1, whose earlier copies go; a word the core owns stays. -/
def State.bring (s : State) (c line : Nat) (ws : List (Nat × Word)) : State :=
  (s.updCore c fun k =>
    let new := ws.filter fun x => !k.owned.contains x.1
    let k := k.dropWords (· / 32 == line)
    { k with copies := new.foldl (fun m x => fset m x.1 x.2) k.copies }).fitL1 c line
/-- A missing load brings the line's words that hold no lasting error. -/
def State.fillLine (s : State) (c pa : Nat) : State :=
  let base := pa / 128 * 32
  s.bring c (pa / 128) (((List.range 32).map (· + base)).filterMap fun i =>
    if s.bad (4 * i) 4 || s.swOwned.contains i then none else some (i, BitVec.ofNat 32 (s.rdN (4 * i) 4)))
/-- The whole words of a reply from another device, its bytes from an address that is a multiple of 4. -/
def State.fillFrom (s : State) (c a : Nat) (bs : List Byte) : State :=
  s.bring c (a / 128) ((List.range (bs.length / 4)).map fun i => (a / 4 + i, BitVec.ofNat 32 (leNat ((bs.drop (4 * i)).take 4))))


/-- A read that an instruction makes as it issues: the failing check; its value, and whether it met an error that stays;
or that it must wait, for the lane's own home operations on its bytes (R174) or for another device. -/
inductive NowRead where
  | fault (c : Cause)
  | ok (v : Nat) (bad : Bool)
  | wait (pa : Nat)
  deriving DecidableEq, Repr

/-- Bytes of another device as they were brought, under the lane's own pending stores. -/
def Warp.overlay (w : Warp) (lane before pa n v : Nat) : Nat :=
  leNat ((List.range n).map fun i => (w.forward lane before (pa + i)).getD (BitVec.ofNat 8 (v / 2 ^ (8 * i))))
def State.readNow (s : State) (lane va n : Nat) (l1 : Bool := true) : NowRead :=
  match s.reach .rd n .misaligned false va with
  | .error c => .fault c
  | .ok pa =>
    let hit := l1 && (s.core s.cur.core).hits pa n
    if s.blocked (laneBit lane) pa n then .wait pa
    else if isFabric pa && !hit then
      match s.warp.farRead lane pa n with
      | none => .wait pa
      | some none => .ok 0 true
      | some (some v) => .ok v false
    else if !hit && s.swHeld pa n then .wait pa
    else .ok (leNat (s.bytesFor s.cur.core s.cur.slot lane s.nextId pa n hit)) (s.loadBad s.cur.core pa n hit)

/-- An instruction waits for a read of a lane: what it needs of another device or of a switch slice is asked for. -/
def State.waitRead (s : State) (lane va pa n : Nat) : State :=
  if s.blocked (laneBit lane) pa n then s
  else if isFabric pa then s.farAsk s.cur.core s.cur.slot lane va pa n
  else if s.swHeld pa n then s.swRecall pa else s
/-- An instruction has made a read: its walk is noted, and a read at the home leaves no older copy of its bytes (R313) and
counts, as a miss where it is one of the L1 (spec/28_system.md R466). -/
def State.madeRead (s : State) (va n : Nat) (l1 : Bool := true) : State :=
  let s := s.touch va
  match s.reach .rd n .misaligned false va with
  | .error _ => s
  | .ok pa =>
    if l1 && (s.core s.cur.core).hits pa n then s
    else
      let t := s.warp.tenant
      ((if l1 then s.countCore s.cur.core 5 t 1 else s).countRead pa t n).dropCopies s.cur.core pa n

/-- What a read gave, 0 where it gave nothing. -/
def NowRead.value : NowRead → Nat
  | .ok v _ => v
  | _ => 0
/-- The address of a read that must wait. -/
def NowRead.waits : NowRead → Option Nat
  | .wait pa => some pa
  | _ => none
/-- Whether one of a lane's reads must wait; and what an instruction asks for where it does. -/
def State.mustWait (s : State) (lane : Nat) (rs : List (Nat × Nat)) : Bool := rs.any fun r => (s.readNow lane r.1 r.2).waits.isSome
def State.waitReads (s : State) (lane : Nat) (rs : List (Nat × Nat)) : State :=
  rs.foldl (fun s r => match (s.readNow lane r.1 r.2).waits with
    | some pa => s.waitRead lane r.1 pa r.2
    | none => s) s
def State.madeReads (s : State) (rs : List (Nat × Nat)) : State := rs.foldl (fun s r => s.madeRead r.1 r.2) s

/-! ### Loads and stores (R175, R177, R178, R150) -/

/-- LD (R175). -/
def execLd (o : MOps) (s : State) : Host.Outcome State Fault Refusal :=
  s.gated (.ld o) fun s =>
    let w := s.warp; let sz := o.sz.toNat; let n := szBytes sz
    let va (l : Nat) : Nat := w.ea o n l
    let iss := s.nextId
    s.eachLane va (fun l => s.reach .rd n .misaligned false (va l)) fun s l pa =>
      s.addOp { id := 0, iss := iss, lane := l, kind := .ld, va := va l, pa := pa, size := n, sz := sz, acq := mAcq o, dest := some o.d }

/-- LDF waits at its granule's home; a fifth waiting LDF of a thread stalls (R177, spec/02_state.md R37). -/
def execLdf (o : MOps) (s : State) : Host.Outcome State Fault Refusal :=
  s.gated (.ldf o) fun s =>
    let w := s.warp; let sz := o.sz.toNat; let n := szBytes sz
    if s.lanes.any fun l => decide (4 ≤ (w.ops.filter fun x => x.kind == .ldf && !x.done && x.lane == l).length) then
      s.stalled
    else
      let va (l : Nat) : Nat := w.ea o n l
      let iss := s.nextId
      s.eachLane va (fun l => s.reach .rd n .misaligned true (va l)) fun s l pa =>
        s.addOp { id := 0, iss := iss, lane := l, kind := .ldf, va := va l, pa := pa, size := n, sz := sz, acq := mAcq o,
                  clr := mClr o, dest := some o.d }

/-- SLD: one load for the split, into uniform registers (spec/06_vector.md R150). -/
def execSld (o : MOps) (s : State) : Host.Outcome State Fault Refusal :=
  s.gated (.sld o) fun s =>
    let sz := o.sz.toNat; let n := szBytes sz
    let va := s.warp.ea o n s.lowest
    let s := s.touch va
    match s.reach .rd n .misaligned false va with
    | .error c => s.faultSplit c va
    | .ok pa =>
      s.addOp { id := 0, iss := s.nextId, lane := s.lowest, kind := .ld, mask := s.mask, va := va, pa := pa, size := n, sz := sz,
                dest := some o.d }

/-- ST: a pending store for each lane (R175, spec/15_memory_model.md R312). -/
def execSt (o : MOps) (s : State) : Host.Outcome State Fault Refusal :=
  s.gated (.st o) fun s =>
    let w := s.warp; let sz := o.sz.toNat; let n := szBytes sz
    let va (l : Nat) : Nat := w.ea o n l
    s.eachLane va (fun l => s.reach .wr n .misaligned false (va l)) fun s l pa =>
      s.addOp { id := 0, lane := l, kind := .st, va := va l, pa := pa, size := n, data := w.datum o.d sz l, rel := mRel o }

/-- STF: a write at the home that fills the granule (R178). -/
def execStf (o : MOps) (s : State) : Host.Outcome State Fault Refusal :=
  s.gated (.stf o) fun s =>
    let w := s.warp; let sz := o.sz.toNat; let n := szBytes sz
    let va (l : Nat) : Nat := w.ea o n l
    s.eachLane va (fun l => s.reach .wr n .misaligned true (va l)) fun s l pa =>
      s.addOp { id := 0, lane := l, kind := .stf, va := va l, pa := pa, size := n, data := w.datum o.d sz l, rel := mRel o }

/-! ### Full-empty operations (R180) -/

/-- The granule count of a lane. -/
def feCount (w : Warp) (o : MOps) (l : Nat) : Nat := min (w.reg o.d.toNat l).toNat 4096

/-- The first granule of a range at or past the flat size, by its virtual address. -/
def State.feBeyond (s : State) (va pa n : Nat) : Option Nat :=
  if flatOff pa + 16 * n ≤ s.flatBytes then none else some (va + (s.flatBytes - flatOff pa))

/-- The checks of a FEOP in each lane, then its effect with the range's physical address and count. -/
def State.feop (s : State) (o : MOps) (f : State → Nat → Nat → Nat → State) : State :=
  let w := s.warp
  let va (l : Nat) : Nat := w.ea o 16 l
  let acc (l : Nat) : Except (Cause × Nat) Nat :=
    match s.reach .rw 16 .misaligned true (va l) with
    | .error c => .error (c, va l)
    | .ok pa => match s.feBeyond (va l) pa (feCount w o l) with
      | some a => .error (.flatUnpopulated, a)
      | none => .ok pa
  let fs := s.lanes.filterMap fun l => match acc l with | .ok _ => none | .error e => some (l, e.1, e.2)
  let s := s.lanes.foldl (fun s l => s.touch (va l)) s
  s.withFaults fs fun s => s.lanes.foldl (fun s l => match acc l with | .ok pa => f s l pa (feCount w o l) | .error _ => s) s

/-- Add a FEOP of a lane; a count of 0 does nothing. -/
def State.addFe (s : State) (k : OpKind) (o : MOps) (w : Warp) (l pa n : Nat) : State :=
  if n = 0 then s else s.addOp { id := 0, lane := l, kind := k, va := w.ea o 16 l, pa := pa, size := n }

/-- FEOP.set (R180). -/
def execFeopSet (o : MOps) (s : State) : Host.Outcome State Fault Refusal :=
  s.gated (.feopSet o) fun s => let w := s.warp; s.feop o fun s l pa n => s.addFe .feSet o w l pa n
/-- FEOP.clear (R180). -/
def execFeopClear (o : MOps) (s : State) : Host.Outcome State Fault Refusal :=
  s.gated (.feopClear o) fun s => let w := s.warp; s.feop o fun s l pa n => s.addFe .feClear o w l pa n
/-- The count that a FEOP.test of a lane has returned, once every granule has been seen. -/
def Warp.feTested (w : Warp) (l : Nat) : Option Nat :=
  (w.ops.find? fun o => o.kind == .feTest && o.lane == l && o.done).map (·.val)
/-- FEOP.test waits for its lanes' earlier operations on the range and sends the range to its home; the split stalls until
every granule has been seen, and each lane's result is then the number of full ones (R180). -/
def execFeopTest (o : MOps) (s : State) : Host.Outcome State Fault Refusal :=
  s.gated (.feopTest o) fun s =>
    let w := s.warp
    let out := w.ops.filter fun x => x.kind == .feTest && s.mask.getLsbD x.lane
    if !out.isEmpty then
      if out.all (·.done) then
        s.updWarp fun w => (lanesOf s.mask).foldl (fun w l => match w.feTested l with
          | none => w
          | some n => ({ w with ops := w.ops.filter fun x => !(x.kind == .feTest && x.lane == l) } : Warp).setReg o.d.toNat l
              (BitVec.ofNat 32 n)) w
      else s.stalled
    else
      let busy (l : Nat) : Bool :=
        match s.reach .rw 16 .misaligned true (w.ea o 16 l) with
        | .error _ => false
        | .ok pa => w.conflicts (laneBit l) pa (16 * feCount w o l)
      if s.lanes.any busy then s.stalled
      else
        let t := s.feop o fun s l pa n =>
          s.addOp { id := 0, lane := l, kind := .feTest, va := w.ea o 16 l, pa := pa, size := n, done := n = 0 }
        if t.mask = 0#32 then t else t.stalled

/-! ### Atomics (R181, R182) -/

/-- An atomic of each lane. -/
def State.atomics (s : State) (o : MOps) (k : OpKind) (dest : Bool) (data data2 : Warp → Nat → Nat) : State :=
  let w := s.warp; let sz := o.sz.toNat; let n := szBytes sz
  let va (l : Nat) : Nat := w.ea o n l
  let iss := s.nextId
  s.eachLane va (fun l => s.reach (if k = .red then .wr else .rw) n .misalignedAtomic false (va l)) fun s l pa =>
    s.addOp { id := 0, iss := iss, lane := l, kind := k, va := va l, pa := pa, size := n, sz := sz, data := data w l,
              data2 := data2 w l, aop := mAop o, sgn := mSgn o, acq := mAcq o, rel := mRel o,
              dest := if dest then some o.d else none }

/-- ATOM (R181). -/
def execAtom (o : MOps) (s : State) : Host.Outcome State Fault Refusal :=
  s.gated (.atom o) (·.atomics o .atom true (fun w l => w.datum o.d o.sz.toNat l) fun _ _ => 0)
/-- RED (R181). -/
def execRed (o : MOps) (s : State) : Host.Outcome State Fault Refusal :=
  s.gated (.red o) (·.atomics o .red false (fun w l => w.datum o.d o.sz.toNat l) fun _ _ => 0)
/-- CAS (R182). -/
def execCas (o : MOps) (s : State) : Host.Outcome State Fault Refusal :=
  s.gated (.cas o) (·.atomics o .cas true (fun w l => w.datum o.d o.sz.toNat l)
    fun w l => w.regN (o.d.toNat + szRegs o.sz.toNat) l (szRegs o.sz.toNat))

/-! ### Fences (R184) -/

/-- Every earlier store and home operation of the split's threads is ordered (R315). -/
def State.released (s : State) : Bool := s.lanes.all fun l => !s.warp.unregistered l s.nextId
/-- Every earlier load, LDF, LD.pk, ATOM and CAS of the split's threads has returned. -/
def State.returned (s : State) : Bool :=
  s.lanes.all fun l => !s.warp.ops.any fun o =>
    (o.kind == .ld || o.kind == .ldf || o.kind == .atom || o.kind == .cas) && o.covers l

/-- FENCE.acq (R184). -/
def execFenceAcq (o : VOps) (s : State) : Host.Outcome State Fault Refusal :=
  s.gated (.fenceAcq o) fun s => if s.returned then s.acquire s.cur.core else s.stalled
/-- FENCE.rel (R184). -/
def execFenceRel (o : VOps) (s : State) : Host.Outcome State Fault Refusal :=
  s.gated (.fenceRel o) fun s => if s.released then s else s.stalled
/-- FENCE.ar (R184). -/
def execFenceAr (o : VOps) (s : State) : Host.Outcome State Fault Refusal :=
  s.gated (.fenceAr o) fun s => if s.released && s.returned then s.acquire s.cur.core else s.stalled

/-! ### Packed vectors (R185 to R187) -/

/-- A packed-vector header. -/
structure Pk where
  fmt : Nat
  raw : Bool
  n   : Nat
  len : Nat
  cap : Nat
  bad : Bool                    -- malformed
  deriving DecidableEq, Repr

/-- Read a header from its 16 bytes as one number. -/
def Pk.of (h : Nat) : Pk :=
  let f := bitsOf h 7 0
  { fmt := f, raw := bitOf h 8, n := bitsOf h 31 16, len := bitsOf h 63 32, cap := bitsOf h 95 64,
    bad := !WellFormed.fmtAssigned f || bitsOf h 15 9 != 0 || bitsOf h 127 96 != 0
      || decide (bitsOf h 95 64 < bitsOf h 63 32) }
def Pk.width (p : Pk) : Nat := WellFormed.fmtWidth p.fmt
/-- Bytes of the bitmask of N elements. -/
def maskBytes (n : Nat) : Nat := 16 * ((n + 127) / 128)
/-- Header bytes. -/
def Pk.bytes (p : Pk) : List Byte :=
  leBytes 16 (p.fmt + (if p.raw then 2 ^ 8 else 0) + p.n * 2 ^ 16 + p.len * 2 ^ 32 + p.cap * 2 ^ 64)

/-- Pack elements of width w: the form, and the payload (R186). -/
def packVector (w : Nat) (es : List Nat) : Bool × List Byte :=
  let n := es.length; let mb := maskBytes n
  let nz := es.filter (· != 0)
  let packed := mb + (nz.length * w + 7) / 8
  let raw := (n * w + 7) / 8
  if raw ≤ packed then (true, leBytes raw (packElems w es))
  else (false, leBytes mb (packElems 1 (es.map fun e => if e = 0 then 0 else 1)) ++
    leBytes ((nz.length * w + 7) / 8) (packElems w nz))

/-- The stores of a CST: 16-byte pieces that belong to every thread of the split. The first `head` of them, its header and
its mask, take their places in the home order together, so that no reader finds one without the other (R187). -/
def State.addPieces (mask : Word) (lane head iss : Nat) : State → List (Nat × Nat × List Byte) → State
  | s, [] => s
  | s, (va, pa, bs) :: r =>
    State.addPieces mask lane (head - 1) iss (s.addOp { id := 0, lane := lane, kind := .st, mask := mask, va := va, pa := pa,
                                                        size := bs.length, data := leNat bs, iss := iss,
                                                        aop := if head = 0 then 0 else 1 }) r

/-- Split bytes into 16-byte pieces from an address. -/
def pieces : Nat → Nat → List Byte → List (Nat × List Byte)
  | 0, _, _ => []
  | _, _, [] => []
  | n + 1, a, bs => (a, bs.take 16) :: pieces n (a + 16) (bs.drop 16)

/-- The header of a CST as its split reads it, at the home (R186). -/
def State.cstHead (s : State) (H : Nat) : NowRead :=
  match s.reach .wr 16 .misaligned false H with
  | .error c => .fault c
  | .ok pa =>
    if s.warp.conflicts s.mask pa 16 then .wait pa
    else if isFabric pa then
      match s.warp.farRead s.lowest pa 16 with
      | none => .wait pa
      | some none => .ok 0 true
      | some (some v) => .ok v false
    else if s.swHeld pa 16 then .wait pa
    else .ok (s.rdN pa 16) (s.bad pa 16)
/-- The pieces a CST of some lanes stores at a header address, or the fault of those lanes (R186). -/
def State.cstPlan (s : State) (o : MOps) (m : Word) (H x : Nat) : Except Cause (List (Nat × Nat × List Byte)) :=
  let w := s.warp
  let h := Pk.of x
  if h.bad then .error .recordInvalid
  else
    let wd := h.width; let regs := szRegs o.sz.toNat
    let per := 32 * regs / wd
    let es := (List.range (32 * per)).map fun e =>
      if m.getLsbD (e / per) then w.regN o.d.toNat (e / per) regs / 2 ^ (wd * (e % per)) % 2 ^ wd else 0
    let (raw, pay) := packVector wd es
    if h.cap < pay.length then .error .compressedOverrun
    else
      let hdr : Pk := { h with raw := raw, n := 32 * per, len := pay.length }
      let ps := (H, hdr.bytes) :: pieces pay.length (H + 16) pay
      let tr := ps.map fun p => (s.reach .wr 16 .misaligned false p.1, p)
      match tr.findSome? fun x => match x.1 with | .error c => some c | .ok _ => none with
      | some c => .error c
      | none => .ok (tr.filterMap fun x => match x.1 with
          | .ok pa => some (x.2.1, pa, x.2.2) | .error _ => none)

/-- The pieces of a CST that hold its header, its mask, or bytes of the mask that the old header gives: a reader finds the
old header and mask or the new ones, and never data of one taken for the mask of the other (R187, spec/19_compression.md
R354). -/
def cstHeads (old : Nat) (ps : List (Nat × Nat × List Byte)) : Nat :=
  let mask (x : Nat) : Nat := let h := Pk.of x; if h.raw then 0 else maskBytes h.n / 16
  match ps with
  | [] => 0
  | p :: _ => 1 + max (mask (leNat p.2.2)) (mask old)

/-- CST: lanes whose header address differs fault NONUNIFORM, with their operand pair as it stands (R273); the others
store together, or share the header's fault; the read waits for the split's own writes of the header (R186, R174). -/
def execCst (o : MOps) (s : State) : Host.Outcome State Fault Refusal :=
  s.gated (.cst o) fun s =>
    let w := s.warp
    let H := w.ea o 16 s.lowest
    match s.cstHead H with
    | .wait pa => (if s.warp.conflicts s.mask pa 16 then s else s.waitRead s.lowest H pa 16).stalled
    | hd =>
      let same := s.lanes.filter fun l => w.ea o 16 l == H
      let diff : List LaneFault := (s.lanes.filter fun l => w.ea o 16 l != H).map fun l => (l, .nonuniform, w.reg64 o.a.toNat l)
      let s := s.touch H
      let plan : Except Cause (List (Nat × Nat × List Byte)) := match hd with
        | .fault c => .error c
        | .ok _ true => .error .dataUncorrectable
        | .ok x false => s.cstPlan o (maskOf same) H x
        | .wait _ => .error .dataUncorrectable
      match plan with
      | .error c => s.withFaults (diff ++ same.map fun l => (l, c, H)) id
      | .ok ps => s.withFaults diff fun s => State.addPieces s.mask s.lowest (cstHeads hd.value ps) s.nextId s ps

/-- What one lane of an LD.pk gets. -/
inductive PkRes where
  | fault (c : Cause) (a : Nat)
  | value (v : Nat)
  | bad (a : Nat)               -- a read that stays uncorrectable, found on its return
  | wait (va pa n : Nat)        -- a read that must wait
  deriving DecidableEq, Repr
/-- The result of an LD.pk's lane, with the reads it has made: address, length, and whether the L1 may serve it. -/
abbrev PkRun := List (Nat × Nat × Bool) × PkRes

/-- One read of an LD.pk: what stops it, or its value. The header and the mask are read at the home, together (R187). -/
def State.pkRead (s : State) (lane va n : Nat) (l1 : Bool) : PkRes ⊕ Nat :=
  match s.readNow lane va n l1 with
  | .fault c => .inl (.fault c va)
  | .wait pa => .inl (.wait va pa n)
  | .ok _ true => .inl (.bad va)
  | .ok x false => .inr x
/-- Go on with the value of a read. -/
def State.pkThen (s : State) (lane va n : Nat) (l1 : Bool) (f : Nat → PkRun) : PkRun :=
  match s.pkRead lane va n l1 with
  | .inl r => ([(va, n, l1)], r)
  | .inr x => ((va, n, l1) :: (f x).1, (f x).2)

/-- The bits of the mask in the granules from g on, handed on as one number. -/
def State.pkMask (s : State) (lane base : Nat) (f : Nat → PkRun) : Nat → Nat → Nat → PkRun
  | _, m, 0 => f m
  | g, m, n + 1 => s.pkThen lane (base + 16 * g) 16 false fun x => State.pkMask s lane base f (g + 1) (m + 2 ^ (128 * g) * x) n

/-- One element of a packed vector's payload, at a bit of it. -/
def State.pkElem (s : State) (lane base bit w sz : Nat) : PkRun :=
  s.pkThen lane (base + bit / 32 * 4) 4 true fun x =>
    let v := x / 2 ^ (bit % 32) % 2 ^ w
    ([], .value (if sz = 1 ∨ sz = 3 then modW 32 (sext w v) else v))

/-- A piece of a CST of the warp that has not registered. -/
def Op.cstPiece (o : Op) : Bool := o.kind == .st && o.mask != 0#32
/-- What an LD.pk reads its headers from, and its masks: where a CST of the warp has not registered, each read may pass by
those pieces, a free choice, since spec/18_program_sparse.md R349 allows a lane that stored them the old header or the
unregistered mask, and R186 with R174 give it its own (notes/assumptions/91.md); and the state whose free value is used. -/
def State.pkViews (s : State) : (State × State) × State :=
  if s.warp.ops.any (·.cstPiece) then
    let (x, t) := s.free
    let old := s.updWarp fun w => { w with ops := w.ops.filter fun o => !o.cstPiece }
    ((if x.getLsbD 0 then old else s, if x.getLsbD 1 then old else s), t)
  else ((s, s), s)

/-- The element of one lane (R187, R351, R352), its header and its mask from the views `hd` and `mk`. -/
def State.pkLane (s hd mk : State) (lane H e sz : Nat) : PkRun :=
  hd.pkThen lane H 16 false fun x =>
    let h := Pk.of x; let w := h.width
    let okSz := if w ≤ 8 then decide (sz ≤ 1) else if w = 16 then sz == 2 || sz == 3 else sz == 4
    if h.bad || !okSz then ([], .fault .recordInvalid H)
    else if h.n ≤ e then ([], .value 0)
    else if h.raw then s.pkElem lane (H + 16) (e * w) w sz
    else mk.pkMask lane (H + 16) (fun m =>
      if !bitOf m e then ([], .value 0) else s.pkElem lane (H + 16) (8 * maskBytes h.n + popEl e m * w) w sz) 0 0 (e / 128 + 1)

/-- LD.pk: the header, mask and payload are read at issue, each as an ordinary load of its lane; the element is a long
result (R187). -/
def execLdPk (o : MOps) (s : State) : Host.Outcome State Fault Refusal :=
  s.gated (.ldPk o) fun s =>
    let w := s.warp; let sz := o.sz.toNat
    let H (l : Nat) : Nat := modW 64 (w.reg64 o.a.toNat l + sext 7 o.off.toNat * 16)
    let e (l : Nat) : Nat := match o.x with | none => 0 | some x => (w.reg x.idx.toNat l).toNat
    let v := s.pkViews
    let res := s.lanes.map fun l => (l, s.pkLane v.1.1 v.1.2 l (H l) (e l) sz)
    let waits := res.filterMap fun r => match r.2.2 with | .wait va pa n => some (r.1, va, pa, n) | _ => none
    if !waits.isEmpty then (waits.foldl (fun s x => s.waitRead x.1 x.2.1 x.2.2.1 x.2.2.2) s).stalled
    else
      let iss := s.nextId
      let s := res.foldl (fun s r => r.2.1.foldl (fun s y => s.madeRead y.1 y.2.1 y.2.2) s) v.2
      s.withFaults (res.filterMap fun r => match r.2.2 with | .fault c a => some (r.1, c, a) | _ => none) fun s =>
        res.foldl (fun s r => match r.2.2 with
          | .value v => s.addOp { id := 0, iss := iss, lane := r.1, kind := .ld, va := H r.1, size := 0, sz := 4, acq := mAcq o,
                                  dest := some o.d, done := true, val := v }
          | .bad a => s.addOp { id := 0, iss := iss, lane := r.1, kind := .ld, va := a, size := 0, sz := 4, acq := mAcq o,
                                dest := some o.d, done := true, err := true }
          | _ => s) s

/-! ### Async barriers (R188 to R191) -/

/-- The arrivals of a warp whose threads' earlier stores have registered are counted (R191). -/
def State.applyAb (s : State) (c w : Nat) : State :=
  let wp := s.warpAt c w
  wp.ops.foldl (fun s o =>
    if o.kind == .abArr && !(allLanes.any fun l => o.covers l && (s.warpAt c w).unregistered l o.id) then
      let s := s.updWarpAt c w fun wp => { wp with ops := wp.ops.filter (·.id != o.id) }
      let x := s.abRead o.pa
      if s.bad o.pa 16 then s.meetsError wp.tenant o.va o.pa
      else if x.malformed then s
      else (s.abWrite wp.tenant o.va o.pa (x.update (BitVec.ofNat 32 o.data) (BitVec.ofNat 32 o.data2))).dropCopies c o.pa 16
    else s) s

/-- The object's checks: lanes whose pair or whose b differs fault NONUNIFORM, the others share the object;
the operation waits for the split's own earlier writes of it (R189, R174), and the core keeps no older copy (R313). An
object whose words hold a lasting error, other than one that ABINIT writes whole, faults DATA_UNCORRECTABLE in the split
(DEDUCED from R424 and R425, notes/assumptions/89.md). -/
def State.abObject (s : State) (o : VOps) (init : Bool) (f : Nat → Nat → Word → State → State) : State :=
  let w := s.warp; let l0 := s.lowest
  let va := w.reg64 o.a.toNat l0; let b := w.reg o.b.toNat l0
  let d1 := s.differing o.a.toNat 2
  let d2 := (s.differing o.b.toNat 1).filter fun x => !d1.any (·.1 == x.1)
  let diff : List LaneFault := (d1 ++ d2).map fun x => (x.1, .nonuniform, x.2)
  let rest (c : Cause) : List LaneFault :=
    (s.lanes.filter fun l => !diff.any (·.1 == l)).map fun l => (l, c, va)
  match s.reach .rw 16 .misaligned true va with
  | .error c => (s.touch va).withFaults (diff ++ rest c) id
  | .ok pa =>
    if w.conflicts s.mask pa 16 then s.stalled
    else if !init && s.bad pa 16 then s.withFaults (diff ++ rest .dataUncorrectable) id
    else if !init && (s.abRead pa).malformed then s.withFaults (diff ++ rest .recordInvalid) id
    else s.withFaults diff fun s => f va pa b (s.dropCopies s.cur.core pa 16)

/-- ABINIT (R190). -/
def execAbinit (o : VOps) (s : State) : Host.Outcome State Fault Refusal :=
  s.gated (.abinit o) (·.abObject o true fun va pa b s => (s.abWrite s.warp.tenant va pa (abInit b)).wakeAb)
/-- ABEXP (R190). -/
def execAbexp (o : VOps) (s : State) : Host.Outcome State Fault Refusal :=
  s.gated (.abexp o) (·.abObject o false fun va pa b s =>
    (s.abWrite s.warp.tenant va pa ((s.abRead pa).update b 0#32)).wakeAb)
/-- ABARR: one arrival for each thread of the split, after its earlier stores (R190, R191). -/
def execAbarr (o : VOps) (s : State) : Host.Outcome State Fault Refusal :=
  s.gated (.abarr o) (·.abObject o false fun va pa b s =>
    let c := s.cur.core; let w := s.cur.slot
    ((s.addOp { id := 0, lane := s.lowest, kind := .abArr, mask := s.mask, va := va, pa := pa, size := 16,
                data := b.toNat, data2 := s.lanes.length, rel := true }).applyAb c w).wakeAb)
/-- ABWAIT (R190, R191). -/
def execAbwait (o : VOps) (s : State) : Host.Outcome State Fault Refusal :=
  s.gated (.abwait o) (·.abObject o false fun _ pa b s =>
    if (s.abRead pa).phase == b.getLsbD 0 then
      s.leaveToWait s.lanes fun t => { t with wait := .abwait pa (b.getLsbD 0) }
    else s.acquire s.cur.core)
/-- ABTEST (R190, R191). -/
def execAbtest (o : VOps) (s : State) : Host.Outcome State Fault Refusal :=
  s.gated (.abtest o) (·.abObject o false fun _ pa b s =>
    let x := (s.abRead pa).phase != b.getLsbD 0
    let s := s.perPred o.d.toNat fun _ _ => x
    if x then s.acquire s.cur.core else s)

/-! ### WAITC and PREF (R192, R193) -/

/-- WAITC (R192). -/
def execWaitc (o : IOps) (s : State) : Host.Outcome State Fault Refusal :=
  s.gated (.waitc o) fun s =>
    if s.warp.ctrMet (o.imm.toNat / 2 ^ 6 % 8) (o.imm.toNat % 64) then s.acquire s.cur.core
    else { s with flow := .park .waitc }

/-- PREF brings the line of each lane that passes its checks: a local one at once, one of another device by a load whose
result goes nowhere; the others are dropped (R193). -/
def execPref (o : MOps) (s : State) : Host.Outcome State Fault Refusal :=
  s.gated (.pref o) fun s =>
    let w := s.warp
    s.lanes.foldl (fun s l =>
      let va := w.ea o 4 l
      match s.reach .rd 4 .misaligned false va with
      | .ok pa => if isFabric pa then s.addOp { id := 0, lane := fetchLane, kind := .pref, va := va, pa := pa / 128 * 128, size := 128 }
                  else s.fillLine s.cur.core pa
      | .error _ => s) s

end Sys2Proof.Machine
end

