-- ==== Sys2Proof/Machine/HashGrid.lean ====
section
/-! DEFINITION. Machine/HashGrid.lean: hashed-grid regions, HGL and HGA (spec/25_hashgrid.md R409 to R417,
spec/08_memory_isa.md R194, R195), and the retirement of counted commands (spec/02_state.md R27). -/

namespace Sys2Proof.Machine

open Sys2Proof

/-! ### Counters (spec/02_state.md R27, spec/04_encoding.md R95) -/

def Warp.ctr (w : Warp) : Ctr → Nat
  | .mat => w.cmat
  | .copy => w.ccopy
  | .clr => w.cclr
  | .aux => w.caux
def Warp.setCtr (w : Warp) (k : Ctr) (n : Nat) : Warp :=
  match k with
  | .mat => { w with cmat := n }
  | .copy => { w with ccopy := n }
  | .clr => { w with cclr := n }
  | .aux => { w with caux := n }

/-- A command joins the core's list and its warp's counter rises. -/
def State.addCmd (s : State) (x : Cmd) : State :=
  (s.updCore s.cur.core fun k => { k with cmds := k.cmds ++ [x] }).updWarp fun w => w.setCtr x.ctr (w.ctr x.ctr + 1)

/-- Retire every ended command that no older one of its warp and class precedes (R27). -/
def State.retire (s : State) (c : Nat) : State :=
  (s.core c).cmds.foldl (fun s x0 =>
    let ks := (s.core c).cmds
    match ks.find? (·.id == x0.id) with
    | none => s
    | some x =>
      if x.ended && !(ks.takeWhile (·.id != x.id)).any (fun y => y.slot == x.slot && y.ctr == x.ctr) then
        ((s.updCore c fun k => { k with cmds := k.cmds.filter (·.id != x.id) }).updWarpAt c x.slot fun w =>
          w.setCtr x.ctr (w.ctr x.ctr - 1)).settle c x.slot
      else s) s

/-! ### The region descriptor (R409, R410) -/

structure Region where
  d : Nat
  l : Nat
  f : Nat
  pfmt : Nat
  exact_ : Bool
  shift : Nat
  pbase : Nat
  gbase : Nat
  nres : List Nat
  tlog : List Nat
  deriving DecidableEq, Repr

def Region.psize (r : Region) : Nat := if r.pfmt = 0 then 4 else 2
def Region.gsize (r : Region) : Nat := if r.exact_ then 8 else 4
/-- Entries of the levels below k. -/
def Region.before (r : Region) (k : Nat) : Nat := (r.tlog.take k).foldl (fun a t => a + 2 ^ t) 0


/-- The descriptor of 256 bytes, or none where it is malformed. -/
def Region.parse (x : Nat) : Option Region :=
  let l := blockField x 1 1
  let ns := (List.range 16).map fun i => blockField x (0x20 + 4 * i) 4
  let ts := (List.range 16).map fun i => blockField x (0x60 + i) 1
  let r : Region :=
    { d := blockField x 0 1, l := l, f := blockField x 2 1, pfmt := blockField x 3 1,
      exact_ := blockField x 4 1 == 1, shift := blockField x 5 1,
      pbase := blockField x 8 8, gbase := blockField x 0x10 8, nres := ns.take l, tlog := ts.take l }
  if 1 ≤ r.d ∧ r.d ≤ 8 ∧ 1 ≤ l ∧ l ≤ 16 ∧ (r.f = 1 ∨ r.f = 2 ∨ r.f = 4 ∨ r.f = 8) ∧ r.pfmt ≤ 2
      ∧ blockField x 4 1 ≤ 1 ∧ (if r.exact_ then r.shift ≤ 63 else r.shift = 0)
      ∧ blockField x 6 2 = 0 ∧ blockField x 0x18 8 = 0 ∧ blockField x 0x70 144 = 0
      ∧ r.pbase % 16 = 0 ∧ r.pbase < 2 ^ 55 ∧ r.gbase % 16 = 0 ∧ r.gbase < 2 ^ 55
      ∧ r.nres.all (fun n => decide (1 ≤ n ∧ n ≤ 16777216)) ∧ (ns.drop l).all (· == 0)
      ∧ r.tlog.all (fun t => decide (t ≤ 24)) ∧ (ts.drop l).all (· == 0)
      ∧ r.pbase + r.psize * r.f * r.before l ≤ 2 ^ 55 ∧ r.gbase + r.gsize * r.f * r.before l ≤ 2 ^ 55
  then some r else none

/-- The sixteen reads of a descriptor. -/
def blockReads (va : Nat) : List (Nat × Nat) := (List.range 16).map fun i => (va + 16 * i, 16)
/-- What they give a lane, as one number. -/
def State.readBlock16 (s : State) (lane va : Nat) : Nat → Except Cause Nat
  | 0 => .ok 0
  | n + 1 =>
    match s.readNow lane va 16 with
    | .fault c => .error c
    | .ok x false =>
      (match State.readBlock16 s lane (va + 16) n with
       | .error c => .error c
       | .ok y => .ok (x + 2 ^ 128 * y))
    | _ => .error .dataUncorrectable

/-! ### Cells, corners and entries (R412, R413) -/

def one32 : Word := 0x3F800000#32
/-- The clamp of a coordinate to [0, 1]; the caller has ruled NaN out. -/
def clamp01 (x : Word) : Word :=
  let v := dec32 x
  if cmpF v (.fin false 0 0) ≤ 0 then 0#32 else if cmpF v (.fin false 1 0) > 0 then one32 else x

/-- The cell and the fraction of one dimension at a resolution. -/
def cell (x : Word) (n : Nat) : Nat × Word :=
  let p := ne32 (mulE (dec32 (clamp01 x)) (.fin false n 0))
  let fl := match dec32 p with | .fin _ m e => (quot m 1 e).1 | _ => 0
  let c := min fl (n - 1)
  (c, ne32 (addE false (dec32 p) (.fin true c 0)))

/-- A corner: its grid point and its weight. -/
def corner (cs : List (Nat × Word)) (k : Nat) : List Nat × Word :=
  let pt := (List.range cs.length).map fun d => (cs.getD d (0, 0#32)).1 + (if bitOf k d then 1 else 0)
  let fac (d : Nat) : Word :=
    let f := (cs.getD d (0, 0#32)).2
    if bitOf k d then f else ne32 (addE false (.fin false 1 0) (dec32 f).flip)
  let w := (List.range (cs.length - 1)).foldl (fun w d => ne32 (mulE (dec32 w) (dec32 (fac (d + 1))))) (fac 0)
  (pt, w)

def hashMul : List Nat :=
  [0x00000001, 0x9E3779B1, 0x85EBCA77, 0xC2B2AE3D, 0x27D4EB2F, 0x165667B1, 0xD3A2646D, 0xFD7046C5]

/-- The entry index of a grid point. -/
def entryIndex (d n tlog : Nat) (pt : List Nat) : Nat :=
  if (n + 1) ^ d ≤ 2 ^ tlog then
    (List.range d).foldl (fun a i => a + pt.getD i 0 * (n + 1) ^ i) 0
  else
    ((List.range d).foldl (fun h i => h ^^^ (pt.getD i 0 * hashMul.getD i 0 % 2 ^ 32)) 0) % 2 ^ tlog

/-- Every corner of a lane in (level, corner) order: level, entry number in the tables, weight. -/
def Region.corners (r : Region) (xs : List Word) : List (Nat × Nat × Word) :=
  (List.range r.l).flatMap fun l =>
    let n := r.nres.getD l 1; let t := r.tlog.getD l 0
    let cs := xs.map fun x => cell x n
    (List.range (2 ^ r.d)).map fun k =>
      let c := corner cs k
      (l, r.before l + entryIndex r.d n t c.1, c.2)

/-- The byte addresses and sizes of the accesses an entry takes: at most 16 bytes each (R411). -/
def entryPieces (addr bytes : Nat) : List (Nat × Nat) :=
  if bytes ≤ 16 then [(addr, bytes)] else (List.range (bytes / 16)).map fun i => (addr + 16 * i, 16)

/-- The check of one corner's entry. -/
def State.entryCheck (s : State) (need : Need) (addr bytes : Nat) : Option Cause :=
  (entryPieces addr bytes).findSome? fun p =>
    match s.reach need p.2 .misaligned false p.1 with | .error c => some c | .ok _ => none

/-! ### Operands (R194, R195) -/

/-- A range of n registers stays within its kind's codes and the declared count. -/
def Warp.rangeOk (w : Warp) (code n : Nat) (uni : Bool) : Bool :=
  (if code < 96 then decide (code + n ≤ 96) else uni && decide (code + n ≤ 128)) && w.spanOk ⟨code, n, true⟩

/-- The descriptor and the operand ranges, or the fault of the whole split, which has read the descriptor; a read that must
wait stalls it. Where there is no fault, what follows notes the reads of the descriptor. -/
def State.hgSetup (s : State) (o : VOps) (adj : Bool) (f : Region → State → State) : State :=
  let w := s.warp; let va := w.reg64 o.b.toNat 0
  if va % 256 ≠ 0 then s.faultSplit .recordInvalid va
  else if s.mustWait s.lowest (blockReads va) then (s.waitReads s.lowest (blockReads va)).stalled
  else
    let t := s.madeReads (blockReads va)
    match s.readBlock16 s.lowest va 16 with
    | .error c => t.faultSplit c va
    | .ok x =>
      match Region.parse x with
      | none => t.faultSplit .recordInvalid va
      | some r =>
        if !w.rangeOk o.a.toNat r.d false || !w.rangeOk o.d.toNat (r.l * r.f) adj then t.faultSplit .recordInvalid va
        else if w.rangeBad s.mask o.a.toNat r.d || (adj && w.rangeBad s.mask o.d.toNat (r.l * r.f)) then
          t.faultOpen .dataUncorrectable
        else f r s

/-- The coordinates of a lane. -/
def Warp.coords (w : Warp) (a d l : Nat) : List Word := (List.range d).map fun i => w.reg (a + i) l

/-- The fault of a lane: a NaN coordinate, else the first failing corner. -/
def State.hgLane (s : State) (r : Region) (need : Need) (a l : Nat) (addr : Nat → Nat) (bytes : Nat) : Option (Cause × Nat) :=
  let xs := s.warp.coords a r.d l
  match (List.range r.d).find? fun i => (dec32 (xs.getD i 0#32)).isNan with
  | some i => some (.hgCoord, a + i)
  | none => (r.corners xs).findSome? fun c => (s.entryCheck need (addr c.2.1) bytes).map fun e => (e, addr c.2.1)

/-- The access that reads a feature's parameter of an entry (R411). -/
def Region.piece (r : Region) (addr f : Nat) : Nat × Nat :=
  if r.psize * r.f ≤ 16 then (addr, r.psize * r.f) else (addr + r.psize * f / 16 * 16, 16)
/-- A parameter of an entry, as FP32 value, and whether its access met an error. -/
def State.param (s : State) (r : Region) (lane addr f : Nat) : FVal × Bool :=
  let piece := r.piece addr f
  match s.readNow lane piece.1 piece.2 with
  | .ok x b => (decodeE r.pfmt (x / 2 ^ (8 * (addr + r.psize * f - piece.1)) % 2 ^ (8 * r.psize)), b)
  | _ => (.nan false, false)
/-- The address of a corner's entry in the parameter table. -/
def Region.paddr (r : Region) (e : Nat) : Nat := r.pbase + r.psize * (r.f * e)
/-- The parameter reads of a lane, in (level, corner) order. -/
def State.paramReads (s : State) (r : Region) (a l : Nat) : List (Nat × Nat) :=
  (r.corners (s.warp.coords a r.d l)).flatMap fun c => entryPieces (r.paddr c.2.1) (r.psize * r.f)

/-- HGL (R194, R414): the features of each lane, a long result; its reads are ordinary loads, so that it waits for the
lane's own home operations on them and for other devices (R174, R172). DESIGN CHOICE (notes/assumptions/84.md): where the
second 16-byte access of an entry meets a lasting error, the address recorded is the entry's, as R194 has it for a failing
check, and not that access's own. -/
def execHgl (o : VOps) (s : State) : Host.Outcome State Fault Refusal :=
  s.gated (.hgl o) (·.hgSetup o false fun r s =>
    let w := s.warp
    let fs := s.lanes.filterMap fun l => (s.hgLane r .rd o.a.toNat l r.paddr (r.psize * r.f)).map fun x => (l, x.1, x.2)
    let go := s.lanes.filter fun l => !fs.any (·.1 == l)
    if go.any fun l => s.mustWait l (s.paramReads r o.a.toNat l) then
      (go.foldl (fun s l => s.waitReads l (s.paramReads r o.a.toNat l)) s).stalled
    else
    let vals := go.map fun l =>
      let cs := r.corners (w.coords o.a.toNat r.d l)
      let feat (lv f : Nat) : Word := cs.foldl (fun acc c =>
        if c.1 = lv then ne32 (fmaE false (dec32 c.2.2) (s.param r l (r.paddr c.2.1) f).1 (dec32 acc)) else acc) 0#32
      let vs := (List.range (r.l * r.f)).map fun i => (feat (i / r.f) (i % r.f)).toNat
      let bad := cs.find? fun c => (List.range r.f).any fun f => (s.param r l (r.paddr c.2.1) f).2
      (l, packElems 32 vs, bad.map fun c => r.paddr c.2.1)
    let iss := s.nextId
    let s := go.foldl (fun s l => s.madeReads (s.paramReads r o.a.toNat l)) (s.madeReads (blockReads (w.reg64 o.b.toNat 0)))
    s.withFaults fs fun s => vals.foldl (fun s v =>
      s.addOp { id := 0, iss := iss, lane := v.1, kind := .fn, va := v.2.2.getD 0, size := 0, data := r.l * r.f, dest := some o.d,
                     done := true, val := v.2.1, err := v.2.2.isSome }) s)

/-! ### Gradients (R195, R415, R416) -/

/-- The conversion of a contribution to an integer in units of 2^-shift. -/
def fixInt (shift : Nat) (v : Word) : Int :=
  match dec32 v with
  | .nan _ => 0
  | .inf n => if n then -(2 ^ 63) else 2 ^ 63 - 1
  | .fin n m e =>
    if m = 0 then 0
    else
      let p := placeI (.rat m 1 (e + shift))
      let g : Int := if roundsUp 0 n p 0 then p.g + 1 else p.g
      let z := if n then -g else g
      max (-(2 ^ 63)) (min (2 ^ 63 - 1) z)

/-- The distinct entries of some corners, in order of first meeting. -/
def firstSeen : List (Nat × Nat × Word × Nat) → List (Nat × Nat) → List (Nat × Nat)
  | [], seen => seen
  | c :: cs, seen => firstSeen cs (if seen.any fun x => x.2 == c.2.1 then seen else seen ++ [(c.1, c.2.1)])

/-- HGA (R195, R415): one reduction for each entry reached and each feature. A reduction is no lane's own access, so that
a lane's later load need not wait for it (spec/24_program_hashgrid.md R407). -/
def execHga (o : VOps) (s : State) : Host.Outcome State Fault Refusal :=
  s.gated (.hga o) fun s =>
    if s.warp.caux = 63 then s.stalled
    else s.hgSetup o true fun r s =>
      let w := s.warp
      let addr (e : Nat) : Nat := r.gbase + r.gsize * (r.f * e)
      let fs := s.lanes.filterMap fun l => (s.hgLane r .wr o.a.toNat l addr (r.gsize * r.f)).map fun x => (l, x.1, x.2)
      let s := s.madeReads (blockReads (w.reg64 o.b.toNat 0))
      s.withFaults fs fun s =>
        if s.mask = 0#32 then s
        else
          let ls := s.lanes.filter fun l => !fs.any (·.1 == l)
          -- contributions in (level, lane, corner) order: level, entry, weight, lane
          let all := ls.map fun l => (l, r.corners (w.coords o.a.toNat r.d l))
          let cs := (List.range r.l).flatMap fun lv => all.flatMap fun x =>
            (x.2.filter (·.1 == lv)).map fun c => (c.1, c.2.1, c.2.2, x.1)
          let (id, s) := s.newId
          let sums := (firstSeen cs []).flatMap fun e => (List.range r.f).map fun f =>
            let vs := (cs.filter (·.2.1 == e.2)).map fun c =>
              ne32 (mulE (dec32 (w.reg (o.d.toNat + e.1 * r.f + f) c.2.2.2)) (dec32 c.2.2.1))
            let sum := if r.exact_ then modW 64 ((vs.map (fixInt r.shift)).foldl (· + ·) 0)
              else ((vs.drop 1).foldl (fun a v => ne32 (addE false (dec32 a) (dec32 v))) (vs.headD 0#32)).toNat
            (addr e.2 + r.gsize * f, sum)
          let s := s.addCmd { id := id, slot := s.cur.slot, wg := w.wg, tenant := w.tenant, ctr := .aux, op := 0x66, eng := 7,
                              started := true, units := sums.length }
          sums.foldl (fun s x =>
            match s.reach .wr r.gsize .misaligned false x.1 with
            | .error _ => s
            | .ok pa => s.addOp { id := 0, lane := fetchLane, kind := .hga, va := x.1, pa := pa, size := r.gsize, data := x.2,
                                  data2 := id, aop := if r.exact_ then 0 else 9 }) s

end Sys2Proof.Machine
end

