-- ==== Sys2Proof/Machine/Matrix.lean ====
section
/-! DEFINITION. Machine/Matrix.lean: matrix instructions as they issue, and the engines' queues
(spec/09_engine_isa.md R197 to R209, spec/17_matrix_copy.md R334 to R336). -/

namespace Sys2Proof.Machine

open Sys2Proof

/-! ### Reservation words and tile records (R198, R199, spec/02_state.md R23) -/

def matFmt (f : Nat) : Bool := WellFormed.matFmt f
/-- Blocks of a data row. -/
def rowBlocks (f : Nat) : Nat := if f = 5 then 8 else 4

/-- The check of a reservation word against a number of rows. -/
def resCheck (x rows : Nat) (res : Bool) : Option Cause :=
  let f := bitsOf x 16 11; let mx := bitOf x 17; let sro := bitsOf x 41 32; let sb := bitsOf x 48 42
  if !WellFormed.fmtAssigned f then some .formatReserved
  else if !matFmt f || bitsOf x 63 49 != 0 || bitsOf x 31 18 != 0 || (res && (rows == 0 || decide (1024 < rows)))
      || (mx && (f == 1 || f == 2)) || (!mx && (sro != 0 || sb != 0)) || (mx && sro == 0)
      || (mx && decide (rows * 128 < sro * 128 + sb + sro * rowBlocks f)) then some .recordInvalid
  else none

/-- The record a reservation word makes over rows from a base. -/
def tileMake (x base rows : Nat) : BitVec 64 :=
  BitVec.ofNat 64 (2 ^ 63 + bitsOf x 16 11 * 2 ^ 57 + base * 2 ^ 47 + rows * 2 ^ 36 + bitsOf x 17 17 * 2 ^ 35
    + (if bitOf x 17 then (base + bitsOf x 41 32) % 1024 else base) * 2 ^ 25 + bitsOf x 48 42 * 2 ^ 18)

def tileFmt (t : BitVec 64) : Nat := bitsOf t.toNat 62 57
def tileMx (t : BitVec 64) : Bool := t.getLsbD 35
def tileSrow (t : BitVec 64) : Nat := bitsOf t.toNat 34 25
def tileSbyte (t : BitVec 64) : Nat := bitsOf t.toNat 24 18
/-- RD, the data rows of a record (R199). -/
def tileRd (t : BitVec 64) : Nat := if tileMx t then tileSrow t - (tileRows t).1 else (tileRows t).2

def Warp.tile (w : Warp) (n : Nat) : BitVec 64 := fget 0#64 w.t n
def Warp.setTile (w : Warp) (n : Nat) (x : BitVec 64) : Warp := { w with t := fset w.t n x }

/-- OBRES reserves the lowest run of free rows, or stalls and yields while there is none (R200). -/
def execObres (o : VOps) (s : State) : Host.Outcome State Fault Refusal :=
  s.gated (.obres o) fun s =>
    let w := s.warp; let x := w.reg64 o.a.toNat 0; let rows := x % 2 ^ 11
    match resCheck x rows true with
    | some c => s.faultOpen c
    | none =>
      if (w.tile o.d.toNat).getLsbD 63 then s.faultOpen .recordInvalid
      else
        match (s.core s.cur.core).freeRun rows with
        | none => { s with flow := .park .obres }
        | some base => s.updWarp fun w => w.setTile o.d.toNat (tileMake x base rows)

/-- OBREL makes a tile invalid (R201). -/
def execObrel (o : VOps) (s : State) : Host.Outcome State Fault Refusal :=
  s.gated (.obrel o) fun s => s.updWarp fun w => w.setTile o.d.toNat 0#64

/-- OBSET replaces a valid tile's format and scales (R201). -/
def execObset (o : VOps) (s : State) : Host.Outcome State Fault Refusal :=
  s.gated (.obset o) fun s =>
    let w := s.warp; let x := w.reg64 o.a.toNat 0; let t := w.tile o.d.toNat
    let (base, rows) := tileRows t
    if !t.getLsbD 63 then
      s.faultOpen (if WellFormed.fmtAssigned (bitsOf x 16 11) then .recordInvalid else .formatReserved)
    else
      match resCheck x rows false with
      | some c => s.faultOpen c
      | none => s.updWarp fun w => w.setTile o.d.toNat (tileMake x base rows)

/-! ### Issue into a queue (R207, R334) -/

/-- A matrix command is queued on its warp's home engine; a full queue or counter stalls (R207, R27). -/
def State.addMat (s : State) (x : Cmd) : State :=
  let e := s.cur.slot % 4
  if 8 ≤ ((s.core s.cur.core).queued e).length ∨ s.warp.cmat = 63 then s.stalled
  else
    let (id, s) := s.newId
    (s.addCmd { x with id := id, stamp := id, eng := e }).migrate s.cur.core

/-- The fields every matrix command takes from its warp. -/
def State.matCmd (s : State) (op acc : Nat) : Cmd :=
  { id := 0, slot := s.cur.slot, wg := s.warp.wg, tenant := s.warp.tenant, ctr := .mat, op := op, acc := acc, mask := s.mask }

/-- ACZ (R202). -/
def execAcz (o : VOps) (s : State) : Host.Outcome State Fault Refusal :=
  s.gated (.acz o) fun s => s.addMat (s.matCmd 0x6C o.d.toNat)

/-- ACWR takes its register values at issue (R202). -/
def execAcwr (o : VOps) (s : State) : Host.Outcome State Fault Refusal :=
  s.gated (.acwr o) fun s =>
    let w := s.warp
    s.addMat { s.matCmd 0x6E o.d.toNat with
      data := s.lanes.flatMap fun l => (List.range 16).map fun j => (l * 16 + j, w.reg (o.a.toNat + j) l) }

/-- The elements of an accumulator as one number, element 0 lowest. -/
def Warp.accVal (w : Warp) (n : Nat) : Nat := packElems 32 ((List.range 512).map fun e => (fget 0#32 w.a (n * 512 + e)).toNat)

/-- The accumulator reads of a warp that no older command of it delays are made (R204). -/
def State.readAccs (s : State) (c w : Nat) : State :=
  let k := s.core c
  s.updWarpAt c w fun wp => { wp with ops := wp.ops.map fun o =>
    if o.kind == .acrd && !o.done
        && !(k.cmds.any fun y => decide (y.eng < 4 ∧ y.id < o.id) && !y.ended && y.slot == w && y.acc == o.aop) then
      { o with done := true, val := wp.accVal o.aop, err := k.bufBad.contains (2048 + w * 16 + o.aop) }
    else o }

/-- ACRD, a long result (R202, R204). -/
def execAcrd (o : VOps) (s : State) : Host.Outcome State Fault Refusal :=
  s.gated (.acrd o) fun s =>
    (s.addOp { id := 0, lane := s.lowest, kind := .acrd, mask := s.mask, size := 0, aop := o.a.toNat, dest := some o.d }).readAccs
      s.cur.core s.cur.slot

/-- The physical lines of a range of n 128-byte lines, or the first failing line. -/
def State.linesOf (s : State) (need : Need) (va : Nat) : Nat → Except (Cause × Nat) (List Nat)
  | 0 => .ok []
  | n + 1 =>
    match s.access va need with
    | .error c => .error (c, va)
    | .ok pa =>
      match State.linesOf s need (va + 128) n with
      | .error e => .error e
      | .ok ps => .ok (pa :: ps)

/-- ACST: a uniform address, a multiple of 128, a lane that differs recorded with its operand pair as it stands (R273); every
byte of the range is checked at issue (R203). -/
def execAcst (o : MOps) (s : State) : Host.Outcome State Fault Refusal :=
  s.gated (.acst o) fun s =>
    let w := s.warp; let sz := o.sz.toNat
    let va := w.ea o 128 s.lowest
    let same := s.lanes.filter fun l => w.ea o 128 l == va
    let diff : List LaneFault := (s.lanes.filter fun l => w.ea o 128 l != va).map fun l => (l, .nonuniform, w.reg64 o.a.toNat l)
    let n := if sz = 4 then 16 else 8
    let res := if va % 128 ≠ 0 then .error (.misaligned, va) else s.linesOf .wr va n
    if res.toOption.isSome ∧ (8 ≤ ((s.core s.cur.core).queued (s.cur.slot % 4)).length ∨ w.cmat = 63) then s.stalled
    else
      let s := s.touch va
      match res with
      | .error e => s.withFaults (diff ++ same.map fun l => (l, e.1, e.2)) id
      | .ok ps => s.withFaults diff fun s =>
          s.addMat { s.matCmd 0x6F o.d.toNat with sz := sz, va := va, lines := ps }

/-- The check of R207 on a record, a descriptor, B's format and a step count. -/
def loopOk (loop : Bool) (t : BitVec 64) (desc fb steps : Nat) : Bool :=
  let fa := tileFmt t; let wd := WellFormed.fmtWidth fa
  t.getLsbD 63 && matFmt fa && matFmt fb && WellFormed.fmtWidth fb == wd
  && ((fa != 5 && fb != 5) || fa == fb)
  && (!bitOf desc 41 || wd == 8)
  && (!loop || (bitsOf desc 63 42 == 0 && decide (bitsOf desc 31 29 ≤ 5) && (!bitOf desc 41 || bitsOf desc 40 32 == 0)))
  && decide (bitsOf desc 9 0 + (steps - 1) * (if loop then bitsOf desc 19 10 else 0) + 32 ≤ tileRd t)

/-- Queue a K-step command and take the weight buffer (R207, R209). -/
def State.queueMx (s : State) (o : VOps) (t : BitVec 64) (desc fb steps : Nat) (loop : Bool) : State :=
  let x : Cmd := { s.matCmd (if loop then 0x70 else 0x71) o.d.toNat with
    tile := t, desc := BitVec.ofNat 64 desc, fmtB := fb, steps := steps, wrow := bitsOf desc 28 20 }
  let s' := s.addMat x
  if s'.flow = .stall then s'
  else s'.updCore s'.cur.core fun k => { k with wbOwner := some s.warp.wg }

/-- The issue of MXLOOP and MXSTEP (R207, R209): MXSTEP reads only AROW, WROW and PK of its descriptor. -/
def State.mx (s : State) (o : VOps) (loop : Bool) (steps : Nat) : State :=
  let w := s.warp; let t := w.tile o.a.toNat; let desc := w.reg64 o.b.toNat 0
  let fb := match o.x with | none => tileFmt t | some e => e.fmt.toNat
  if !loopOk loop t desc fb steps then s.faultOpen .recordInvalid
  else if ((s.core s.cur.core).wbOwner.getD w.wg) ≠ w.wg then s.faultOpen .protection
  else s.queueMx o t desc fb steps loop

/-- MXLOOP (R208). -/
def execMxloop (o : VOps) (s : State) : Host.Outcome State Fault Refusal :=
  s.gated (.mxloop o) fun s => s.mx o true (vSub o)
/-- MXSTEP (R205). -/
def execMxstep (o : VOps) (s : State) : Host.Outcome State Fault Refusal :=
  s.gated (.mxstep o) fun s => s.mx o false 1

end Sys2Proof.Machine
end

