-- ==== Sys2Proof/Machine/Engine.lean ====
section
/-! DEFINITION. Machine/Engine.lean: engine commands as they issue, their request blocks, the end of a
command, and GSET (spec/09_engine_isa.md R211 to R228, spec/05_control.md R121, R122,
spec/19_compression.md R353). -/

namespace Sys2Proof.Machine

open Sys2Proof

/-! ### Statuses (R213) -/

def stOk : Nat := 0
def stDiscarded : Nat := 1
def stFormat : Nat := 2
def stTranslation : Nat := 3
def stData : Nat := 4
def stOverrun : Nat := 5
def stLost : Nat := 6
def stAborted : Nat := 7
def stCode : Nat := 8
def stRange : Nat := 9
def stNonresident : Nat := 10
def stMismatch : Nat := 11

/-! ### The CPYQ block (R215) -/

structure CopyReq where
  src : Nat
  sfmt : Nat
  dst : Nat
  dkind : Nat
  dfmt : Nat
  stride : List Nat             -- STRIDE1 to STRIDE4
  size : List Nat               -- SIZE0 to SIZE4
  wcols : Nat
  wrows : Nat
  col0 : Int
  row0 : Int
  rnd : Nat
  sat : Bool
  seed : Nat
  scmode : Nat
  scale : Nat
  trans : Bool
  expand : Bool
  cohort : Nat
  den : Bool
  mcast : Bool
  doff : Nat
  sen : Bool
  split : Nat
  soff : Nat
  resv : Bool                   -- every reserved bit is 0
  head : Nat := 0               -- with EXPAND, the header and the mask that have been read
  mask : Nat := 0
  deriving DecidableEq, Repr

def CopyReq.parse (x : Nat) : CopyReq :=
  let src := blockField x 0 8; let dst := blockField x 8 8
  let ctl := blockField x 0x34 4; let bd := blockField x 0x38 4; let bs := blockField x 0x3C 4
  { src := bitsOf src 54 0, sfmt := bitsOf src 63 58, dst := bitsOf dst 54 0, dkind := bitsOf dst 57 55,
    dfmt := bitsOf dst 63 58,
    stride := (List.range 4).map fun i => blockField x (0x10 + 4 * i) 4,
    size := (List.range 5).map fun i => blockField x (0x20 + 2 * i) 2,
    wcols := blockField x 0x2A 2, wrows := blockField x 0x2C 2,
    col0 := sext 16 (blockField x 0x2E 2), row0 := sext 16 (blockField x 0x30 2),
    rnd := bitsOf ctl 31 29, sat := bitOf ctl 28, seed := bitsOf ctl 27 20, scmode := bitsOf ctl 19 18,
    scale := bitsOf ctl 17 10, trans := bitOf ctl 9, expand := bitOf ctl 8, cohort := bitsOf ctl 7 0,
    den := bitOf bd 31, mcast := bitOf bd 30, doff := bitsOf bd 17 0,
    sen := bitOf bs 31, split := bitsOf bs 30 28, soff := bitsOf bs 17 0,
    resv := bitsOf src 57 55 == 0 && bitsOf bd 29 18 == 0 && bitsOf bs 27 18 == 0 }

/-- Element width, 8 bits where the code is reserved (R215). -/
def widthOr8 (f : Nat) : Nat := if WellFormed.fmtAssigned f then WellFormed.fmtWidth f else 8
def CopyReq.ws (r : CopyReq) : Nat := widthOr8 r.sfmt
def CopyReq.wd (r : CopyReq) : Nat := widthOr8 r.dfmt
def CopyReq.sz (r : CopyReq) (i : Nat) : Nat := r.size.getD i 0
/-- Outer indices, destination elements, and destination data and scale bytes (R216). -/
def CopyReq.outer (r : CopyReq) : Nat := r.sz 2 * r.sz 3 * r.sz 4
def CopyReq.total (r : CopyReq) : Nat := (if r.expand then 1 else r.outer) * r.wrows * r.wcols
def CopyReq.dataBytes (r : CopyReq) : Nat := (r.total * r.wd + 7) / 8
def CopyReq.scaleBytes (r : CopyReq) : Nat := if r.scmode = 2 then r.total / 32 else 0
/-- The destination address of the first scale: the first 128-byte boundary at or after the data (R216). -/
def CopyReq.scaleAt (r : CopyReq) (base : Nat) : Nat := (base + r.dataBytes + 127) / 128 * 128
/-- How many of n positions from an origin lie in a size. -/
def inRange (o : Int) (n size : Nat) : Nat :=
  let lo := max o 0; let hi := min (o + n) size
  (hi - lo).toNat

/-- Bytes below the end of the data and scales, counted from the destination's first byte. -/
def CopyReq.span (r : CopyReq) (base : Nat) : Nat :=
  if r.scmode = 2 then r.scaleAt base + r.scaleBytes - base else r.dataBytes

/-- The stated count of BARD (R216, R217, R353): an expanding copy's is that of WCOLS elements. -/
def CopyReq.countD (r : CopyReq) : Nat :=
  if r.expand then (r.wcols * r.wd + 7) / 8 + (if r.scmode = 2 then r.wcols / 32 else 0) else r.dataBytes + r.scaleBytes
/-- The stated count of BARS without EXPAND (R216). -/
def CopyReq.countS (r : CopyReq) : Nat :=
  (r.outer * inRange r.row0 r.wrows (r.sz 1) * inRange r.col0 r.wcols (r.sz 0) * r.ws + 7) / 8

/-! ### The GTHQ block (R220) -/

structure GatherReq where
  src : Nat
  dst : Nat
  idx : Nat
  stride : Nat
  rowb : Nat
  count : Nat
  limit : Nat
  den : Bool
  split : Nat
  doff : Nat
  ok : Bool
  deriving DecidableEq, Repr

def GatherReq.parse (x : Nat) : GatherReq :=
  let a := blockField x 0 8; let d := blockField x 8 8; let i := blockField x 0x10 8
  let rowb := blockField x 0x1C 4; let n := blockField x 0x20 4; let b := blockField x 0x28 4
  { src := bitsOf a 54 0, dst := bitsOf d 54 0, idx := bitsOf i 54 0, stride := blockField x 0x18 4, rowb := rowb,
    count := n, limit := blockField x 0x24 4, den := bitOf b 31, split := bitsOf b 30 28, doff := bitsOf b 17 0,
    ok := bitsOf a 63 55 == 0 && bitsOf d 63 55 == 0 && bitsOf i 63 55 == 0 && bitsOf d 54 0 % 16 == 0
      && bitsOf i 54 0 % 4 == 0 && rowb % 4 == 0 && decide (4 ≤ rowb ∧ rowb ≤ 65536) && decide (1 ≤ n ∧ n ≤ 1048576)
      && bitsOf b 27 18 == 0 && decide (bitsOf b 30 28 ≤ 5) && blockField x 0x2E 18 == 0 }

/-! ### Reads and writes of an engine in a tenant's space (R316, R317) -/

/-- Read n bytes, which may cross a page; the error is a failure's status, or what the read still needs. -/
def State.engRead (s : State) (core tenant va n : Nat) : Except Nat Nat :=
  let one (va n : Nat) : Except Nat Nat :=
    match s.translate core tenant va .rd with
    | .error _ => .error stTranslation
    | .ok pa => s.jobRead pa n
  let k := 65536 - va % 65536
  if n ≤ k then one va n
  else match one va k, one (va + k) (n - k) with
    | .ok a, .ok b => .ok (a + 2 ^ (8 * k) * b)
    | .error c, _ => .error c
    | _, .error c => .error c

/-- An engine has read n bytes at an address of a tenant's space, which lie in one page (spec/28_system.md R466). -/
def State.engHasRead (s : State) (core tenant va n : Nat) : State :=
  match s.translate core tenant va .rd with
  | .error _ => s
  | .ok pa => s.countRead pa tenant n

/-- Where an engine writes: the physical address, or why it cannot write there, or cannot yet. -/
def State.engTarget (s : State) (core tenant va n : Nat) : Except Nat Nat :=
  match s.translate core tenant va .wr with
  | .error _ => .error stTranslation
  | .ok pa => if !isFabric pa && s.swHeld pa n then .error (needCode pa (min n 128)) else .ok pa
/-- Write bytes, which may cross a page; nothing is written where a page fails. The second result is a status. -/
def State.engWrite (s : State) (core tenant va : Nat) (bs : List Byte) (typ : Nat := 0) (quiet : Bool := false) : State × Option Nat :=
  let k := 65536 - va % 65536
  if bs.length ≤ k then
    match s.engTarget core tenant va bs.length with
    | .error e => (s, some e)
    | .ok pa => (s.engineWrite tenant va pa bs typ quiet, none)
  else match s.engTarget core tenant va k, s.engTarget core tenant (va + k) (bs.length - k) with
    | .ok pa, .ok pb =>
      ((s.engineWrite tenant va pa (bs.take k) typ quiet).engineWrite tenant (va + k) pb (bs.drop k) typ quiet, none)
    | .error e, _ => (s, some e)
    | _, .error e => (s, some e)

/-! ### The end of a command (R214) -/

/-- Physical and virtual address of an offset in a workgroup's local allocation. -/
def localPa (core base off : Nat) : Nat := flatBase + core * flatStep + base + off
def localVa (core base off : Nat) : Nat := flatVa + core * flatStep + base + off

/-- Lower the barrier at an offset of an allocation by n bytes (R190, R342). -/
def State.lower (s : State) (core tenant base off n : Nat) : State :=
  if n = 0 then s else (s.abDeliver tenant (localVa core base off) (localPa core base off) n).wakeAb

/-- The member workgroups that a multicast reaches: their cores and allocations (R219). -/
def State.members (s : State) (g coh : Nat) : List (Nat × Nat) :=
  match s.launch (s.wg g).launch with
  | none => []
  | some l => ((s.wgsOf (s.wg g).launch).filter fun x =>
      l.member coh x.2.index && !x.2.slots.isEmpty).map fun x => (x.2.core, x.2.lbase)

/-- A member workgroup of a multicast is being saved, is saved, or has not left its restore handlers: the multicast does not
start until it is resident again, so that none in flight meets a save (R219, R294). -/
def State.memberAway (s : State) (x : Cmd) : Bool :=
  x.op == 0x72 && (CopyReq.parse x.block).mcast &&
  (match s.launch (s.wg x.wg).launch with
   | none => false
   | some l => (s.wgsOf (s.wg x.wg).launch).any fun y =>
      l.member (CopyReq.parse x.block).cohort y.2.index && y.2.st != .resident && y.2.st != .ended)

/-- The destination barrier of a command's block: its offset where it is enabled and lies in the allocation. -/
def Cmd.barD (x : Cmd) : Option Nat :=
  let w := match x.op with
    | 0x72 => blockField x.block 0x38 4
    | 0x73 => blockField x.block 0x28 4
    | 0x74 => blockField x.block 0x38 4
    | 0x78 => blockField x.block 0x0C 4
    | _ => 0
  if bitOf w 31 ∧ 16 * bitsOf w 17 0 < x.lsize then some (16 * bitsOf w 17 0) else none
def Cmd.barS (x : Cmd) : Option Nat :=
  let w := blockField x.block 0x3C 4
  if x.op = 0x72 ∧ bitOf w 31 ∧ 16 * bitsOf w 17 0 < x.lsize then some (16 * bitsOf w 17 0) else none

/-- Lower a command's destination barrier, in every member under multicast. -/
def State.lowerD (s : State) (c : Nat) (x : Cmd) (n : Nat) : State :=
  match x.barD with
  | none => s
  | some off =>
    if x.op = 0x72 ∧ (CopyReq.parse x.block).mcast then
      (s.members x.wg (CopyReq.parse x.block).cohort).foldl (fun s m => s.lower m.1 x.tenant m.2 off n) s
    else s.lower c x.tenant x.local_ off n
def State.lowerS (s : State) (c : Nat) (x : Cmd) (n : Nat) : State :=
  match x.barS with | none => s | some off => s.lower c x.tenant x.local_ off n

/-- Where a command's STATUS lies in its block. -/
def statusOff (op sub : Nat) : Option Nat :=
  match op with
  | 0x72 => some 0x32
  | 0x73 => some 0x2C
  | 0x74 => some 0x3C
  | 0x76 => some (if sub = 0 then 0x22 else 0x10)
  | 0x77 => some 0x18
  | 0x78 => some 0x12
  | _ => none

/-- Bytes that hold the bits from one to another of a payload. -/
def bytesOver (lo hi : Nat) : Nat := if hi ≤ lo then 0 else (hi + 7) / 8 - lo / 8
/-- The header of a packed-vector copy is malformed or of another format (R217). -/
def CopyReq.headBad (r : CopyReq) : Bool := let p := Pk.of r.head; p.bad || p.fmt != r.sfmt
/-- Mask bytes that a packed-vector copy reads (R353). -/
def CopyReq.maskLen (r : CopyReq) : Nat :=
  let p := Pk.of r.head; let n := inRange r.col0 r.wcols p.n
  if r.headBad || n == 0 || p.raw then 0 else (((max r.col0 0).toNat + n - 1) / 128 + 1) * 16
/-- Payload bytes that a packed-vector copy reads (R353). -/
def CopyReq.payLen (r : CopyReq) : Nat :=
  let p := Pk.of r.head; let lo := (max r.col0 0).toNat; let n := inRange r.col0 r.wcols p.n; let w := p.width
  if r.headBad || n == 0 then 0
  else if p.raw then bytesOver (lo * w) ((lo + n) * w)
  else bytesOver (popEl lo r.mask * w) (popEl (lo + n) r.mask * w)
/-- The header and the mask of a packed-vector copy are read, and the counts of R217 and R353 follow: header and mask bytes,
and payload bytes; 16 in all where the header gives no more. The error is what the reads still need. -/
def State.expandRead (s : State) (core tenant : Nat) (r : CopyReq) : Except Nat (CopyReq × Nat × Nat) :=
  match s.engRead core tenant r.src 16 with
  | .error e => if (needOf e).isSome then .error e else .ok (r, 16, 0)
  | .ok h =>
    let r := { r with head := h }
    match (if r.maskLen = 0 then .ok 0 else s.engRead core tenant (r.src + 16) r.maskLen) with
    | .error e => if (needOf e).isSome then .error e else .ok (r, 16 + r.maskLen, 0)
    | .ok m => let r := { r with mask := m }; .ok (r, 16 + r.maskLen, r.payLen)
def State.expandCount (s : State) (core tenant : Nat) (r : CopyReq) : Except Nat (Nat × Nat) :=
  match s.expandRead core tenant r with | .error e => .error e | .ok x => .ok x.2
/-- What an expanding copy's reads of header and mask still need. -/
def State.expandNeed (s : State) (core tenant : Nat) (r : CopyReq) : Option Nat :=
  match s.expandCount core tenant r with | .error e => some e | .ok _ => none

/-- The stated counts of a command: destination and source bytes (R216, R217, R220, R228, R255). -/
def State.stated (s : State) (c : Nat) (x : Cmd) : Nat × Nat :=
  match x.op with
  | 0x72 =>
    let r := CopyReq.parse x.block
    (r.countD, if r.expand then (match s.expandCount c x.tenant r with | .error _ => 16 | .ok n => n.1 + n.2) else r.countS)
  | 0x73 => let g := GatherReq.parse x.block; (g.count * g.rowb, 0)
  | 0x74 => (128, 0)
  | 0x78 => (blockField x.block 8 2 * 32, 0)
  | _ => (0, 0)

/-- A command ends: STATUS, then what remains of its stated counts, then its retirement (R214). -/
def State.endCmd (s : State) (c id status : Nat) : State :=
  match s.cmdOf c id with
  | none => s
  | some x =>
    let n := if x.started then (x.statedD, x.statedS) else s.stated c x
    let s := match statusOff x.op x.sub with
      | none => s
      | some off => s.engineWrite x.tenant (x.va + off) (localPa c (x.va - localVa c 0 0) off) (leBytes 2 status)
    let s := s.lowerD c x (n.1 - x.loweredD)
    let s := s.lowerS c x (n.2 - x.loweredS)
    let s := { s with fetched := ferase s.fetched id, fetchBad := ferase s.fetchBad id }
    (s.updCmd c id fun x => { x with ended := true, status := status }).retire c

/-- A command resolved false ends (R122, R214); one whose stated count a read of another unit must still give waits for it in
its queue (R353). -/
def State.discard (s : State) (c : Nat) (x : Cmd) : State :=
  let r := CopyReq.parse x.block
  if x.op == 0x72 && r.expand && (s.expandNeed c x.tenant r).isSome then s else s.endCmd c x.id stDiscarded

/-! ### Posting a collective (R221, R254, R255, spec/21_collectives.md R369) -/

def streamKey (tenant group stream : Nat) : Nat := tenant + 16 * (group + 2 ^ 32 * stream)

/-- A CLPOST reaches its die's queue; the member's count for its stream rises (R369). -/
def State.post (s : State) (c : Nat) (x : Cmd) : State :=
  let d := c / 48
  let g := blockField x.block 8 4; let st := blockField x.block 0x0C 4
  let key := streamKey x.tenant g st
  let s := s.updDie d fun k => { k with
    queue := k.queue ++ [{ id := x.id, tenant := x.tenant, core := c, slot := (s.warpAt c x.slot).index, cmd := x.id, wg := x.wg, va := x.va,
                           block := x.block, seq := fget 0 k.counts key, local_ := x.local_, lsize := x.lsize }],
    counts := fset k.counts key (fget 0 k.counts key + 1) }
  s.updCmd c x.id fun x => { x with started := true, statedD := 128 }

/-- The clearing commands of a die that have not been accepted, in issue order. -/
def State.clrWaiting (s : State) (d : Nat) : List (Nat × Cmd) :=
  let xs := (s.cores.filter fun x => x.1 / 48 == d).flatMap fun x =>
    (x.2.cmds.filter fun y => y.eng == 5 && !y.started && !y.ended).map fun y => (x.1, y)
  sortBy (fun a b => decide (a.2.id < b.2.id)) xs

/-- Collectives enter the die's queue in posting order, up to a command held on its guard (R122). -/
def State.postGo : List (Nat × Cmd) → State → State
  | [], s => s
  | (c, x) :: r, s =>
    if x.gst = .unresolved then s
    else if x.op = 0x74 then State.postGo r (s.post c x)
    else State.postGo r (s.updCmd c x.id fun x => { x with started := true })
def State.postAll (s : State) (d : Nat) : State := State.postGo (s.clrWaiting d) s

/-! ### Issue (R211, R212) -/

/-- Alignment and size of a command's block. -/
def blockSize (op sub : Nat) : Nat :=
  match op with
  | 0x72 | 0x73 => 64
  | 0x74 | 0x75 => 128
  | 0x76 => if sub = 0 then 64 else 32
  | _ => 32

/-- Places in the command's queue: 16 in the copy engine, 64 in a die's clearing engine (R340, R255). -/
def State.queueFull (s : State) (c op : Nat) : Bool :=
  match op with
  | 0x72 | 0x73 => decide (16 ≤ ((s.core c).queued 4).length)
  | 0x74 => decide (64 ≤ (s.die (c / 48)).queue.length + ((s.clrWaiting (c / 48)).filter (·.2.op == 0x74)).length)
  | _ => false

/-- The tile record that a copy into the operand buffer writes through (R218). -/
def Warp.copyTile (w : Warp) (x : Nat) : BitVec 64 :=
  let r := CopyReq.parse x
  if r.dkind = 1 then
    let row := r.dst % 1024; let b := row * 128
    ((w.t.map (·.2)).find? fun t => t.getLsbD 63 && decide ((tileRows t).1 ≤ row ∧
      b + r.span b ≤ ((tileRows t).1 + (tileRows t).2) * 128)).getD 0#64
  else 0#64

/-- A command takes its queue place: its guard's state is taken, and one resolved false is discarded (R122). -/
def State.enqueue (s : State) (op sub eng : Nat) (k : Ctr) (va block dest : Nat) : State :=
  let w := s.warp
  let h := match w.run with | none => 0#32 | some r => r.hdr
  let g : Option Nat := if hdrCls h = 2 ∧ hdrGe h then some (hdrGslot h) else none
  let gst := match g with | none => .yes | some n => fget Guard.yes w.g n
  let (id, s) := s.newId
  let x : Cmd := { id := id, slot := s.cur.slot, wg := w.wg, tenant := w.tenant, ctr := k, op := op, sub := sub,
                   guard := g, gst := gst, va := va, block := block, eng := eng, stamp := id, mask := s.mask,
                   tile := if op = 0x72 then w.copyTile block else 0#64,
                   local_ := (s.wg w.wg).lbase, lsize := (s.wg w.wg).lsize, dest := dest }
  let s := s.addCmd x
  let s := if op = 0x75 ∧ sub = 0 ∧ gst ≠ .no then
      s.updWarp fun w => { w with ops := w.ops ++ [{ id := id, lane := s.lowest, kind := .status, mask := s.mask, size := 0,
                                                     dest := some (BitVec.ofNat 7 (96 + dest)) }] }
    else s
  let s := if gst = .no then s.discard s.cur.core x else s
  if eng = 5 then s.postAll (s.cur.core / 48) else s

/-- The issue of an engine command: release, alignment, place, read, queue (R212). -/
def State.eng (s : State) (o : EOps) (op sub eng : Nat) (k : Ctr) : State :=
  let w := s.warp; let c := s.cur.core; let n := blockSize op sub
  let va := w.reg64 (96 + o.sp.toNat) 0
  let g := s.wg w.wg
  let base := localVa c g.lbase 0
  if !s.released then s.stalled
  else if va % n ≠ 0 then s.faultSplit .misaligned va
  else if op ≠ 0x75 ∧ ¬ (base ≤ va ∧ va + n ≤ base + g.lsize) then s.faultSplit .protection va
  else
    let pa := localPa c 0 (va - localVa c 0 0)
    if op ≠ 0x75 ∧ s.bad pa n = true then s.faultSplit .dataUncorrectable va
    else
      let block := if op = 0x75 then 0 else s.rdN pa n
      if op = 0x76 ∧ sub ≠ 0 ∧ bitsOf block 31 28 ≠ w.tenant then s.faultOpen .episodeState
      else if s.queueFull c op ∨ w.ctr k = 63 then s.stalled
      else s.enqueue op sub eng k va block o.m.toNat

/-- CPYQ (R215). -/
def execCpyq (o : EOps) (s : State) : Host.Outcome State Fault Refusal := s.gated (.cpyq o) (·.eng o 0x72 0 4 .copy)
/-- GTHQ (R220). -/
def execGthq (o : EOps) (s : State) : Host.Outcome State Fault Refusal := s.gated (.gthq o) (·.eng o 0x73 0 4 .aux)
/-- CLPOST (R221). -/
def execClpost (o : EOps) (s : State) : Host.Outcome State Fault Refusal := s.gated (.clpost o) (·.eng o 0x74 0 5 .clr)
/-- CLCTL.query (R222). -/
def execClctlQuery (o : EOps) (s : State) : Host.Outcome State Fault Refusal :=
  s.gated (.clctlQuery o) (·.eng o 0x75 0 5 .clr)
/-- CLCTL.abort (R222). -/
def execClctlAbort (o : EOps) (s : State) : Host.Outcome State Fault Refusal :=
  s.gated (.clctlAbort o) (·.eng o 0x75 1 5 .clr)
/-- EPOPEN (R224). -/
def execEpopen (o : EOps) (s : State) : Host.Outcome State Fault Refusal := s.gated (.epopen o) (·.eng o 0x76 0 6 .aux)
/-- EPSTEP (R225). -/
def execEpstep (o : EOps) (s : State) : Host.Outcome State Fault Refusal := s.gated (.epstep o) (·.eng o 0x76 1 6 .aux)
/-- EPCLOSE (R226). -/
def execEpclose (o : EOps) (s : State) : Host.Outcome State Fault Refusal := s.gated (.epclose o) (·.eng o 0x76 2 6 .aux)
/-- RWSEND (R227). -/
def execRwsend (o : EOps) (s : State) : Host.Outcome State Fault Refusal := s.gated (.rwsend o) (·.eng o 0x77 0 6 .aux)
/-- LQTAKE (R228). -/
def execLqtake (o : EOps) (s : State) : Host.Outcome State Fault Refusal := s.gated (.lqtake o) (·.eng o 0x78 0 6 .aux)

/-! ### GSET (R121, R122) -/

/-- The commands held on a slot of the issuing warp take its state; those resolved false are discarded. -/
def State.gset (s : State) (n : Nat) (x : Guard) : State :=
  let c := s.cur.core; let w := s.cur.slot
  let held := (s.core c).cmds.filter fun y => y.slot == w && y.guard == some n && y.gst == .unresolved && !y.ended
  let take (y : Cmd) : Cmd := if held.any (·.id == y.id) then { y with gst := x } else y
  let s := (s.updWarp fun w => { w with g := fset w.g n x }).updCore c fun k => { k with cmds := k.cmds.map take }
  let s := if x = .no then held.foldl (fun s y =>
      let s := s.discard c y
      -- a discarded query writes no word (R222)
      s.updWarp fun w => { w with ops := w.ops.filter fun o => !(o.kind == .status && o.id == y.id) }) s
    else s
  s.postAll (c / 48)

/-- GSET (R121). -/
def execGset (o : VOps) (s : State) : Host.Outcome State Fault Refusal :=
  s.gated (.gset o) fun s => s.gset o.d.toNat (if s.warp.reg o.a.toNat 0 = 0#32 then .no else .yes)

end Sys2Proof.Machine
end

