-- ==== Sys2Proof/Machine/Context.lean ====
section
/-! DEFINITION. Machine/Context.lean: the saved context of a warp, its items, and the end of a save and of a
restore (spec/02_state.md R33 to R40, spec/09_engine_isa.md R229 to R232, spec/10_system_clearing_isa.md R244,
R247, spec/12_divergence.md R275 to R279, spec/26_faults_checkpoint.md R428 to R433). -/

namespace Sys2Proof.Machine

open Sys2Proof

/-! ### The save area (R33, spec/26_faults_checkpoint.md R433) -/

def up4k (n : Nat) : Nat := (n + 4095) / 4096 * 4096
/-- L' and F' of an allocation. -/
def areaL (l : Nat) : Nat := up4k l
def areaF (l : Nat) : Nat := up4k ((l + 127) / 128)
/-- The offset of warp w's record, and X with w the warp count. -/
def areaRec (l w : Nat) : Nat := 0x1000 + areaL l + areaF l + w * 0x10000

/-- Area k of a tenant's save pool. -/
def Tenant.area (t : Tenant) (k : Nat) : Nat := t.poolBase + k * t.poolSize

/-! ### Forms of the warp record (R25, R26, R35, R36) -/

def Cause.ofCode (n : Nat) : Option Cause :=
  [Cause.illegalOpcode, .illegalClause, .privileged, .misaligned, .translation, .protection, .branchRange, .targetUnlisted,
   .nonuniform, .compressedOverrun, .dataUncorrectable, .cbarNonresident, .formatReserved, .recordInvalid, .watchdog,
   .softwareTrap, .misalignedAtomic, .flatUnpopulated, .hgCoord, .episodeState, .fragFull, .warpAbort].find? (·.code == n)

def causeCode (c : Option Cause) : Nat := match c with | none => 0 | some c => c.code

def TState.code : TState → Nat
  | .active => 0 | .exited => 1 | .parked => 2 | .held => 3 | .atBar => 4 | .atCbar => 5
def TState.ofCode (n : Nat) : TState :=
  match n with
  | 0 => .active | 2 => .parked | 3 => .held | 4 => .atBar | 5 => .atCbar | _ => .exited

/-- The lane status word. -/
def Thread.status (t : Thread) : Nat :=
  t.st.code + (if t.st = .parked then causeCode t.cause * 2 ^ 24 + t.findex % 64 * 2 ^ 18 else 0)
    + (if t.st = .atBar ∨ t.st = .atCbar then t.opnd % 256 * 2 ^ 8 else 0)
def Thread.setStatus (t : Thread) (n : Nat) : Thread :=
  { t with st := TState.ofCode (n % 16), cause := Cause.ofCode (bitsOf n 31 24), findex := bitsOf n 23 18, opnd := bitsOf n 15 8 }

/-- A position in the PC-word form (spec/12_divergence.md R276). -/
def posWord (addr slot : Nat) : Nat := addr % 2 ^ 55 + slot % 16 * 2 ^ 59

def Guard.code : Guard → Nat
  | .unresolved => 0 | .yes => 1 | .no => 2
def Guard.ofCode (n : Nat) : Guard := match n with | 1 => .yes | 2 => .no | _ => .unresolved
/-- The guard slots a warp has: eight, two bits each. -/
def Warp.guards (w : Warp) : Nat :=
  (List.range 8).foldl (fun n i => n + (fget Guard.yes w.g i).code * 2 ^ (2 * i)) 0
def Warp.setGuards (w : Warp) (n : Nat) : Warp :=
  { w with g := (List.range 8).map fun i => (i, Guard.ofCode (n / 2 ^ (2 * i) % 4)) }

def Warp.counterWord (w : Warp) : Nat := w.cmat + w.ccopy * 2 ^ 8 + w.cclr * 2 ^ 16 + w.caux * 2 ^ 24
def Warp.setCounters (w : Warp) (n : Nat) : Warp :=
  { w with cmat := n % 64, ccopy := n / 2 ^ 8 % 64, cclr := n / 2 ^ 16 % 64, caux := n / 2 ^ 24 % 64 }

/-- Where a lane stands: its group, the split it is in, its wait at a run boundary, or its own record. -/
def Warp.lanePos (w : Warp) (l : Nat) : Nat × Nat :=
  let t := w.thread l
  if w.mode ≠ .tenant then (t.addr, t.slot)
  else
    match w.run with
    | some r => if r.mask.getLsbD l then (r.addr, r.slot) else (w.standsAt l).getD (t.addr, t.slot)
    | none =>
      match w.parked.find? (fun p => p.park != .marker && p.mask.getLsbD l) with
      | some p => (p.addr, p.slot)
      | none => (w.standsAt l).getD (t.addr, t.slot)
def Warp.laneCount (w : Warp) (l : Nat) : Nat :=
  if w.mode ≠ .tenant then fget 0 w.lcnt l
  else match w.groups.find? (·.mask.getLsbD l) with | some g => g.count | none => 0

/-! ### Resume records (R230) -/

/-- The commands that a drain stops at a granule (R229). -/
def stopsInDrain (op : Nat) : Bool := decide (op = 0x70 ∨ op = 0x72 ∨ op = 0x73)
/-- ACWR and ACST, of which a record has no place for what they captured at issue (R202, R203, R230): a drain runs them to
their end even where they have not started (notes/assumptions/29.md). -/
def unrecorded (op : Nat) : Bool := decide (op = 0x6E ∨ op = 0x6F)

/-- The granule a command may stop at, or none (R206). -/
def splitGranule (code : Nat) : Option Nat :=
  match code with | 1 => some 16 | 2 => some 64 | 3 => some 256 | 4 => some 1024 | 5 => some 4096 | _ => none
def Cmd.granule (x : Cmd) : Option Nat :=
  match x.op with
  | 0x70 => splitGranule (bitsOf x.desc.toNat 31 29)
  | 0x72 => splitGranule (CopyReq.parse x.block).split
  | 0x73 => splitGranule (GatherReq.parse x.block).split
  | _ => none
/-- What `units` counts for one unit of R230: elements of a destination window row, bytes of an index row, one
step (R206). -/
def Cmd.perUnit (x : Cmd) : Nat :=
  match x.op with
  | 0x72 => let r := CopyReq.parse x.block; max 1 (if r.trans && !r.expand then r.wrows else r.wcols)
  | 0x73 => max 1 (GatherReq.parse x.block).rowb
  | _ => 1
/-- Elements that a copy converts together: a block of MX scales, or a group under SR (spec/17_matrix_copy.md R341). -/
def CopyReq.together (r : CopyReq) : Nat := if r.scmode = 2 then 32 else if r.rnd = 5 then 8 else 1
/-- What lies between two places where a save may take a command: granules, in whole blocks and groups
(notes/assumptions/72.md). -/
def Cmd.stopEvery (x : Cmd) : Option Nat :=
  match x.granule with
  | none => none
  | some g => some (Nat.lcm (g * x.perUnit) (if x.op = 0x72 then (CopyReq.parse x.block).together else 1))
/-- A started command stands where a save may take it. -/
def Cmd.stopped (x : Cmd) : Bool := match x.stopEvery with | none => false | some n => x.units % n == 0

/-- The extension word that a matrix command was issued with: B's format, and an MXLOOP's step count; 0 for one that has
none (R230, spec/04_encoding.md R85). -/
def Cmd.extWord (x : Cmd) : Nat :=
  match x.op with
  | 0x70 => x.fmtB * 2 ^ 22 + x.steps
  | 0x71 => x.fmtB * 2 ^ 22
  | _ => 0
/-- The sixteen words of a command's record. -/
def Cmd.words (x : Cmd) : List Nat :=
  let held := x.guard.isSome && x.gst == .unresolved
  let mat := decide (x.eng < 4)
  [x.op * 2 ^ 25 + (if x.started then 2 ^ 24 else 0) + x.sub * 2 ^ 21 + (if held then 2 ^ 20 + x.guard.getD 0 * 2 ^ 17 else 0)
     + (if mat then x.acc * 2 ^ 12 else 0),
   x.units / x.perUnit]
  ++ (if mat then [x.desc.toNat % 2 ^ 32, x.desc.toNat / 2 ^ 32, x.tile.toNat % 2 ^ 32, x.tile.toNat / 2 ^ 32,
        x.extWord, x.wrow] else [x.va % 2 ^ 32, x.va / 2 ^ 32, 0, 0, 0, 0])
  ++ List.replicate 8 0

/-- Records of a warp's remaining commands, in issue order. -/
def recordsOf (xs : List Cmd) : FMap Word :=
  (xs.zip (List.range xs.length)).flatMap fun x =>
    (x.1.words.zip (List.range 16)).map fun y => (16 * x.2 + y.2, BitVec.ofNat 32 y.1)

/-- The class of a major opcode's counter (spec/04_encoding.md R95). -/
def ctrOf (op : Nat) : Ctr :=
  if op < 0x72 then .mat else if op = 0x72 then .copy else if op = 0x74 ∨ op = 0x75 then .clr else .aux

/-- A captured record moves with its tile (R231). -/
def moveTile (t : BitVec 64) (base : Nat) : BitVec 64 :=
  let n := t.toNat
  let srow := if tileMx t then (base + (tileSrow t - (tileRows t).1)) % 1024 else base
  BitVec.ofNat 64 (n / 2 ^ 57 * 2 ^ 57 + base * 2 ^ 47 + bitsOf n 46 35 * 2 ^ 35 + srow * 2 ^ 25 + n % 2 ^ 25)
def Warp.moveRec (w : Warp) (t : BitVec 64) : BitVec 64 :=
  if t.getLsbD 63 then
    match w.moved.find? (·.1 == (tileRows t).1) with | none => t | some m => moveTile t m.2
  else t

/-- The collectives of a warp that are live or whose end is held, by the numbers of their commands. -/
def State.livePosts (s : State) (g w : Nat) : List Nat :=
  let live := s.dies.flatMap fun d =>
    ((d.2.queue ++ d.2.procs.filterMap (·.2.coll)).filter fun x => x.wg == g && x.slot == w).map (·.cmd)
      ++ (d.2.held.filter fun x => x.wg == g && x.slot == w).map (·.cmd)
  sortBy (fun a b => decide (a < b)) live

/-- Bytes that completed units have lowered the barriers by, in a stopped command (R343). -/
def Cmd.rowsDone (x : Cmd) : Nat × Nat :=
  match x.op with
  | 0x72 =>
    let r := CopyReq.parse x.block
    let t := r.trans && !r.expand
    let n := x.units / x.perUnit
    let m := max 1 (if t then r.wcols else r.wrows)
    let full := n / m; let part := n % m
    let rows (k : Nat) : Nat := inRange r.row0 k (r.sz 1)
    let cols (k : Nat) : Nat := inRange r.col0 k (r.sz 0)
    let src := full * rows r.wrows * cols r.wcols + (if t then rows r.wrows * cols part else rows part * cols r.wcols)
    (x.units * r.wd / 8 + (if r.scmode = 2 then x.units / 32 else 0), src * r.ws / 8)
  | 0x73 => (x.units, 0)
  | _ => (0, 0)

/-- What a stopped command's barrier has been lowered by, of the bytes of its completed units: where they are all of the
stated count, its last byte is held back for the command's end (R343, R214; notes/assumptions/94.md). -/
def heldBack (stated n : Nat) : Nat := if n < stated then n else stated - 1

/-- One record goes back into its queue; the second list holds the numbers of the warp's posted collectives
not yet matched to a record (R230, R232). -/
def State.reenter (s : State) (c w k : Nat) (posts : List Nat) : State × List Nat :=
  let wp := s.warpAt c w
  let word (m : Nat) : Nat := (fget 0#32 wp.recs (16 * k + m)).toNat
  let d := word 0
  let op := d / 2 ^ 25; let sub := bitsOf d 23 21; let started := bitOf d 24
  let mat := decide (op < 0x72)
  let eng := if mat then w % 4 else if op ≤ 0x73 then 4 else if op ≤ 0x75 then 5 else 6
  let va := word 2 + 2 ^ 32 * word 3
  let block := if mat then 0 else s.rdN (localPa c 0 (va - localVa c 0 0)) (blockSize op sub)
  let guard := if bitOf d 20 then some (bitsOf d 19 17) else none
  let (fresh, s) := s.newId
  let (id, rest) := if op = 0x74 && started then (posts.headD fresh, posts.drop 1) else (fresh, posts)
  let gone := op = 0x74 && started && s.dies.any fun x => x.2.held.any fun h => h.cmd == id
  let lost := op = 0x74 && started && posts.isEmpty
  let x : Cmd :=
    { id := id, slot := w, wg := wp.wg, tenant := wp.tenant, ctr := ctrOf op, op := op, sub := sub,
      guard := guard, gst := (match guard with | none => .yes | some n => fget Guard.yes wp.g n),
      va := if mat then 0 else va, block := block, acc := bitsOf d 15 12,
      tile := if mat then wp.moveRec (BitVec.ofNat 64 (word 4 + 2 ^ 32 * word 5)) else 0#64,
      desc := if mat then BitVec.ofNat 64 (word 2 + 2 ^ 32 * word 3) else 0#64,
      fmtB := bitsOf (word 6) 27 22, steps := if op = 0x70 then word 6 % 2 ^ 16 else 1, units := word 1, wrow := word 7, eng := eng, stamp := fresh,
      started := op = 0x74 && started, statedD := if op = 0x74 then 128 else 0,
      local_ := (s.wg wp.wg).lbase, lsize := (s.wg wp.wg).lsize }
  let x : Cmd := if op = 0x72 then { x with tile := wp.copyTile block } else x
  let x : Cmd := { x with units := x.units * x.perUnit }
  let n := x.rowsDone; let all := s.stated c x
  let x : Cmd := if x.units = 0 then x
    else { x with loweredD := heldBack all.1 n.1, loweredS := heldBack all.2 n.2,
                  scaleD := if op = 0x72 ∧ (CopyReq.parse block).scmode = 2 then x.units / 32 else 0 }
  -- a started collective whose end is held is not re-entered, nor one whose command can no longer be found
  if gone || lost then (s, rest)
  else
    let s := s.updCore c fun k => { k with cmds := k.cmds ++ [x] }
    (if mat then s.migrate c else s, rest)

/-! ### The checks of R39 -/

/-- A tile record that fails the checks of R23. -/
def tileBad (x : Nat) : Bool :=
  let base := bitsOf x 56 47; let rows := bitsOf x 46 36; let srow := bitsOf x 34 25
  -- the reservation word that makes such a record (R198)
  let word := rows + bitsOf x 62 57 * 2 ^ 11 + bitsOf x 35 35 * 2 ^ 17 + (srow - base) * 2 ^ 32 + bitsOf x 24 18 * 2 ^ 42
  x % 2 ^ 18 != 0 || (bitOf x 63 && (decide (1024 < base + rows) || decide (srow < base) || (resCheck word rows true).isSome))
/-- A resume record whose reserved bits or zero bytes are set, or whose captured tile record fails R23 (R230). -/
def resumeBad (d tile rest tail : Nat) : Bool :=
  bitOf d 16 || bitsOf d 11 0 != 0 || tail != 0 || (if d / 2 ^ 25 < 0x72 then tileBad tile else tile != 0 || rest != 0)

/-- Whether the record of a warp in its area is malformed; `rd` reads n bytes at an offset of the record. DESIGN CHOICE
(notes/assumptions/80.md): R39 lists no check of a waiting-LDF entry's lane byte; one of 32 or more, which names no lane,
makes the record malformed. -/
def recordBad (wp : Warp) (hd : Nat → Nat → Nat) (rd : Nat → Nat → Nat) : Bool :=
  let w0 := rd 0 4
  let nldf := bitsOf w0 15 8
  let ctrs := rd 8 4
  let nrec := ctrs % 64 + ctrs / 2 ^ 8 % 64 + ctrs / 2 ^ 16 % 64 + ctrs / 2 ^ 24 % 64
  let gs := rd 0xC 4
  let lane (l : Nat) : Bool :=
    let st := rd (0x80 + 4 * l) 4; let pc := rd (0x100 + 8 * l) 8; let mt := rd (0x200 + 8 * l) 8
    let code := st % 16
    bitsOf st 17 16 != 0 || bitsOf st 7 4 != 0 || decide (5 < code)
    || bitOf pc 63 || bitsOf pc 58 55 != 0 || pc % 4 != 0 || bitsOf pc 62 59 == 15
    || (bitsOf pc 62 59 != 0 && (code == 1 || code == 3)) || meetBad mt
  let ldf (i : Nat) : Nat := rd (0x500 + 16 * i) 16
  let ldfLane (i : Nat) : Nat := bitsOf (ldf i) 71 64
  let ldfBad (i : Nat) : Bool :=
    bitsOf (ldf i) 127 96 != 0 || bitsOf (ldf i) 95 89 != 0 || decide (32 ≤ ldfLane i)
    || decide (4 < ((List.range nldf).filter fun j => ldfLane j == ldfLane i).length)
  let recBad (k : Nat) : Bool :=
    let a := 0xD00 + 64 * k
    resumeBad (rd a 4) (rd (a + 16) 8) (rd (a + 24) 8) (rd (a + 32) 32)
  let barBad (n : Nat) : Bool :=
    let v := hd (0x20 + 8 * n) 8
    bitsOf v 63 48 != 0 || bitsOf v 15 1 != 0
  bitsOf (hd 0 4) 31 24 != 1 || hd 0 4 % 2 ^ 16 != 0 || hd 0x14 4 != 0 || (List.range 16).any barBad
  || bitsOf w0 31 24 != 1 || bitsOf w0 23 16 != 0 || decide (128 < nldf)
  || rd 4 4 != wp.nv * 2 ^ 24 + wp.ns * 2 ^ 16 + wp.nt * 2 ^ 8 + wp.na
  || bitsOf ctrs 7 6 != 0 || bitsOf ctrs 15 14 != 0 || bitsOf ctrs 23 22 != 0 || bitsOf ctrs 31 30 != 0
  || gs / 2 ^ 16 != 0 || (List.range 8).any (fun i => gs / 2 ^ (2 * i) % 4 == 3)
  || allLanes.any lane || (List.range wp.nt).any (fun t => tileBad (rd (0x380 + 8 * t) 8)) || (List.range nldf).any ldfBad || (List.range nrec).any recBad

/-! ### Initial state of a warp (spec/02_state.md R18, spec/13_scheduling.md R290) -/

/-- The initial uniform registers of a placed warp (spec/02_state.md R18). -/
def Launch.uniforms (l : Launch) (index : Nat) : FMap Word :=
  [(0, BitVec.ofNat 32 l.param), (1, BitVec.ofNat 32 (l.param / 2 ^ 32)), (2, BitVec.ofNat 32 index)]

/-- A warp as it is placed, without its threads. -/
def Launch.warp (l : Launch) (g w age : Nat) : Warp :=
  { live := true, wg := g, index := w, tenant := l.tenant, nv := l.nv, ns := l.ns, nt := l.nt, na := l.na, age := age,
    energy := l.energy }

/-- The state a placed warp starts in: the lanes with a thread active at the entry, in one group. -/
def Warp.start (w : Warp) (n code stamp : Nat) : Warp :=
  let ls := allLanes.filter (decide <| · < n)
  { w with
    th := allLanes.map fun l => (l, if l < n then { st := .active, addr := code } else {})
    groups := if n = 0 then [] else [{ addr := code, slot := 0, mask := maskOf ls, stamp := stamp }] }

/-- Threads of warp w of a workgroup with THREADS threads. -/
def laneThreads (threads w : Nat) : Nat := min 32 (threads - 32 * w)

end Sys2Proof.Machine
end

