-- ==== Sys2Proof/Machine/System.lean ====
section
/-! DEFINITION. Machine/System.lean: the SYS instructions, and what ERET ends
(spec/10_system_clearing_isa.md R233 to R248, spec/02_state.md R39, R40, spec/12_divergence.md R277 to R279,
spec/26_faults_checkpoint.md R429 to R432). -/

namespace Sys2Proof.Machine

open Sys2Proof

/-! ### Control and status registers (R236, R237, spec/28_system.md R465) -/

/-- The bits n of a core's fragment table, 32 entries from a base. -/
def Core.fragBits (k : Core) (base : Nat) (p : Frag → Bool) : Word :=
  maskOf ((List.range 32).filter fun i => p (fget {} k.frags (base + i)))

/-- The value of a CSR. -/
def State.csrValue (s : State) (c n : Nat) : Word :=
  let k := s.core c
  if n = 0x000 then BitVec.ofNat 32 (c / 48 * 2 ^ 8 + c)
  else if n = 0x008 then BitVec.ofNat 32 (0x02000100 + c)
  else if n = 0x010 then k.fragBits 0 fun f => f.valid && f.pend
  else if n = 0x011 then k.fragBits 32 fun f => f.valid && f.pend
  else if n = 0x012 then k.fragBits 0 (·.valid)
  else if n = 0x013 then k.fragBits 32 (·.valid)
  else if n = 0x020 then BitVec.ofNat 32 s.flat
  else if n = 0x021 then BitVec.ofNat 32 k.tenant
  else k.rawCsr n

/-- The value that a write leaves in a CSR: its RW fields, with each CSR's own behaviour. -/
def csrWritten (n : Nat) (old v : Word) : Word :=
  if n = 0x001 then (if v &&& 0x3F#32 = 0#32 then 1#32 else v &&& 0x3F#32)
  else if n = 0x002 ∨ n = 0x007 then v &&& 0xFF#32
  else if n = 0x005 then v &&& 0xFFFF#32
  else if 0x100 ≤ n ∧ n ≤ 0x107 then v &&& 0x00F000FF#32
  else if 0x110 ≤ n ∧ n ≤ 0x117 then v &&& 0xFFFF#32
  else if n = 0x118 then (v &&& 0xFF#32) ||| (old &&& ~~~v &&& 0xFF00#32)
  else v

def sNum (x : Option Word) : Nat := match x with | none => 0 | some w => w.toNat

/-- CSRRD (R236). -/
def execCsrrd (o : SOps) (s : State) : Host.Outcome State Fault Refusal :=
  s.gated (.csrrd o) fun s => s.oneValue o.d (s.csrValue s.cur.core (sNum o.x % 2 ^ 12))

/-- CSRWR (R236). -/
def execCsrwr (o : SOps) (s : State) : Host.Outcome State Fault Refusal :=
  s.gated (.csrwr o) fun s =>
    let n := sNum o.x % 2 ^ 12; let v := s.warp.reg o.a.toNat 0
    s.updCore s.cur.core fun k => k.setCsr n (csrWritten n (k.rawCsr n) v)

/-! ### References (R239) -/

/-- A reference word that is not stale: the entry, or the warp whose fault slot is set. -/
inductive Ref where
  | entry (i : Nat)
  | warp (w : Nat)
  deriving DecidableEq, Repr

def Core.ref (k : Core) (r : Word) : Option Ref :=
  let n := r.toNat; let i := n % 64
  if bitsOf n 30 16 ≠ 0 then none
  else if bitOf n 31 then (if (k.warp i).wfault.isSome then some (.warp i) else none)
  else
    let f := fget ({} : Frag) k.frags i
    if f.valid && !f.kept && f.gen == bitsOf n 15 6 then some (.entry i) else none

/-- FRAGRD's four registers in a lane (R240). -/
def Core.fragWords (k : Core) (r : Option Ref) (l : Nat) : List Nat :=
  match r with
  | none => [0, 0, 0, 0]
  | some (.warp w) =>
    let wp := k.warp w
    [0, 0, 0, if l = 0 then wp.liveMask.toNat
      else if l = 3 then 2 ^ 31 + wp.tenant * 2 ^ 26 + causeCode wp.wfault * 2 ^ 8 + w else 0]
  | some (.entry i) =>
    let f := fget ({} : Frag) k.frags i
    let t := (k.warp f.slot).thread l
    let ins := f.mask.getLsbD l
    [if ins then causeCode t.cause * 2 ^ 24 + 1 else 0, if ins then t.faddr % 2 ^ 32 else 0,
     if ins then t.faddr / 2 ^ 32 % 2 ^ 32 else 0,
     if l = 0 then f.mask.toNat
     else if l = 1 then f.addr % 2 ^ 32
     else if l = 2 then f.pslot * 2 ^ 28 + bitsOf f.addr 54 32
     else if l = 3 then 2 ^ 31 + (if f.pend then 2 ^ 30 else 0) + f.tenant * 2 ^ 26 + f.gen * 2 ^ 16 + f.slot
     else 0]

/-- FRAGRD (R240). -/
def execFragrd (o : SOps) (s : State) : Host.Outcome State Fault Refusal :=
  s.gated (.fragrd o) fun s =>
    let k := s.core s.cur.core
    let r := k.ref (s.warp.reg o.a.toNat 0)
    let ls := s.lanes
    s.updWarp fun w => ls.foldl (fun w l =>
      ((k.fragWords r l).zip (List.range 4)).foldl (fun w x => w.setReg (o.d.toNat + x.2) l (BitVec.ofNat 32 x.1)) w) w

/-- Take lanes out of a fragment; an empty one becomes free (R269). -/
def State.leaveFrag (s : State) (c i : Nat) (m : Word) : State :=
  s.updCore c fun k =>
    let f := fget ({} : Frag) k.frags i
    let m' := f.mask &&& ~~~m
    let f := if m' = 0#32 then { f with mask := 0#32, valid := false, pend := false } else { f with mask := m' }
    { k with frags := fset k.frags i f }

/-- Clear a warp fault slot (R241, R270). -/
def State.clearWfault (s : State) (c w : Nat) : State :=
  (s.updWarpAt c w fun x => { x with wfault := none }).updCore c fun k => { k with slotEv := k.slotEv.filter (· != w) }

/-- Threads of fragment i and of a mask go on, at the recorded position or at a new one (R241). -/
def State.resumeFrag (s : State) (c i : Nat) (m : Word) (pos : Option (Nat × Nat)) : State :=
  let f := fget ({} : Frag) (s.core c).frags i
  let ls := lanesOf (f.mask &&& m)
  let (a, p) := pos.getD (f.addr, f.pslot)
  let s := (s.leaveFrag c i (maskOf ls)).updWarpAt c f.slot fun x => ls.foldl (fun x l => x.updThread l fun t =>
    { t with st := .active, cause := none, faddr := 0, findex := 0, addr := a, slot := p }) x
  (s.arriveLanes c f.slot (ls.map fun l => (l, a, p))).settle c f.slot
/-- Threads of fragment i and of a mask end (R242). -/
def State.killFrag (s : State) (c i : Nat) (m : Word) : State :=
  let f := fget ({} : Frag) (s.core c).frags i
  (s.leaveFrag c i (f.mask &&& m)).exitLanes c f.slot (f.mask &&& m)
/-- Every live thread of a warp ends, out of the fragments as well, and its fault slot is clear (R242). -/
def State.killWarp (s : State) (c x : Nat) : State :=
  let k := s.core c; let m := (k.warp x).liveMask
  let s := k.frags.foldl (fun s f => if f.2.valid && f.2.slot == x then s.leaveFrag c f.1 m else s) s
  (s.clearWfault c x).exitLanes c x m

/-- FRAGRES (R241): threads of the fragment and of the mask go on, at the recorded position or at a new one. -/
def execFragres (o : SOps) (s : State) : Host.Outcome State Fault Refusal :=
  s.gated (.fragres o) fun s =>
    let c := s.cur.core; let k := s.core c; let w := s.warp
    match k.ref (w.reg o.a.toNat 0) with
    | none => s
    | some (.warp x) =>
      (match (k.warp x).wfault with
       | some .fragFull | some .dataUncorrectable | some .recordInvalid => (s.clearWfault c x).settle c x
       | _ => s)
    | some (.entry i) =>
      s.resumeFrag c i (w.reg o.b.toNat 0) (if o.d = 0#7 then none else some (w.reg64 o.d.toNat 0 % 2 ^ 55, 0))

/-- FRAGKILL (R242). -/
def execFragkill (o : SOps) (s : State) : Host.Outcome State Fault Refusal :=
  s.gated (.fragkill o) fun s =>
    let c := s.cur.core; let k := s.core c; let w := s.warp
    match k.ref (w.reg o.a.toNat 0) with
    | none => s
    | some (.warp x) => s.killWarp c x
    | some (.entry i) => s.killFrag c i (w.reg o.b.toNat 0)

/-- An event counts as reported: it leaves its queue, or its fragment is no longer pending (R238). -/
def Core.report (k : Core) (e : Word) : Core :=
  let i := e.toNat % 64
  let k := match e.toNat / 2 ^ 24 with
    | 3 => { k with mbox := k.mbox.drop 1 }
    | 2 => { k with slotEv := k.slotEv.erase i }
    | 5 => { k with dogEv := k.dogEv.erase i }
    | _ => { k with frags := fset k.frags i { fget ({} : Frag) k.frags i with pend := false } }
  { k with reported := if e.toNat / 2 ^ 24 = 3 then k.reported else k.reported ++ [e.toNat] }
/-- SVCWAIT (R238): the event of highest priority is reported, or the split parks until there is one. -/
def execSvcwait (o : SOps) (s : State) : Host.Outcome State Fault Refusal :=
  s.gated (.svcwait o) fun s =>
    let k := s.core s.cur.core
    match k.nextEvent with
    | none => { s with flow := .park .svcwait }
    | some e => (s.setCore s.cur.core (k.report e)).oneValue o.d e

/-! ### Items of a context (R244) -/

/-- The byte form of a lane's predicates (spec/02_state.md R35). -/
def Thread.predByte (t : Thread) : Nat := t.preds.toNat % 128 + 128

def halfOf (idx n : Nat) : Nat := if idx = 0 then n % 2 ^ 32 else n / 2 ^ 32 % 2 ^ 32
def withHalf (idx old v : Nat) : Nat := if idx = 0 then old / 2 ^ 32 * 2 ^ 32 + v else v * 2 ^ 32 + old % 2 ^ 32

/-- One item of a warp in a lane; `row` is the row of classes 17 and 18. -/
def Core.item (k : Core) (w : Warp) (cls idx row l : Nat) : Nat :=
  let t := w.thread l
  let line (m : FMap Byte) (r : Nat) : Nat := leNat ((List.range 4).map fun i => fget 0#8 m (128 * r + 4 * l + i))
  match cls with
  | 0 => (fget 0#32 w.v (idx * 32 + l)).toNat
  | 1 => (fget 0#32 w.s idx).toNat
  | 2 => t.predByte
  | 3 => halfOf idx (posWord (w.lanePos l).1 (w.lanePos l).2)
  | 4 => halfOf idx t.meet.toNat
  | 5 => t.status
  | 6 => if t.st = .parked then halfOf idx t.faddr else 0
  | 7 => w.laneCount l
  | 8 => (w.kmask idx).toNat
  | 9 => halfOf (idx % 2) (w.tile (idx / 2)).toNat
  | 10 => (fget 0#32 w.a (idx / 16 * 512 + l * 16 + idx % 16)).toNat
  | 11 => w.guards
  | 12 => w.counterWord
  | 13 => (fget 0#32 w.ldfs (12 * l + 3 * idx)).toNat
  | 14 => (fget 0#32 w.ldfs (12 * l + 3 * idx + 1)).toNat
  | 15 => (fget 0#32 w.ldfs (12 * l + 3 * idx + 2)).toNat
  | 16 => if l < 16 then (fget 0#32 w.recs (16 * idx + l)).toNat else 0
  | 17 => line k.ob (row % 1024)
  | _ => line k.wb (row % 512)

/-- An item the whole warp or split has once. -/
def oneItem (cls : Nat) : Bool := cls == 1 || cls == 8 || cls == 9 || cls == 11 || cls == 12

/-- A register item past the warp's declared counts. -/
def Warp.beyond (w : Warp) (cls idx : Nat) : Bool :=
  match cls with
  | 0 => decide (w.nv ≤ idx)
  | 1 => decide (w.ns ≤ idx)
  | 9 => decide (w.nt ≤ idx / 2)
  | 10 => decide (w.na ≤ idx / 16)
  | _ => false

/-- An item whose read meets a lasting error (spec/26_faults_checkpoint.md R425). -/
def Core.itemBad (k : Core) (slot : Nat) (m : Word) (cls idx row : Nat) : Bool :=
  let b := (k.warp slot).bad
  match cls with
  | 0 => (lanesOf m).any fun l => b.contains (idx * 32 + l)
  | 1 => b.contains (4096 + idx)
  | 2 => (lanesOf m).any fun l => (List.range 7).any fun p => b.contains (predCell p l)
  | 10 => k.bufBad.contains (2048 + slot * 16 + idx / 16)
  | 17 => k.bufBad.contains (row % 1024)
  | 18 => k.bufBad.contains (1024 + row % 512)
  | _ => false

/-- The context that SAVEX or RESTX names, and its target lanes. -/
def State.target_ (s : State) (f : BitVec 7) : Option (Nat × Word) :=
  if f = 0#7 then some (s.cur.slot, BitVec.allOnes 32)
  else match (s.core s.cur.core).ref (s.warp.reg f.toNat 0) with
    | none => none
    | some (.warp w) => some (w, BitVec.allOnes 32)
    | some (.entry i) =>
      let e := fget ({} : Frag) (s.core s.cur.core).frags i
      some (e.slot, e.mask)

def itemCls (x : Option Word) : Nat := bitsOf (sNum x) 15 8
def itemIdx (x : Option Word) : Nat := bitsOf (sNum x) 7 0
/-- The row register of classes 17 and 18. -/
def State.rowOf (s : State) (b : BitVec 7) : Nat := if b = 0#7 then 0 else (s.warp.reg b.toNat 0).toNat

/-- SAVEX (R244). -/
def execSavex (o : SOps) (s : State) : Host.Outcome State Fault Refusal :=
  s.gated (.savex o) fun s =>
    let k := s.core s.cur.core; let cls := itemCls o.x; let idx := itemIdx o.x; let row := s.rowOf o.b
    match s.target_ o.a with
    | none => s.perLane o.d fun _ _ => 0#32
    | some (slot, m) =>
      let w := k.warp slot
      if w.beyond cls idx then
        let (x, s) := s.free
        s.perLane o.d fun _ l => if oneItem cls || m.getLsbD l then x else 0#32
      else if k.itemBad slot m cls idx row then s.faultOpen .dataUncorrectable
      else s.perLane o.d fun _ l => if oneItem cls || m.getLsbD l then BitVec.ofNat 32 (k.item w cls idx row l) else 0#32

/-- Write one item of a warp in a lane (R244); classes 17 and 18 go to the buffers. -/
def Warp.putItem (w : Warp) (cls idx l : Nat) (x : Word) : Warp :=
  let n := x.toNat
  match cls with
  | 0 => { w with v := fset w.v (idx * 32 + l) x, bad := w.bad.filter (· != idx * 32 + l) }
  | 1 =>
    let w := w.skipOps (96 + idx) (w.ops.foldl (fun n o => max n (o.id + 1)) 0)
    { w with s := fset w.s idx x, bad := w.bad.filter (· != 4096 + idx) }
  | 2 => ({ w with bad := w.bad.filter fun x => !((List.range 7).map (predCell · l)).contains x } : Warp).updThread l fun t =>
      { t with preds := BitVec.ofNat 8 (n % 128) }
  | 3 => w.updThread l fun t =>
      let p := withHalf idx (posWord t.addr t.slot) n
      { t with addr := p % 2 ^ 55, slot := bitsOf p 62 59 }
  | 4 => w.updThread l fun t => { t with meet := BitVec.ofNat 64 (withHalf idx t.meet.toNat n) }
  | 5 => w.updThread l (·.setStatus n)
  | 6 => w.updThread l fun t => { t with faddr := withHalf idx t.faddr n }
  | 7 => { w with lcnt := fset w.lcnt l (n % 64) }
  | 8 => w.setMask idx x
  | 10 => { w with a := fset w.a (idx / 16 * 512 + l * 16 + idx % 16) x }
  | 11 => w.setGuards n
  | 12 => w.setCounters n
  | 13 => { w with ldfs := fset w.ldfs (12 * l + 3 * idx) x }
  | 14 => { w with ldfs := fset w.ldfs (12 * l + 3 * idx + 1) x }
  | 15 => { w with ldfs := fset w.ldfs (12 * l + 3 * idx + 2) x }
  | 16 => if l < 16 then { w with recs := fset w.recs (16 * idx + l) x } else w
  | _ => w

/-- A restored tile takes rows of its own (spec/09_engine_isa.md R231): the low word is written first, and the
high word, once it makes the record valid, reserves; with no free run the write waits, as OBRES does. -/
def State.putTile (s : State) (idx : Nat) (x : Word) : State :=
  let w := s.warp
  let old := (w.tile (idx / 2)).toNat
  let t := BitVec.ofNat 64 (withHalf (idx % 2) old x.toNat)
  if idx % 2 = 1 ∧ t.getLsbD 63 ∧ w.mode = .restore then
    match (s.core s.cur.core).freeRun (tileRows t).2 with
    | none => s.stalled
    | some base => s.updWarp fun w =>
        { w.setTile (idx / 2) (moveTile t base) with moved := w.moved ++ [((tileRows t).1, base)] }
  else s.updWarp fun w => w.setTile (idx / 2) t

/-- Write a lane's four bytes of a buffer row. -/
def State.putRow (s : State) (wb : Bool) (row l : Nat) (x : Word) : State :=
  s.updCore s.cur.core fun k =>
    let r := if wb then row % 512 else row % 1024
    let put (m : FMap Byte) : FMap Byte := ((leBytes 4 x.toNat).zip (List.range 4)).foldl (fun m y =>
      fset m (128 * r + 4 * l + y.2) y.1) m
    if wb then { k with wb := put k.wb, bufBad := k.bufBad.filter (· != 1024 + r) }
    else { k with ob := put k.ob, bufBad := k.bufBad.filter (· != r) }

/-- The words of a range, 32 bytes at a time, that a handler's loads cannot read: cause and address. -/
def State.unreadable (s : State) (t va n : Nat) : Option (Cause × Nat) :=
  (List.range ((n + 31) / 32)).findSome? fun i =>
    match s.hubRead t (va + 32 * i) (min 32 (n - 32 * i)) with
    | .error e => some (e, va + 32 * i)
    | .ok _ => none

/-- The check that the restore handler makes of its warp's record before its first RESTX (R39): whether it refuses the
record, or the fault of a word it cannot read. The machine makes the check itself, at the first RESTX or the ERET, and
a refused warp's RESTX writes nothing (notes/assumptions/67.md). Parts past the declared counts are not read (R35). -/
def State.recordCheck (s : State) (c w : Nat) : Except (Cause × Nat) Bool :=
  let wp := s.warpAt c w
  let x := s.wg wp.wg; let t := wp.tenant
  let area := (s.tenant t).area (x.area.getD 0)
  let base := area + areaRec x.lsize wp.index
  let rd (o n : Nat) : Nat := (s.hubRead t (base + o) n).toOption.getD 0
  let hd (o n : Nat) : Nat := (s.hubRead t (area + o) n).toOption.getD 0
  let ctr (i : Nat) : Nat := rd 8 4 / 2 ^ (8 * i) % 64
  match [(area, 0xA0), (base, 0x300), (base + 0x300, 4 * wp.ns), (base + 0x380, 8 * wp.nt), (base + 0x400, 0x100),
         (base + 0x500, 16 * min 128 (bitsOf (rd 0 4) 15 8)),
         (base + 0xD00, 64 * (ctr 0 + ctr 1 + ctr 2 + ctr 3))].findSome? fun r => s.unreadable t r.1 r.2 with
  | some e => .error e
  | none => .ok (recordBad wp hd rd)
/-- The check in the issuing restore handler, made once; the second result tells whether the handler goes on. -/
def State.checkRecord (s : State) : State × Bool :=
  if s.warp.mode ≠ .restore ∨ s.warp.refused.isSome then (s, true)
  else match s.recordCheck s.cur.core s.cur.slot with
    | .error (e, va) => (s.faultSplit e va, false)
    | .ok b => (s.updWarp fun w => { w with refused := some b }, true)

/-- RESTX (R244, R245). DESIGN CHOICE (notes/assumptions/86.md): R244 does not say what a register item past the target's
declared counts does; nothing is written. -/
def execRestx (o : SOps) (s : State) : Host.Outcome State Fault Refusal :=
  s.gated (.restx o) fun s =>
    let c := s.cur.core; let cls := itemCls o.x; let idx := itemIdx o.x; let row := s.rowOf o.b
    match s.target_ o.d with
    | none => s
    | some (slot, m) =>
      match s.checkRecord with
      | (s, false) => s
      | (s, true) =>
      let src := s.warp; let w := s.warpAt c slot
      if src.refused = some true then s
      else if cls = 1 ∧ slot ≠ s.cur.slot ∧ w.run.isSome then s.stalled
      else if w.beyond cls idx then s
      else if cls = 9 then s.putTile idx (src.reg o.a.toNat s.lowest)
      else if 17 ≤ cls then s.lanes.foldl (fun s l => s.putRow (cls == 18) row l (src.reg o.a.toNat l)) s
      else if oneItem cls then s.updWarpAt c slot fun w => w.putItem cls idx 0 (src.reg o.a.toNat s.lowest)
      else
        let ls := s.lanes.filter fun l => m.getLsbD l
        s.updWarpAt c slot fun w => ls.foldl (fun w l => w.putItem cls idx l (src.reg o.a.toNat l)) w

/-! ### The end of a save (spec/26_faults_checkpoint.md R429) -/

/-- Operand-buffer rows that a workgroup's warps hold. -/
def State.rowsHeld (s : State) (g : Nat) : Nat :=
  let x := s.wg g
  (x.slots.flatMap fun w => (s.warpAt x.core w).t.filterMap fun t =>
    if t.2.getLsbD 63 then some (tileRows t.2).2 else none).foldl (· + ·) 0

/-- The header of a save area, whose words no instruction can read (notes/assumptions/30.md). -/
def State.areaHeader (s : State) (g : Nat) : List Byte :=
  let x := s.wg g
  let bar (n : Nat) : Nat :=
    let b := fget ({} : Bar) x.bars n
    (b.fixed.getD (s.liveIn g)) * 2 ^ 32 + b.arrived * 2 ^ 16 + (if b.phase then 1 else 0)
  leBytes 4 (2 ^ 24 + x.slots.length * 2 ^ 16) ++ leBytes 4 x.lsize ++ leBytes 4 x.x ++ leBytes 4 x.y ++ leBytes 4 x.z
    ++ leBytes 4 0 ++ leBytes 8 x.age ++ (List.range 16).flatMap fun n => leBytes 8 (bar n)

/-- The two words of the buffer extension: WBHELD and the rows saved (spec/09_engine_isa.md R231). -/
def State.areaExt (s : State) (g : Nat) : List Byte :=
  leBytes 4 (if (s.core (s.wg g).core).wbOwner = some g then 1 else 0) ++ leBytes 4 (s.rowsHeld g)
/-- The stores by which warp 0's handler writes them: offset in the area, bytes (spec/02_state.md R34). -/
def State.areaStores (s : State) (g : Nat) : List (Nat × List Byte) :=
  pieces 10 0 (s.areaHeader g) ++ [(areaRec (s.wg g).lsize (s.wg g).slots.length, s.areaExt g)]
/-- Warp 0's handler stores the header and the extension's words before its ERET, as ordinary stores; the first that
fails is a fault of the handler. -/
def State.storeHeader (s : State) : State × Bool :=
  let w := s.warp; let g := w.wg
  let area := (s.tenant w.tenant).area ((s.wg g).area.getD 0)
  let ps := (s.areaStores g).map fun x => (area + x.1, x.2, s.translate s.cur.core w.tenant (area + x.1) .wr)
  match ps.findSome? fun x => match x.2.2 with | .error e => some (e, x.1) | .ok _ => none with
  | some (e, va) => (s.faultSplit e va, false)
  | none => (State.addPieces 0#32 0 0 0 s (ps.filterMap fun x => match x.2.2 with | .ok pa => some (x.1, pa, x.2.1) | .error _ => none), true)

/-! ### The end of a restore (spec/12_divergence.md R277 to R279, spec/02_state.md R39, R40) -/

/-- Where a thread that waits at a position goes on, and whether a marker covers its instruction. -/
def State.afterWait (s : State) (c w : Nat) (t : Thread) : Nat × Nat × Bool :=
  match s.fetchClause c w t.addr with
  | .present ws =>
    let r : Split := { mask := 0#32, addr := t.addr, slot := t.slot, words := ws }
    (r.nextPos.1, r.nextPos.2, hdrSw r.hdr t.slot)
  | _ => (t.addr, t.slot, false)

/-- Parked lanes enter new entries of the fragment table, those that shared one share one; with no free entry
the warp stops with FRAG_FULL and their faults stay pending in them. A CAUSE byte that is no code of R418 counts as
DATA_UNCORRECTABLE (notes/assumptions/65.md). -/
def State.restoreFrags (s : State) (c w : Nat) : State :=
  let wp := s.warpAt c w
  let ls := allLanes.filter fun l => (wp.thread l).st == .parked
  let fs := (ls.map fun l => (wp.thread l).findex).eraseDups
  fs.foldl (fun s f =>
    let ms := ls.filter fun l => (wp.thread l).findex == f
    let t0 := wp.thread (ms.headD 0)
    let faults : List LaneFault := ms.map fun l =>
      (l, (wp.thread l).cause.getD .dataUncorrectable, (wp.thread l).faddr)
    match s.fragment c w t0.addr t0.slot faults with
    | (s, true) => s
    | (s, false) =>
      let (id, s) := s.newId
      s.updWarpAt c w fun wp => faults.foldl (fun wp x => wp.updThread x.1 fun t =>
        { t with st := .active, cause := none, pend := some (x.2.1, x.2.2), pendIss := id }) wp) s

/-- The listed LDFs of a lane are issued again, in their order (R279). Their list has no bit for .acq, and each return
acquires (notes/assumptions/66.md). DESIGN CHOICE (notes/assumptions/80.md): a size code that LDF does not have, which R39
does not check, counts modulo 8. -/
def State.reissueLdf (s : State) (c w l : Nat) : State :=
  (List.range 4).foldl (fun s i =>
    let wp := s.warpAt c w
    let word (j : Nat) : Nat := (fget 0#32 wp.ldfs (12 * l + 3 * i + j)).toNat
    let ctl := word 2
    if !bitOf ctl 31 then s
    else
      let va := word 0 + 2 ^ 32 * word 1
      let acc := match s.translate c wp.tenant va .rd with
        | .error e => Except.error e
        | .ok pa => if isFlat pa then .ok pa else .error .protection
      match acc with
      | .error e => s.updWarpAt c w fun wp => wp.updThread l fun t => { t with pend := some (e, va), pendIss := 0 }
      | .ok pa =>
        let sz := bitsOf ctl 15 8 % 8
        let (id, s) := s.newId
        s.updWarpAt c w fun wp => { wp with ops := wp.ops ++
          [{ id := id, iss := id, lane := l, kind := .ldf, va := va, pa := pa, size := szBytes sz, sz := sz, clr := bitOf ctl 16,
             acq := true, dest := some (BitVec.ofNat 7 ctl) }] }) s

/-- A lane joins the restored split at its position, which waits at its marker and for an entry of the pool (R277, R279). -/
def joinSplit (addr slot : Nat) (m : Word) (stamp : Nat) : List Split → List Split
  | [] => [{ mask := m, addr := addr, slot := slot, words := [], park := .marker, ib := false, stamp := stamp }]
  | p :: ps =>
    if p.addr = addr ∧ p.slot = slot then { p with mask := p.mask ||| m } :: ps else p :: joinSplit addr slot m stamp ps
/-- Lanes in STATE 0 form groups by position, with the largest saved count; a lane that its meet holds there is held
(R108). Inside a clause, where a lane of a position has listed LDFs, all lanes of it form one split, parked at the marker
that covers them (R277, R279). At slot 0 a lane whose LDFs had no marker is a plain lane of its group; one that a marker
kept for them, in a split or at its run boundary, is kept again (`waits`, notes/assumptions/28.md). -/
def Warp.reform (w : Warp) (waits : FMap Bool) (stamp : Nat) : Warp :=
  let at_ (l : Nat) : Nat × Nat := ((w.thread l).addr, (w.thread l).slot)
  let owes (l : Nat) : Bool := w.ops.any fun o => o.kind == .ldf && o.lane == l
  let splits := (allLanes.filter fun l => (w.thread l).st == .active && owes l && decide (0 < (w.thread l).slot)).map at_
  let kept (l : Nat) (split : Bool) : Bool :=
    (w.thread l).slot == 0 && fhas waits (32 * w.index + l) && fget false waits (32 * w.index + l) == split
  allLanes.foldl (fun w l =>
    let t := w.thread l
    if t.st ≠ .active then w
    else if w.meetsAt l t.addr t.slot then w.updThread l fun t => { t with st := .held }
    else
    let w := w.unmeet l t.slot
    if splits.contains (t.addr, t.slot) || kept l true then
      { w with parked := joinSplit t.addr t.slot (laneBit l) stamp w.parked }
    else if kept l false && owes l then { w with bound := fset w.bound l (t.addr, t.slot) }
    else { w with groups := joinGroup t.addr t.slot (laneBit l) (fget 0 w.lcnt l) stamp w.groups }) w

/-- A warp whose record was refused stands at the kernel's entry with its initial registers, its threads stopped by
RECORD_INVALID (R39). -/
def State.refusedWarp (s : State) (c w : Nat) : State :=
  let wp := s.warpAt c w; let x := s.wg wp.wg
  let (id, s) := s.newId
  match s.launch x.launch with
  | none => s.setWfault c w .recordInvalid
  | some l => (s.setWarpAt c w (({ l.warp wp.wg wp.index wp.age with s := l.uniforms x.index, ops := wp.ops } : Warp).start
      (laneThreads l.threads wp.index) l.code id)).setWfault c w .recordInvalid

/-- Threads restored at a barrier whose phase completed while they were saved go on, with their acquire. -/
def State.releaseFreed (s : State) (g c w : Nat) : State :=
  let fs := (s.wg g).freed
  if fs.isEmpty then s
  else s.releaseFrom c w fun wp l =>
    ((wp.thread l).st == .atBar && fs.contains (wp.thread l).opnd) || ((wp.thread l).st == .atCbar && fs.contains (16 + (wp.thread l).opnd))

/-- The held ends of a warp that have been applied while it stood at its restore handler's ERET. -/
def State.appliedEnds (s : State) (g w : Nat) : Nat :=
  (s.dies.flatMap fun d => d.2.held.filter fun h => h.wg == g && h.slot == w && h.applied).length
/-- A warp leaves its restore handler: commands, threads and waits go back. -/
def State.finishWarp (s : State) (c w : Nat) : State :=
  let wp := s.warpAt c w
  let g := wp.wg; let x := s.wg g
    if wp.refused = some true then s.refusedWarp c w
    else
      let wp := { wp with mode := .tenant, eret := false, saving := false, drained := false, groups := [], run := none,
                          parked := [], bound := [], sv := [], ss := [], sp := [], refused := none,
                          k := wp.k.map fun (x : Nat × Word) => (x.1, x.2 &&& wp.liveMask) }
      let (id, s) := s.newId
      -- a held end that has been applied has lowered the clr counter, and its record is still in the list (R230, R232)
      let n := wp.counters + s.appliedEnds g wp.index
      let posts := s.livePosts g wp.index
      let s := s.setWarpAt c w { wp with restored := true }
      let s := ((List.range n).foldl (fun (y : State × List Nat) k => y.1.reenter c w k y.2) (s, posts)).1
      let s := s.updWarpAt c w fun wp => allLanes.foldl (fun wp l =>
        let th := wp.thread l
        let th := { th with frag := fget 0#32 x.fragIds (32 * wp.index + l) }
        let th := if th.st = .atBar ∨ th.st = .atCbar then
            let p := s.afterWait c w th
            { th with naddr := p.1, nslot := p.2.1, nmark := p.2.2 } else th
        wp.setThread l th) wp
      let s := match (x.wfaults.find? (·.1 == wp.index)) with
        | some e => s.setWfault c w e.2.1 e.2.2
        | none => s
      let s := s.restoreFrags c w
      let s := allLanes.foldl (fun s l => s.reissueLdf c w l) s
      let s := s.updWarpAt c w fun wp => { (wp.reform x.waits id).farDone fun _ => true with recs := [], ldfs := [], moved := [], lcnt := [] }
      s.releaseFreed g c w

/-- The workgroup is resident again once every warp of it has left its handler; its area is free (R431). -/
def State.finishRestore (s : State) (g : Nat) : State :=
  let x := s.wg g
  if x.st = .restoring ∧ x.slots.all fun w => (s.warpAt x.core w).mode == .tenant then
    let t := (s.warpAt x.core (x.slots.headD 0)).tenant
    let s := (s.freeArea t x.area).updWg g fun x => { x with st := .resident, area := none, fragIds := [], waits := [], wfaults := [], away := [], freed := [] }
    { s with dies := s.dies.map fun d => (d.1, { d.2 with held := d.2.held.filter fun h => h.wg != g }) }
  else s

/-- Whether the clearing engines hold an end for a workgroup (spec/09_engine_isa.md R232). -/
def State.holdsEnd (s : State) (g : Nat) : Bool := s.dies.any fun d => d.2.held.any fun h => h.wg == g && !h.applied

/-- Warps that wait at their restore handlers' ERET go on when no end is held for the workgroup. -/
def State.leaveHandlers (s : State) (g : Nat) : State :=
  let x := s.wg g
  if s.holdsEnd g then s
  else
    let ws := x.slots.filter fun w => (s.warpAt x.core w).mode == .restore && (s.warpAt x.core w).eret
    let s := ws.foldl (fun s w => s.finishWarp x.core w) s
    let s := s.finishRestore g
    ws.foldl (fun s w => s.settle x.core w) (s.postAll (x.core / 48))

/-- A restored thread waits at a barrier in code that another device has not sent yet, so that where it goes on is not known
(spec/15_memory_model.md R323). -/
def State.restoreWait (s : State) : Option (Nat × Nat) :=
  let u := s.updWarp fun w => { w with mode := .tenant }
  allLanes.findSome? fun l =>
    let t := s.warp.thread l
    if t.st = .atBar ∨ t.st = .atCbar then
      match u.fetchWords s.cur.core s.cur.slot t.addr with
      | .error (.wait va pa) => some (va, pa)
      | _ => none
    else none

/-- ERET (R247). -/
def execEret (o : SOps) (s : State) : Host.Outcome State Fault Refusal :=
  s.gated (.eret o) fun s =>
    let g := s.warp.wg
    let m := s.warp.mode
    match (if m = .restore then s.restoreWait else none) with
    | some (va, pa) => (s.fetchNeed s.cur.core s.cur.slot va pa).stalled
    | none =>
    match (if m = .save then (if s.warp.index = 0 then s.storeHeader else (s, true)) else s.checkRecord) with
    | (s, false) => s
    | (s, true) =>
      -- results of the handler that have not returned write no register
      let drop (o : Op) : Op := if o.kind.long then { o with dest := none } else o
      let s := s.updWarp fun w => { w with eret := true, run := none, groups := [], parked := [], ops := w.ops.map drop }
      { (if m = .save then s.finishSave g else s.leaveHandlers g) with flow := .moved }

/-! ### Translation, caches and power (R248) -/

/-- TLBINV. DESIGN CHOICE (notes/assumptions/87.md): with SCOPE 0 and an a field of 0 no address is named, and nothing
changes. -/
def execTlbinv (o : SOps) (s : State) : Host.Outcome State Fault Refusal :=
  s.gated (.tlbinv o) fun s =>
    let b := (s.warp.reg o.b.toNat 0).toNat
    let scope := bitsOf b 9 8; let t := b % 256
    let va := if o.a = 0#7 then none else some (s.warp.reg64 o.a.toNat 0)
    if bitsOf b 31 10 ≠ 0 ∨ scope = 3 ∨ (scope = 0 ∧ va = none) then s
    else
      let d := s.cur.core / 48
      let hit (e : Tlb) : Bool :=
        match scope with
        | 0 => e.tenant == t && decide (e.vbase ≤ va.getD 0 ∧ va.getD 0 < e.vbase + e.span)
        | 1 => e.tenant == t
        | _ => true
      let cut (x : Nat × Core) : Nat × Core :=
        if x.1 / 48 = d then (x.1, { x.2 with tlb := x.2.tlb.filter fun e => !hit e }) else x
      let kill (x : Walk) : Walk := if x.core / 48 = d then { x with dead := true } else x
      let s : State := { s with cores := s.cores.map cut, walks := s.walks.map kill }
      s.updDie d fun k => { k with ltlb := k.ltlb.filter fun e => !hit e }

/-- CACHEOP: a store's data is at its home once it has registered, so a clean gives up ownership only. DESIGN CHOICE
(notes/assumptions/87.md): with OP 2 and an a field of 0 no line is named, and nothing changes. -/
def execCacheop (o : SOps) (s : State) : Host.Outcome State Fault Refusal :=
  s.gated (.cacheop o) fun s =>
    let c := s.cur.core; let b := (s.warp.reg o.b.toNat 0).toNat
    if bitsOf b 31 2 ≠ 0 then s
    else
      match b % 4 with
      | 0 => s.updCore c (·.dropWords fun _ => true)
      | 1 => s.giveUp c fun _ => true
      | 2 =>
        if o.a = 0#7 then s
        else (match s.access (s.warp.reg64 o.a.toNat 0) .rd with
          | .error _ => s
          | .ok pa => s.giveUp c (inWords (pa / 128 * 128) 128))
      | _ => (s.updCore c (·.dropWords fun _ => true)).giveUp c fun _ => true

/-- The island of a core: its compute quarter under R8 (spec/01_machine.md), numbered 4 × die + quarter. R9's table numbers
no islands, and R470's index i is that of no table: the numbering is the model's choice (notes/assumptions/78.md). -/
def islandOf (c : Nat) : Nat := c / 48 * 4 + (c % 48 % 8) / 4 + 2 * ((c % 48 / 8) / 3)

/-- PMCTL: the core energy counter is a free value (notes/assumptions/5.md). -/
def execPmctl (o : SOps) (s : State) : Host.Outcome State Fault Refusal :=
  s.gated (.pmctl o) fun s =>
    match (s.warp.reg o.b.toNat 0).toNat with
    | 0 => s.oneValue o.d (BitVec.ofNat 32 (fget 1050 s.power.cur (islandOf s.cur.core)))
    | 1 => let (x, s) := s.free; s.oneValue o.d x
    | _ => s.oneValue o.d 0xFFFFFFFF#32

end Sys2Proof.Machine
end

