-- ==== Sys2Proof/Machine/Clearing.lean ====
section
/-! DEFINITION. Machine/Clearing.lean: the clearing processor's instructions
(spec/10_system_clearing_isa.md R249 to R252, spec/21_collectives.md R368 to R374, R379). -/

namespace Sys2Proof.Machine

open Sys2Proof

/-! ### Fields of the parameter block (R254) -/

def Coll.fOp (x : Coll) : Nat := blockField x.block 0 1
def Coll.fDtype (x : Coll) : Nat := blockField x.block 1 1
def Coll.fComp (x : Coll) : Nat := blockField x.block 2 1
/-- The block length B. -/
def Coll.fB (x : Coll) : Nat := 32 * 2 ^ (blockField x.block 3 1 % 4)
def Coll.fLg (x : Coll) : Nat := 5 + blockField x.block 3 1 % 4
def Coll.fAlgo (x : Coll) : Nat := blockField x.block 4 1
def Coll.fGroup (x : Coll) : Nat := blockField x.block 8 4
def Coll.fStream (x : Coll) : Nat := blockField x.block 0x0C 4
def Coll.fSrc (x : Coll) : Nat := blockField x.block 0x10 8
def Coll.fDst (x : Coll) : Nat := blockField x.block 0x18 8
def Coll.fCount (x : Coll) : Nat := blockField x.block 0x20 8
def Coll.fResid (x : Coll) : Nat := blockField x.block 0x28 8
def Coll.fProg (x : Coll) : Nat := blockField x.block 0x30 8
def Coll.fBar (x : Coll) : Nat := blockField x.block 0x38 4
def Coll.fRoot (x : Coll) : Nat := blockField x.block 0x40 4
def Coll.fJob (x : Coll) : Nat := blockField x.block 0x48 8
def Coll.fStep (x : Coll) : Nat := blockField x.block 0x50 8
/-- Element width in bits. -/
def Coll.width (x : Coll) : Nat := WellFormed.fmtWidth x.fDtype
/-- Bytes that n elements take. -/
def Coll.bytes (x : Coll) (n : Nat) : Nat := (n * x.width + 7) / 8

def State.group (s : State) (x : Coll) : Option CGroup := s.groups.find? fun g => g.handle == x.fGroup && g.tenant == x.tenant

/-! ### The acting processor -/

def State.proc (s : State) (d p : Nat) : Clear := fget {} (s.die d).procs p
def State.setProc (s : State) (d p : Nat) (x : Clear) : State := s.updDie d fun k => { k with procs := fset k.procs p x }
def State.clear (s : State) : Clear := s.proc s.cur.core s.cur.slot
def State.setClear (s : State) (x : Clear) : State := s.setProc s.cur.core s.cur.slot x
def State.updClear (s : State) (f : Clear → Clear) : State := s.setClear (f s.clear)
def Clear.reg (x : Clear) (r : BitVec 4) : Nat := (fget 0#64 x.c r.toNat).toNat
def Clear.setReg (x : Clear) (r : BitVec 4) (n : Nat) : Clear := { x with c := fset x.c r.toNat (BitVec.ofNat 64 n) }
/-- The next word. -/
def Clear.step (x : Clear) : Clear := { x with pc := x.pc + 4 }

/-- The program ends with a status; a wait of it leaves its granule's queue. -/
def State.clearEnd (s : State) (st : Nat) : State :=
  let key := clearKey s.cur.core s.cur.slot
  { s.updClear fun x => { x with ended := some st, asked := false } with ldfq := s.ldfq.filter (·.core != key) }

/-- The meaning of a clearing instruction: a processor that runs no collective does nothing. -/
def State.clearing (s : State) (f : Clear → Coll → State) : Host.Outcome State Fault Refusal :=
  .next (match s.clear.coll with
    | none => s
    | some x => if s.clear.ended.isSome then s else f s.clear x)

/-- An instruction on registers alone. -/
def State.clearRegs (s : State) (f : Clear → Clear) : Host.Outcome State Fault Refusal :=
  s.clearing fun c _ => s.setClear (f c)

/-- The status that ends a live collective at its next message step or wait: its group has lost a member, or the handle
it names is no longer registered (spec/21_collectives.md R383, R384). -/
def State.stepEnds (s : State) (c : Clear) (x : Coll) : Option Nat :=
  match c.gone with
  | some st => some st
  | none => match s.group x with
    | none => some stRange
    | some g => if g.lost then some stLost else none
/-- A message step or wait: a lost member ends the collective there. -/
def State.clearStep (s : State) (f : Clear → Coll → State) : Host.Outcome State Fault Refusal :=
  s.clearing fun c x =>
    match s.stepEnds c x with
    | some st => s.clearEnd st
    | none => f c x

/-! ### Reads and writes of the posting tenant's space -/

/-- Read n bytes page by page; a failure gives its status. -/
def State.spaceGo (s : State) (tenant : Nat) : Nat → Nat → Nat → Except Nat (List Byte)
  | 0, _, _ => .ok []
  | k + 1, va, n =>
    if n = 0 then .ok []
    else
      let m := min n (65536 - va % 65536)
      match s.hubTranslate tenant va .rd with
      | .error _ => .error stTranslation
      | .ok pa =>
        match s.jobRead pa m with
        | .error e => .error e
        | .ok v => match State.spaceGo s tenant k (va + m) (n - m) with
          | .error e => .error e
          | .ok r => .ok (leBytes m v ++ r)
def State.spaceRead (s : State) (tenant va n : Nat) : Except Nat (List Byte) := s.spaceGo tenant (n / 65536 + 2) va n

/-- n bytes of a tenant's space have been read, and count at the die of their first byte (spec/28_system.md R466). -/
def State.spaceHasRead (s : State) (tenant va n : Nat) : State :=
  match s.hubTranslate tenant va .rd with
  | .error _ => s
  | .ok pa => s.countRead pa tenant n

/-- Write bytes page by page as engine writes; the second result is the status where a page fails. -/
def State.spaceWGo (typ tenant : Nat) : Nat → State → Nat → List Byte → State × Option Nat
  | 0, s, _, _ => (s, none)
  | k + 1, s, va, bs =>
    if bs.isEmpty then (s, none)
    else
      let m := 65536 - va % 65536
      match s.hubTranslate tenant va .wr with
      | .error _ => (s, some stTranslation)
      | .ok pa =>
        if !isFabric pa && s.swHeld pa (min m bs.length) then (s, some (needCode pa (min (min m bs.length) 128)))
        else State.spaceWGo typ tenant k (s.engineWrite tenant va pa (bs.take m) typ) (va + m) (bs.drop m)
def State.spaceWrite (s : State) (tenant va : Nat) (bs : List Byte) (typ : Nat := 0) : State × Option Nat :=
  State.spaceWGo typ tenant (bs.length / 65536 + 2) s va bs

/-- Elements of width w from a bit offset, given their bytes. -/
def elemsOf (w n off : Nat) (bs : List Byte) : List Nat :=
  let x := leNat bs / 2 ^ off
  (List.range n).map fun i => x / 2 ^ (w * i) % 2 ^ w
/-- Read n elements of width w, the first at number i from a base. -/
def State.elemRead (s : State) (tenant base w i n : Nat) : Except Nat (List Nat) :=
  let lo := i * w / 8; let hi := ((i + n) * w + 7) / 8
  match s.spaceRead tenant (base + lo) (hi - lo) with
  | .error e => .error e
  | .ok bs => .ok (elemsOf w n (i * w % 8) bs)
/-- Write elements of width w, the first at number i from a base; a byte shared with a neighbour keeps its
other bits. -/
def State.elemWrite (s : State) (tenant base w i : Nat) (xs : List Nat) (typ : Nat := 0) : State × Option Nat :=
  let n := xs.length
  let lo := i * w / 8; let hi := ((i + n) * w + 7) / 8
  if w % 8 = 0 then s.spaceWrite tenant (base + lo) (leBytes (hi - lo) (packElems w xs)) typ
  else
    match s.spaceRead tenant (base + lo) (hi - lo) with
    | .error e => (s, some e)
    | .ok bs =>
      let old := leNat bs; let off := i * w % 8
      let new := old % 2 ^ off + (packElems w xs) * 2 ^ off + old / 2 ^ (off + n * w) * 2 ^ (off + n * w)
      s.spaceWrite tenant (base + lo) (leBytes (hi - lo) new)

/-! ### Coding (R251, spec/21_collectives.md R370 to R374) -/

/-- The residual address of element e under a role, with the checks of R373 and R374. -/
def State.residAddr (s : State) (x : Coll) (role e : Nat) : Option Nat :=
  match s.resids.find? fun r => r.handle == x.fResid && r.tenant == x.tenant with
  | none => none
  | some r =>
    if x.fStream < r.nstream ∧ role < r.nrole ∧ e < r.elems then
      some (r.base + 4 * ((x.fStream * r.nrole + role) * r.elems + e))
    else none

/-- The code image of coded blocks: scales in BF16 padded to 16 bytes, then the code words. -/
def codeImage (k b : Nat) (cs : List Coded) : List Byte :=
  let sc := cs.flatMap fun c => leBytes 2 c.s
  let pad := List.replicate ((16 - sc.length % 16) % 16) 0#8
  sc ++ pad ++ cs.flatMap fun c => leBytes (b * k / 8) (packCodes k c.codes)

/-- Code m FP32 elements at an address under a role: residuals are read and written, and the image and the
decoded values come back; or the status that ends the collective. -/
def State.code (s : State) (x : Coll) (k role va m : Nat) (base : Nat) : State × Except Nat (List Byte × List Word) :=
  if x.fDtype ≠ 0 ∨ x.fComp ≠ k ∨ m % x.fB ≠ 0 then (s, .error stRange)
  else
    let e := (va - base) / 4
    match (if m = 0 then some 0 else (match s.residAddr x role (e + m - 1) with
        | none => none | some _ => s.residAddr x role e)) with
    | none => (s, .error stRange)
    | some ra =>
      match s.elemRead x.tenant va 32 0 m, s.elemRead x.tenant ra 32 0 m with
      | .ok ys, .ok rs =>
        let xs := (ys.zip rs).map fun y => ne32 (addE false (dec32 (BitVec.ofNat 32 y.1)) (dec32 (BitVec.ofNat 32 y.2)))
        let cs := (blocksOf x.fB m xs).map fun b => if k = 1 then signCode x.fLg b else ternCode b
        let ds := cs.flatMap (·.decs)
        let r' := (xs.zip ds).map fun y => (ne32 (addE false (dec32 y.1) (dec32 y.2).flip)).toNat
        match ((s.spaceHasRead x.tenant va (4 * m)).spaceHasRead x.tenant ra (4 * m)).elemWrite x.tenant ra 32 0 r' 2 with
        | (s, some st) => (s, .error st)
        | (s, none) => (s, .ok (codeImage k x.fB cs, ds))
      | .error st, _ => (s, .error st)
      | _, .error st => (s, .error st)

/-- Decode an image of n elements by D (R371), up to the first block that holds a code 10: the values before
it, and whether there was one. -/
def decodeImage (k b n : Nat) (bs : List Byte) : List Word × Bool :=
  let nb := n / b
  let hd := (2 * nb + 15) / 16 * 16
  let blk (i : Nat) : List (Option Word) :=
    let s := leNat ((bs.drop (2 * i)).take 2)
    let cs := elemsOf k b 0 ((bs.drop (hd + i * (b * k / 8))).take (b * k / 8))
    cs.map fun c =>
      if k = 1 then some (widen s (c == 1))
      else if c = 2 then none
      else if s % 2 ^ 15 > 0x7F80 then some canonNan
      else if c = 0 then some 0#32 else some (widen s (c == 3))
  let bl := (List.range nb).map blk
  let good := bl.takeWhile fun b => b.all (·.isSome)
  (good.flatten.map fun o => o.getD 0#32, decide (good.length < nb))

/-- Add a received value to a local one in a reduction's type (R251). -/
def redAdd (dtype x y : Nat) : Nat :=
  if dtype = 0 then (ne32 (addE false (dec32 (BitVec.ofNat 32 x)) (dec32 (BitVec.ofNat 32 y)))).toNat
  else if dtype = 1 then neBf (addE false (decodeF bf16 x) (decodeF bf16 y))
  else (x + y) % 2 ^ 32

/-- The format codes a reduction takes: FP32, BF16 and INT32. -/
def redType (f : Nat) : Bool := f == 0 || f == 1 || f == 0x0A

/-! ### Messages (spec/21_collectives.md R369) -/

/-- A reduction result for a die of another device (spec/27_fabric.md R447). -/
def resultPacket (dev typ : Nat) (m : Msg) : Packet :=
  let t : Tag := { group := m.group, stream := m.stream, seq := m.seq, chunk := m.src, who := m.die, root := 0, op := 0 }
  { kind := 10, vc := kindVc 10, typ := typ, coded := false, len := m.data.length, src := dev, tenant := m.tenant, dst := m.dev,
    ctx := 0, seq := 0, addr := t.addr, opn := t.opn, bmask := t.bmask, arg := t.arg, data := m.data }

/-- A message leaves a die's clearing engine: over the die links, or over the fabric. A destination device that is not
in the domain is no fault of the step (notes/assumptions/68.md). -/
def State.emit (s : State) (d typ : Nat) (msg : Msg) : State :=
  let s := if msg.dev = s.dev then { s with msgs := s.msgs ++ [msg] }
    else if msg.kind = 3 then s.transmit (resultPacket s.dev typ msg)
    else
      let (id, s) := s.newId
      let s := { s with msgs := s.msgs ++ [{ msg with req := id }] }
      let ps := blocksOf 4096 (msg.data.length / 4096 + 2) (msgBytes msg)
      let send (s : State) (q : List Byte × Nat) : State :=
        let r : Sent := { tenant := msg.tenant, dest := msg.dev, kind := 5, op := id, typ := typ, data := q.1,
                          arg := 1 + 2 ^ 8 * msg.die + (if q.2 + 1 < ps.length then 2 ^ 16 else 0) }
        s.request (192 + d) r
      (ps.zip (List.range ps.length)).foldl send s
  s.countDie d 8 msg.tenant 1

/-- Send a message to a rank of a group, its data marked with the type of its raw elements. -/
def State.sendMsg (s : State) (x : Coll) (rank rk chan kind count typ : Nat) (data : List Byte) : State :=
  match s.group x with
  | none => s
  | some g =>
    let m := g.members.getD rk (0, 0)
    s.emit s.cur.core typ
      { dev := m.1, die := m.2, tenant := x.tenant, group := x.fGroup, stream := x.fStream, seq := x.seq,
        src := rank, chan := chan, kind := kind, count := count, data := data }

/-- Whether a message is for a collective, from a rank, on a channel. -/
def Msg.isFor (m : Msg) (dev d : Nat) (x : Coll) (frm chan : Nat) : Bool :=
  m.dev == dev && m.die == d && m.tenant == x.tenant && m.group == x.fGroup && m.stream == x.fStream && m.seq == x.seq
    && m.src == frm && m.chan == chan && m.kind != 3

/-- The next message from a rank on a channel, once it has arrived; it leaves the inbox. -/
def State.takeMsg (s : State) (x : Coll) (frm chan : Nat) : Option (Msg × State) :=
  match s.msgs.find? fun m => m.isFor s.dev s.cur.core x frm chan with
  | none => none
  | some m => if m.arrived then some (m, { s with msgs := s.msgs.erase m }) else none

def immK (i : BitVec 15) : Nat := bitsOf i.toNat 14 13
def immChan (i : BitVec 15) : Nat := bitsOf i.toNat 12 9
def immRole (i : BitVec 15) : Nat := bitsOf i.toNat 8 5

/-- m elements from an address lie within SRC to SRC + COUNT × size. -/
def Coll.inSrc (x : Coll) (va m : Nat) : Bool :=
  decide (x.fSrc ≤ va ∧ va + x.bytes m ≤ x.fSrc + x.bytes x.fCount)

/-- Send m elements from number i past an address, raw or coded. -/
def State.sendElems (s : State) (x : Coll) (rank rk va i m k chan role base : Nat) : State × Option Nat :=
  if k = 0 then
    match s.elemRead x.tenant va x.width i m with
    | .error st => (s, some st)
    | .ok es =>
      ((s.spaceHasRead x.tenant (va + x.bytes i) (x.bytes m)).sendMsg x rank rk chan 0 m (typOf x.fDtype) (leBytes (x.bytes m) (packElems x.width es)),
       none)
  else
    match s.code x k role (va + 4 * i) m base with
    | (s, .error st) => (s, some st)
    | (s, .ok r) => (s.sendMsg x rank rk chan k m 0 r.1, none)

/-- What a received message does at element i past an address: written, or added. -/
def State.applyMsg (s : State) (x : Coll) (g : Msg) (va i m k : Nat) (add : Bool) : State × Option Nat :=
  if g.count ≠ m ∨ g.kind ≠ k then (s, some stRange)
  else if k ≠ 0 ∧ (x.fDtype ≠ 0 ∨ x.fComp ≠ k ∨ m % x.fB ≠ 0) then (s, some stRange)
  else
    let (xs, code) : List Nat × Bool :=
      if k = 0 then (elemsOf x.width m 0 g.data, false)
      else let r := decodeImage k x.fB m g.data; (r.1.map (·.toNat), r.2)
    match (if add then (match s.elemRead x.tenant va x.width i xs.length with
        | .error st => .error st
        | .ok ys => .ok ((xs.zip ys).map fun y => redAdd x.fDtype y.1 y.2)) else .ok xs : Except Nat (List Nat)) with
    | .error st => (s, some st)
    | .ok zs =>
      let s := if add then s.spaceHasRead x.tenant (va + x.bytes i) (x.bytes zs.length) else s
      match s.elemWrite x.tenant va x.width i zs (typOf x.fDtype) with
      | (s, some st) => (s, some st)
      | (s, none) => (s, if code then some stCode else none)

/-! ### The instructions (R250 to R252) -/

/-- The address ra + Sext(IMM15). -/
def Clear.ea (c : Clear) (o : C1Ops) : Nat := modW 64 ((c.reg o.ra : Int) + sext 15 o.imm.toNat)

/-- CLD. -/
def execCld (o : C1Ops) (s : State) : Host.Outcome State Fault Refusal :=
  s.clearing fun c x =>
    let a := c.ea o
    if a % 8 ≠ 0 then s.clearEnd stRange
    else match s.spaceRead x.tenant a 8 with
      | .error st => s.clearEnd st
      | .ok bs => (s.spaceHasRead x.tenant a 8).setClear (c.setReg o.rd (leNat bs)).step

/-- CST of the clearing processor. -/
def execClearingCst (o : C1Ops) (s : State) : Host.Outcome State Fault Refusal :=
  s.clearing fun c x =>
    let a := c.ea o
    if a % 8 ≠ 0 then s.clearEnd stRange
    else match s.spaceWrite x.tenant a (leBytes 8 (c.reg o.rb)) with
      | (s, some st) => s.clearEnd st
      | (s, none) => s.updClear (·.step)

/-- CADD. -/
def execCadd (o : C1Ops) (s : State) : Host.Outcome State Fault Refusal :=
  s.clearRegs fun c => (c.setReg o.rd (c.reg o.ra + c.reg o.rb)).step
/-- CSUB. -/
def execCsub (o : C1Ops) (s : State) : Host.Outcome State Fault Refusal :=
  s.clearRegs fun c => (c.setReg o.rd (c.reg o.ra + (2 ^ 64 - c.reg o.rb))).step
/-- CMOV. -/
def execCmov (o : C1Ops) (s : State) : Host.Outcome State Fault Refusal :=
  s.clearRegs fun c => (c.setReg o.rd (c.reg o.ra)).step
/-- CMOVI. -/
def execCmovi (o : C2Ops) (s : State) : Host.Outcome State Fault Refusal :=
  s.clearRegs fun c => (c.setReg o.rd (modW 64 (sext 23 o.imm.toNat))).step

/-- A branch by 4 × IMM23. -/
def Clear.branch (c : Clear) (i : BitVec 23) : Clear := { c with pc := modW 64 ((c.pc : Int) + 4 * sext 23 i.toNat) }
/-- CBNZ. -/
def execCbnz (o : C2Ops) (s : State) : Host.Outcome State Fault Refusal :=
  s.clearRegs fun c => if c.reg o.rd ≠ 0 then c.branch o.imm else c.step
/-- CBRA. -/
def execCbra (o : C2Ops) (s : State) : Host.Outcome State Fault Refusal := s.clearRegs fun c => c.branch o.imm

/-- CSEND returns once its source and residual bytes are read and written. -/
def execCsend (o : C1Ops) (s : State) : Host.Outcome State Fault Refusal :=
  s.clearStep fun c x =>
    let va := c.reg o.ra; let m := c.reg o.rb
    if c.size ≤ c.reg o.rd ∨ !x.inSrc va m then s.clearEnd stRange
    else match s.sendElems x c.rank (c.reg o.rd) va 0 m (immK o.imm) (immChan o.imm) (immRole o.imm) x.fSrc with
      | (s, some st) => s.clearEnd st
      | (s, none) => s.updClear (·.step)

/-- CRECV and CRED wait for their message. -/
def State.clearRecv (s : State) (o : C1Ops) (add : Bool) : Host.Outcome State Fault Refusal :=
  s.clearStep fun c x =>
    let va := c.reg o.ra; let m := c.reg o.rb
    let k := immK o.imm
    if c.size ≤ c.reg o.rd ∨ !x.inSrc va m ∨ (add = true ∧ !redType x.fDtype) ∨ (k ≠ 0 ∧ (x.fDtype ≠ 0 ∨ x.fComp ≠ k ∨ m % x.fB ≠ 0)) then
      s.clearEnd stRange
    else match s.takeMsg x (c.reg o.rd) (immChan o.imm) with
      | none => s
      | some (g, s) =>
        match s.applyMsg x g va 0 m (immK o.imm) add with
        | (s, some st) => s.clearEnd st
        | (s, none) => s.updClear (·.step)
/-- CRECV. -/
def execCrecv (o : C1Ops) (s : State) : Host.Outcome State Fault Refusal := s.clearRecv o false
/-- CRED. -/
def execCred (o : C1Ops) (s : State) : Host.Outcome State Fault Refusal := s.clearRecv o true

/-- CCOMP writes a code image, or a raw image with k 0. -/
def execCcomp (o : C1Ops) (s : State) : Host.Outcome State Fault Refusal :=
  s.clearing fun c x =>
    let va := c.reg o.ra; let m := c.reg o.rb; let k := immK o.imm
    if !x.inSrc va m then s.clearEnd stRange
    else
      let (s, r) : State × Except Nat (List Byte) :=
        if k = 0 then (match s.elemRead x.tenant va x.width 0 m with
          | .error st => (s, .error st)
          | .ok es => (s.spaceHasRead x.tenant va (x.bytes m), .ok (leBytes (x.bytes m) (packElems x.width es))))
        else (match s.code x k (immRole o.imm) va m x.fSrc with
          | (s, .error st) => (s, .error st)
          | (s, .ok r) => (s, .ok r.1))
      match r with
      | .error st => s.clearEnd st
      | .ok bs => match s.spaceWrite x.tenant (c.reg o.rd) bs (if k = 0 then typOf x.fDtype else 0) with
        | (s, some st) => s.clearEnd st
        | (s, none) => s.updClear (·.step)

/-- A flat address of a signal or wait, or the status that ends the collective. -/
def State.clearFlat (s : State) (x : Coll) (va align : Nat) (need : Need) : Except Nat Nat :=
  if va % align ≠ 0 then .error stRange
  else match s.hubTranslate x.tenant va need with
    | .error _ => .error stTranslation
    | .ok pa => if isFlat pa then .ok pa else .error stTranslation

/-- CSIG.fe: an STF of 4 bytes. -/
def execCsigFe (o : C1Ops) (s : State) : Host.Outcome State Fault Refusal :=
  s.clearing fun c x =>
    let va := c.reg o.ra
    match s.clearFlat x va 4 .wr with
    | .error st => s.clearEnd st
    | .ok pa => (s.engineWrite x.tenant va pa (leBytes 4 (c.reg o.rb))).updClear (·.step)

/-- CSIG.ab: bytes to the async barrier. -/
def execCsigAb (o : C1Ops) (s : State) : Host.Outcome State Fault Refusal :=
  s.clearing fun c x =>
    let va := c.reg o.ra
    match s.clearFlat x va 16 .wr with
    | .error st => s.clearEnd st
    | .ok pa =>
      if s.bad pa 16 then s.clearEnd stData
      else (s.abDeliver x.tenant va pa (c.reg o.rb)).wakeAb.updClear (·.step)

/-- CWAIT.fe: an LDF.clr of 4 bytes, queued at its granule until it is served. -/
def execCwaitFe (o : C1Ops) (s : State) : Host.Outcome State Fault Refusal :=
  s.clearStep fun c x =>
    let take (s : State) (v : Nat) : State :=
      if v = 2 ^ 32 then s.clearEnd stData
      else s.setClear ({ c with got := none, asked := false } |>.setReg o.rd v).step
    match c.got with
    | some v => take s v
    | none =>
      if c.asked then s
      else match s.clearFlat x (c.reg o.ra) 4 .rd with
        | .error st => s.clearEnd st
        | .ok pa =>
          let g := pa / 16
          if s.isFull g then
            if s.bad pa 4 then s.clearEnd stData else take (s.empty g) (s.rdN pa 4)
          else
            { s.setClear { c with asked := true } with
              ldfq := s.ldfq ++ [⟨g, clearKey s.cur.core s.cur.slot, pa, true⟩] }

/-- CWAIT.ph: waits while the phase equals rd[0]. -/
def execCwaitPh (o : C1Ops) (s : State) : Host.Outcome State Fault Refusal :=
  s.clearStep fun c x =>
    match s.clearFlat x (c.reg o.ra) 16 .rd with
    | .error st => s.clearEnd st
    | .ok pa =>
      let b := s.abRead pa
      if s.bad pa 16 then s.clearEnd stData
      else if b.malformed then s.clearEnd stRange
      else if b.phase == bitOf (c.reg o.rd) 0 then s
      else s.setClear c.step

/-! ### Switch reductions (spec/21_collectives.md R379) -/

/-- First element and length of chunk k of n (R375). -/
def chunkAt (count n k : Nat) : Nat × Nat := (k * count / n, (k + 1) * count / n - k * count / n)
/-- The owner of the member chunk that holds an element. -/
def chunkOwner (count n e : Nat) : Nat :=
  ((List.range n).find? fun k => decide ((chunkAt count n k).1 ≤ e ∧ e < (chunkAt count n k).1 + (chunkAt count n k).2)).getD 0
/-- Whether a rank receives the result of a slot chunk. -/
def Coll.getsResult (x : Coll) (n rank chunk : Nat) : Bool := x.fOp != 1 || chunkOwner x.fCount n (256 * chunk) == rank

/-- The rank of a slot chunk's root (R379). -/
def rootOf (op count size chunk : Nat) : Nat := if op = 1 then chunkOwner count size (256 * chunk) else chunk % max 1 size
/-- A member's contribution sets out for its slot, as a request that names the device of the slot chunk's root; on a device
without a Mbovas plane it is at once where contributions wait (notes/assumptions/47.md). -/
def State.contribute (s : State) (x : Coll) (c : Clear) (chunk : Nat) (data : List Byte) : State :=
  let root := rootOf x.fOp x.fCount c.size chunk
  let p : Push := { tenant := x.tenant, group := x.fGroup, stream := x.fStream, seq := tagSeq x.seq, chunk := chunk, rank := c.rank,
                    dtype := x.fDtype, size := c.size, op := x.fOp, root := root, data := data }
  let t : Tag := { group := x.fGroup, stream := x.fStream, seq := x.seq, chunk := chunk, who := c.rank, root := root, op := x.fOp }
  let s := s.updClear fun c => { c with sent := c.sent ++ [chunk] }
  if s.planes.isEmpty then { s with pushes := s.pushes ++ [p] }
  else
    let dest := match s.group x with | none => s.dev | some g => (g.members.getD root (s.dev, 0)).1
    s.request (192 + s.cur.core) { tenant := x.tenant, dest := dest, kind := 4, op := x.cmd, addr := t.addr, opn := t.opn, bmask := t.bmask,
                                   arg := t.arg, typ := typOf x.fDtype, data := data }

/-- The result of a slot chunk that has reached this die. -/
def State.takeResult (s : State) (x : Coll) (chunk : Nat) : Option (List Byte × State) :=
  match s.msgs.find? fun m => m.kind == 3 && m.arrived && m.dev == s.dev && m.die == s.cur.core && m.tenant == x.tenant
      && m.group == x.fGroup && m.stream == x.fStream && m.seq == tagSeq x.seq && m.src == chunk with
  | none => none
  | some m => some (m.data, { s with msgs := s.msgs.erase m })

/-- CSWRED contributes once, then writes the chunk's result when it is complete. -/
def execCswred (o : C1Ops) (s : State) : Host.Outcome State Fault Refusal :=
  s.clearStep fun c x =>
    let chunk := c.reg o.rd; let va := c.reg o.ra; let m := c.reg o.rb
    if !redType x.fDtype ∨ !x.inSrc va m ∨ 256 < m then s.clearEnd stRange
    else if !c.sent.contains chunk then
      match s.spaceRead x.tenant va (x.bytes m) with
      | .error st => s.clearEnd st
      | .ok bs =>
        let s := (s.spaceHasRead x.tenant va (x.bytes m)).contribute x c chunk bs
        if x.getsResult c.size c.rank chunk then s else s.updClear (·.step)
    else match s.takeResult x chunk with
      | none => s
      | some (bs, s) =>
        match s.spaceWrite x.tenant va (bs.take (x.bytes m)) (typOf x.fDtype) with
        | (s, some st) => s.clearEnd st
        | (s, none) => s.setClear { c.step with sent := c.sent.erase chunk }

/-- CEND: a status that R213 does not list is written as RANGE. -/
def execCend (o : C2Ops) (s : State) : Host.Outcome State Fault Refusal :=
  s.clearing fun _ _ =>
    let st := o.imm.toNat % 2 ^ 16
    s.clearEnd (if st ≤ stMismatch then st else stRange)

end Sys2Proof.Machine
end

