-- ==== Sys2Proof/Machine/Sha.lean ====
section
/-! DEFINITION. Machine/Sha.lean: SHA-256 (FIPS 180-4), which spec/26_faults_checkpoint.md R437 and
spec/28_system.md R459 name. The whole hash state is one number of 256 bits, its first word highest. -/

namespace Sys2Proof.Machine

open Sys2Proof

namespace Sha

/-- The round constants, the first highest. -/
def consts : Nat :=
  0x428a2f9871374491b5c0fbcfe9b5dba53956c25b59f111f1923f82a4ab1c5ed5d807aa9812835b01243185be550c7dc372be5d7480deb1fe9bdc06a7c19bf174e49b69c1efbe47860fc19dc6240ca1cc2de92c6f4a7484aa5cb0a9dc76f988da983e5152a831c66db00327c8bf597fc7c6e00bf3d5a7914706ca63511429296727b70a852e1b21384d2c6dfc53380d13650a7354766a0abb81c2c92e92722c85a2bfe8a1a81a664bc24b8b70c76c51a3d192e819d6990624f40e3585106aa07019a4c1161e376c082748774c34b0bcb5391c0cb34ed8aa4a5b9cca4f682e6ff3748f82ee78a5636f84c878148cc7020890befffaa4506cebbef9a3f7c67178f2
/-- The initial state. -/
def start : Nat := 0x6a09e667bb67ae853c6ef372a54ff53a510e527f9b05688c1f83d9ab5be0cd19

/-- Word i of a number of n words, the first highest. -/
def at_ (n x i : Nat) : Word := BitVec.ofNat 32 (x / 2 ^ (32 * (n - 1 - i)))
/-- Three rotations of a word, the last of them a shift where `sh` says so. -/
def mix (x : Word) (i j k : Nat) (sh : Bool) : Word :=
  (if sh then x >>> k else x.rotateRight k) ^^^ x.rotateRight j ^^^ x.rotateRight i

/-- The message schedule as the last 16 words, one number; a step drops the first and appends the next. -/
def nextSched (w : Nat) : Nat :=
  let new := mix (at_ 16 w 14) 17 19 10 true + at_ 16 w 9 + mix (at_ 16 w 1) 7 18 3 true + at_ 16 w 0
  w % 2 ^ 480 * 2 ^ 32 + new.toNat

/-- One round on the state: two words are new, the others move one place on. -/
def turn (h : Nat) (kw : Word) : Nat :=
  let x := at_ 8 h
  let p := x 7 + kw + mix (x 4) 6 11 25 false + ((x 5 ^^^ x 6) &&& x 4 ^^^ x 6)
  let q := mix (x 0) 2 13 22 false + ((x 0 ||| x 1) &&& x 2 ||| (x 0 &&& x 1))
  (p + q).toNat * 2 ^ 224 + h / 2 ^ 160 * 2 ^ 128 + (x 3 + p).toNat * 2 ^ 96 + h / 2 ^ 32 % 2 ^ 96

/-- The rounds from number i on. -/
def turns : Nat → Nat → Nat → Nat → Nat
  | 0, _, _, h => h
  | n + 1, i, w, h => turns n (i + 1) (nextSched w) (turn h (at_ 64 consts i + at_ 16 w 0))

/-- Words added place by place. -/
def addWords (a b : Nat) : Nat := (List.range 8).foldl (fun n i => n * 2 ^ 32 + (at_ 8 a i + at_ 8 b i).toNat) 0

/-- A byte string as a number, its first byte highest. -/
def big (bs : List Byte) : Nat := leNat bs.reverse

/-- The 32-byte digest. -/
def sha256 (bs : List Byte) : List Byte :=
  let msg := bs ++ 0x80#8 :: List.replicate ((119 - bs.length % 64) % 64) 0#8 ++ (leBytes 8 (8 * bs.length)).reverse
  let h := (blocksOf 64 (msg.length / 64) msg).foldl (fun h b => addWords h (turns 64 0 (big b) h)) start
  (leBytes 32 h).reverse

end Sha

end Sys2Proof.Machine
end

