-- ==== Sys2Proof/Machine/Collective.lean ====
section
/-! DEFINITION. Machine/Collective.lean: collectives from start to end: the checks of the block, the built-in
algorithms, casts and restores, messages, reduction slots and ends
(spec/10_system_clearing_isa.md R249, R254, R255, spec/21_collectives.md R368 to R384,
spec/26_faults_checkpoint.md R436 to R439, spec/09_engine_isa.md R232). -/

namespace Sys2Proof.Machine

open Sys2Proof

/-! ### The checks of a block (R254, R375, R436) -/

def isPow2 (n : Nat) : Bool := n != 0 && 2 ^ Nat.log2 n == n

/-- The status that ends a collective before it runs, for a group of n members. -/
def State.collCheck (s : State) (x : Coll) (n : Nat) : Option Nat :=
  let f (o k : Nat) : Nat := blockField x.block o k
  let op := x.fOp; let algo := x.fAlgo; let comp := x.fComp
  let resid := x.fResid
  let haveResid := s.resids.any fun r => r.handle == resid && r.tenant == x.tenant
  if !WellFormed.fmtAssigned x.fDtype then some stFormat
  else if 6 < op ∨ 2 < comp ∨ 3 < f 3 1 ∨ 3 < algo ∨ 5 < f 5 1 ∨ f 6 2 ≠ 0 ∨ f 0x3E 2 ≠ 0 ∨ f 0x44 4 ≠ 0 ∨ f 0x78 8 ≠ 0
      ∨ bitsOf x.fBar 30 18 ≠ 0 ∨ (bitOf x.fBar 31 ∧ x.lsize ≤ 16 * bitsOf x.fBar 17 0)
      ∨ x.fCount = 0 ∨ 2 ^ 40 < x.fCount
      ∨ (comp ≠ 0 ∧ (x.fDtype ≠ 0 ∨ 1 < op ∨ resid = 0 ∨ algo = 2)) ∨ resid / 2 ^ 32 ≠ 0 ∨ (resid ≠ 0 ∧ !haveResid)
      ∨ (op ≤ 1 ∧ !redType x.fDtype)
      ∨ (if algo = 3 then x.fProg % 4 ≠ 0 else x.fProg ≠ 0)
      ∨ (5 ≤ op ∧ (algo ≠ 0 ∨ comp ≠ 0 ∨ f 3 1 ≠ 0 ∨ f 5 1 ≠ 0)) ∨ (op = 5 ∧ x.fDst % 128 ≠ 0) ∨ (op = 6 ∧ x.fSrc % 128 ≠ 0)
      ∨ (op = 2 ∧ algo = 2) ∨ ((op = 3 ∨ op = 4) ∧ (algo = 1 ∨ algo = 2)) ∨ (op = 3 ∧ n ≤ x.fRoot)
      ∨ (algo = 1 ∧ !isPow2 n) ∨ (algo ≠ 3 ∧ comp ≠ 0 ∧ x.fCount % (n * x.fB) ≠ 0)
      ∨ (op = 4 ∧ algo = 0 ∧ x.fCount % n ≠ 0)
  then some stRange else none

/-! ### The steps of the built-in algorithms (R375 to R379, spec/26_faults_checkpoint.md R438, R439) -/

/-- Ring, member m of n (R376). -/
def ringSteps (count n m code : Nat) (gather : Bool) : List BOp :=
  let ch (k : Nat) : Nat × Nat := chunkAt count n (k % n)
  let nx := (m + 1) % n; let pv := (m + n - 1) % n
  let rs := (List.range (n - 1)).flatMap fun h =>
    let a := ch (m + 2 * n - h - 1); let b := ch (m + 2 * n - h - 2)
    [BOp.send nx a.1 a.2 code 0, .recvAdd pv b.1 b.2 code]
  let ga := [BOp.own m (ch m).1 (ch m).2 code 1, .fwd nx m] ++ (List.range (n - 1)).flatMap fun i =>
    let h := i + 1; let k := (m + n - h) % n
    BOp.keep pv k (ch k).1 (ch k).2 code :: (if h < n - 1 then [BOp.fwd nx k] else [])
  rs ++ (if gather then ga else [])

/-- Doubling over pieces k at first element and length p k (R378). -/
def doubling (l m code : Nat) (p : Nat → Nat × Nat) : List BOp :=
  (List.range l).flatMap fun i =>
    let hs := 2 ^ i; let q := m ^^^ hs
    let mine := m / hs * hs; let its := q / hs * hs
    ((List.range hs).map fun j => BOp.fwd q (mine + j))
      ++ (List.range hs).map fun j => BOp.keep q (its + j) (p (its + j)).1 (p (its + j)).2 code

/-- Halving-doubling, member m of n = 2^l (R378). -/
def halvingSteps (count n m code : Nat) (gather : Bool) : List BOp :=
  let l := Nat.log2 n
  let rng (k hs : Nat) : Nat × Nat := (k * count / n, (k + hs) * count / n - k * count / n)
  let halve := (List.range l).flatMap fun j =>
    let hs := 2 ^ (l - 1 - j); let q := m ^^^ hs
    let a := rng (q / hs * hs) hs; let b := rng (m / hs * hs) hs
    [BOp.send q a.1 a.2 code 0, .recvAdd q b.1 b.2 code]
  let c := chunkAt count n m
  halve ++ (if gather then BOp.own m c.1 c.2 code 1 :: doubling l m code (chunkAt count n) else [])

/-- The steps of member m of n. -/
def Coll.steps (x : Coll) (n m : Nat) : List BOp :=
  let count := x.fCount; let code := x.fComp
  let nx := (m + 1) % n; let pv := (m + n - 1) % n
  let others := (List.range n).filter (· != m)
  match x.fOp with
  | 0 | 1 =>
    let ga := x.fOp == 0
    .copy 0 :: (match x.fAlgo with
      | 0 => ringSteps count n m code ga
      | 1 => halvingSteps count n m code ga
      | _ =>
        let q := (count + 255) / 256
        ((List.range q).map BOp.contribute) ++ (((List.range q).filter fun k => x.getsResult n m k).map BOp.await))
  | 2 =>
    let p (k : Nat) : Nat × Nat := (k * count, count)
    [.copy (m * count), .own m (m * count) count 0 0] ++
      (if x.fAlgo = 1 then doubling (Nat.log2 n) m 0 p
       else BOp.fwd nx m :: (List.range (n - 1)).flatMap fun i =>
         let h := i + 1; let k := (m + n - h) % n
         BOp.keep pv k (p k).1 count 0 :: (if h < n - 1 then [BOp.fwd nx k] else []))
  | 3 =>
    let r := x.fRoot
    if m = r then [.copy 0, .own r 0 count 0 0, .fwd nx r]
    else BOp.keep pv r 0 count 0 :: (if nx = r then [] else [BOp.fwd nx r])
  | 4 =>
    let b := count / n
    .copy 0 :: (others.map fun j => BOp.sendSrc j (j * b) b) ++ others.map fun j => BOp.recv j (j * b) b 0
  | 5 => .castWrite :: (others.map BOp.agree) ++ others.map BOp.agreeFrom
  | _ => .restoreCheck :: (others.map BOp.agree) ++ (others.map BOp.agreeFrom) ++ [.restoreWrite]

/-! ### Shards (spec/26_faults_checkpoint.md R437 to R439) -/

/-- Data bytes of a shard. -/
def Coll.shardBytes (x : Coll) : Nat := (x.bytes x.fCount + 15) / 16 * 16
def State.residOf (s : State) (x : Coll) : Option Resid :=
  s.resids.find? fun r => r.handle == x.fResid && r.tenant == x.tenant
/-- Where role 0 of a stream starts in a residual object. -/
def Resid.start (r : Resid) (stream : Nat) : Nat := 4 * (stream * r.nrole * r.elems)

/-- Header bytes 0x00 to 0x3F. -/
def shardHeader (dtype job step rank n count nrole stream elems plen : Nat) : List Byte :=
  leBytes 4 0xCA570001 ++ leBytes 2 1 ++ leBytes 1 dtype ++ leBytes 1 0 ++ leBytes 8 job ++ leBytes 8 step
    ++ leBytes 4 rank ++ leBytes 4 n ++ leBytes 8 count ++ leBytes 4 nrole ++ leBytes 4 stream ++ leBytes 8 elems
    ++ leBytes 8 plen
def shardHead (x : Coll) (rank n nrole elems plen : Nat) : List Byte :=
  shardHeader x.fDtype x.fJob x.fStep rank n x.fCount nrole x.fStream elems plen

/-- The physical address of an offset in a residual object, by the pages the hypervisor recorded
(spec/26_faults_checkpoint.md R436). -/
def Resid.at_ (r : Resid) (off : Nat) : Nat := r.pages.getD (off / 65536) 0 + off % 65536
/-- Read n bytes of a residual object page by page. -/
def State.residGo (s : State) (r : Resid) : Nat → Nat → Nat → Except Nat (List Byte)
  | 0, _, _ => .ok []
  | k + 1, off, n =>
    if n = 0 then .ok []
    else
      let m := min n (65536 - off % 65536); let pa := r.at_ off
      match s.jobRead pa m with
      | .error e => .error e
      | .ok v => match State.residGo s r k (off + m) (n - m) with
        | .error e => .error e
        | .ok bs => .ok (leBytes m v ++ bs)
def State.residRead (s : State) (r : Resid) (off n : Nat) : Except Nat (List Byte) := s.residGo r (n / 65536 + 2) off n
/-- Write bytes of a residual object page by page. -/
def State.residWGo (r : Resid) : Nat → State → Nat → List Byte → State
  | 0, s, _, _ => s
  | k + 1, s, off, bs =>
    if bs.isEmpty then s
    else
      let m := 65536 - off % 65536
      State.residWGo r k (s.engineWrite r.tenant (r.base + off) (r.at_ off) (bs.take m)) (off + m) (bs.drop m)
def State.residWrite (s : State) (r : Resid) (off : Nat) (bs : List Byte) : State :=
  State.residWGo r (bs.length / 65536 + 2) s off bs

/-- The roles and elements of a cast's residuals, none without an object (R436). -/
def State.castShape (s : State) (x : Coll) : Except Nat (Nat × Nat) :=
  match s.residOf x with
  | none => .ok (0, 0)
  | some r => if r.nstream ≤ x.fStream then .error stRange else .ok (r.nrole, r.elems)
/-- Bytes lo to lo + n − 1 of a cast's payload: data, then free values up to a multiple of 16, then residuals. -/
def State.castBytes (s : State) (x : Coll) (lo n : Nat) : Except Nat (List Byte) :=
  let d := x.bytes x.fCount; let p := x.shardBytes; let hi := lo + n
  let fill := (List.range (min hi p - max lo d)).map fun i => BitVec.ofNat 8 (Config.freeValue (s.fresh + i)).toNat
  match s.spaceRead x.tenant (x.fSrc + lo) (min hi d - lo) with
  | .error e => .error e
  | .ok a =>
    match s.residOf x with
    | none => .ok (a ++ fill)
    | some r => match s.residRead r (r.start x.fStream + (lo - p)) (hi - max lo p) with
      | .error e => .error e
      | .ok b => .ok (a ++ fill ++ b)
/-- How much of a payload one step of a cast reads and writes, 4 to 256 bytes by a free value, so that each word may be old or
new (R438, spec/15_memory_model.md R318; notes/assumptions/5.md). -/
def castStep (x : Word) : Nat := 256 - 4 * (x.toNat % 64)
/-- One step of a member's cast: the next part of the payload, or, after the last, the header; the second result tells
whether the shard is whole. What has been written is kept for the digest. -/
def State.castWrite (s : State) (c : Clear) (x : Coll) : State × Option Nat × Bool :=
  match s.castShape x with
  | .error e => (s, some e, false)
  | .ok (nrole, elems) =>
    let done := match c.kept.find? (·.1 == 0) with | none => [] | some g => g.2.data
    let lo := done.length; let total := x.shardBytes + nrole * 4 * elems
    if lo < total then
      let (v, t) := s.free
      let n := min (castStep v) (total - lo)
      match t.castBytes x lo n with
      | .error e => (s, some e, false)
      | .ok bs =>
        let s := { t.spaceHasRead x.tenant (x.fSrc + lo) (min (lo + n) (x.bytes x.fCount) - lo) with fresh := t.fresh + n }
        let (s, st) := s.spaceWrite x.tenant (x.fDst + 128 + lo) bs
        let g : Msg := { dev := 0, die := 0, tenant := 0, group := 0, stream := 0, seq := 0, src := 0, chan := 0, kind := 0, count := 0,
                         data := done ++ bs }
        (s.updClear fun c => { c with kept := fset c.kept 0 g }, st, false)
    else
      let h := shardHead x c.rank c.size nrole elems total
      let r := s.spaceWrite x.tenant x.fDst (h ++ Sha.sha256 (h ++ done) ++ List.replicate 32 0#8)
      (r.1, r.2, true)

/-- The check of a shard: its failing status, and its step; or what ends the collective at once. -/
def State.restoreCheck (s : State) (c : Clear) (x : Coll) : Except Nat (Nat × Nat) :=
  match s.spaceRead x.tenant x.fSrc 128 with
  | .error e => .error e
  | .ok hb =>
    let h := leNat hb
    let step := blockField h 0x10 8
    let (nrole, elems, ok) := match s.residOf x with
      | none => (0, 0, true)
      | some r => (r.nrole, r.elems, decide (x.fStream < r.nstream))
    let plen := x.shardBytes + nrole * 4 * elems
    let want := leNat (shardHead x c.rank c.size nrole elems plen)
    let same := decide (h % 2 ^ (8 * 0x10) = want % 2 ^ (8 * 0x10)) && blockField h 0x18 0x20 == blockField want 0x18 0x20
      && blockField h 0x60 32 == 0 && ok
    if !same then .ok (stRange, step)
    else
      match s.spaceRead x.tenant (x.fSrc + 128) plen with
      | .error e => .error e
      | .ok pay =>
        if Sha.sha256 (hb.take 0x40 ++ pay) ≠ (hb.drop 0x40).take 32 then .ok (stCode, step)
        else if x.fStep ≠ 2 ^ 64 - 1 ∧ x.fStep ≠ step then .ok (stMismatch, step)
        else .ok (stOk, step)

/-- What the members agree on (R439). -/
def agreedStatus (xs : List (Nat × Nat)) : Nat :=
  if xs.any (·.1 == stRange) then stRange
  else if xs.any (·.1 == stCode) then stCode
  else if xs.any (·.1 == stMismatch) then stMismatch
  else if xs.any (fun a => xs.any fun b => a.2 != b.2) then stMismatch else stOk

/-- The writes of a restore all of whose members agree. -/
def State.restoreWrite (s : State) (x : Coll) : State × Option Nat :=
  let n := x.bytes x.fCount
  match s.spaceRead x.tenant (x.fSrc + 128) n with
  | .error e => (s, some e)
  | .ok bs =>
    match s.spaceWrite x.tenant x.fDst bs (typOf x.fDtype) with
    | (s, some e) => (s, some e)
    | (s, none) =>
      match s.residOf x with
      | none => (s, none)
      | some r =>
        match s.spaceRead x.tenant (x.fSrc + 128 + x.shardBytes) (r.nrole * 4 * r.elems) with
        | .error e => (s, some e)
        | .ok rs => (s.residWrite r (r.start x.fStream) rs, none)

/-! ### One step of a built-in algorithm -/

/-- A step that waits changes nothing; the others end with a status or leave the rest of the list. -/
def State.stepDone (r : State × Option Nat) (rest : List BOp) : State :=
  match r with
  | (s, some st) => s.clearEnd st
  | (s, none) => if rest.isEmpty then s.clearEnd stOk else s.updClear fun c => { c with todo := rest }

/-- Receive from a rank, and go on with the message. -/
def State.withMsg (s : State) (x : Coll) (frm : Nat) (f : Msg → State → State) : State :=
  match s.takeMsg x frm 0 with | none => s | some (g, s) => f g s

def State.builtinStep (s : State) (c : Clear) (x : Coll) (b : BOp) (rest : List BOp) : State :=
  let t := x.tenant; let w := x.width; let dst := x.fDst
  let msg (f : Unit → State) : State := match s.stepEnds c x with | some st => s.clearEnd st | none => f ()
  match b with
  | .copy first =>
    (match s.elemRead t x.fSrc w 0 x.fCount with
     | .error e => s.clearEnd e
     | .ok es => State.stepDone ((s.spaceHasRead t x.fSrc (x.bytes x.fCount)).elemWrite t dst w first es (typOf x.fDtype)) rest)
  | .send rk first count code role => msg fun _ =>
      State.stepDone (s.sendElems x c.rank rk dst first count code 0 role dst) rest
  | .sendSrc rk first count => msg fun _ => State.stepDone (s.sendElems x c.rank rk x.fSrc first count 0 0 0 dst) rest
  | .recvAdd frm first count code => msg fun _ => s.withMsg x frm fun g s =>
      State.stepDone (s.applyMsg x g dst first count code true) rest
  | .recv frm first count code => msg fun _ => s.withMsg x frm fun g s =>
      State.stepDone (s.applyMsg x g dst first count code false) rest
  | .own chunk first count code role =>
    let keep (s : State) (data : List Byte) : State := s.updClear fun c => { c with
      kept := fset c.kept chunk { dev := 0, die := 0, tenant := 0, group := 0, stream := 0, seq := 0, src := 0, chan := 0,
                                  kind := code, count := count, data := data } }
    if code = 0 then
      match s.elemRead t dst w first count with
      | .error e => s.clearEnd e
      | .ok es => State.stepDone (keep (s.spaceHasRead t (dst + x.bytes first) (x.bytes count))
          (leBytes (x.bytes count) (packElems w es)), none) rest
    else
      match s.code x code role (dst + 4 * first) count dst with
      | (s, .error e) => s.clearEnd e
      | (s, .ok (img, ds)) => State.stepDone ((keep s img).elemWrite t dst 32 first (ds.map (·.toNat)) 2) rest
  | .fwd rk chunk => msg fun _ =>
      match c.kept.find? (·.1 == chunk) with
      | none => State.stepDone (s, none) rest
      | some (_, g) => State.stepDone (s.sendMsg x c.rank rk 0 g.kind g.count (if g.kind = 0 then typOf x.fDtype else 0) g.data, none) rest
  | .keep frm chunk first count code => msg fun _ => s.withMsg x frm fun g s =>
      State.stepDone ((s.updClear fun c => { c with kept := fset c.kept chunk g }).applyMsg x g dst first count code false) rest
  | .contribute chunk => msg fun _ =>
      match s.elemRead t dst w (256 * chunk) (min 256 (x.fCount - 256 * chunk)) with
      | .error e => s.clearEnd e
      | .ok es => State.stepDone ((s.spaceHasRead t (dst + x.bytes (256 * chunk)) (x.bytes es.length)).contribute x c chunk
          (leBytes (x.bytes es.length) (packElems w es)), none) rest
  | .await chunk => msg fun _ =>
      match s.takeResult x chunk with
      | none => s
      | some (bs, s) => State.stepDone (s.spaceWrite t (dst + x.bytes (256 * chunk)) bs (typOf x.fDtype)) rest
  | .castWrite =>
    (match s.castWrite c x with
     | (s, some e, _) => s.clearEnd e
     | (s, none, false) => s
     | (s, none, true) => State.stepDone (s.updClear fun c => { c with agreed := [(stOk, 0)] }, none) rest)
  | .restoreCheck =>
    (match s.restoreCheck c x with
     | .error e => s.clearEnd e
     | .ok r => State.stepDone ((s.spaceHasRead t x.fSrc (128 + x.shardBytes)).updClear fun c => { c with agreed := [r] }, none) rest)
  | .agree rk => msg fun _ =>
      let r := c.agreed.headD (stOk, 0)
      State.stepDone (s.sendMsg x c.rank rk 0 0 10 0 (leBytes 2 r.1 ++ leBytes 8 r.2), none) rest
  | .agreeFrom frm => msg fun _ => s.withMsg x frm fun g s =>
      let r := (leNat (g.data.take 2), leNat (g.data.drop 2))
      State.stepDone (s.updClear fun c => { c with agreed := c.agreed ++ [r] }, none) rest
  | .restoreWrite =>
    let st := agreedStatus c.agreed
    if st ≠ stOk then s.clearEnd st else State.stepDone (s.restoreWrite x) rest

/-- A clearing processor acts, for the collective it runs. -/
def State.clearActs (s : State) (d p : Nat) : State :=
  { s with cur := { core := d, slot := p, src := 192 + d, job := (s.proc d p).coll.map (·.cmd) } }
/-- What a turn of a clearing processor leaves, from the state it found; a step that needs bytes of another unit waits for
them. -/
def State.clearOut (s t : State) (d p : Nat) : State :=
  match (s.proc d p).coll with
  | none => t
  | some x => (s.clearActs d p).jobStep t x.tenant (t.proc d p).ended

/-- A clearing processor's turn: an abort, a step of a built-in algorithm, or the instruction that is due
(R249, R252). -/
def State.clearTurn (s : State) (d p : Nat) : State × Option Instr :=
  let s := s.clearActs d p
  let c := s.clear
  match c.coll with
  | none => (s, none)
  | some x =>
    if c.ended.isSome || (s.die d).halted || s.posted x.cmd then (s, none)
    else if x.abort then (s.clearEnd stAborted, none)
    else if x.fAlgo ≠ 3 then
      (match c.todo with
       | [] => (s.clearEnd stOk, none)
       | b :: rest => (s.builtinStep c x b rest, none))
    else
      match s.hubTranslate x.tenant c.pc .ex with
      | .error _ => (s.clearEnd stTranslation, none)
      | .ok pa =>
        match s.jobRead pa 4 with
        | .error st => (s.clearEnd st, none)
        | .ok w => match Decode.clr (BitVec.ofNat 32 w) with
          | .error _ => (s.clearEnd stRange, none)
          | .ok i => (s, some i)

/-! ### Starting a collective (R255) -/

/-- Collectives of a die that run, with their processors. -/
def Die.running (k : Die) : List Coll := k.procs.filterMap (·.2.coll)

/-- The collective a free processor takes next: the oldest whose stream has no earlier one of its tenant live. -/
def Die.nextColl (k : Die) : Option Coll :=
  k.queue.find? fun x =>
    !(k.running.any fun y => y.tenant == x.tenant && y.fStream == x.fStream)
    && !((k.queue.takeWhile (· != x)).any fun y => y.tenant == x.tenant && y.fStream == x.fStream)
def Die.freeProc (k : Die) : Option Nat := (List.range 4).find? fun p => (fget ({} : Clear) k.procs p).coll.isNone

/-- COLLECTIVE_START on die arg.core: the first free processor takes the collective and its initial state; one
that fails its checks, or whose group has lost a member, ends without running. -/
def State.collectiveStart (s : State) (d : Nat) : State :=
  let k := s.die d
  if k.halted then s
  else match k.freeProc, k.nextColl with
  | some p, some x =>
    let k := { k with queue := k.queue.erase x }
    let s := ({ s with dies := fset s.dies d k } : State).acts d p (192 + d) x.cmd
    let base : Clear := { coll := some x }
    (match s.group x with
     | none => s.setClear { base with ended := some (if WellFormed.fmtAssigned x.fDtype then stRange else stFormat) }
     | some g =>
       let n := g.members.length
       let m := g.members.findIdx (· == (s.dev, d))
       if n ≤ m then s.setClear { base with ended := some (if WellFormed.fmtAssigned x.fDtype then stRange else stFormat) }
       else match s.collCheck x n with
         | some st => s.setClear { base with ended := some st }
         | none =>
           if g.lost then s.setClear { base with ended := some stLost }
           else
             let regs := [x.va, m, n, x.fSrc, x.fDst, x.fCount]
             s.setClear { base with
               c := (List.range 6).map fun i => (i, BitVec.ofNat 64 (regs.getD i 0)),
               pc := x.fProg, rank := m, size := n, todo := if x.fAlgo = 3 then [] else x.steps n m })
  | _, _ => s

/-- COLLECTIVE_START (R255). -/
def execCollectiveStart (s : State) : Host.Outcome State Fault Refusal := .next (s.collectiveStart s.arg.core)

/-! ### Ending a collective (R255, spec/09_engine_isa.md R232) -/

/-- COLLECTIVE_END on processor arg.idx of die arg.core: STATUS, the barrier, the retirement; held while its
workgroup is being saved, is saved or is being restored. -/
def State.collectiveEnd (s : State) (d p : Nat) : State :=
  let c := s.proc d p
  if (s.die d).halted then s
  else match c.coll, c.ended with
  | some x, some st =>
    if s.posted x.cmd then s else
    -- the processor is free; its registers hold their last values (spec/20_program_onebit.md R367)
    let s := s.setProc d p { c := c.c }
    let g := s.wg x.wg
    (match g.st with
     | .saving | .saved | .restoring =>
       s.updDie d fun k => { k with held := k.held ++
         [{ wg := x.wg, slot := x.slot, cmd := x.cmd, status := st, off := x.va - localVa x.core x.local_ 0, bar := x.fBar }] }
     | _ => s.endCmd g.core x.cmd st)
  | _, _ => s

/-- COLLECTIVE_END (R255). -/
def execCollectiveEnd (s : State) : Host.Outcome State Fault Refusal := .next (s.collectiveEnd s.arg.core s.arg.idx)

/-- One held end reaches its workgroup's new allocation. While the poster's warp is in its handler the end is kept, so
that its CLPOST is not re-entered; a warp that has left has re-entered it, and it retires. -/
def State.applyHeld (s : State) (d : Nat) (h : Held) : State :=
  let g := s.wg h.wg
  let w := g.slots.getD h.slot 0
  let t := (s.warpAt g.core w).tenant
  let w' := s.warpAt g.core w
  let inHandler := decide (w'.mode = .restore)
  let s := s.updDie d fun k => { k with held := k.held.erase h ++ (if inHandler then [{ h with applied := true }] else []) }
  let s := s.engineWrite t (localVa g.core g.lbase (h.off + 0x3C)) (localPa g.core g.lbase (h.off + 0x3C)) (leBytes 2 h.status)
  let off := 16 * bitsOf h.bar 17 0
  let s := if bitOf h.bar 31 ∧ off < g.lsize then s.lower g.core t g.lbase off 128 else s
  let s := if inHandler then s.updWarpAt g.core w fun w => { w with cclr := w.cclr - 1 }
    else (s.updCmd g.core h.cmd fun x => { x with ended := true, status := h.status }).retire g.core
  s.leaveHandlers h.wg

/-- The first held end of a die that can be applied: every warp of its workgroup stands at its restore handler's ERET,
or has left it. -/
def State.heldReady (s : State) (d : Nat) : Option Held :=
  (s.die d).held.find? fun h =>
    let g := s.wg h.wg
    !h.applied && g.st == .restoring && g.slots.all fun w => (s.warpAt g.core w).eret || (s.warpAt g.core w).mode == .tenant

/-- HELD_END_APPLY on die arg.core (R232). -/
def execHeldEndApply (s : State) : Host.Outcome State Fault Refusal :=
  .next (if (s.die s.arg.core).halted then s else match s.heldReady s.arg.core with | none => s | some h => s.applyHeld s.arg.core h)

/-! ### Messages (R369) -/

/-- Bytes that wait in a die's inbox. -/
def State.inbox (s : State) (d : Nat) : Nat :=
  (s.msgs.filter fun m => m.arrived && m.dev == s.dev && m.die == d).foldl (fun n m => n + m.data.length) 0
def inboxSize : Nat := 4 * 2 ^ 20

/-- A live collective of its die takes the message. -/
def State.msgLive (s : State) (m : Msg) : Bool :=
  (s.die m.die).running.any fun x => x.tenant == m.tenant && x.fGroup == m.group && x.fStream == m.stream && x.seq == m.seq

/-- A message from another device, in the form this model gives its payload (notes/assumptions/31.md): tenant,
kind, channel, rank, group, stream, sequence number, count, then the data. -/
def msgOf (dev die : Nat) (bs : List Byte) : Msg :=
  let x := leNat (bs.take 32)
  { dev := dev, die := die, tenant := blockField x 0 1, kind := blockField x 1 1, chan := blockField x 2 1,
    src := blockField x 4 4, group := blockField x 8 4, stream := blockField x 0xC 4, seq := blockField x 0x10 8,
    count := blockField x 0x18 8, data := bs.drop 32 }

/-- The first message between dies of this device that can arrive. -/
def State.msgReady (s : State) : Option Nat :=
  let i := s.msgs.findIdx fun m => !m.arrived && m.dev == s.dev && (s.msgLive m || decide (s.inbox m.die + m.data.length ≤ inboxSize))
  if i < s.msgs.length then some i else none

/-- CLEARING_MESSAGE_ARRIVAL: message arg.idx of those in transit, or, with data, one from another device at die
arg.core. A full inbox holds back a message that no live collective takes. -/
def execClearingMessageArrival (s : State) : Host.Outcome State Fault Refusal :=
  let room (m : Msg) : Bool := s.msgLive m || decide (s.inbox m.die + m.data.length ≤ inboxSize)
  .next (
    if s.arg.data.isEmpty then
      match s.msgs[s.arg.idx]? with
      | none => s
      | some m => if m.arrived || m.dev != s.dev || !room m then s
                  else { s with msgs := s.msgs.set s.arg.idx { m with arrived := true } }
    else
      let m := { msgOf s.dev s.arg.core s.arg.data with arrived := true }
      if room m then { s with msgs := s.msgs ++ [m] } else s)

/-! ### Reduction slots (R380, R381) -/

/-- A contributed element in units of 2^-160, or a special value: NaN, +∞, −∞. -/
inductive Contrib where
  | fin (z : Int)
  | nan | pinf | ninf
  deriving DecidableEq, Repr

def contribOf (dtype code : Nat) : Contrib :=
  if dtype = 0x0A then .fin (sext 32 code * 2 ^ 160)
  else match decodeE dtype code with
    | .nan _ => .nan
    | .inf n => if n then .ninf else .pinf
    | .fin n m e => .fin ((if n then -(m : Int) else m) * 2 ^ (e + 160).toNat)

/-- Add one element of a contribution. -/
def Slot.addElem (x : Slot) (i : Nat) (c : Contrib) : Slot :=
  match c with
  | .fin z => { x with acc := fset x.acc i (fget 0 x.acc i + z) }
  | .nan => { x with nan := if x.nan.contains i then x.nan else x.nan ++ [i] }
  | .pinf => { x with pinf := if x.pinf.contains i then x.pinf else x.pinf ++ [i] }
  | .ninf => { x with ninf := if x.ninf.contains i then x.ninf else x.ninf ++ [i] }

/-- Add a contribution; one whose rank has already contributed is discarded. -/
def Slot.add (x : Slot) (p : Push) : Slot :=
  if x.bitmap.contains p.rank then x
  else
    let w := WellFormed.fmtWidth p.dtype
    let n := p.data.length * 8 / w
    let es := elemsOf w n 0 p.data
    let x := ((List.range n).zip es).foldl (fun x y => x.addElem y.1 (contribOf p.dtype y.2)) x
    { x with bitmap := x.bitmap ++ [p.rank] }
/-- A root takes what a slot forwards, or a contribution alone; what holds a rank that it has already counted is discarded
(R380). -/
def Slot.merge (x y : Slot) : Slot :=
  if y.bitmap.any x.bitmap.contains then x
  else
    { x with
      bitmap := x.bitmap ++ y.bitmap
      acc := y.acc.foldl (fun m e => fset m e.1 (fget 0 m e.1 + e.2)) x.acc
      nan := (x.nan ++ y.nan).eraseDups, pinf := (x.pinf ++ y.pinf).eraseDups, ninf := (x.ninf ++ y.ninf).eraseDups }

/-- The one rounded result of an element (R381). -/
def Slot.result (x : Slot) (i : Nat) : Nat :=
  let f := (ffmt x.dtype).getD fp32
  if x.dtype = 0x0A then modW 32 (fget 0 x.acc i / 2 ^ 160)
  else if x.nan.contains i || (x.pinf.contains i && x.ninf.contains i) then f.nan.getD 0
  else if x.pinf.contains i then f.inf.getD 0
  else if x.ninf.contains i then signed f true (f.inf.getD 0)
  else roundF f 0 false false 0 (Ex.ofInt (fget 0 x.acc i) (-160) false)

/-- The destinations of a slot chunk's result, by rank (R379). -/
def Slot.dests (x : Slot) : List Nat :=
  if x.op = 1 then [x.root] else List.range x.size

def State.groupNamed (s : State) (tenant handle : Nat) : Option CGroup :=
  s.groups.find? fun g => g.handle == handle && g.tenant == tenant
/-- The die of this device on which a group's member stands, if it is of this device. -/
def State.dieOf (s : State) (tenant handle rank : Nat) : Option Nat :=
  match s.groupNamed tenant handle with
  | none => none
  | some g => let m := g.members.getD rank (0, 0); if m.1 = s.dev then some m.2 else none

/-- A complete slot chunk sends its result and is freed: a switch to each destination on its own, of which this device
receives those of its members; a root on this device from its die, to every destination. -/
def State.slotDone (s : State) (x : Slot) : State :=
  if x.bitmap.length < x.size then s
  else
    let s := { s with slots := s.slots.erase x }
    match s.groupNamed x.tenant x.group with
    | none => s
    | some g =>
      let w := WellFormed.fmtWidth x.dtype
      let data := leBytes (x.elems * w / 8) (packElems w ((List.range x.elems).map x.result))
      let msg (r : Nat) : Msg :=
        let m := g.members.getD r (0, 0)
        { dev := m.1, die := m.2, tenant := x.tenant, group := x.group, stream := x.stream, seq := x.seq, src := x.chunk,
          chan := 0, kind := 3, count := x.elems, data := data }
      let ms := x.dests.map msg
      match (if x.atRoot then s.dieOf x.tenant x.group x.root else none) with
      | none => { s with msgs := s.msgs ++ ms.filter (·.dev == s.dev) }
      | some d => ms.foldl (fun s m => s.emit d (typOf x.dtype) m) s

def Slot.isOf (x : Slot) (p : Push) : Bool :=
  x.tenant == p.tenant && x.group == p.group && x.stream == p.stream && x.seq == p.seq && x.chunk == p.chunk

/-- Two accumulations of one slot chunk. -/
def Slot.same (x y : Slot) : Bool :=
  x.tenant == y.tenant && x.group == y.group && x.stream == y.stream && x.seq == y.seq && x.chunk == y.chunk
/-- A slot that only tells which contributions it has passed on. -/
def Slot.shell (x : Slot) : Slot := { x with acc := [], nan := [], pinf := [], ninf := [] }
/-- A slot chunk's root takes what a slot or a contribution alone brings. Of a root on another device this one keeps only
which ranks have gone on to it, so that a later contribution goes there too (R381), until all have. -/
def State.rootTake (s : State) (x : Slot) : State :=
  let here := (s.dieOf x.tenant x.group x.root).isSome
  let x : Slot := { (if here then x else x.shell) with atRoot := true }
  let is (y : Slot) : Bool := y.same x && y.atRoot
  let z := match s.slots.find? is with | some y => y.merge x | none => x
  let rest := s.slots.filter fun y => !is y
  if here then ({ s with slots := rest ++ [z] } : State).slotDone z
  else { s with slots := if z.size ≤ z.bitmap.length then rest else rest ++ [z] }
/-- The exact contents of a slot reach the slot chunk's root, and the slot is free. -/
def State.slotForward (s : State) (x : Slot) : State := ({ s with slots := s.slots.erase x } : State).rootTake x

/-- What a contribution alone comes to. -/
def Push.slot (p : Push) : Slot :=
  ({ tenant := p.tenant, group := p.group, stream := p.stream, seq := p.seq, chunk := p.chunk, dtype := p.dtype, size := p.size, op := p.op,
     elems := p.data.length * 8 / WellFormed.fmtWidth p.dtype, root := p.root } : Slot).add p
/-- Slots of one spine switch: that of a plane q mod m and of (q div m) mod 16 (spec/27_fabric.md R453). -/
def State.spine (s : State) (chunk : Nat) : Nat × Nat :=
  let m := max 1 s.planes.length
  (chunk % m, chunk / m % 16)
/-- A contribution reaches the switch's slot. With no free slot one of its spine's slots, `victim`, forwards and makes
room; one whose slot has been forwarded goes on to the root alone (R381). -/
def State.pushIn (s : State) (p : Push) (noSlot : Bool) (victim : Nat := 0) : State :=
  let y := p.slot
  match s.slots.find? fun x => x.isOf p && !x.atRoot with
  | some x =>
    let z := x.add p
    ({ s with slots := s.slots.map fun w => if w = x then z else w } : State).slotDone z
  | none =>
    if s.slots.any fun x => x.isOf p && x.atRoot then s.rootTake y
    else
      let held := s.slots.filter fun x => !x.atRoot && s.spine x.chunk == s.spine p.chunk
      match (if noSlot then held[victim % max 1 held.length]? else none) with
      | some v =>
        let s := s.slotForward v
        ({ s with slots := s.slots ++ [y] } : State).slotDone y
      | none => if noSlot then s.rootTake y else ({ s with slots := s.slots ++ [y] } : State).slotDone y

/-- REDUCTION_PUSH: contribution arg.idx, or one of a member on another device, whose packet is arg.data; arg.b 1 says that the
switch has no free slot, and arg.a which of its slots forwards. -/
def execReductionPush (s : State) : Host.Outcome State Fault Refusal :=
  .next (
    if s.arg.data.isEmpty then
      match s.pushes[s.arg.idx]? with
      | none => s
      | some p => ({ s with pushes := s.pushes.eraseIdx s.arg.idx } : State).pushIn p (s.arg.b == 1) s.arg.a
    else s.pushIn (s.pushOf (packetOf s.arg.data)) (s.arg.b == 1) s.arg.a)

/-- n cycles of the switches of plane k pass, which is their clock: its slots grow older (R381). -/
def State.passSwitch (s : State) (k n : Nat) : State :=
  let slot (x : Slot) : Slot := if !x.atRoot && (s.spine x.chunk).1 == k then { x with age := x.age + n } else x
  { s with slots := s.slots.map slot }
/-- The limit of the switch slot of a chunk: PORTSW of the port of its plane (R381, spec/27_fabric.md R453). -/
def State.slotLimit (s : State) (x : Slot) : Nat :=
  match s.planes[x.chunk % max 1 s.planes.length]? with
  | none => 0
  | some p => (s.port p).slotLimit
/-- SWITCH_SLOT_TIMEOUT of slot arg.idx: its cycles since the first contribution have reached the limit. -/
def execSwitchSlotTimeout (s : State) : Host.Outcome State Fault Refusal :=
  .next (match s.slots[s.arg.idx]? with
    | none => s
    | some x => if x.atRoot || decide (x.age < s.slotLimit x) then s else s.slotForward x)

/-! ### The loss of a member (R383) -/

/-- Live collectives of a kind will end with a status at their next message step or wait. -/
def State.mark (s : State) (st : Nat) (p : Coll → Bool) : State :=
  let proc (c : Clear) : Clear :=
    match c.coll with
    | none => c
    | some x => if p x && c.gone.isNone then { c with gone := some st } else c
  { s with dies := s.dies.map fun d => (d.1, { d.2 with procs := d.2.procs.map fun q => (q.1, proc q.2) }) }
/-- A group handle is revoked: a live collective that names it ends with RANGE (R384). -/
def State.revoke (s : State) (t handle : Nat) : State :=
  { (s.mark stRange fun x => x.fGroup == handle && x.tenant == t) with
    slots := s.slots.filter fun x => !(x.atRoot && x.group == handle && x.tenant == t)
    groups := s.groups.filter fun g => !(g.handle == handle && g.tenant == t) }

/-- Groups that hold a member lose it. -/
def State.loseMembers (s : State) (p : Nat × Nat → Bool) : State :=
  let names (g : CGroup) (x : Coll) : Bool := g.members.any p && g.handle == x.fGroup && g.tenant == x.tenant
  { (s.mark stLost fun x => s.groups.any (names · x)) with
    groups := s.groups.map fun g => if g.members.any p then { g with lost := true } else g }

end Sys2Proof.Machine
end

