-- ==== Sys2Proof/Machine/CoreEvents.lean ====
section
/-! DEFINITION. Machine/CoreEvents.lean: what happens in a core and at the homes between instructions: waits
that are met, accesses that are served or registered, results that return, walks, watchdogs and mailboxes (spec/04_encoding.md R75, R77, spec/08_memory_isa.md R172 to R183, spec/15_memory_model.md R311 to R318,
R323, R327, spec/26_faults_checkpoint.md R423 to R427). Each event names its operands in State.arg; one that is
not due changes nothing. -/

namespace Sys2Proof.Machine

open Sys2Proof

/-! ### Clauses -/

/-- CLAUSE_WAIT_MET on warp arg.slot of core arg.core (R75, spec/12_divergence.md R263). -/
def execClauseWaitMet (s : State) : Host.Outcome State Fault Refusal :=
  .next (s.updWarpAt s.arg.core s.arg.slot fun w =>
    let go (p : Split) : Split := if p.park == .clauseWait && w.waitMet p.hdr then { p with park := .running } else p
    { w with parked := w.parked.map go })

/-- CLAUSE_WORDS_ARRIVE: the fetch of the group at position arg.a, slot arg.b of warp arg.slot returns
(spec/12_divergence.md R264, R265). -/
def State.wordsArrive (s : State) (c w a p : Nat) : State :=
  let k := s.fetchClause c w a
  let here (g : Group) : Bool := g.addr == a && g.slot == p && g.ib && g.words == .absent
  let go (g : Group) : Group := if here g then { g with words := k } else g
  if (s.warpAt c w).groups.any here then
    (s.fetchAsk c w (s.fetchWords c w a) a).updWarpAt c w fun wp => { wp with groups := wp.groups.map go }
  else s
def execClauseWordsArrive (s : State) : Host.Outcome State Fault Refusal :=
  .next (s.wordsArrive s.arg.core s.arg.slot s.arg.a s.arg.b)

/-! ### Which operation may go on (R174, spec/15_memory_model.md R313, R315) -/

/-- An earlier operation holds a later one back. -/
def Op.holds (p o : Op) (queued : Bool) : Bool :=
  decide (p.id < o.id) && !p.done && p.overlaps o.pa o.len && !queued
  && ((p.kind.writes && o.kind.writes) || allLanes.any fun l => p.covers l && o.covers l)
  && !(o.kind == .ld && o.mask == 0#32 && p.kind == .st)

/-- An operation of a warp that its earlier operations and its release let go on. -/
def State.opFree (s : State) (c w : Nat) (o : Op) : Bool :=
  let wp := s.warpAt c w
  !(wp.ops.any fun p => p.holds o (p.kind == .ldf && s.ldfq.any fun x => x.core == c && x.op == p.id))
  && !(o.rel && allLanes.any fun l => o.covers l && wp.unregistered l o.id)

/-- What follows the end of an operation of a warp. -/
def State.afterOp (s : State) (c w : Nat) : State :=
  let s := ((s.applyAb c w).wakeAb).countArrivals c w
  if w ≤ 64 then s.settle c w
  else
    let n := (s.wg (s.warpAt c w).wg).launch
    let s := s.settleCbars n
    let s := if (s.warpAt c w).ops.isEmpty then s.updCore c fun k => { k with warps := ferase k.warps w } else s
    s.settleLaunch n

def Warp.dropOp (w : Warp) (id : Nat) : Warp := { w with ops := w.ops.filter (·.id != id) }
/-- An operation without a result has taken effect. -/
def State.endOp (s : State) (c w id : Nat) : State := (s.updWarpAt c w (·.dropOp id)).afterOp c w

/-- The kind of the request that an operation on a fabric address sends (spec/27_fabric.md R447). -/
def OpKind.request : OpKind → Nat
  | .ld | .far | .pref => 0 | .st => 1 | _ => 2
/-- An earlier access of one of an operation's lanes to the same device has not gone out: a thread's accesses to a device
reach their homes in issue order (spec/27_fabric.md R448). -/
def Warp.sendsBefore (w : Warp) (o : Op) : Bool :=
  w.ops.any fun p => decide (p.id < o.id) && !p.fab && !p.done && p.kind != .pref && isFabric p.pa && fabricDev p.pa == fabricDev o.pa
    && allLanes.any fun l => p.covers l && o.covers l
/-- Send the request of an operation on a fabric address, once; a read asks for the words that hold its bytes. -/
def State.sendOp (s : State) (c w : Nat) (o : Op) : State :=
  if o.fab || (s.warpAt c w).sendsBefore o then s
  else
    let ld := o.kind.request == 0; let a := o.pa / 4 * 4
    let r : Sent :=
      { tenant := (s.warpAt c w).tenant, dest := fabricDev o.pa, kind := o.kind.request, op := o.id, addr := if ld then a else o.pa,
        opn := if ld ∨ o.kind = .st then 0 else o.aop + (if o.kind = .cas then 16 else 0) + (if o.sgn then 32 else 0),
        bmask := if o.kind = .st then 2 ^ o.size - 1 else 0, arg := if ld then (o.pa + o.size + 3) / 4 * 4 - a else 0,
        data := if ld then [] else leBytes o.size o.data ++ (if o.kind = .cas then leBytes o.size o.data2 else []) }
    let s := if o.kind = .ld then s.countCore c 5 (s.warpAt c w).tenant 1 else s
    (s.request c r).updOp c o.id fun o => { o with fab := true }

/-! ### Loads (R175, R177, R179) -/

/-- An access has its value, or has met an error. -/
def State.opDone (s : State) (c : Nat) (o : Op) (v : Nat) (e : Bool) : State :=
  s.updOp c o.id fun o => { o with done := true, val := v, err := e }

/-- A load is served: from the L1's copies, or at the home, which brings the line. -/
def State.serveLoad (s : State) (c w : Nat) (o : Op) : State :=
  let hit := (s.core c).hits o.pa o.size
  let v := extend o.sz (leNat (s.loadBytes c w o.lane o.id o.pa o.size))
  if s.loadBad c o.pa o.size hit then
    (if hit then s else (s.countCore c 5 (s.warpAt c w).tenant 1).countHbm o.pa 2 (s.warpAt c w).tenant 128).opDone c o 0 true
  else if hit then s.opDone c o v false
  else
    let t := (s.warpAt c w).tenant
    (((s.countCore c 5 t 1).countHbm o.pa 2 t 128).fillLine c o.pa).opDone c o v false

/-- A read of another device returns: the words that hold its bytes, under the lane's own pending stores (R313). They come
into the L1 as well, unless the core has acquired since the read went out (R314). -/
def State.farLoad (s : State) (c w : Nat) (o : Op) (bs : List Byte) : State :=
  let a := o.pa / 4 * 4
  let v := (s.warpAt c w).overlay o.lane o.id o.pa o.size (leNat (bs.drop (o.pa - a)))
  let s := if o.stale then s else s.fillFrom c a bs
  match o.kind with
  | .pref => s.endOp c w o.id
  | _ => s.opDone c o (extend o.sz v) false

/-- An LDF reaches its granule: served when it is full, else it joins the granule's queue. -/
def State.serveLdf (s : State) (c : Nat) (o : Op) : State :=
  let g := o.pa / 16
  if s.isFull g then
    if s.bad o.pa o.size then s.updOp c o.id fun o => { o with done := true, err := true }
    else
      let s := (s.updOp c o.id fun o => { o with done := true, val := extend o.sz (s.rdN o.pa o.size) }).dropCopies c o.pa o.size
      if o.clr then s.empty g else s
  else { s with ldfq := s.ldfq ++ [⟨g, c, o.id, o.clr⟩] }

/-! ### Results (R77, R172, spec/06_vector.md R151) -/

/-- One word of a result: a vector register of a lane, or a uniform register that no later issue has written. -/
def Warp.resultWord (w : Warp) (o : Op) (lane j : Nat) (x : Word) : Warp :=
  match o.dest with
  | none => w
  | some d =>
    let code := d.toNat + j
    if w.drained ∧ w.scratch code then
      if code < 96 then { w with sv := fset w.sv (code * 32 + lane) x }
      else if bitOf o.skip j then w
      else { w.skipOps code o.id with ss := fset w.ss (code - 96) x }
    else if code < 96 then
      { w with v := fset w.v (code * 32 + lane) x, bad := w.bad.filter (· != code * 32 + lane) }
    else if bitOf o.skip j then w
    else { w.skipOps code o.id with s := fset w.s (code - 96) x, bad := w.bad.filter (· != 4096 + (code - 96)) }

/-- The registers of a result. -/
def Op.words (o : Op) : Nat :=
  match o.kind with
  | .fn => if o.data = 0 then 1 else o.data
  | .acrd => 16
  | .status => 1
  | _ => szRegs o.sz

/-- A lane takes what returns to it: its thread is live, or it is a lane of a handler, which runs in all 32 lanes whatever
the saved threads are (spec/10_system_clearing_isa.md R235). -/
def Warp.receives (w : Warp) (l : Nat) : Bool := w.stowed || (w.thread l).st != .exited
/-- Write a returned result. -/
def Warp.writeResult (w : Warp) (o : Op) : Warp :=
  if o.kind = .acrd then
    ((lanesOf o.mask).filter w.receives).foldl (fun w l =>
      (List.range 16).foldl (fun w j =>
        w.resultWord o l j (BitVec.ofNat 32 (o.val / 2 ^ (32 * (16 * l + j))))) w) w
  else if o.mask ≠ 0#32 ∧ (lanesOf o.mask).all (fun l => !w.receives l) then w
  else (List.range o.words).foldl (fun w j => w.resultWord o o.lane j (BitVec.ofNat 32 (o.val / 2 ^ (32 * j)))) w

/-! ### Misaligned loads (spec/15_memory_model.md R319) and LOAD_SERVE -/

/-- The lanes that an emulated load is made for, while they are still parked by their misaligned access. -/
def State.emuLanes (s : State) (c w : Nat) (o : Op) : Word :=
  maskOf (allLanes.filter fun l => o.covers l && ((s.warpAt c w).thread l).st == .parked
    && ((s.warpAt c w).thread l).cause == some .misaligned)
/-- An emulated load ends: its lanes leave it for the position after the instruction, with the acquire; or one of its
bytes has faulted, and they carry that byte's cause and address (spec/15_memory_model.md R319). -/
def State.emuEnd (s : State) (c w : Nat) (o : Op) (e : Option Cause) : State :=
  let m := s.emuLanes c w o
  let s := s.updWarpAt c w (·.dropOp o.id)
  match e with
  | some e => s.updWarpAt c w fun wp => (lanesOf m).foldl (fun wp l => wp.updThread l fun t => { t with cause := some e, faddr := o.va }) wp
  | none =>
    let s := s.updWarpAt c w (·.writeResult { o with kind := .ld, val := extend o.sz o.val, mask := if o.mask = 0#32 then 0#32 else m })
    let s := if o.acq then s.acquire c else s
    s.resumeFrag c ((s.warpAt c w).thread ((lanesOf m).headD 0)).findex m (some (o.data2 / 16, o.data2 % 16))
/-- The next byte of an emulated load, which is one access of its thread; `size` counts the bytes still to come, `data` those
that have come. -/
def State.emuByte (s : State) (c w : Nat) (o : Op) : State :=
  if s.emuLanes c w o = 0#32 then s.updWarpAt c w (·.dropOp o.id)
  else
    let u : State := { s with cur := { core := c, slot := w, src := c } }
    let late := match u.reach .rd 1 .misaligned false o.va with
      | .error _ => false
      | .ok pa => !s.opFree c w { o with pa := pa, size := 1 }
    if late then s
    else match u.readNow o.lane o.va 1 with
    | .wait pa => { u.waitRead o.lane o.va pa 1 with cur := s.cur }
    | .fault e => s.emuEnd c w o (some e)
    | .ok v bad =>
      let t : State := { u.madeRead o.va 1 with cur := s.cur }
      let t := t.updWarpAt c w (·.farDone fun x => x.lane == o.lane)
      if bad then t.emuEnd c w o (some .dataUncorrectable)
      else
        let o' : Op := { o with val := o.val + v * 2 ^ (8 * o.data), data := o.data + 1, va := o.va + 1, size := o.size - 1 }
        if o.size ≤ 1 then t.emuEnd c w o' none else t.updOp c o.id fun _ => o'

/-- LOAD_SERVE of operation arg.a of core arg.core. -/
def State.loadServe (s : State) (c id : Nat) : State :=
  match s.findOp c id with
  | none => s
  | some (w, o) =>
    if o.done || !s.opFree c w o then s
    else match o.kind with
      | .ld =>
        if (s.core c).hits o.pa o.size then s.serveLoad c w o
        else if isFabric o.pa then s.sendOp c w o
        else if s.swHeld o.pa o.size then s.swRecall o.pa else s.serveLoad c w o
      | .far | .pref => s.sendOp c w o
      | .emu => s.emuByte c w o
      | .ldf => if s.ldfq.any fun x => x.core == c && x.op == id then s else s.serveLdf c o
      | _ => s
def execLoadServe (s : State) : Host.Outcome State Fault Refusal := .next (s.loadServe s.arg.core s.arg.a)

/-! ### Stores (spec/15_memory_model.md R312) -/

/-- Another write of this device to a word of a store's is on its way to the same home, so that their order there is not
known. -/
def State.crossed (s : State) (o : Op) : Bool :=
  s.cores.any fun c => c.2.warps.any fun w => w.2.ops.any fun p =>
    p.id != o.id && p.fab && !p.done && p.kind.writes && inWords o.pa o.size (p.pa / 4)
/-- A store takes its place in the home order. Of one to another device the reply tells that it has its place there, and its
core becomes the owner, unless what has happened since it went out may have taken the words from it: an acquire or a recall
(its `stale`), or another write on its way (spec/15_memory_model.md R312 to R314; notes/assumptions/9.md). -/
def State.registerOp (s : State) (c w : Nat) (o : Op) : State :=
  let t := (s.warpAt c w).tenant
  if !isFabric o.pa then (s.register c t o.va o.pa (leBytes o.size o.data)).endOp c w o.id
  else
    let keep := !o.stale && !s.crossed o
    let s := s.staleOps o.pa o.size (some c)
    (if keep then s.register c t o.va o.pa (leBytes o.size o.data) else (s.recall o.pa o.size).dropCopies c o.pa o.size).endOp c w o.id

/-- The stores that take their places together with one: a CST's header and mask (spec/08_memory_isa.md R187). -/
def Warp.groupOf (w : Warp) (o : Op) : List Op :=
  if o.aop = 1 then w.ops.filter fun p => p.kind == .st && p.aop == 1 && p.iss == o.iss else [o]
/-- STORE_REGISTRATION of operation arg.a of core arg.core. -/
def State.storeRegister (s : State) (c id : Nat) : State :=
  match s.findOp c id with
  | none => s
  | some (w, o) =>
    let os := (s.warpAt c w).groupOf o
    if o.kind != .st || !os.all (s.opFree c w) then s
    else if isFabric o.pa then s.sendOp c w o
    else match os.find? fun p => s.swHeld p.pa p.size with
      | some p => s.swRecall p.pa
      | none => (os.filter fun p => !isFabric p.pa).foldl (fun s p => s.registerOp c w p) s
def execStoreRegistration (s : State) : Host.Outcome State Fault Refusal := .next (s.storeRegister s.arg.core s.arg.a)

/-! ### Operations of the home's write queue (R178, R180 to R183, R195) -/

/-- The new value of an atomic on a word of n bytes (R181). -/
def atomicNew (aop n : Nat) (sgn : Bool) (old y : Nat) : Nat :=
  let m := 2 ^ (8 * n)
  let less (a b : Nat) : Bool := if sgn then decide (sext (8 * n) a < sext (8 * n) b) else decide (a < b)
  match aop with
  | 0 => (old + y) % m
  | 1 => if less y old then y else old
  | 2 => if less old y then y else old
  | 3 => old &&& y
  | 4 => old ||| y
  | 5 => old ^^^ y
  | 6 => y
  | 7 => if y ≤ old then 0 else old + 1
  | 8 => if old = 0 ∨ y < old then y else old - 1
  | _ => (ne32 (addE false (dec32 (BitVec.ofNat 32 old)) (dec32 (BitVec.ofNat 32 y)))).toNat

/-- A reduction of an HGA has been accepted: its command ends with its last one (R195). -/
def State.hgaAccepted (s : State) (c cmd : Nat) : State :=
  (s.updCmd c cmd fun x => { x with units := x.units - 1, ended := decide (x.units ≤ 1) }).retire c

/-- What an atomic, given the old value, writes; a CAS that does not match writes nothing. -/
def Op.newValue (o : Op) (old : Nat) : Option Nat :=
  if o.kind = .cas then (if old = o.data then some o.data2 else none) else some (atomicNew o.aop o.size o.sgn old o.data)
/-- An atomic has been applied: its result is there, or it has none. -/
def State.atomicDone (s : State) (c w : Nat) (o : Op) (old : Nat) (e : Bool) : State :=
  if o.kind.long then (s.opDone c o old e).afterOp c w
  else if o.kind = .hga then (s.endOp c w o.id).hgaAccepted c o.data2
  else s.endOp c w o.id
/-- An atomic at its home: one that meets a lasting error changes nothing (R172, spec/26_faults_checkpoint.md R426). -/
def State.atomicOp (s : State) (c w : Nat) (o : Op) : State :=
  let t := (s.warpAt c w).tenant
  let old := s.rdN o.pa o.size
  if s.bad o.pa o.size then (s.meetsError t o.va o.pa).atomicDone c w o 0 true
  else
    let s := s.countRead o.pa t o.size
    match o.newValue old with
    | none => s.atomicDone c w o old false
    | some x => (s.homePart t o.va o.pa (leBytes o.size x)).1.atomicDone c w o old false

/-- An operation at its home; a FEOP acts on one granule at a time. -/
def State.homeOp (s : State) (c w : Nat) (o : Op) : State :=
  let t := (s.warpAt c w).tenant
  let s := s.dropCopies c o.pa o.size
  match o.kind with
  | .stf =>
    (match s.homePart t o.va o.pa (leBytes o.size o.data) with
     | (s, true) => s.fillRange o.pa o.size
     | (s, false) => s).endOp c w o.id
  | .atom | .cas | .red | .hga => s.atomicOp c w o
  | .feSet | .feClear =>
    let s := if o.kind = .feSet then s.fill (o.pa / 16) else s.empty (o.pa / 16)
    if o.size ≤ 1 then s.endOp c w o.id
    else s.updOp c o.id fun o => { o with pa := o.pa + 16, va := o.va + 16, size := o.size - 1 }
  | .feTest =>
    let n := o.val + (if s.isFull (o.pa / 16) then 1 else 0)
    if o.size ≤ 1 then (s.opDone c o n false).afterOp c w
    else s.updOp c o.id fun o => { o with pa := o.pa + 16, va := o.va + 16, size := o.size - 1, val := n }
  | _ => s

/-- An atomic on another device's word has been applied there: no core of this device keeps an older value of the word as
its own (R316, R453). -/
def State.farAtomic (s : State) (c w : Nat) (o : Op) (bs : List Byte) : State :=
  (((s.recall o.pa o.size).dropCopies c o.pa o.size).staleOps o.pa o.size (some c)).atomicDone c w o (leNat bs) false

/-- HOME_WRITE_QUEUE_APPLY of operation arg.a of core arg.core. -/
def State.homeApply (s : State) (c id : Nat) : State :=
  match s.findOp c id with
  | none => s
  | some (w, o) =>
    if o.done || !s.opFree c w o then s
    else match o.kind with
      | .stf | .feSet | .feClear | .feTest => s.homeOp c w o
      | .atom | .cas | .red | .hga =>
        if isFabric o.pa then s.sendOp c w o else if s.swHeld o.pa o.size then s.swRecall o.pa else s.homeOp c w o
      | _ => s
def execHomeWriteQueueApply (s : State) : Host.Outcome State Fault Refusal := .next (s.homeApply s.arg.core s.arg.a)

/-! ### Long results (R77, R172, spec/06_vector.md R151) -/

/-- A result that met an error leaves a fault pending in each live lane it was for (R172). -/
def Warp.pendFault (w : Warp) (o : Op) (addr : Nat) : Warp :=
  (allLanes.filter fun l => o.covers l && w.receives l).foldl (fun w l => w.updThread l fun t =>
    if t.pend.isSome then t else { t with pend := some (.dataUncorrectable, addr), pendIss := o.iss }) w

/-- A collective that a tenant posted from a block address has not ended (R222). -/
def State.isLive (s : State) (tenant va : Nat) : Bool :=
  s.dies.any fun d => (d.2.queue ++ d.2.running).any fun x => x.tenant == tenant && x.va == va

/-- Whether a result is ready, with its value where it is taken on the return. -/
def State.resultOf (s : State) (c w : Nat) (o : Op) : Option Op :=
  if !o.kind.long then none
  else if o.kind = .status then
    match s.cmdOf c o.id with
    | none => some { o with val := if s.isLive (s.warpAt c w).tenant 0 then 2 ^ 31 else 0 }
    | some x => if x.started then some { o with val := if s.isLive x.tenant x.va then 2 ^ 31 else 0 } else none
  else if o.done then some o else none

/-- The lanes of an ACRD whose values come at one time: all that are left, or the one that is named (R77). -/
def Op.part (o : Op) (only : Nat) : Word :=
  if o.kind = .acrd ∧ !o.err ∧ 1 ≤ only then o.mask &&& laneBit (only - 1) else o.mask
/-- A result, or part of it, has been written: what is left of the operation. -/
def Warp.partDone (w : Warp) (o : Op) (m : Word) : Warp :=
  if o.mask &&& ~~~m = 0#32 then w.dropOp o.id else w.updOp o.id fun o => { o with mask := o.mask &&& ~~~m }

/-- LONG_RESULT_RETURN of operation arg.a of core arg.core; of an ACRD's, lane arg.b - 1 alone where arg.b is not 0. -/
def State.resultReturn (s : State) (c id only : Nat) : State :=
  match s.findOp c id with
  | none => s
  | some (w, o0) =>
    match s.resultOf c w o0 with
    | none => s
    | some o =>
      let addr := if o.kind = .acrd then (Config.freeAddr s.fresh).toNat else o.va
      let s := if o.kind = .acrd ∧ o.err then { s with fresh := s.fresh + 1 } else s
      let m := o.part only
      let s := s.updWarpAt c w fun wp =>
        (if o.err then wp.pendFault o addr else wp.writeResult { o with mask := m }).partDone o m
      let s := if o.acq && !o.err then s.acquire c else s
      let s := if o.kind = .status then s.endCmd c id stOk else s
      s.afterOp c w
def execLongResultReturn (s : State) : Host.Outcome State Fault Refusal := .next (s.resultReturn s.arg.core s.arg.a s.arg.b)

/-! ### Cohort barriers (spec/05_control.md R120) -/

/-- CBAR_COMPLETION: core arg.core receives the completion of cohort arg.idx of launch arg.a; its waiters go on. -/
def State.cbarTold (s : State) (c n coh : Nat) : State :=
  match s.launch n with
  | none => s
  | some l =>
    if !l.told.contains (coh, c) then s
    else
      let s := s.updLaunch n fun l => { l with told := l.told.erase (coh, c) }
      let gs := (s.wgsOf n).filter fun x => x.2.core == c && l.member coh x.2.index
      gs.foldl (fun s x => x.2.slots.foldl (fun s w =>
        (s.releaseFrom c w fun wp i =>
          (wp.thread i).st == .atCbar && (wp.thread i).opnd == coh && (wp.thread i).cdone).settle c w) s) s
def execCbarCompletion (s : State) : Host.Outcome State Fault Refusal := .next (s.cbarTold s.arg.core s.arg.a s.arg.idx)

/-! ### Walks (spec/15_memory_model.md R326, R327) -/

/-- A leaf enters a TLB of n entries, the oldest leaving a full one. -/
def tlbEnter (n : Nat) (t : Tlb) (ts : List Tlb) : List Tlb := if ts.contains t then ts else (t :: ts).take n

/-- PAGE_WALK: walk arg.idx ends; a successful leaf enters the core's TLB and the die's. -/
def State.pageWalk (s : State) (i : Nat) : State :=
  match s.walks[i]? with
  | none => s
  | some x =>
    let s := { s with walks := s.walks.eraseIdx i }
    if x.dead ∨ 192 ≤ x.core then s
    else match s.walk x.tenant x.va with
      | none => s
      | some t =>
        (s.updCore x.core fun k => { k with tlb := tlbEnter 128 t k.tlb }).updDie (x.core / 48) fun d =>
          { d with ltlb := tlbEnter 4096 t d.ltlb }
def execPageWalk (s : State) : Host.Outcome State Fault Refusal := .next (s.pageWalk s.arg.idx)

/-! ### The service warp's events (spec/10_system_clearing_isa.md R238, spec/26_faults_checkpoint.md R423) -/

/-- WATCHDOG_EXPIRY of warp arg.slot of core arg.core (R423). -/
def State.watchdogDue (s : State) (c w : Nat) : Bool :=
  let lim := ((s.core c).rawCsr 6).toNat
  decide (w < 64) && (s.warpAt c w).live && lim != 0 && decide (lim ≤ (s.warpAt c w).wdog)
def execWatchdogExpiry (s : State) : Host.Outcome State Fault Refusal :=
  let c := s.arg.core; let w := s.arg.slot
  .next (if s.watchdogDue c w then
    (s.updWarpAt c w fun x => { x with wdog := 0 }).updCore c fun k =>
      { k with dogEv := if k.dogEv.contains w then k.dogEv else k.dogEv ++ [w] }
  else s)

/-- MAILBOX_MESSAGE: a system core writes a message arg.a for the service warp of core arg.core (R238, spec/28_system.md
R456). -/
def execMailboxMessage (s : State) : Host.Outcome State Fault Refusal :=
  .next (s.mmio fun s => s.updCore s.arg.core fun k => if k.released then { k with mbox := k.mbox ++ [s.arg.a] } else k)

/-! ### %ver (spec/02_state.md R31) -/

/-- VER_UPDATE: the copy of tenant arg.idx's version on core arg.core takes the hub's value. -/
def execVerUpdate (s : State) : Host.Outcome State Fault Refusal :=
  .next (s.updCore s.arg.core fun k => { k with ver := fset k.ver s.arg.idx (s.tenant s.arg.idx).epver })

end Sys2Proof.Machine
end

