-- ==== Sys2Proof/Machine/EngineEvents.lean ====
section
/-! DEFINITION. Machine/EngineEvents.lean: the matrix engines and the copy engine as they run
(spec/17_matrix_copy.md R334 to R344, spec/09_engine_isa.md R202 to R210, R214 to R220, spec/03_numbers.md R61 to
R67, spec/19_compression.md R351 to R353). -/

namespace Sys2Proof.Machine

open Sys2Proof

/-! ### Starting a matrix command (R334, R335) -/

/-- A matrix command waits for another one: they name one accumulator of a warp and the other is older, or the other is
ahead of it in its engine's queue (R204, R207, R334). -/
def Cmd.waitsFor (y x : Cmd) : Bool :=
  decide (x.eng < 4 ∧ y.eng < 4) && ((y.slot == x.slot && y.acc == x.acc && decide (x.id < y.id)) || (y.eng == x.eng && decide (x.stamp < y.stamp)))
/-- The drain cannot end before a command does: an ACWR or ACST of a draining warp, for which no record can hold what it
captured, an ACRD, or a command that must itself run waits for it (notes/assumptions/29.md). -/
def State.drainNeeds (s : State) (c : Nat) : Nat → Cmd → Bool
  | 0, _ => false
  | n + 1, x =>
    ((s.warpAt c x.slot).mode == .save
      && (s.warpAt c x.slot).ops.any fun o => o.kind == .acrd && !o.done && o.aop == x.acc && decide (x.id < o.id))
    || (s.core c).cmds.any fun y => !y.ended && y.waitsFor x && (s.warpAt c y.slot).mode == .save
        && (unrecorded y.op || State.drainNeeds s c n y)
/-- An MXLOOP of a warp in its drain neither starts nor goes on past a granule (spec/09_engine_isa.md R229), unless the
drain cannot end without it. -/
def State.drainHolds (s : State) (c : Nat) (x : Cmd) : Bool :=
  (s.warpAt c x.slot).mode == .save && stopsInDrain x.op && !s.drainNeeds c (s.core c).cmds.length x

/-- The head of engine e may start. -/
def State.matStart (s : State) (c e : Nat) : State :=
  match (s.core c).head e with
  | none => s
  | some x =>
    if x.started || x.gst == .unresolved || s.drainHolds c x || (s.core c).olderAcc x then s
    else s.updCmd c x.id fun x => { x with started := true }
/-- MATRIX_COMMAND_START on engine arg.idx of core arg.core. -/
def execMatrixCommandStart (s : State) : Host.Outcome State Fault Refusal := .next (s.matStart s.arg.core s.arg.idx)

/-! ### One matrix step (R208, R337, R338, spec/03_numbers.md R64, R66, R67) -/

/-- A row of a buffer as one number. -/
def rowNum (m : FMap Byte) (row : Nat) : Nat := leNat ((List.range 128).map fun i => fget 0#8 m (128 * row + i))
def bufByte (m : FMap Byte) (a : Nat) : Nat := (fget 0#8 m a).toNat

/-- An element of a matrix operand; `mx` is the MX flag of A's record. -/
def matElem (f : Nat) (mx : Bool) (c : Nat) : FVal :=
  match decodeE f c with
  | .fin n m e => .fin n m (if mx && f == 7 then e - 6 else e)
  | v => v

/-- The B operand of one step: element bytes by column as 128-byte numbers, scale bytes, and the rows it takes. -/
structure BStep where
  cols : List Nat
  scale : Nat → Nat → Nat
  rows : Nat

def Cmd.mx (x : Cmd) : Bool := tileMx x.tile
/-- Rows of a packed step: its nonzero bytes, and the row of its scales counted from its first. -/
def packedRows (nz : Nat) : Nat := 2 + (nz + 127) / 128

/-- Expand packed bytes: the k-th set mask bit takes payload byte k (R338). -/
def unpackGo (pay : Nat → Nat) (mask : Nat) : Nat → Nat → Nat → List Nat
  | 0, _, _ => []
  | n + 1, e, k => if bitOf mask e then pay k :: unpackGo pay mask n (e + 1) (k + 1) else 0 :: unpackGo pay mask n (e + 1) k

def bStep (wb : FMap Byte) (x : Cmd) : BStep :=
  let w := x.wrow; let pk := bitOf x.desc.toNat 41
  let at_ (row b : Nat) : Nat := bufByte wb (128 * (row % 512) + b)
  if pk then
    let mask := rowNum wb (w % 512) + 2 ^ 1024 * rowNum wb ((w + 1) % 512)
    let nz := popEl 2048 mask
    let bs := unpackGo (fun k => at_ (w + 2 + k / 128) (k % 128)) mask 2048 0 0
    { cols := (List.range 16).map fun j => packElems 8 ((bs.drop (128 * j)).take 128),
      scale := fun b j => at_ (w + packedRows nz) (j * 8 + b),
      rows := packedRows nz + (if x.mx then 1 else 0) }
  else
    { cols := (List.range 16).map fun j => rowNum wb ((w + j) % 512),
      scale := fun b j => at_ (w + 16) (j * 8 + b),
      rows := if x.mx then 17 else 16 }

/-- The exact sum of some products, before the scales. -/
def blockSum (ps : List FVal) : FVal :=
  if ps.any (·.isNan) then .nan false
  else
    let infs := ps.filterMap fun p => match p with | .inf n => some n | _ => none
    match infs with
    | n :: r => if r.all (· == n) then .inf n else .nan false
    | [] =>
      let low := ps.foldl (fun (k : Int) p => match p with | .fin _ _ e => min k e | _ => k) 0
      let z := ps.foldl (fun (z : Int) p => match p with | .fin n m e => z + alignInt n m e low | _ => z) 0
      .fin (decide (z < 0)) z.natAbs low

/-- One block's effect on an accumulator element (R66, R67). -/
def blockAdd (acc : Word) (s : FVal) (xa xb : Nat) : Word :=
  if xa = 0xFF ∨ xb = 0xFF then canonNan
  else
    match s with
    | .fin n m e => if m = 0 then (if (dec32 acc).isNan then canonNan else acc) else ne32 (addE false (dec32 acc) (.fin n m (e + xa + xb - 254)))
    | v => ne32 (addE false (dec32 acc) v)

/-- The new accumulator elements of a step, from element (0, 0) on. -/
def stepAcc (ob : FMap Byte) (b : BStep) (x : Cmd) (acc : Nat → Word) : List Word :=
  let t := x.tile; let fa := tileFmt t; let mx := x.mx
  let w := WellFormed.fmtWidth fa; let nblk := 1024 / w / 32
  let nb := rowBlocks fa
  let row0 := bitsOf x.desc.toNat 9 0 + x.units * (if x.op = 0x70 then bitsOf x.desc.toNat 19 10 else 0)
  let elems (f n : Nat) : List FVal := (List.range (1024 / w)).map fun k => matElem f mx (n / 2 ^ (w * k) % 2 ^ w)
  let bcols := b.cols.map (elems x.fmtB)
  (List.range 32).flatMap fun i =>
    let r := row0 + i
    let as := elems fa (rowNum ob (((tileRows t).1 + r) % 1024))
    ((List.range 16).zip bcols).map fun jb =>
      let ps := (as.zip jb.2).map fun p => mulF p.1 p.2
      (List.range nblk).foldl (fun a k =>
        let xa := if mx then bufByte ob (tileSrow t * 128 + tileSbyte t + r * nb + k) else 127
        let xb := if mx then b.scale k jb.1 else 127
        blockAdd a (blockSum ((ps.drop (32 * k)).take 32)) xa xb) (acc (16 * i + jb.1))

/-- The buffer rows and the accumulator that a step reads, as they are listed in `bufBad` (R210). -/
def stepCells (x : Cmd) (b : BStep) : List Nat :=
  let t := x.tile; let nb := rowBlocks (tileFmt t)
  let row0 := bitsOf x.desc.toNat 9 0 + x.units * (if x.op = 0x70 then bitsOf x.desc.toNat 19 10 else 0)
  let as := (List.range 32).map fun i => ((tileRows t).1 + row0 + i) % 1024
  let sc := if x.mx then (List.range 32).flatMap fun i =>
    (List.range nb).map fun k => (tileSrow t * 128 + tileSbyte t + (row0 + i) * nb + k) / 128 % 1024 else []
  as ++ sc ++ ((List.range b.rows).map fun i => 1024 + (x.wrow + i) % 512) ++ [2048 + x.slot * 16 + x.acc]

/-- A matrix command stops on an uncorrectable read, and the warp's fault waits for its run boundary (R210). -/
def State.matBad (s : State) (c : Nat) (x : Cmd) : State :=
  (s.updCmd c x.id fun x => { x with failAt := true }).updWarpAt c x.slot fun w => { w with wpend := some .dataUncorrectable }

/-- Set elements of an accumulator. -/
def Warp.setAcc (w : Warp) (n : Nat) (xs : List (Nat × Word)) : Warp :=
  { w with a := xs.foldl (fun m x => fset m (n * 512 + x.1) x.2) w.a }
def Core.clearBad (k : Core) (slot acc : Nat) : Core := { k with bufBad := k.bufBad.filter (· != 2048 + slot * 16 + acc) }

/-- The lines of an ACST (R203). -/
def accLines (w : Warp) (x : Cmd) : List (List Byte) :=
  let es := (List.range 512).map fun e => fget 0#32 w.a (x.acc * 512 + e)
  let bs := if x.sz = 3 then es.flatMap fun v => leBytes 2 (neBf (Ex.ofF (dec32 v))) else es.flatMap fun v => leBytes 4 v.toNat
  blocksOf 128 16 bs

/-- One K-step, or the whole of an ACZ, ACWR or ACST. -/
def State.matRun (s : State) (c : Nat) (x : Cmd) : State :=
  let k := s.core c; let w := s.warpAt c x.slot
  let one (s : State) : State := s.updCmd c x.id fun x => { x with units := x.units + 1 }
  match x.op with
  | 0x6C => one ((s.updWarpAt c x.slot fun w => w.setAcc x.acc ((List.range 512).map fun e => (e, 0#32))).updCore c
      fun k => k.clearBad x.slot x.acc)
  | 0x6E => one (s.updWarpAt c x.slot fun w => w.setAcc x.acc x.data)
  | 0x6F =>
    if k.bufBad.contains (2048 + x.slot * 16 + x.acc) then s.matBad c x
    else
      match x.lines.find? fun p => s.swHeld p 128 with
      | some p => s.swRecall p
      | none =>
        let ls := accLines w x
        one (((x.lines.zip ls).zip (List.range x.lines.length)).foldl (fun s p =>
          s.engineWrite x.tenant (x.va + 128 * p.2) p.1.1 p.1.2 (if x.sz = 3 then 1 else 2)) s)
  | _ =>
    let b := bStep k.wb x
    if (stepCells x b).any k.bufBad.contains then s.matBad c x
    else
      let new := stepAcc k.ob b x fun e => fget 0#32 w.a (x.acc * 512 + e)
      let next := if bitOf x.desc.toNat 41 then x.wrow + b.rows else x.wrow + bitsOf x.desc.toNat 40 32
      let s := s.updWarpAt c x.slot fun w => w.setAcc x.acc ((List.range 512).zip new)
      (one (s.updCmd c x.id fun x => { x with wrow := next % 512 })).countCore c 4 x.tenant 1

/-- A started command has steps left and nothing stops it. -/
def State.matCanStep (s : State) (c : Nat) (x : Cmd) : Bool :=
  x.started && !x.failAt && decide (x.units < x.steps) && !(x.stopped && s.drainHolds c x)
/-- MATRIX_STEP on engine arg.idx of core arg.core. -/
def execMatrixStep (s : State) : Host.Outcome State Fault Refusal :=
  .next (match (s.core s.arg.core).head s.arg.idx with
    | none => s
    | some x => if s.matCanStep s.arg.core x then (s.acts s.arg.core x.slot s.arg.core x.id).matRun s.arg.core x else s)

/-- A matrix command ends: it leaves its queue, waiting reads of its accumulator go on, and it retires (R204, R334). -/
def State.matEnd (s : State) (c : Nat) (x : Cmd) : State :=
  let k := s.core c
  let s := (s.updCmd c x.id fun x => { x with ended := true }).readAccs c x.slot
  ((s.retire c).emptied c k).settle c x.slot
/-- MATRIX_COMMAND_END on engine arg.idx of core arg.core. -/
def execMatrixCommandEnd (s : State) : Host.Outcome State Fault Refusal :=
  .next (match (s.core s.arg.core).head s.arg.idx with
    | none => s
    | some x => if x.started && (x.failAt || decide (x.steps ≤ x.units)) && !s.posted x.id then s.matEnd s.arg.core x else s)

/-! ### The checks of a copy (R215 to R219) -/

def mxFmt (f : Nat) : Bool := f == 3 || f == 4 || f == 5 || f == 7 || WellFormed.fmtB8 f

/-- The status that ends a CPYQ before it writes anything. -/
def State.copyCheck (s : State) (c : Nat) (x : Cmd) : Option Nat :=
  let r := CopyReq.parse x.block
  let four := r.ws == 4 || r.wd == 4
  let b := r.dst * 128
  if !WellFormed.fmtAssigned r.sfmt || !WellFormed.fmtAssigned r.dfmt || (r.scmode == 2 && !mxFmt r.dfmt) then some stFormat
  else if !r.resv || r.sz 2 == 0 || r.sz 3 == 0 || r.sz 4 == 0 || r.wcols == 0 || r.wrows == 0 || decide (5 < r.rnd)
      || (r.rnd != 5 && r.seed != 0) || r.scmode == 3 || (r.scmode == 1 && r.scale == 0xFF) || decide (5 < r.split)
      || decide (2 < r.dkind) || (r.dkind == 0 && r.dst % 16 != 0)
      || (r.den && decide (x.lsize ≤ 16 * r.doff)) || (r.sen && decide (x.lsize ≤ 16 * r.soff))
      || (four && (decide (r.col0 % 2 ≠ 0) || r.wcols % 2 != 0 || r.sz 0 % 2 != 0))
      || (r.scmode == 2 && r.total % 32 != 0)
      || (r.expand && (r.sz 1 != 1 || r.sz 2 != 1 || r.sz 3 != 1 || r.sz 4 != 1 || r.stride.any (· != 0) || decide (r.row0 ≠ 0)
          || r.wrows != 1))
      || (r.mcast && (r.dkind != 0 || decide (x.lsize ≤ r.dst)))
      || (r.dkind == 1 && (decide (1024 ≤ r.dst) || !x.tile.getLsbD 63))
      || (r.dkind == 2 && (decide (512 ≤ r.dst) || decide (65536 < b + r.span b)
          || ((s.core c).wbOwner.getD x.wg) != x.wg))
  then some stRange
  else if r.mcast && !(match s.launch (s.wg x.wg).launch with
      | none => false | some l => bitOf l.cbarmap r.cohort) then some stNonresident
  else if r.expand then
    match s.engRead c x.tenant r.src 16 with
    | .error e => some e
    | .ok h => let p := Pk.of h; if p.bad || p.fmt != r.sfmt then some stFormat else none
  else none

/-- The status that ends a GTHQ before it writes anything (R220). -/
def Cmd.gatherCheck (x : Cmd) : Option Nat :=
  let g := GatherReq.parse x.block
  if !g.ok || (g.den && decide (x.lsize ≤ 16 * g.doff)) then some stRange else none

/-- The next command of the copy engine that may start (R340). -/
def State.copyNext (s : State) (c : Nat) : Option Cmd :=
  let q := sortBy (fun a b => decide (a.stamp < b.stamp)) ((s.core c).queued 4)
  if 4 ≤ (q.filter (·.started)).length then none
  else match q.find? (!·.started) with
    | none => none
    | some x => if x.gst == .unresolved || (x.gst == .yes && ((s.warpAt c x.slot).mode == .save || s.memberAway x)) then none else some x

/-- The read of another unit that an expanding copy's header or mask still waits for, as a command's status. -/
def State.expandWait (s : State) (c : Nat) (x : Cmd) : Option Nat :=
  let r := CopyReq.parse x.block
  if x.op = 0x72 ∧ r.expand then s.expandNeed c x.tenant r else none
/-- COPY_COMMAND_START on core arg.core: the checks, and the stated counts; a discarded one that has waited for its count
ends. -/
def State.copyStart (s : State) (c : Nat) : State :=
  match s.copyNext c with
  | none => s
  | some x =>
    if x.gst = .no then (match s.expandWait c x with
      | some e => s.updCmd c x.id fun x => { x with status := e }
      | none => s.endCmd c x.id stDiscarded)
    else
    let n := s.stated c x
    let bad := if x.op = 0x72 then s.copyCheck c x else x.gatherCheck
    let r := CopyReq.parse x.block
    let bad := match s.expandWait c x with | some e => some e | none => bad
    let pk := if x.op = 0x72 ∧ r.expand then (match s.expandRead c x.tenant r with | .ok y => y.1 | .error _ => r) else r
    let s := s.updCmd c x.id fun x => { x with started := true, statedD := n.1, statedS := n.2, failAt := bad.isSome,
                                               status := bad.getD stOk, head := pk.head, maskOf := pk.mask }
    if x.op = 0x72 ∧ (CopyReq.parse x.block).dkind = 2 ∧ bad = none then
      s.updCore c fun k => { k with wbOwner := some x.wg }
    else s
/-- A step of a core's copy command, which waits for what it needs of other units. -/
def State.copyJob (s : State) (c : Nat) (x : Cmd) (f : State → State) : State :=
  let s := s.acts c x.slot c x.id
  let t := f s
  s.jobStep t x.tenant ((t.cmdOf c x.id).map (·.status))
def execCopyCommandStart (s : State) : Host.Outcome State Fault Refusal :=
  let c := s.arg.core
  .next (match s.copyNext c with | none => s | some x => s.copyJob c x (·.copyStart c))

/-! ### The elements of a copy (R216, R217, R341) -/

/-- Where element p of an expanded packed vector lies, byte address and bit: none where it is zero-filled, no place where
its mask bit is 0 (R187, R351). -/
def CopyReq.expandAt (r : CopyReq) (p : Int) : Option (Option (Nat × Nat)) :=
  let k := Pk.of r.head; let w := k.width
  let at_ (bit : Nat) : Option (Option (Nat × Nat)) := some (some (r.src + 16 + bit / 8, bit % 8))
  if p < 0 ∨ (k.n : Int) ≤ p then none
  else if k.raw then at_ (p.toNat * w)
  else if bitOf r.mask p.toNat then at_ (8 * maskBytes k.n + popEl p.toNat r.mask * w)
  else some none

/-- Where the source of destination element e lies, none where it is zero-filled (R216). -/
def CopyReq.at_ (r : CopyReq) (e : Nat) : Option (Nat × Nat) :=
  let o := e / (r.wrows * r.wcols); let q := e % (r.wrows * r.wcols)
  let (rr, cc) := if r.trans then (q % r.wrows, q / r.wrows) else (q / r.wcols, q % r.wcols)
  let i2 := o % r.sz 2; let i3 := o / r.sz 2 % r.sz 3; let i4 := o / (r.sz 2 * r.sz 3)
  let row := r.row0 + rr; let col := r.col0 + cc
  if row < 0 ∨ (r.sz 1 : Int) ≤ row ∨ col < 0 ∨ (r.sz 0 : Int) ≤ col then none
  else
    let st (i : Nat) : Nat := r.stride.getD i 0
    let bit := col.toNat * r.ws
    some (r.src + i4 * st 3 + i3 * st 2 + i2 * st 1 + row.toNat * st 0 + bit / 8, bit % 8)

/-- The place of destination element e's source. -/
def CopyReq.copyAt (r : CopyReq) (e : Nat) : Option (Option (Nat × Nat)) :=
  if r.expand then r.expandAt (r.col0 + e) else (r.at_ e).map some
/-- The source of destination element e, none where it is zero-filled. -/
def State.copyElem (s : State) (c tenant : Nat) (r : CopyReq) (e : Nat) : Except Nat (Option Nat) :=
  match r.copyAt e with
  | none => .ok none
  | some none => .ok (some 0)
  | some (some (a, bit)) =>
    match s.engRead c tenant a (max 1 (r.ws / 8)) with
    | .error x => .error x
    | .ok x => .ok (some (x / 2 ^ bit % 2 ^ r.ws))

/-- The source bytes that elements e to e + n − 1 take, as places and numbers of bits: an expanding copy's first element
takes the header and the mask as well (R353). -/
def CopyReq.reads (r : CopyReq) (e n : Nat) : List (Nat × Nat) :=
  let head := if r.expand ∧ e = 0 then (List.range (1 + r.maskLen / 16)).map fun i => (r.src + 16 * i, 128) else []
  head ++ (List.range n).filterMap fun i => match r.copyAt (e + i) with
    | some (some (a, _)) => some (a, r.ws)
    | _ => none
/-- Source bits return, line by line: a line is counted once the reads have left it, and at most once; the second result
is the bytes to lower the source barrier by (R342). -/
def Cmd.countSrc (x : Cmd) (rs : List (Nat × Nat)) : Cmd × Nat :=
  rs.foldl (fun (y : Cmd × Nat) p =>
    let x := y.1; let l := p.1 / 128
    if x.srcBits = 0 ∨ x.srcLine = l then ({ x with srcLine := l, srcBits := x.srcBits + p.2 }, y.2)
    else
      let x' := { x with srcLine := l, srcBits := p.2 }
      if x.lines.contains x.srcLine then (x', y.2) else ({ x' with lines := x.lines ++ [x.srcLine] }, y.2 + x.srcBits / 8)) (x, 0)

/-- A copy has read the bits of some places, line by line. -/
def State.hasRead (s : State) (c tenant : Nat) (rs : List (Nat × Nat)) : State :=
  if s.dies.all (·.2.ev.isEmpty) then s
  else
    let bits (l : Nat) : Nat := (rs.filter fun p => p.1 / 128 == l).foldl (fun n p => n + p.2) 0
    (rs.map (·.1 / 128)).eraseDups.foldl (fun s l => s.engHasRead c tenant (128 * l) (bits l / 8)) s

/-- Elements from e, up to the first that fails, with its status. -/
def State.copyElems (s : State) (c tenant : Nat) (r : CopyReq) (e : Nat) : Nat → List (Option Nat) × Option Nat
  | 0 => ([], none)
  | n + 1 =>
    match s.copyElem c tenant r e with
    | .error x => ([], some x)
    | .ok v => let q := State.copyElems s c tenant r (e + 1) n; (v :: q.1, q.2)

/-- The value of a source element. -/
def CopyReq.val (r : CopyReq) (v : Option Nat) : FVal := match v with | none => .fin false 0 0 | some c => decodeE r.sfmt c
/-- The exact value that is rounded, under the block's scale with SCMODE 2. -/
def CopyReq.exact_ (r : CopyReq) (X : Nat) (v : FVal) : Ex :=
  if r.scmode = 2 then (if X = 0xFF then .zero false else scaled r.dfmt X v)
  else if r.scmode = 1 then (match v with
    | .fin n m e => Ex.ofF (.fin n m (e + 127 - r.scale))
    | v => Ex.ofF v)
  else Ex.ofF v

/-- The destination codes of some elements, the first of them at a multiple of 32 with SCMODE 2 and of 8 under SR,
and the scales of their blocks. Under a tile scale an infinity stays one where the format holds every source value, and an
integer that leaves an integer format is clamped, whatever SAT (notes/assumptions/69.md). -/
def CopyReq.codes (r : CopyReq) (vs : List (Option Nat)) : List Nat × List Nat :=
  let fs := vs.map r.val
  let xs := if r.scmode = 2 then (blocksOf 32 fs.length fs).map (blockScale r.dfmt) else []
  let ex (i : Nat) : Ex := r.exact_ (xs.getD (i / 32) 127) (fs.getD i (.fin false 0 0))
  let d (i : Nat) : Nat := if i < fs.length then discard r.dfmt (ex i) else 0
  let code (i : Nat) (v : Option Nat) : Nat :=
    let h := if r.rnd = 5 then srHash (d (i / 8 * 8 + (i + 7) % 8)) (d (i / 8 * 8 + (i + 1) % 8)) (i % 8) r.seed else 0
    if r.scmode = 2 then (if xs.getD (i / 32) 127 = 0xFF then 0 else roundTo r.dfmt r.rnd r.sat false h (ex i))
    else if r.scmode = 1 then roundTo r.dfmt r.rnd r.sat (r.sat && !holdsAll r.sfmt r.dfmt) h (ex i)
    else match v with
      | none => roundTo r.dfmt r.rnd r.sat false h (.zero false)
      | some c => if r.sfmt = r.dfmt then c else conv r.sfmt r.dfmt r.rnd r.sat h c
  (((List.range vs.length).zip vs).map fun y => code y.1 y.2, xs)

/-- Put bytes into a core's buffer. -/
def putBytes (m : FMap Byte) (a : Nat) (bs : List Byte) : FMap Byte :=
  ((List.range bs.length).zip bs).foldl (fun m x => fset m (a + x.1) x.2) m
/-- Rows that a write of n bytes at a touches. -/
def rowsAt (a n : Nat) : List Nat := (List.range ((a + n - 1) / 128 + 1 - a / 128)).map (· + a / 128)

/-- Write bytes of a copy at an offset from its destination: to memory, to every member, or to a buffer; the second
result is a status. -/
def State.copyPut (s : State) (c : Nat) (x : Cmd) (r : CopyReq) (off : Nat) (bs : List Byte) (quiet : Bool := false) :
    State × Option Nat :=
  if bs.isEmpty then (s, none)
  else match r.dkind with
  | 0 =>
    let typ := if r.dfmt = 0 then 2 else if r.dfmt = 1 ∧ !quiet then 1 else 0
    if r.mcast then
      (s.members x.wg r.cohort).foldl (fun (y : State × Option Nat) m =>
        let z := y.1.engWrite c x.tenant (localVa m.1 m.2 (r.dst + off)) bs typ quiet
        (z.1, match y.2 with | none => z.2 | some e => some e)) (s, none)
    else s.engWrite c x.tenant (r.dst + off) bs typ quiet
  | 1 =>
    let a := r.dst * 128 + off
    (s.updCore c fun k => { k with ob := putBytes k.ob a bs
                                   bufBad := k.bufBad.filter fun b => !(rowsAt a bs.length).contains b }, none)
  | _ =>
    let a := r.dst * 128 + off
    (s.updCore c fun k => { k with wb := putBytes k.wb a bs
                                   bufBad := k.bufBad.filter fun b => !((rowsAt a bs.length).map (· + 1024)).contains b }, none)
/-- Whether bytes at an offset of a copy's destination go to another device, so that they are at their home only when its
reply has come. -/
def State.copyFar (s : State) (c : Nat) (x : Cmd) (va : Nat) : Bool :=
  match s.translate c x.tenant va .wr with | .ok pa => isFabric pa | .error _ => false

/-- The next place past the units done where a save may take the command, when the drain holds it. -/
def State.granuleEnd (s : State) (c : Nat) (x : Cmd) (total : Nat) : Nat :=
  match x.stopEvery with
  | none => total
  | some n => if (s.warpAt c x.slot).mode = .save then (x.units / n + 1) * n else total

/-- Lower a command's destination barrier by delivered bytes, holding back what would reach the stated count (R214). -/
def State.deliverD (s : State) (c : Nat) (x : Cmd) (n : Nat) : State :=
  if x.loweredD + n < x.statedD then
    (s.lowerD c x n).updCmd c x.id fun x => { x with loweredD := x.loweredD + n }
  else s
def State.deliverS (s : State) (c : Nat) (x : Cmd) (n : Nat) : State :=
  if x.loweredS + n < x.statedS then
    (s.lowerS c x n).updCmd c x.id fun x => { x with loweredS := x.loweredS + n }
  else s

/-- Offset of the first element's byte within the destination's address, for lines. -/
def CopyReq.base (r : CopyReq) : Nat := if r.dkind = 0 then r.dst else r.dst * 128

/-- Scale bytes whose lines are complete when b blocks of n have been made (R342). -/
def scaleLines (b n : Nat) : Nat := if n ≤ b then n else b / 128 * 128

/-- One delivery of a CPYQ: the elements of one destination line. Source elements are read once, in whole blocks and groups,
whose codes past the line's end are kept for the next delivery; of a byte that an element past a failure shares, nothing is
written (R341). -/
def State.copyLine (s : State) (c : Nat) (x : Cmd) : State :=
  let r := { CopyReq.parse x.block with head := x.head, mask := x.maskOf }
  let total := r.total; let e0 := x.units; let wd := r.wd; let unit := r.together
  let line := ((r.base + e0 * wd / 8) / 128 + 1) * 128 - r.base
  let e1 := min (min total (line * 8 / wd)) (s.granuleEnd c x total)
  let h0 := e0 + x.data.length
  let (vs, fail) := s.copyElems c x.tenant r h0 (min total ((e1 + unit - 1) / unit * unit) - h0)
  let whole := if fail.isSome then vs.length / unit * unit else vs.length
  let (cs, xs) := r.codes (vs.take whole)
  let all := x.data.map (fun (y : Nat × Word) => y.2.toNat) ++ cs
  let last := min e1 (e0 + all.length); let n := (last - e0) * wd / 8 * 8 / wd
  let data := leBytes ((n * wd + 7) / 8) (packElems wd (all.take n))
  let scales := xs.map (BitVec.ofNat 8 ·)
  let (s, st) := s.copyPut c x r (e0 * wd / 8) data
  let (s, st') := s.copyPut c x r (r.scaleAt r.base - r.base + h0 / 32) scales true
  let stop (s : State) (st : Nat) : State := s.updCmd c x.id fun x => { x with failAt := true, status := st }
  match (match st with | none => st' | some e => some e) with
  | some e => stop s e
  | none =>
    let far := r.dkind == 0 && !r.mcast && s.copyFar c x (r.base + e0 * wd / 8)
    let nb := total / 32
    let lines := if r.scmode = 2 ∧ !(r.dkind == 0 && !r.mcast && s.copyFar c x (r.scaleAt r.base + h0 / 32)) then
      scaleLines ((h0 + whole) / 32) nb - x.scaleD else 0
    let (y, back) := x.countSrc (r.reads h0 whole)
    let rest := (all.drop n).zip (List.range (all.length - n))
    let s := s.hasRead c x.tenant (r.reads h0 whole)
    let s := s.updCmd c x.id fun x => { x with units := last, data := rest.map fun v => (last + v.2, BitVec.ofNat 32 v.1),
                                               scaleD := x.scaleD + lines, srcLine := y.srcLine, srcBits := y.srcBits, lines := y.lines }
    let s := ((s.deliverD c x ((if far then 0 else data.length) + lines)).deliverS c x back).countCore c 8 x.tenant data.length
    match fail with
    | none => s
    | some st => stop s st

/-- The index of a row of a GTHQ, read once (R220). -/
def State.gatherIdx (s : State) (c : Nat) (x : Cmd) (row : Nat) : Except Nat Nat :=
  match x.idx with
  | some (k, i) => if k = row then .ok i else s.engRead c x.tenant ((GatherReq.parse x.block).idx + 4 * row) 4
  | none => s.engRead c x.tenant ((GatherReq.parse x.block).idx + 4 * row) 4

/-- One delivery of a GTHQ: the bytes of one row in one destination line, counted when the line is complete (R342). -/
def State.gatherLine (s : State) (c : Nat) (x : Cmd) : State :=
  let g := GatherReq.parse x.block
  let u := x.units; let row := u / g.rowb; let off := u % g.rowb
  let n := min (g.rowb - off) (128 - (g.dst + u) % 128)
  let stop (st : Nat) : State := s.updCmd c x.id fun x => { x with failAt := true, status := st }
  match s.gatherIdx c x row with
  | .error e => stop e
  | .ok i =>
    let src : Except Nat (List Byte) := if g.limit ≤ i then .ok (List.replicate n 0#8)
      else (match s.engRead c x.tenant (g.src + i * g.stride + off) n with
        | .error e => .error e
        | .ok v => .ok (leBytes n v))
    match src with
    | .error e => stop e
    | .ok bs =>
      match s.engWrite c x.tenant (g.dst + u) bs 0 (decide (n < 128)) with
      | (_, some e) => stop e
      | (t, none) =>
        let due := (if s.copyFar c x (g.dst + u) then 0 else 8 * n) + x.srcBits
        let full := (g.dst + u + n) % 128 == 0
        let t := if g.limit ≤ i then t else t.engHasRead c x.tenant (g.src + i * g.stride + off) n
        ((t.updCmd c x.id fun x => { x with units := u + n, idx := some (row, i), srcBits := if full then 0 else due }).deliverD
          c x (if full then due / 8 else 0)).countCore c 8 x.tenant n

/-- What a command of the copy engine has to do in all. -/
def Cmd.copyTotal (x : Cmd) : Nat :=
  if x.op = 0x72 then (CopyReq.parse x.block).total
  else let g := GatherReq.parse x.block; g.count * g.rowb
/-- A started copy has work left, and the drain does not hold it. -/
def State.copyCanGo (s : State) (c : Nat) (x : Cmd) : Bool :=
  x.eng == 4 && x.started && !x.ended && !x.failAt && decide (x.units < x.copyTotal)
  && !((s.warpAt c x.slot).mode == .save && x.stopped)
/-- COPY_DELIVERY of command arg.a of core arg.core. -/
def execCopyDelivery (s : State) : Host.Outcome State Fault Refusal :=
  .next (match s.cmdOf s.arg.core s.arg.a with
    | none => s
    | some x =>
      if !s.copyCanGo s.arg.core x then s
      else s.copyJob s.arg.core x fun t => if x.op = 0x72 then t.copyLine s.arg.core x else t.gatherLine s.arg.core x)

end Sys2Proof.Machine
end

