-- ==== Sys2Proof/Machine/JoinEvents.lean ====
section
/-! DEFINITION. Machine/JoinEvents.lean: the episode join and scan unit, and the end of engine commands
(spec/23_episodes.md R390 to R402, R475, spec/09_engine_isa.md R214, R222 to R228). -/

namespace Sys2Proof.Machine

open Sys2Proof

/-! ### Counters and failed accesses (R391, R475) -/

/-- A drop counter, numbered in R391's order, rises by one. -/
def State.countDrop (s : State) (tenant i : Nat) : State :=
  s.updTenant tenant fun t => { t with drops := fset t.drops i ((fget 0 t.drops i + 1) % 2 ^ 32) }
def dropStale : Nat := 0
def dropOrphan : Nat := 1
def dropEscfull : Nat := 2
def dropDup : Nat := 3
def dropStray : Nat := 4
def dropMalformed : Nat := 5
def dropTimeout : Nat := 6
def dropTrunc : Nat := 7

/-- A failed access of the join unit: MALFORMED, and an ASYNC record that names the line (R475). -/
def State.unreached (s : State) (tenant va status : Nat) : State :=
  let cause := if status = stTranslation then 0x05 else 0x0B
  let r : FaultRec := ⟨tenant, faultBody cause 1 0 0 (va / 128 * 128) 0 0 0 0xFF 0⟩
  { s.countDrop tenant dropMalformed with recs := s.recs ++ [r] }

/-- An ASYNC record for a line of hub SRAM that held a tenant's entry or message: it has no virtual address (R425, R426). -/
def State.hubRecord (s : State) (tenant : Nat) : State :=
  { s with recs := s.recs ++ [⟨tenant, faultBody 0x0B 1 0 0 0 0 0 0 0xFF 0⟩] }

/-- Where the unit reaches n bytes of a tenant's space: local HBM only. -/
def State.joinAt (s : State) (tenant va : Nat) (need : Need) : Option Nat :=
  match s.hubTranslate tenant va need with
  | .error _ => none
  | .ok pa => if isHbm pa then some pa else none
/-- An engine read of the unit: words that a switch slice owns are recalled for it (spec/15_memory_model.md R310, R317;
notes/assumptions/5.md). -/
def State.joinRead (s : State) (tenant va n : Nat) : Except Nat Nat :=
  match s.joinAt tenant va .rd with
  | none => .error stTranslation
  | some pa => if s.bad pa n then .error stData else .ok (s.homeN pa n)
/-- An engine write of the unit within one granule, with its failing status. -/
def State.joinWrite (s : State) (tenant va : Nat) (bs : List Byte) : State × Option Nat :=
  match s.joinAt tenant va .wr with
  | none => (s, some stTranslation)
  | some pa => (s.engineWrite tenant va pa bs, if s.discards pa bs.length then some stData else none)

/-! ### Entries (R393, R394, R399) -/

def State.episode (s : State) (i : Nat) : Episode := fget {} s.episodes i
def State.setEpisode (s : State) (i : Nat) (e : Episode) : State := { s with episodes := fset s.episodes i e }
def State.updEpisode (s : State) (i : Nat) (f : Episode → Episode) : State := s.setEpisode i (f (s.episode i))
/-- An entry becomes free; its generation stays. -/
def State.freeEpisode (s : State) (i : Nat) : State :=
  { s.updEpisode i (fun e => { gen := e.gen }) with joinedQ := s.joinedQ.filter (· != i) }
/-- The unit reads an entry whose words hold a lasting error: the row's episodes, two of 64 bytes, are dropped, each with an
ASYNC record, and the row is remapped (R425, R426; notes/assumptions/76.md). -/
def State.dropEntry (s : State) (i : Nat) : State :=
  let drop (s : State) (j : Nat) : State :=
    if (s.episode j).st = .free then s.updEpisode j fun e => { e with bad := false }
    else (s.freeEpisode j).hubRecord (s.episode j).tenant
  drop (drop (s.takeSpare 192) (i / 2 * 2)) (i / 2 * 2 + 1)
/-- The unit reads an entry, before it acts on it. -/
def State.soundEntry (s : State) (o : Option Nat) : State :=
  match o with
  | none => s
  | some i => if (s.episode i).bad then s.dropEntry i else s
/-- The unit reads a message in escrow that holds a lasting error. -/
def State.dropEscrowed (s : State) (m : Reward) : State :=
  ({ s with escrow := s.escrow.erase m } : State).takeSpare 193 |>.hubRecord m.tenant
/-- Hub SRAM takes a lasting error: a join-table entry, or a message in escrow. -/
def State.damageHub (s : State) (n : Nat) : State :=
  if n < 2 ^ 20 then s.updEpisode n fun e => { e with bad := true }
  else match s.escrow[n - 2 ^ 20]? with
    | none => s
    | some m => { s with escrow := s.escrow.set (n - 2 ^ 20) { m with bad := true } }

/-- The join table's places. -/
def joinSize : Nat := 262144
/-- The lowest free entry. -/
def State.freeEntry (s : State) : Option Nat :=
  (List.range (min joinSize (s.episodes.length + 1))).find? fun i => (s.episode i).st == .free
/-- The entry of a tenant that a key names in OPEN or CLOSED. -/
def State.entryOf (s : State) (tenant key : Nat) : Option Nat :=
  (s.episodes.find? fun x => x.2.tenant == tenant && x.2.key == key && (x.2.st == .open_ || x.2.st == .closed)).map (·.1)

/-- An entry reaches JOINED: the lag test (R399). -/
def State.reachJoined (s : State) (i : Nat) : State :=
  let e := s.episode i; let t := s.tenant e.tenant
  if (t.eplag : Int) < (t.epver - e.ver).toInt then (s.freeEpisode i).countDrop e.tenant dropStale
  else { s.setEpisode i { e with st := .joined } with joinedQ := s.joinedQ ++ [i] }

/-! ### Matching (R395, R396) -/

/-- A message goes to escrow, which holds 131,072. -/
def State.toEscrow (s : State) (m : Reward) : State :=
  if (s.tenant m.tenant).epesc = 0 then s.countDrop m.tenant dropOrphan
  else if 131072 ≤ s.escrow.length then s.countDrop m.tenant dropEscfull
  else ({ s with escrow := s.escrow ++ [{ m with at_ := s.joinCycle }] } : State).countHub 5 m.tenant 1

/-- Place a message in the record of its step. -/
def State.placeReward (s : State) (i : Nat) (e : Episode) (m : Reward) : State :=
  let va := e.buf + 16 * m.step
  match s.joinRead e.tenant va 16 with
  | .error st => s.unreached e.tenant va st
  | .ok r =>
    let fl := blockField r 4 4
    if bitOf fl 1 then s.countDrop e.tenant dropStray
    else if bitOf fl 2 then s.countDrop e.tenant dropDup
    else
      let fl := fl ||| 4 ||| (if bitOf m.flags 0 then 1 else 0)
      match s.joinWrite e.tenant (va + 4) (leBytes 4 fl ++ leBytes 4 m.reward.toNat) with
      | (s, some st) => s.unreached e.tenant va st
      | (s, none) =>
        let left := (e.missing + 2 ^ 17 - 1) % 2 ^ 17
        let s := (s.setEpisode i { e with missing := left }).countHub 4 e.tenant 1
        if e.st = .closed ∧ left = 0 then s.reachJoined i else s

/-- A reward message reaches the unit; while its tenant is being reset it is dropped and counted nowhere
(spec/28_system.md R464). -/
def State.reward (s : State) (m : Reward) : State :=
  if (s.tenant m.tenant).resetting then s
  else if m.flags / 2 ≠ 0 then s.countDrop m.tenant dropMalformed
  else
    let s := s.soundEntry (s.entryOf m.tenant m.key)
    match s.entryOf m.tenant m.key with
    | none => s.toEscrow m
    | some i =>
      let e := s.episode i
      if e.cap ≤ m.step ∨ (e.st = .closed ∧ e.len ≤ m.step) then s.countDrop m.tenant dropStray
      else if e.nstep ≤ m.step then s.toEscrow m
      else s.placeReward i e m

/-- The 24 bytes of a message (R392); a nonzero reserved word makes FLAGS malformed. -/
def rewardOf (tenant : Nat) (bs : List Byte) : Reward :=
  let x := leNat bs
  let fl := blockField x 0x10 4
  { tenant := tenant, key := blockField x 0 8, step := blockField x 8 4, reward := BitVec.ofNat 32 (blockField x 0xC 4),
    flags := if blockField x 0x14 4 = 0 then fl else fl ||| 2, at_ := 0 }

/-- The core of an outstanding command. -/
def State.coreOfCmd (s : State) (id : Nat) : Option Nat := (s.cores.find? fun x => x.2.cmds.any (·.id == id)).map (·.1)
/-- The target of a sent message has accepted it: its RWSEND may end (R227). -/
def State.accepted (s : State) (id : Nat) : State :=
  match s.coreOfCmd id with
  | none => s
  | some c => s.updCmd c id fun x => { x with units := 1 }

/-- REWARD_MESSAGE: message arg.idx of those this device sent itself, or, with data, messages of 24 bytes of tenant
arg.slot from elsewhere. -/
def State.rewardsIn (s : State) (tenant : Nat) (bs : List Byte) : State :=
  (blocksOf 24 (bs.length / 24) bs).foldl (fun s b => s.reward (rewardOf tenant b)) s
def execRewardMessage (s : State) : Host.Outcome State Fault Refusal :=
  .next (
    if s.arg.data.isEmpty then
      match s.rewardsOut[s.arg.idx]? with
      | none => s
      | some m => (({ s with rewardsOut := s.rewardsOut.eraseIdx s.arg.idx } : State).reward m).accepted m.at_
    else s.rewardsIn s.arg.slot s.arg.data)

/-- An escrowed message has waited for its lifetime. -/
def State.escrowOld (s : State) (m : Reward) : Bool := decide ((s.tenant m.tenant).epesc ≤ s.joinCycle - m.at_)
/-- ESCROW_AGE_EXPIRY of message arg.idx (R396). -/
def execEscrowAgeExpiry (s : State) : Host.Outcome State Fault Refusal :=
  .next (match s.escrow[s.arg.idx]? with
    | none => s
    | some m =>
      if m.bad then s.dropEscrowed m
      else if s.escrowOld m then ({ s with escrow := s.escrow.eraseIdx s.arg.idx } : State).countDrop m.tenant dropOrphan else s)

/-! ### Time-out (R397, R398) -/

/-- The lowest step from t whose reward is missing, with its value, among n steps; or the status of a failed read. -/
def State.firstMissing (s : State) (e : Episode) : Nat → Nat → Except (Nat × Nat) (Option (Nat × Word))
  | _, 0 => .ok none
  | t, n + 1 =>
    match s.joinRead e.tenant (e.buf + 16 * t) 16 with
    | .error st => .error (st, e.buf + 16 * t)
    | .ok r =>
      let fl := blockField r 4 4
      if !bitOf fl 1 && !bitOf fl 2 then .ok (some (t, BitVec.ofNat 32 (blockField r 0 4)))
      else State.firstMissing s e (t + 1) n

/-- A CLOSED entry has passed its limit. -/
def State.timedOut (s : State) (e : Episode) : Bool :=
  let lim := (s.tenant e.tenant).epjto
  e.st == .closed && lim != 0 && decide (lim ≤ (s.joinCycle % 2 ^ 32 + 2 ^ 32 - e.tclose) % 2 ^ 32)
/-- The time-out of an entry. -/
def State.timeout (s : State) (i : Nat) : State :=
  let e := s.episode i
  if !s.timedOut e then s
  else if bitOf e.policy 0 then (s.freeEpisode i).countDrop e.tenant dropTimeout
  else match s.firstMissing e 0 e.len with
    | .error (st, va) => (s.freeEpisode i).unreached e.tenant va st
    | .ok none => s.reachJoined i
    | .ok (some (0, _)) => (s.freeEpisode i).countDrop e.tenant dropTrunc
    | .ok (some (t0, v)) =>
      let e := { e with len := t0, vl := v, term := false, trunc := true }
      ((s.setEpisode i e).countDrop e.tenant dropTrunc).reachJoined i
/-- JOIN_TIMEOUT of entry arg.idx. -/
def execJoinTimeout (s : State) : Host.Outcome State Fault Refusal :=
  .next ((s.soundEntry (some s.arg.idx)).timeout s.arg.idx)

/-! ### The scan and the release (R400, R401) -/

/-- A step record: V, FLAGS and reward. -/
structure StepRec where
  v : Word
  flags : Nat
  reward : Word
  deriving DecidableEq, Repr

/-- The step records from t, or the failing read. -/
def State.stepRecs (s : State) (e : Episode) : Nat → Nat → Except (Nat × Nat) (List StepRec)
  | _, 0 => .ok []
  | t, n + 1 =>
    match s.joinRead e.tenant (e.buf + 16 * t) 16 with
    | .error st => .error (st, e.buf + 16 * t)
    | .ok r =>
      match State.stepRecs s e (t + 1) n with
      | .error x => .error x
      | .ok rs => .ok (⟨BitVec.ofNat 32 (blockField r 0 4), blockField r 4 4, BitVec.ofNat 32 (blockField r 8 4)⟩ :: rs)

def fmul (a b : Word) : Word := ne32 (mulE (dec32 a) (dec32 b))
def fadd (a b : Word) : Word := ne32 (addE false (dec32 a) (dec32 b))
def fsub (a b : Word) : Word := ne32 (addE false (dec32 a) (dec32 b).flip)

/-- The scan, backwards over the records: advantage and return of each step, with A and Vn for the step before. -/
def scanBack (gamma gl : Word) (a0 vn0 : Word) : List StepRec → List (Word × Word) × Word × Word
  | [] => ([], a0, vn0)
  | r :: rs =>
    let (out, a, vn) := scanBack gamma gl a0 vn0 rs
    let m : Word := if bitOf r.flags 0 then 0#32 else 0x3F800000#32
    let u := fmul (fmul gamma vn) m
    let d := fsub (fadd r.reward u) r.v
    let a := fadd d (fmul (fmul gl a) m)
    ((a, fadd a r.v) :: out, a, r.v)

/-- The release records of an episode (R401). -/
def releaseRecs (e : Episode) (rs : List StepRec) : List (List Byte) :=
  let out := (scanBack e.gamma (fmul e.gamma e.lambda) 0#32 (if e.term then 0#32 else e.vl) rs).1
  ((List.range rs.length).zip (rs.zip out)).map fun x =>
    let t := x.1; let r := x.2.1
    let last := decide (t + 1 = rs.length)
    let w := t % 2 ^ 16 + (if bitOf r.flags 0 then 2 ^ 16 else 0) + (if last then 2 ^ 17 else 0) + (if e.trunc then 2 ^ 18 else 0)
      + (if last && e.term then 2 ^ 19 else 0)
    leBytes 8 e.key ++ leBytes 4 w ++ leBytes 4 e.ver.toNat ++ leBytes 4 r.reward.toNat ++ leBytes 4 r.v.toNat
      ++ leBytes 4 x.2.2.1.toNat ++ leBytes 4 x.2.2.2.toNat

/-- A learner queue: ring base, records of its ring, records taken and released. -/
def Tenant.lq (t : Tenant) (q : Nat) : Nat × Nat × Nat × Nat :=
  let x := fget (0, 0) t.epq q
  (x.1, 2 ^ (x.2 + 4), fget 0 t.lqHead q, fget 0 t.lqTail q)

/-- The learner is shown the first n records past those it has been shown. -/
def State.showRecords (s : State) (tenant q n : Nat) : State :=
  s.updTenant tenant fun t => { t with lqTail := fset t.lqTail q (fget 0 t.lqTail q + n) }
/-- The next release record of an episode in SCAN is written, when its queue has room. The learner is shown an episode's
records together, once the last is written or none more can be (spec/22_program_advantage.md R388; notes/assumptions/75.md). -/
def State.release (s : State) (i : Nat) : State :=
  let e := s.episode i; let q := bitsOf e.policy 4 1
  match e.outs with
  | [] => ((s.freeEpisode i).showRecords e.tenant q e.hid).countHub 6 e.tenant 1
  | r :: rest =>
    let (base, size, head, tail) := (s.tenant e.tenant).lq q
    if base = 0 then s
    else if size ≤ tail + e.hid - head then
      if e.hid = 0 then s else (s.setEpisode i { e with hid := 0 }).showRecords e.tenant q e.hid
    else
      let va := base + 32 * ((tail + e.hid) % size)
      match s.joinWrite e.tenant va r with
      | (s, some st) => ((s.freeEpisode i).showRecords e.tenant q e.hid).unreached e.tenant va st
      | (s, none) =>
        if rest.isEmpty then ((s.freeEpisode i).showRecords e.tenant q (e.hid + 1)).countHub 6 e.tenant 1
        else s.setEpisode i { e with outs := rest, hid := e.hid + 1 }

/-- EPISODE_SCAN: the oldest joined episode is scanned, or the next record of the one in SCAN is written. -/
def State.scan (s : State) : State :=
  match s.joinedQ with
  | [] => s
  | i :: _ =>
    let e := s.episode i
    if e.bad then s.dropEntry i
    else if e.st = .scan then s.release i
    else match s.stepRecs e 0 e.len with
      | .error (st, va) => (s.freeEpisode i).unreached e.tenant va st
      | .ok rs => (s.setEpisode i { e with st := .scan, outs := releaseRecs e rs }).release i
def execEpisodeScan (s : State) : Host.Outcome State Fault Refusal := .next s.scan

/-! ### Episode commands (R223 to R228) -/

/-- An engine write into a command's block. -/
def State.blockWrite (s : State) (c : Nat) (x : Cmd) (off : Nat) (bs : List Byte) : State :=
  s.engineWrite x.tenant (x.va + off) (localPa c (x.va - localVa c 0 0) off) bs

/-- FP32 from 0 to 1; −0 lies within. -/
def inUnit (n : Nat) : Bool := decide (n ≤ 0x3F800000) || n == 0x80000000

/-- EPOPEN: its status (R224). DESIGN CHOICE (notes/assumptions/85.md): R224's list of statuses does not name a BUF that is
no multiple of 16; it ends with RANGE. -/
def State.epOpen (s : State) (c : Nat) (x : Cmd) : State × Nat :=
  let f (o n : Nat) : Nat := blockField x.block o n
  let key := f 0 8; let buf := f 8 8; let cap := f 0x1C 4; let pol := f 0x20 2
  let s := s.soundEntry (s.entryOf x.tenant key)
  if key / 2 ^ 52 ≠ s.dev ∨ (s.entryOf x.tenant key).isSome ∨ !inUnit (f 0x14 4) ∨ !inUnit (f 0x18 4) ∨ cap = 0 ∨ 65536 < cap
      ∨ buf / 2 ^ 55 ≠ 0 ∨ buf % 16 ≠ 0 ∨ pol / 32 ≠ 0 ∨ f 0x28 24 ≠ 0 then (s, stRange)
  else if (s.joinAt x.tenant buf .wr).isNone then (s, stTranslation)
  else match s.freeEntry with
    | none => (s, stOverrun)
    | some i =>
      let gen := ((s.episode i).gen + 1) % 1024
      let s := s.setEpisode i { st := .open_, gen := gen, key := key, tenant := x.tenant, buf := buf, cap := cap,
                                ver := BitVec.ofNat 32 (f 0x10 4), gamma := BitVec.ofNat 32 (f 0x14 4),
                                lambda := BitVec.ofNat 32 (f 0x18 4), policy := pol }
      (s.blockWrite c x 0x24 (leBytes 4 (x.tenant * 2 ^ 28 + gen * 2 ^ 18 + i)), stOk)

/-- The entry that a handle names. -/
def Cmd.entry (x : Cmd) : Nat := blockField x.block 0 4 % 2 ^ 18
/-- The open episode that a handle names. -/
def State.handle (s : State) (x : Cmd) : Option Nat :=
  let h := blockField x.block 0 4; let i := h % 2 ^ 18; let e := s.episode i
  if e.gen = bitsOf h 27 18 ∧ e.tenant = h / 2 ^ 28 ∧ e.tenant = x.tenant ∧ e.st = .open_ then some i else none

/-- Go on after a write of the unit, or end with its status. -/
def onWritten (r : State × Option Nat) (f : State → State × Nat) : State × Nat :=
  match r with
  | (s, some st) => (s, st)
  | (s, none) => f s

/-- A reward that waits for step t of an entry is taken (R396). -/
def State.takeWaiting (s : State) (i : Nat) (e : Episode) (t : Nat) : State :=
  match s.escrow.find? fun m => m.tenant == e.tenant && m.key == e.key && m.step == t with
  | none => s
  | some m => if m.bad then s.dropEscrowed m else ({ s with escrow := s.escrow.erase m } : State).placeReward i e m

/-- EPSTEP once its record is written: the entry goes on, the step's number is stored, and a waiting reward is taken. -/
def State.epStepped (s : State) (c : Nat) (x : Cmd) (i : Nat) (e : Episode) (fl : Nat) : State × Nat :=
  let n := { e with nstep := e.nstep + 1, missing := e.missing + (if bitOf fl 1 then 0 else 1) }
  (((s.setEpisode i n).blockWrite c x 0x0C (leBytes 4 e.nstep)).takeWaiting i n e.nstep, stOk)

/-- EPSTEP (R225, R396). -/
def State.epStep (s : State) (c : Nat) (x : Cmd) : State × Nat :=
  let s := s.soundEntry (some (x.entry))
  match s.handle x with
  | none => (s, stRange)
  | some i =>
    let e := s.episode i; let fl := blockField x.block 8 4; let t := e.nstep
    if fl / 4 ≠ 0 ∨ blockField x.block 0x12 14 ≠ 0 then (s, stRange)
    else if e.cap ≤ t then (s, stOverrun)
    else onWritten (s.joinWrite e.tenant (e.buf + 16 * t) (leBytes 4 (blockField x.block 4 4) ++ leBytes 4 fl ++ leBytes 8 0))
      fun s => s.epStepped c x i e fl

/-- EPCLOSE (R226). -/
def State.epClose (s : State) (c : Nat) (x : Cmd) : State × Nat :=
  let s := s.soundEntry (some (x.entry))
  match s.handle x with
  | none => (s, stRange)
  | some i =>
    let e := s.episode i; let fl := blockField x.block 8 4
    if fl / 2 ≠ 0 ∨ blockField x.block 0x12 14 ≠ 0 then (s, stRange)
    else
      let e := { e with st := .closed, len := e.nstep, vl := BitVec.ofNat 32 (blockField x.block 4 4), term := bitOf fl 0,
                        tclose := s.joinCycle % 2 ^ 32 }
      let s := (s.setEpisode i e).blockWrite c x 0x0C (leBytes 4 e.len)
      (if e.missing = 0 then s.reachJoined i else s, stOk)

/-- RWSEND sets out: the status that ends it at once, or none while it is on its way (R227). -/
def State.rwSend (s : State) (c : Nat) (x : Cmd) : State × Option Nat :=
  let f (o n : Nat) : Nat := blockField x.block o n
  let d := f 0 8 / 2 ^ 52
  if f 0x14 4 ≠ 0 ∨ f 0x1A 6 ≠ 0 then (s, some stRange)
  else if d = s.dev then
    ({ s with rewardsOut := s.rewardsOut ++ [{ tenant := x.tenant, key := f 0 8, step := f 8 4,
                                               reward := BitVec.ofNat 32 (f 0xC 4), flags := f 0x10 4, at_ := x.id }] }, none)
  else if !s.fabricOk (2 ^ 55 + d * 2 ^ 40) then (s, some stTranslation)
  else
    (s.request c { tenant := x.tenant, dest := d, kind := 5, op := x.id, addr := 0, data := leBytes 24 (x.block % 2 ^ 192) }, none)

/-- Whether the LQTAKE is the first of those that wait on its queue. -/
def State.lqFirst (s : State) (x : Cmd) : Bool :=
  !(s.cores.any fun k => k.2.cmds.any fun y => y.op == 0x78 && y.started && !y.ended && y.tenant == x.tenant
      && blockField y.block 0x0A 1 == blockField x.block 0x0A 1 && decide (y.stamp < x.stamp))

/-- Read n records of a ring from number h. -/
def State.lqRead (s : State) (tenant base size : Nat) : Nat → Nat → Except Nat (List Byte)
  | _, 0 => .ok []
  | h, n + 1 =>
    match s.joinRead tenant (base + 32 * (h % size)) 32 with
    | .error e => .error e
    | .ok r => match State.lqRead s tenant base size (h + 1) n with
      | .error e => .error e
      | .ok rs => .ok (leBytes 32 r ++ rs)

/-- LQTAKE: its status, or none while it waits (R228). -/
def State.lqTake (s : State) (c : Nat) (x : Cmd) : State × Option Nat :=
  let f (o n : Nat) : Nat := blockField x.block o n
  let dst := f 0 8; let mx := f 8 2; let q := f 0xA 1; let fl := f 0xB 1; let bar := f 0xC 4
  let lo := localVa c x.local_ 0
  if dst / 2 ^ 55 ≠ 0 ∨ dst % 32 ≠ 0 ∨ mx = 0 ∨ 1024 < mx ∨ 15 < q ∨ fl / 2 ≠ 0 ∨ bitsOf bar 30 18 ≠ 0 ∨ f 0x14 12 ≠ 0
      ∨ dst < lo ∨ lo + x.lsize < dst + 32 * mx ∨ (bitOf bar 31 ∧ x.lsize ≤ 16 * bitsOf bar 17 0) then (s, some stRange)
  else
    let (base, size, head, tail) := (s.tenant x.tenant).lq q
    let n := if base = 0 then 0 else min mx (tail - head)
    if n = 0 ∧ bitOf fl 0 then (s, none)
    else match s.lqRead x.tenant base size head n with
      | .error e => (s, some e)
      | .ok bs =>
        let s := s.updTenant x.tenant fun t => { t with lqHead := fset t.lqHead q (head + n) }
        let s := s.engineWrite x.tenant dst (localPa c (dst - localVa c 0 0) 0) bs
        (s.blockWrite c x 0x10 (leBytes 2 n), some stOk)

/-- Commands of one warp reach the join unit in issue order (R223). The spec gives the unit no queue: a command held on a
guard holds the later commands of its own warp alone (notes/assumptions/77.md). -/
def State.joinTurn (s : State) (c : Nat) (x : Cmd) : Bool :=
  x.gst != .unresolved
  && !((s.core c).cmds.any fun y => y.eng == 6 && y.slot == x.slot && decide (y.id < x.id) && !y.started && !y.ended)

/-- A command of the join unit goes on. -/
def State.joinCmd (s : State) (c : Nat) (x : Cmd) : State :=
  let finish (r : State × Nat) : State := r.1.endCmd c x.id r.2
  match x.op, x.sub with
  | 0x76, 0 => finish (s.epOpen c x)
  | 0x76, 1 => finish (s.epStep c x)
  | 0x76, _ => finish (s.epClose c x)
  | 0x77, _ =>
    if x.started then
      if x.failAt then s.endCmd c x.id x.status else if x.units = 0 then s else s.endCmd c x.id stOk
    else (match s.rwSend c x with
      | (s, some st) => s.endCmd c x.id st
      | (s, none) => s.updCmd c x.id fun x => { x with started := true })
  | _, _ =>
    let (x, s) :=
      if x.started then (x, s)
      else
        let (id, s) := s.newId
        let x : Cmd := { x with started := true, stamp := id, statedD := (s.stated c x).1 }
        (x, s.updCmd c x.id fun _ => x)
    if !s.lqFirst x then s
    else match s.lqTake c x with
      | (s, some st) => s.endCmd c x.id st
      | (s, none) => s

/-! ### The end of engine commands (R214) -/

/-- CLCTL.abort: the live collective is told, and the command ends with it (R222). -/
def State.abortCmd (s : State) (c : Nat) (x : Cmd) : State :=
  if !s.isLive x.tenant x.va then s.endCmd c x.id stOk
  else
    let hit (y : Coll) : Coll := if y.tenant = x.tenant ∧ y.va = x.va then { y with abort := true } else y
    let proc (p : Nat × Clear) : Nat × Clear := (p.1, { p.2 with coll := p.2.coll.map hit })
    let die (d : Nat × Die) : Nat × Die := (d.1, { d.2 with queue := d.2.queue.map hit, procs := d.2.procs.map proc })
    { s with dies := s.dies.map die }

/-- COMMAND_END of command arg.a of core arg.core: a copy that has nothing left or has failed, an abort, or a
command of the join unit, which it also carries out. -/
def State.commandEnd (s : State) (c id : Nat) : State :=
  match s.cmdOf c id with
  | none => s
  | some x =>
    if x.ended then s
    else if x.eng = 4 then
      if x.started && (x.failAt || decide (x.copyTotal ≤ x.units)) && !s.posted x.id then s.endCmd c id (if x.failAt then x.status else stOk) else s
    else if x.eng = 5 ∧ x.op = 0x75 ∧ x.sub = 1 ∧ x.started then s.abortCmd c x
    else if x.eng = 5 ∧ x.op = 0x75 ∧ x.started ∧ (s.findOp c id).isNone then s.endCmd c id stOk
    else if x.eng = 6 ∧ (x.started || s.joinTurn c x) then s.joinCmd c x
    else s
def execCommandEnd (s : State) : Host.Outcome State Fault Refusal := .next (s.commandEnd s.arg.core s.arg.a)

/-! ### Scrubbing (spec/26_faults_checkpoint.md R424, R426, R427) -/

/-- The unit whose error counter counts a location's transient errors: 192 + die for HBM, a core for its slice. -/
def errUnit (pa : Nat) : Nat := if isHbm pa then 192 + hbmDie pa else (homeCore pa).getD 196
/-- A transient error of a unit is counted and logged, and nothing else happens (R424). -/
def State.transient (s : State) (unit where_ : Nat) : State :=
  { s with log_ := s.log_ ++ [(1, where_)], errCnt := fset s.errCnt unit (fget 0 s.errCnt unit + 1) }
/-- A hub SRAM cell is read by its scrubber. -/
def State.scrubHub (s : State) (n : Nat) : State :=
  if n < 2 ^ 20 then s.soundEntry (some n)
  else match s.escrow[n - 2 ^ 20]? with
    | none => s
    | some m => if m.bad then s.dropEscrowed m else s
/-- A tenant's space has the line of a physical address at a virtual one: its own cores' flat windows, or a page its tables
map there. -/
def State.mapsLine (s : State) (tenant va pa : Nat) : Bool :=
  if isFlat pa then (s.core (flatCore pa)).tenant == tenant && va / 128 * 128 + flatBase == flatVa + pa / 128 * 128
  else match s.walk tenant va with
    | none => false
    | some t => decide ((t.pbase + (va - t.vbase)) / 128 = pa / 128)
/-- The scrubber of a core's L1 finds a lasting error in a word: the line is reported to its tenant; a copy leaves the L1,
and an owned word keeps the error until it is written (R426, R427). -/
def State.scrubL1 (s : State) (c tenant va w : Nat) : State :=
  if !(s.core c).l1Bad.contains w || !s.mapsLine tenant va (4 * w) then s
  else
    let s := (s.asyncRec tenant va c).updCore c fun k => if k.owned.contains w then k else k.dropWords (· == w)
    { s with log_ := s.log_ ++ [(5, 4 * w)] }
/-- SCRUB. arg.idx 0 reads the location arg.a, which tenant arg.slot has at arg.b: a lasting error is handled as at a
home, and the line reported to that tenant. 6: word arg.a of the L1 of core arg.core, likewise. 1: the second read of location arg.a is clean. 2, 3: cell arg.a of the registers of warp arg.slot, row arg.a of the
buffers, of core arg.core, where a lasting error stays until it is written. 4: cell arg.a of hub SRAM. 5: a transient error
in the registers or buffers of core arg.core, or, as unit 196, in hub SRAM. -/
def State.scrubAt (s : State) (tenant va pa kind : Nat) : State :=
  match kind with
  | 1 => (s.transient (errUnit pa) pa).countDie (if isHbm pa then hbmDie pa else (homeCore pa).getD 0 / 48) 0x0A tenant 1
  | 2 => if (s.warpAt s.arg.core tenant).bad.contains pa then { s with log_ := s.log_ ++ [(3, pa)] } else s
  | 3 => if (s.core s.arg.core).bufBad.contains pa then { s with log_ := s.log_ ++ [(4, pa)] } else s
  | 4 => s.scrubHub pa
  | 5 =>
    let c := s.arg.core
    let s := s.transient c pa
    if c < 192 then s.countDie (c / 48) 0x0A (s.core c).tenant 1 else s
  | 6 => s.scrubL1 s.arg.core tenant va pa
  | _ => if s.bad pa 1 && s.mapsLine tenant va pa then { s.meetsError tenant va pa with log_ := s.log_ ++ [(2, pa)] } else s
def execScrub (s : State) : Host.Outcome State Fault Refusal := .next (s.scrubAt s.arg.slot s.arg.b s.arg.a s.arg.idx)

end Sys2Proof.Machine
end

