-- ==== Sys2Proof/Machine/LaunchEvents.lean ====
section
/-! DEFINITION. Machine/LaunchEvents.lean: the launch unit: queues, records, placement, pre-emption and restore
(spec/13_scheduling.md R280 to R297, spec/04_encoding.md R93, spec/09_engine_isa.md R229 to R231,
spec/12_divergence.md R275, spec/26_faults_checkpoint.md R428 to R433). -/

namespace Sys2Proof.Machine

open Sys2Proof

/-! ### Reading TAIL and the event words (R281, R283) -/

/-- A queue error: the queue is disabled (R281). -/
def State.queueError (s : State) (t q : Nat) : State :=
  (s.updQueue t q fun x => { x with en := false, error := true }).countHub 8 t 1

/-- The launch unit reads TAIL. -/
def State.readTail (s : State) (t q : Nat) : State :=
  let x := (s.tenant t).queue q
  if !x.en then s
  else match s.hubRead t x.ctla 8 with
    | .error _ => s.queueError t q
    | .ok v =>
      if v < x.tail ∨ 2 ^ x.log2n < v - x.head then s.queueError t q
      else (s.updQueue t q fun x => { x with tail := v }).rereadAll t

/-- QUEUE_TAIL_POLL of queue arg.slot of tenant arg.idx (R281). -/
def execQueueTailPoll (s : State) : Host.Outcome State Fault Refusal := .next (s.readTail s.arg.idx s.arg.slot)
/-- QUEUE_ADVANCE: a message names queue arg.slot of tenant arg.idx (R281). -/
def execQueueAdvance (s : State) : Host.Outcome State Fault Refusal := .next (s.readTail s.arg.idx s.arg.slot)
/-- DOORBELL of queue arg.slot of tenant arg.idx (spec/28_system.md R457); an access in VS-mode or U-mode faults
there and does nothing here (R456). -/
def execDoorbell (s : State) : Host.Outcome State Fault Refusal :=
  .next (s.mmio fun s => s.readTail s.arg.idx s.arg.slot)
/-- DEPENDENCE_REREAD for queue arg.slot of tenant arg.idx (R283). -/
def execDependenceReread (s : State) : Host.Outcome State Fault Refusal := .next (s.reread s.arg.idx s.arg.slot)

/-! ### Starting a record (R282 to R288, R293) -/

/-- A record's fields break their limits (R282). -/
def recordFieldsBad (r : Nat) : Bool :=
  let f (o n : Nat) : Nat := blockField r o n
  let gx := f 0x10 2; let gy := f 0x12 2; let gz := f 0x14 2; let done := f 0x38 8
  f 0 8 / 2 ^ 55 != 0 || f 0 8 % 256 != 0 || bitsOf (f 8 8) 54 0 % 16 != 0 || bitOf (f 8 8) 55 || bitsOf (f 8 8) 63 58 != 0
  || gx == 0 || gy == 0 || gz == 0 || decide (2 ^ 31 < gx * gy * gz)
  || bitsOf (f 0x18 8) 62 55 != 0 || bitsOf (f 0x18 8) 54 0 % 8 != 0 || bitsOf (f 0x28 8) 62 55 != 0 || bitsOf (f 0x28 8) 54 0 % 8 != 0
  || bitsOf done 54 0 % 8 != 0 || (bitOf done 63 && bitsOf done 62 55 == 0)

/-- A descriptor's fields break their limits (R285). -/
def descriptorBad (d : Nat) : Bool :=
  let f (o n : Nat) : Nat := blockField d o n
  let v := f 8 1; let sr := f 9 1
  f 0 8 / 2 ^ 55 != 0 || f 0 8 % 4 != 0 || v % 8 != 0 || decide (v < 8 ∨ 96 < v) || !(sr == 8 || sr == 16 || sr == 24 || sr == 32)
  || decide (16 < f 0xA 1) || decide (16 < f 0xB 1) || f 0xB 1 % 2 != 0 || decide (7 < f 0xC 1) || f 0xD 3 != 0
  || f 0x10 4 % 128 != 0 || f 0x14 2 == 0 || decide (1024 < f 0x14 2) || decide (256 < f 0x16 2)
  || f 0x18 8 / 2 ^ 55 != 0 || f 0x18 8 % 8 != 0 || (f 0x16 2 == 0 && f 0x18 8 != 0)
  || decide (4096 < f 0x20 2) || f 0x22 6 != 0 || f 0x28 8 / 2 ^ 55 != 0 || f 0x28 8 % 16 != 0 || (f 0x20 2 == 0 && f 0x28 8 != 0)
  || f 0x50 176 != 0

/-- The patch entries as they are read at the start: word offset, width in bits, value (R93). -/
def State.readPatches (s : State) (t table param : Nat) : Nat → Except Nat (List (Nat × Nat × Nat))
  | 0 => .ok []
  | n + 1 =>
    match s.hubRead t table 8 with
    | .error c => .error (hubStatus c)
    | .ok e =>
      let w := blockField e 6 1
      if 2 < w ∨ blockField e 7 1 ≠ 0 then .error stRange
      else match s.hubRead t (param + blockField e 4 2) (2 ^ w) with
        | .error c => .error (hubStatus c)
        | .ok v => match State.readPatches s t (table + 8) param n with
          | .error x => .error x
          | .ok r => .ok ((blockField e 0 4, 8 * 2 ^ w, v) :: r)

/-- The cohort list: cohort, FIRST, LAST (R286). -/
def State.readCohorts (s : State) (t list_ total : Nat) : Nat → Except Nat (List (Nat × Nat × Nat))
  | 0 => .ok []
  | n + 1 =>
    match s.hubRead t list_ 16 with
    | .error c => .error (hubStatus c)
    | .ok e =>
      let co := blockField e 0 1; let a := blockField e 4 4; let b := blockField e 8 4
      if co = 0 ∨ blockField e 1 3 ≠ 0 ∨ blockField e 0xC 4 ≠ 0 ∨ b < a ∨ total ≤ b then .error stRange
      else match State.readCohorts s t (list_ + 16) total n with
        | .error x => .error x
        | .ok r => .ok ((co, a, b) :: r)

/-- A workgroup is in more than four cohorts besides cohort 0. -/
def cohortsDeep (cs : List (Nat × Nat × Nat)) : Bool :=
  cs.any fun x => decide (4 < ((cs.filter fun y => decide (y.2.1 ≤ x.2.1 ∧ x.2.1 ≤ y.2.2)).map (·.1)).eraseDups.length)

/-- Ranges merged into disjoint rising ones. -/
def mergeRanges (rs : List (Nat × Nat)) : List (Nat × Nat) :=
  ((sortBy (fun a b => decide (a.1 < b.1)) rs).foldl (fun acc r => match acc with
    | [] => [r]
    | x :: xs => if r.1 ≤ x.2 + 1 then (x.1, max x.2 r.2) :: xs else r :: x :: xs) []).reverse
def rangesSize (rs : List (Nat × Nat)) : Nat := rs.foldl (fun n r => n + (r.2 + 1 - r.1)) 0

/-- The gang's ranges of linear indices: every cohort with a barrier and more than one member, and cohort 0 (R293). -/
def gangRanges (cbarmap total : Nat) (cs : List (Nat × Nat × Nat)) : List (Nat × Nat) :=
  if bitOf cbarmap 0 then [(0, total - 1)]
  else
    let named := (cs.map (·.1)).eraseDups.filter fun c => bitOf cbarmap c
    let of (c : Nat) : List (Nat × Nat) := mergeRanges ((cs.filter (·.1 == c)).map (·.2))
    mergeRanges ((named.filter fun c => decide (1 < rangesSize (of c))).flatMap of)

/-! ### Admission (R289 to R291) -/

/-- What a core's residents take. -/
structure Occ where
  used : List Nat := []         -- warp slots
  regs : FMap Nat := []         -- vector registers by partition
  accs : Nat := 0
  runs : List (Nat × Nat) := [] -- local allocations
  energy : Nat := 0
  count : Nat := 0
  deriving DecidableEq, Repr

/-- CLASS_WEIGHT of an energy class. -/
def Core.weight (k : Core) (cls : Nat) : Nat := ((k.rawCsr 3).toNat + 2 ^ 32 * (k.rawCsr 4).toNat) / 2 ^ (8 * cls) % 256

/-- The workgroups that hold a core's resources. -/
def State.residents (s : State) (c : Nat) : List (Nat × Wg) :=
  s.wgs.filter fun x => decide (192 ≤ x.1) && x.2.core == c && !x.2.slots.isEmpty

/-- A core's occupation, some workgroups taken away. -/
def State.occ (s : State) (c : Nat) (gone : List Nat) : Occ :=
  let k := s.core c
  ((s.residents c).filter fun x => !gone.contains x.1).foldl (fun (o : Occ) x =>
    let ws := x.2.slots.map k.warp
    let regs := (x.2.slots.zip ws).foldl (fun m w => fset m (w.1 / 16) (fget 0 m (w.1 / 16) + w.2.nv)) o.regs
    { used := o.used ++ x.2.slots, regs := regs, accs := ws.foldl (fun n w => n + w.na) o.accs,
      runs := if x.2.lsize = 0 then o.runs else o.runs ++ [(x.2.lbase, x.2.lsize)],
      energy := o.energy + k.weight ((ws.map (·.energy)).headD 0), count := o.count + 1 }) {}

def Launch.warps (l : Launch) : Nat := (l.threads + 31) / 32
/-- The partition with the fewest resident warps. -/
def Occ.start (o : Occ) : Nat :=
  let n (q : Nat) : Nat := (o.used.filter fun w => w / 16 == q).length
  (pick (fun a b => decide (n a < n b)) [0, 1, 2, 3]).getD 0
/-- The slots of n warps from a partition on. -/
def slotsGo (used : List Nat) (q : Nat) : Nat → Option (List Nat)
  | 0 => some []
  | n + 1 =>
    match ((List.range 16).map (· + 16 * (q % 4))).find? fun w => !used.contains w with
    | none => none
    | some w => (slotsGo (w :: used) (q + 1) n).map (w :: ·)
/-- The lowest free run of local memory. -/
def Occ.local_ (o : Occ) (flat size : Nat) : Option Nat :=
  if size = 0 then some 0
  else
    let free (b : Nat) : Bool := decide (b + size ≤ flat) && o.runs.all fun r => decide (b + size ≤ r.1 ∨ r.1 + r.2 ≤ b)
    pick (fun a b => decide (a < b)) ((0 :: o.runs.map fun r => r.1 + r.2).filter free)

/-- One more workgroup of a launch: its slots, its local base and the new occupation; or whether energy alone
refuses it. -/
def Occ.add (o : Occ) (flat budget weight : Nat) (l : Launch) : Except Bool (List Nat × Nat × Occ) :=
  match slotsGo o.used o.start l.warps, o.local_ flat l.lsize with
  | some ws, some base =>
    let regs := ws.foldl (fun m w => fset m (w / 16) (fget 0 m (w / 16) + l.nv)) o.regs
    let accs := o.accs + l.na * ws.length
    if regs.any (fun r => decide (1024 < r.2)) || decide (128 < accs) then .error false
    else if budget < o.energy + weight then .error true
    else .ok (ws, base, { used := ws ++ o.used, regs := regs, accs := accs,
                          runs := if l.lsize = 0 then o.runs else (base, l.lsize) :: o.runs,
                          energy := o.energy + weight, count := o.count + 1 })
  | _, _ => .error false

def Core.budget (k : Core) : Nat := (k.rawCsr 2).toNat % 256
/-- The cores of a tenant's set that can take workgroups. -/
def State.coreSet (s : State) (t : Nat) : List Nat :=
  (List.range 192).filter fun c => bitOf (s.tenant t).coreset c && (s.core c).released && !s.outCores.contains c

/-- Admission on a core, some workgroups taken away: slots and local base; or whether energy alone refuses. -/
def State.takes (s : State) (l : Launch) (c : Nat) (gone : List Nat) : Except Bool (List Nat × Nat) :=
  let k := s.core c
  let others := k.tenant != 0xFF && k.tenant != l.tenant && (s.residents c).any fun x => !gone.contains x.1
  if others then .error false
  else match (s.occ c gone).add s.flatBytes k.budget (k.weight l.energy) l with
    | .error e => .error e
    | .ok (ws, b, _) => .ok (ws, b)

/-- How many workgroups of a launch an empty core takes. -/
def capacityGo (flat budget weight : Nat) (l : Launch) : Nat → Occ → Nat
  | 0, _ => 0
  | n + 1, o => match o.add flat budget weight l with
    | .error _ => 0
    | .ok (_, _, o) => 1 + capacityGo flat budget weight l n o
def State.capacity (s : State) (l : Launch) (c : Nat) : Nat :=
  capacityGo s.flatBytes (s.core c).budget ((s.core c).weight l.energy) l 64 {}

/-! ### RECORD_START -/

/-- A dependence of a record as the launch unit knows it: met once found so, else as it is read now. -/
def State.depNow (s : State) (t r k : Nat) (met : Option (Bool × Bool)) : Except Nat Bool :=
  let m := met.getD (false, false)
  if (if k = 0 then m.1 else m.2) then .ok true else s.depRead t (depOf r k)
/-- A queue whose next record is ready to start: its dependences are met, or one of them cannot be read and ends it. -/
def State.recordReady (s : State) (t q : Nat) : Bool :=
  let x := (s.tenant t).queue q
  (s.tenant t).active && x.en && decide (x.next < x.tail) && x.met.isSome &&
  (match s.recordAt t q x.next with
   | .error _ => true
   | .ok r =>
     (match s.depNow t r 0 x.met, s.depNow t r 1 x.met with
      | .ok a, .ok b => a && b
      | _, _ => true)
     && (!bitOf (blockField r 8 8) 56 || x.next == 0 || decide (x.next ≤ x.head) || x.fin.contains (x.next - 1)))

/-- The tenant whose record started last among those of a priority; before the first one, tenant 15, so that tenant 0 is
the first of the round (DESIGN CHOICE, notes/assumptions/41.md). -/
def State.lastStarted (s : State) (p : Nat) : Nat := fget 15 s.rrTenant p
/-- The queue whose record starts next: priority, then round-robin over tenants among the records of that priority, then
queue number (R288). -/
def State.startNext (s : State) : Option (Nat × Nat) :=
  let qs := s.tenants.flatMap fun t => (t.2.queues.map fun q => (t.1, q.1))
  let rank (x : Nat × Nat) : Nat :=
    let p := ((s.tenant x.1).queue x.2).prio
    (7 - p) * 1024 + (x.1 + 31 - s.lastStarted p) % 16 * 32 + x.2
  pick (fun a b => decide (rank a < rank b)) (qs.filter fun x => s.recordReady x.1 x.2)

/-- What a record's start makes: a launch, or the status that ends it (R287). -/
def State.makeLaunch (s : State) (t q i r : Nat) (met : Option (Bool × Bool)) : Except Nat Launch :=
  let f (o n : Nat) : Nat := blockField r o n
  let x := (s.tenant t).queue q
  if recordFieldsBad r then .error stRange
  else match s.depNow t r 0 met, s.depNow t r 1 met with
  | .error e, _ => .error e
  | _, .error e => .error e
  | .ok _, .ok _ =>
    match s.hubRead t (f 0 8) 256 with
    | .error c => .error (hubStatus c)
    | .ok d =>
      let g (o n : Nat) : Nat := blockField d o n
      let total := f 0x10 2 * f 0x12 2 * f 0x14 2
      let param := bitsOf (f 8 8) 54 0
      if descriptorBad d then .error stRange
      else match s.readPatches t (g 0x18 8) param (g 0x16 2) with
      | .error e => .error e
      | .ok ps =>
        match s.readCohorts t (g 0x28 8) total (g 0x20 2) with
        | .error e => .error e
        | .ok cs =>
          let l : Launch :=
            { tenant := t, queue := q, recNo := i, recVa := x.ring + 64 * (i % 2 ^ x.log2n), order := s.nextId, code := g 0 8,
              param := param, nv := g 8 1, ns := g 9 1, nt := g 0xA 1, na := g 0xB 1, energy := g 0xC 1, lsize := g 0x10 4,
              threads := g 0x14 2, gx := f 0x10 2, gy := f 0x12 2, gz := f 0x14 2, flags := bitsOf (f 8 8) 63 56,
              donea := f 0x38 8, patches := ps, cohorts := cs, cbarmap := g 0x30 32 }
          let gang := gangRanges l.cbarmap total cs
          let caps := (s.coreSet t).map (s.capacity l)
          if cohortsDeep cs then .error stRange
          else if caps.all (· == 0) ∨ caps.foldl (· + ·) 0 < rangesSize gang then .error stNonresident
          else .ok { l with gang := gang.flatMap fun a => (List.range (a.2 + 1 - a.1)).map (· + a.1) }

/-- RECORD_START: the next ready record starts, or ends with its failure (R287, R297). -/
def State.recordStart (s : State) : State :=
  match s.startNext with
  | none => s
  | some (t, q) =>
    let x := (s.tenant t).queue q; let i := x.next
    let s := { (s.updQueue t q fun x => { x with next := i + 1, met := none }) with rrTenant := fset s.rrTenant x.prio t }
    let va := x.ring + 64 * (i % 2 ^ x.log2n)
    let s := (match s.recordAt t q i with
      | .error e => s.finishRecord t q i va 0 e
      | .ok r =>
        match s.makeLaunch t q i r x.met with
        | .error e => s.finishRecord t q i va (blockField r 0x38 8) e
        | .ok l =>
          let (id, s) := s.newId
          { s with launches := fset s.launches id l }.countHub 2 t 1)
    s.reread t q
def execRecordStart (s : State) : Host.Outcome State Fault Refusal := .next s.recordStart

/-! ### Placing a workgroup (R288 to R290) -/

/-- A core passes to another tenant (R289). -/
def State.switchTenant (s : State) (c t : Nat) : State :=
  let lo := flatBase + c * flatStep; let n := s.flatBytes
  let out (a : Nat) : Bool := decide (a < lo ∨ lo + n ≤ a)
  let s := s.recall lo n
  let s := { s with mem := s.mem.filter fun x => out x.1, full := s.full.filter fun g => out (16 * g),
                    errs := s.errs.filter out }
  s.updCore c fun k => { k with owned := [], copies := [], l1Bad := [], tlb := [], ob := [], wb := [], bufBad := [], wbOwner := none,
                                tenant := t, warps := k.warps.map fun w => (w.1, { w.2 with a := [] }) }

/-- A workgroup takes its place on a core: the warps start at CODE. -/
def State.placeOn (s : State) (n : Nat) (l : Launch) (i c : Nat) (slots : List Nat) (base : Nat) : State :=
  let s := if (s.core c).tenant = l.tenant then s
    else if (s.core c).tenant = 0xFF then s.updCore c fun k => { k with tenant := l.tenant }
    else s.switchTenant c l.tenant
  let (id, s) := s.newId
  let g := 256 + id; let age := s.placed + 1
  let lo := flatBase + c * flatStep + base
  let wg : Wg := { launch := n, index := i, x := i % l.gx, y := i / l.gx % l.gy, z := i / (l.gx * l.gy), core := c, slots := slots,
                   lbase := base, lsize := l.lsize, age := age }
  let s := { s with placed := age, wgs := fset s.wgs g wg,
                    full := s.full.filter fun x => decide (16 * x < lo ∨ lo + l.lsize ≤ 16 * x) }
  let s := ((List.range slots.length).zip slots).foldl (fun s x =>
    s.setWarpAt c x.2 (({ l.warp g x.1 age with s := l.uniforms i } : Warp).start (laneThreads l.threads x.1) l.code id)) s
  let s := (s.acquire c).countHub 3 l.tenant 1
  s.grantAll c

/-- The core that takes a workgroup: it admits it and holds the fewest, lowest first; with the cores refused for
their energy alone. -/
def State.chooseCore (s : State) (l : Launch) (ok : Nat → Bool) : Option (Nat × List Nat × Nat) × List Nat :=
  let xs := (s.coreSet l.tenant).map fun c => (c, s.takes l c [])
  let yes := xs.filterMap fun x => match x.2 with | .ok r => if ok x.1 then some (x.1, r.1, r.2) else none | .error _ => none
  let low := xs.filterMap fun x => match x.2 with | .error true => some x.1 | _ => none
  let n (x : Nat × List Nat × Nat) : Nat := (s.residents x.1).length
  (pick (fun a b => decide (n a < n b) || (n a == n b && decide (a.1 < b.1))) yes, low)

/-- Cores refuse a launch for its energy: each counts one refusal between two placements of the launch, since the spec does
not say how often an offer is tried (spec/28_system.md R466, notes/assumptions/93.md). -/
def State.noteLow (s : State) (n tenant : Nat) (low : List Nat) : State :=
  let new := low.filter fun c => !(s.core c).csr.isEmpty && !s.refused.contains (n, c)
  new.foldl (fun s c => { s.countCore c 0x0A tenant 1 with refused := s.refused ++ [(n, c)] }) s
/-- A launch has been placed in part: its refusals count afresh. -/
def State.endLow (s : State) (n : Nat) : State := { s with refused := s.refused.filter (·.1 != n) }

/-- Place workgroup i of a launch where it is admitted. -/
def State.placeNew (s : State) (n : Nat) (l : Launch) (i : Nat) : Option State :=
  match s.chooseCore l fun _ => true with
  | (none, _) => none
  | (some (c, ws, b), low) => some (((s.noteLow n l.tenant low).endLow n).placeOn n l i c ws b)

/-- What a launch has to place: saved workgroups first, then its next unplaced ones. -/
inductive Cand where
  | restore (n : Nat) (gs : List Nat)
  | gang (n : Nat)
  | fresh (n i : Nat)
  deriving DecidableEq, Repr

/-- The next index that is not placed, a placed gang's members passed over. -/
def skipGang (gang : List Nat) : Nat → Nat → Nat
  | 0, i => i
  | k + 1, i => if gang.contains i then skipGang gang k (i + 1) else i
def State.gangPlaced (s : State) (n : Nat) (l : Launch) : Bool := (s.wgsOf n).any fun x => l.gang.contains x.2.index
def State.nextIndex (s : State) (n : Nat) (l : Launch) : Nat :=
  if s.gangPlaced n l then skipGang l.gang l.gang.length l.next else l.next

/-- Saved workgroups of a launch that go back together: a gang whole, others one by one. -/
def State.toRestore (s : State) (n : Nat) (l : Launch) : List Nat :=
  let saved := (s.wgsOf n).filter (·.2.st == .saved)
  let ms := saved.filter fun x => l.gang.contains x.2.index
  match (sortBy (fun a b => decide (a.2.index < b.2.index)) saved) with
  | [] => []
  | x :: _ =>
    if l.gang.contains x.2.index then
      (if (s.wgsOf n).any fun y => l.gang.contains y.2.index && y.2.st == .saving then [] else ms.map (·.1))
    else [x.1]

/-- What one launch offers next. -/
def State.candOf (s : State) (n : Nat) (l : Launch) : Option Cand :=
  if l.done then none
  else if (s.wgsOf n).any (·.2.st == .saved) then
    (match s.toRestore n l with | [] => none | gs => some (.restore n gs))
  else
    let i := s.nextIndex n l
    if l.gx * l.gy * l.gz ≤ i then none
    else if l.gang.contains i then some (.gang n) else some (.fresh n i)

def State.prioOf (s : State) (l : Launch) : Nat := ((s.tenant l.tenant).queue l.queue).prio
/-- The launches' offers in the order of R288. -/
def State.cands (s : State) : List Cand :=
  let ls := sortBy (fun a b => decide (s.prioOf b.2 < s.prioOf a.2)
    || (s.prioOf a.2 == s.prioOf b.2 && decide (a.2.order < b.2.order))) s.launches
  ls.filterMap fun x => s.candOf x.1 x.2

/-- Place a whole gang, member by member, or nothing. -/
def State.placeGang (s : State) (n : Nat) (l : Launch) : List Nat → Option State
  | [] => some s
  | i :: is => match s.placeNew n l i with | none => none | some s => State.placeGang s n l is

/-! ### Restoring (R231, R277, spec/26_faults_checkpoint.md R431) -/

/-- The weight buffer was held at the save (R231). -/
def State.wbHeld (s : State) (l : Launch) (x : Wg) : Bool :=
  let a := (s.tenant l.tenant).area (x.area.getD 0) + areaRec l.lsize l.warps
  match s.hubRead l.tenant a 4 with | .ok v => bitOf v 0 | .error _ => false

/-- A named barrier as it comes back from the header. -/
def restoreBar (old : Bar) (v : Nat) : Bar :=
  { fixed := old.fixed.map fun _ => bitsOf v 47 32, begun := old.begun, arrived := bitsOf v 31 16, phase := bitOf v 0 }

/-- A saved workgroup takes a place, and its warps enter their restore handlers. -/
def State.placeSaved (s : State) (l : Launch) (g : Nat) : Option State :=
  let x := s.wg g; let t := l.tenant
  let held := s.wbHeld l x
  match s.chooseCore l fun c => !held || (s.core c).wbOwner.isNone with
  | (none, _) => none
  | (some (c, ws, b), low) =>
    let s := (s.noteLow x.launch t low).endLow x.launch
    let s := if (s.core c).tenant = t then s
      else if (s.core c).tenant = 0xFF then s.updCore c fun k => { k with tenant := t }
      else s.switchTenant c t
    let area := (s.tenant t).area (x.area.getD 0)
    let rd (o n : Nat) : Nat := (s.hubRead t (area + o) n).toOption.getD 0
    let bars := x.bars.map fun y => (y.1, restoreBar y.2 (rd (0x20 + 8 * y.1) 8))
    let age := rd 0x18 8
    let lo := flatBase + c * flatStep + b
    let (id, s) := s.newId
    let y : Wg := { x with core := c, slots := ws, lbase := b, age := age, bars := bars, st := .restoring }
    let s := { s with wgs := fset s.wgs g y, full := s.full.filter fun z => decide (16 * z < lo ∨ lo + l.lsize ≤ 16 * z) }
    let s := s.updCore c fun k => { k with wbOwner := if held then some g else k.wbOwner,
                                           ver := fset k.ver t (s.tenant t).epver }
    let warp (w : Nat) : Warp :=
      { l.warp g w age with
        mode := .restore, drained := true,
        groups := [{ addr := s.entryRestore, slot := 0, mask := BitVec.allOnes 32, stamp := id }],
        ss := [(28, BitVec.ofNat 32 area), (29, BitVec.ofNat 32 (area / 2 ^ 32)), (30, BitVec.ofNat 32 w),
               (31, BitVec.ofNat 32 ws.length)] }
    let s := ((List.range ws.length).zip ws).foldl (fun s x => s.setWarpAt c x.2 (warp x.1)) s
    some ((s.acquire c).grantAll c)
def State.placeSavedAll (s : State) (l : Launch) : List Nat → Option State
  | [] => some s
  | g :: gs => match s.placeSaved l g with | none => none | some s => State.placeSavedAll s l gs

/-! ### The placement step -/

/-- The state after an offer is placed, or none while it is not admitted. -/
def State.tryCand (s : State) (x : Cand) : Option State :=
  match x with
  | .restore n gs => match s.launch n with | none => none | some l => s.placeSavedAll l gs
  | .gang n => match s.launch n with
    | none => none
    | some l => (s.placeGang n l l.gang).map fun s => s.updLaunch n fun l => { l with next := skipGang l.gang l.gang.length l.next }
  | .fresh n i => match s.launch n with
    | none => none
    | some l => (s.placeNew n l i).map fun s => s.updLaunch n fun l => { l with next := i + 1 }
/-- The first offer that is admitted, with the state it leads to. -/
def State.placeNext (s : State) : Option (Cand × State) := s.cands.findSome? fun x => (s.tryCand x).map fun s => (x, s)

/-! ### Pre-emption requests (R294, R295, spec/26_faults_checkpoint.md R428) -/

/-- Bytes of the save area that a workgroup needs (R433). -/
def State.areaNeed (s : State) (g : Nat) : Nat :=
  let x := s.wg g
  areaRec x.lsize x.slots.length + 0x1000 + (if (s.core x.core).wbOwner = some g then 65536 else 0) + 128 * s.rowsHeld g

/-- A multicast that is in flight names a workgroup (R219). -/
def State.multicast (s : State) (g : Nat) : Bool :=
  let x := s.wg g
  s.cores.any fun k => k.2.cmds.any fun y =>
    y.op == 0x72 && y.started && !y.ended && (CopyReq.parse y.block).mcast && (s.wg y.wg).launch == x.launch
    && (match s.launch x.launch with | none => false | some l => l.member (CopyReq.parse y.block).cohort x.index)

/-- The workgroups that go together with one: its gang, or itself. -/
def State.together (s : State) (g : Nat) : List Nat :=
  let x := s.wg g
  match s.launch x.launch with
  | none => [g]
  | some l => if l.gang.contains x.index then
      ((s.wgsOf x.launch).filter fun y => l.gang.contains y.2.index && y.2.st != .ended).map (·.1) else [g]

/-- A save area of the tenant's pool that is free. -/
def Tenant.freeArea (t : Tenant) : Option Nat := (List.range t.poolCount).find? fun k => !t.areas.contains k

/-- The save request of one resident workgroup: it takes an area and reaches its warps. -/
def State.requestSave (s : State) (g : Nat) : State :=
  let x := s.wg g
  match s.launch x.launch with
  | none => s
  | some l =>
    match (s.tenant l.tenant).freeArea with
    | none => s
    | some k =>
      let s := (s.updTenant l.tenant fun t => { t with areas := t.areas ++ [k] }).updWg g fun x =>
        { x with st := .saving, area := some k }
      x.slots.foldl (fun s w => s.updWarpAt x.core w fun w => { w with saving := true }) s

/-- Workgroups of one tenant can all be saved now: each is resident, named by no multicast in flight, and the pool has
enough free areas of a sufficient size (R219, R294, R295, R428). -/
def State.savable (s : State) (gs : List Nat) : Bool :=
  let t := s.tenant (((s.launch (s.wg (gs.headD 0)).launch).map (·.tenant)).getD 16)
  (gs.all fun g => (s.wg g).st == .resident && !s.multicast g && decide (s.areaNeed g ≤ t.poolSize))
  && decide (gs.length ≤ ((List.range t.poolCount).filter fun k => !t.areas.contains k).length)
/-- The save requests of workgroups that go together, or none. -/
def State.requestSaves (s : State) (gs : List Nat) : State := if s.savable gs then gs.foldl (fun s g => s.requestSave g) s else s

/-- A workgroup that may be pre-empted for priority p. -/
def State.victim (s : State) (p g : Nat) : Bool :=
  let x := s.wg g
  match s.launch x.launch with
  | none => false
  | some l => x.st == .resident && !bitOf l.flags 1 && decide (s.prioOf l + 2 ≤ p) && s.savable (s.together g)

/-- The workgroups of a core that must go, youngest first, until a newcomer is admitted. -/
def State.victimsGo (s : State) (l : Launch) (c : Nat) : List Nat → List Nat → Option (List Nat)
  | gone, [] => if (s.takes l c gone).isOk then some gone else none
  | gone, g :: gs =>
    if (s.takes l c gone).isOk then some gone
    else if gone.contains g then State.victimsGo s l c gone gs
    else State.victimsGo s l c (gone ++ s.together g) gs
def State.victims (s : State) (l : Launch) (c : Nat) : Option (List Nat) :=
  let xs := (s.residents c).filter fun x => s.victim (s.prioOf l) x.1
  s.victimsGo l c [] ((sortBy (fun a b => decide (b.2.age < a.2.age)) xs).map (·.1))

/-- The workgroups that the launch unit pre-empts for a newcomer: those of the core where the fewest go (R295). -/
def State.preemptFor (s : State) (l : Launch) : List Nat :=
  let xs := (s.coreSet l.tenant).filterMap fun c => (s.victims l c).map fun v => (c, v)
  match pick (fun a b => decide (a.2.length < b.2.length) || (a.2.length == b.2.length && decide (a.1 < b.1)))
      (xs.filter fun x => s.savable x.2) with
  | none => []
  | some x => x.2

/-- The state once the workgroups that are being saved have left. -/
def State.relieved (s : State) : State :=
  (s.wgs.filter (·.2.st == .saving)).foldl (fun s x => s.vacate x.1 .saved) s
/-- The state at the first member of an offer that no core admits, the earlier ones placed. -/
def State.stuckAt {α : Type} (place : State → α → Option State) : State → List α → Option State
  | _, [] => none
  | s, x :: xs => match place s x with | none => some s | some s => State.stuckAt place s xs
/-- Where an offer is stuck in a state, its earlier members placed, and the launch it is of; none where it is admitted. -/
def State.stuck (s : State) (x : Cand) : Option (Launch × State) :=
  let n := match x with | .fresh n _ => n | .gang n => n | .restore n _ => n
  match s.launch n with
  | none => none
  | some l =>
    (match x with
     | .fresh _ i => State.stuckAt (fun s i => s.placeNew n l i) s [i]
     | .gang _ => State.stuckAt (fun s i => s.placeNew n l i) s l.gang
     | .restore _ gs => State.stuckAt (fun s g => s.placeSaved l g) s gs).map fun t => (l, t)
/-- The refusals of offers none of which is admitted. -/
def State.noteStuck (s : State) : State :=
  if s.cores.all fun k => k.2.csr.isEmpty then s
  else s.cands.foldl (fun s x => match s.stuck x with
    | none => s
    | some (l, t) =>
      let n := match x with | .fresh n _ => n | .gang n => n | .restore n _ => n
      s.noteLow n l.tenant (t.chooseCore l fun _ => true).2) s
/-- The workgroups to pre-empt for the first of some offers, in their order, that waits and has any; an offer that finds
its place in the state takes it before the later ones are looked at. -/
def preemptGo : List Cand → State → List Nat
  | [], _ => []
  | x :: xs, r =>
    match r.stuck x with
    | none => preemptGo xs ((r.tryCand x).getD r)
    | some (l, t) => match t.preemptFor l with
      | [] => preemptGo xs r
      | gs => gs
/-- The save requests for the first waiting offer for which a pre-emption may be asked; workgroups already asked to go
count as gone. -/
def State.preempt (s : State) : State := s.requestSaves (preemptGo s.cands s.relieved)

/-- WORKGROUP_PLACEMENT: the first offer that is admitted is placed, when it is a single workgroup; with arg.b 1, the
launch unit asks for a pre-emption instead (R288, R295). -/
def execWorkgroupPlacement (s : State) : Host.Outcome State Fault Refusal :=
  .next (if s.arg.b = 1 then s.preempt
    else match s.placeNext with | some (.fresh _ _, t) => t | some _ => s | none => s.noteStuck)
/-- GANG_PLACEMENT: the first offer that is admitted is placed, when it is a gang (R293). -/
def execGangPlacement (s : State) : Host.Outcome State Fault Refusal :=
  .next (match s.placeNext with | some (.gang _, t) => t | _ => s)
/-- RESTORE_PLACEMENT: the first offer that is admitted is placed, when it is saved workgroups (R431). -/
def execRestorePlacement (s : State) : Host.Outcome State Fault Refusal :=
  .next (match s.placeNext with | some (.restore _ _, t) => t | _ => s)

/-! ### Entering the save handler (R428, R275, R279) -/

/-- An LDF of a warp waits at its granule. -/
def State.ldfWaits (s : State) (c : Nat) (o : Op) : Bool := o.kind == .ldf && !o.done && s.ldfq.any fun x => x.core == c && x.op == o.id

/-- The instruction at a fragment's recorded position, with the position after it. -/
def State.fragInstr (s : State) (c : Nat) (f : Frag) : Except Miss (Option Instr × Nat × Nat) :=
  match s.fetchWords c f.slot f.addr with
  | .error e => .error e
  | .ok ws =>
    let r : Split := { mask := 0#32, addr := f.addr, slot := f.pslot, words := ws }
    let i := match (clauseInstrs ws)[f.pslot]? with
      | none => none
      | some (w, x, _) => (Decode.core w x).toOption
    .ok (i, r.nextPos)
/-- A fragment's MISALIGNED lanes are emulated: it stands at an LD, an ST or an SLD, or its words have not come yet, so that
this is not known (R419). A fetch that faulted at a misaligned position (spec/04_encoding.md R104) is no access to emulate. -/
def State.emulated (s : State) (c : Nat) (f : Frag) : Bool :=
  f.addr % 4 == 0 && (match s.fragInstr c f with
    | .error (.wait _ _) => true
    | .ok (some (.ld _), _) => true
    | .ok (some (.sld _), _) => true
    | .ok (some (.st _), _) => true
    | _ => false)
/-- A misaligned access of a warp is being emulated: the service warp runs, has the fragment's report and has not
resumed it, or the supervisor's own accesses for it are outstanding (spec/15_memory_model.md R319, R434). -/
def State.emulating (s : State) (c w : Nat) : Bool :=
  let k := s.core c; let wp := k.warp w
  wp.ops.any (fun o => o.kind == .emu)
  || (!k.stopped && k.frags.any fun f => f.2.valid && f.2.slot == w && !f.2.pend &&
    ((lanesOf f.2.mask).any fun l => (wp.thread l).cause == some .misaligned) && s.emulated c f.2)

/-- A warp that a save request has reached stands at a run boundary, or at one of the waits that are saved; one whose
fault slot is set has no thread that can reach a boundary, and enters at once (R428). -/
def State.canSave (s : State) (c w : Nat) : Bool :=
  let wp := s.warpAt c w
  wp.live && wp.saving && wp.mode == .tenant && !s.emulating c w
  && (wp.wfault.isSome || (wp.run.isNone && wp.parked.all fun p => p.park == .waitc ||
      (p.park == .marker && wp.ops.any fun o => s.ldfWaits c o && p.mask.getLsbD o.lane)))

/-- The three words of a waiting LDF (spec/02_state.md R37). -/
def ldfWords (l i : Nat) (o : Op) : FMap Word :=
  let b := 12 * l + 3 * i
  let d := match o.dest with | some d => d.toNat | none => 0
  [(b, BitVec.ofNat 32 o.va), (b + 1, BitVec.ofNat 32 (o.va / 2 ^ 32)),
   (b + 2, BitVec.ofNat 32 (2 ^ 31 + (if o.clr then 2 ^ 16 else 0) + o.sz * 2 ^ 8 + d))]

/-- The warp gives up its groups and waits, each lane standing at the position it is saved with; a lane that a marker
keeps at its run boundary meets that clause start there (R275, R108). -/
def Warp.standDown (w : Warp) : Warp :=
  let ls := allLanes.filter fun l => (w.thread l).st != .exited
  let pos := ls.map fun l => (l, if (w.thread l).st = .active then
    (if (w.thread l).wait = .none then w.lanePos l else ((w.thread l).addr, (w.thread l).slot)) else ((w.thread l).addr, (w.thread l).slot))
  let cnt := ls.map fun l => (l, w.laneCount l)
  let w := pos.foldl (fun (w : Warp) p => w.updThread p.1 fun t => { t with addr := p.2.1, slot := p.2.2, wait := .none }) w
  let w := w.bound.foldl (fun (w : Warp) b =>
    if w.meetsAt b.1 b.2.1 b.2.2 then w.updThread b.1 fun t => { t with st := .held } else w.unmeet b.1 b.2.2) w
  { w with groups := [], parked := [], bound := [], run := none, lcnt := cnt }

/-- Completions of cohort barriers that wait for a core are delivered there to a warp's launch. -/
def State.tellCore (s : State) (c w : Nat) : State :=
  let n := (s.wg (s.warpAt c w).wg).launch
  match s.launch n with
  | none => s
  | some l => (l.told.filter (·.2 == c)).foldl (fun s x => s.cbarTold c n x.1) s

/-- The threads of a warp that stand at a clause start behind a marker, for their LDFs, as R279 needs them at the restore:
in a split parked mid-run, or at their run boundary. -/
def State.ldfWaiters (s : State) (c : Nat) (wp : Warp) : FMap Bool :=
  allLanes.filterMap fun l =>
    let owes (m : Nat) : Bool := wp.ops.any fun o => s.ldfWaits c o && o.lane == m
    let split := wp.parked.any fun p => p.park == .marker && p.mask.getLsbD l && (lanesOf p.mask).any owes
    if (wp.lanePos l).2 == 0 && (split || (wp.bound.any (·.1 == l) && owes l)) then some (32 * wp.index + l, split) else none
/-- A warp enters its save handler: completions that wait for its core are delivered, its fragment entries take no
reference any more, and the drain begins; the entries are freed when the workgroup leaves (R429, R243). A fault slot that
is set, and what waits for LDFs at a clause start, are kept with the workgroup (notes/assumptions/28.md). -/
def State.enterSave (s : State) (c w : Nat) : State :=
  let s := s.tellCore c w
  if !s.canSave c w then s
  else
    let wp := s.warpAt c w
    let area := match s.launch (s.wg wp.wg).launch with
      | none => 0
      | some l => (s.tenant l.tenant).area ((s.wg wp.wg).area.getD 0)
    let s := match wp.wfault with
      | none => s
      | some e => s.updWg wp.wg fun x => { x with wfaults := fset x.wfaults wp.index (e, wp.wfaddr) }
    let s := (s.ldfWaiters c wp).foldl (fun s y => s.updWg wp.wg fun x => { x with waits := fset x.waits y.1 y.2 }) s
    let wp := { wp.standDown with
      wfault := none, mode := .save, drained := false, eret := false, sv := [], sp := []
      ss := [(28, BitVec.ofNat 32 area), (29, BitVec.ofNat 32 (area / 2 ^ 32)), (30, BitVec.ofNat 32 wp.index),
             (31, BitVec.ofNat 32 (s.wg wp.wg).slots.length)] }
    let free (f : Nat × Frag) : Nat × Frag :=
      if f.2.valid && f.2.slot == w then (f.1, { f.2 with pend := false, kept := true }) else f
    (s.setWarpAt c w wp).updCore c fun k => { k with frags := k.frags.map free, slotEv := k.slotEv.filter (· != w) }
/-- SAVE_HANDLER_ENTRY of warp arg.slot of core arg.core. -/
def execSaveHandlerEntry (s : State) : Host.Outcome State Fault Refusal :=
  .next (if (s.warpAt s.arg.core s.arg.slot).saving && (s.warpAt s.arg.core s.arg.slot).mode == .tenant then
    s.enterSave s.arg.core s.arg.slot else s)

/-! ### The end of the drain (R229, R230, spec/26_faults_checkpoint.md R429, R430) -/

/-- A command stands behind an unresolved guard. -/
def State.heldNow (s : State) (c : Nat) (x : Cmd) : Bool :=
  !x.started && (x.gst == .unresolved || x.eng == 5 || (x.eng == 6 && !s.joinTurn c x))

/-- The drain has nothing left to wait for in a command. -/
def State.cmdDrained (s : State) (c : Nat) (x : Cmd) : Bool :=
  x.ended || s.heldNow c x || (x.op == 0x74) || (!x.started && x.gst != .no && !unrecorded x.op && !s.posted x.id)
  || (stopsInDrain x.op && !x.failAt && x.stopped && !s.posted x.id
      && decide (x.units < (if x.eng < 4 then x.steps else x.copyTotal)))

/-- The drain of a warp has ended; an LDF that waits at its granule is not waited for, and the workgroup's arrivals are
counted in the header that its first warp stores. -/
def State.drainDone (s : State) (c w : Nat) : Bool :=
  let k := s.core c; let wp := k.warp w
  let n := (s.wg wp.wg).launch
  let heldQuery (o : Op) : Bool := o.kind == .status && k.cmds.any fun y => y.id == o.id && !y.started
  wp.mode == .save && !wp.drained
  && ((s.wgsOf n).all fun g => g.2.st != .saving || g.2.slots.all fun v => (s.warpAt g.2.core v).mode == .save)
  && ((s.wg wp.wg).slots.all fun v => !(k.warp v).ops.any fun o => o.kind == .barArr || o.kind == .cbarArr)
  && !(wp.ops.any fun o => (o.kind.long && !heldQuery o && !s.ldfWaits c o) || o.kind == .abArr)
  && (k.cmds.filter (·.slot == w)).all fun x => s.cmdDrained c x

/-- The LDFs of a warp that wait at their granules are cancelled and listed (R38, R279). -/
def State.cancelLdfs (s : State) (c w : Nat) : State :=
  let wp := s.warpAt c w
  let ws := wp.ops.filter (s.ldfWaits c ·)
  let words := allLanes.flatMap fun l =>
    let xs := ws.filter (·.lane == l)
    ((List.range xs.length).zip xs).flatMap fun x => ldfWords l x.1 x.2
  let ids := ws.map (·.id)
  let s := { s with ldfq := s.ldfq.filter fun x => !(x.core == c && ids.contains x.op) }
  s.updWarpAt c w fun wp => { wp with ops := wp.ops.filter fun o => !ids.contains o.id, ldfs := words }

/-- The barriers of a stopped command are lowered by its completed units (R343). -/
def State.lowerDone (s : State) (c : Nat) (x : Cmd) : State :=
  if x.started && !x.ended && x.eng == 4 then
    let n := x.rowsDone
    (s.lowerD c x (heldBack x.statedD n.1 - x.loweredD)).lowerS c x (heldBack x.statedS n.2 - x.loweredS)
  else s

/-- DRAIN_COMPLETE: the remaining commands become resume records, and the handler starts. -/
def State.drained (s : State) (c w : Nat) : State :=
  let s := if (s.warpAt c w).mode = .save then s.tellCore c w else s
  if !s.drainDone c w then s
  else
    let s := s.cancelLdfs c w
    let s := ((s.core c).cmds.filter (·.slot == w)).foldl (fun s x => s.lowerDone c x) s
    let k := s.core c
    let xs := k.cmds.filter fun x => x.slot == w && !x.ended
    let n (t : Ctr) : Nat := (xs.filter (·.ctr == t)).length
    let (id, s) := s.newId
    let s := (s.updCore c fun k => { k with cmds := k.cmds.filter (·.slot != w) }).emptied c k
    let wp := k.warp w
    let wp := { wp with cmat := n .mat, ccopy := n .copy, cclr := n .clr, caux := n .aux, recs := recordsOf xs, drained := true,
                        ops := wp.ops.filter (·.kind != .status),
                        groups := [{ addr := s.entrySave, slot := 0, mask := BitVec.allOnes 32, stamp := id }] }
    ((s.setWarpAt c w wp).postAll (c / 48)).grant c (w / 16)
/-- DRAIN_COMPLETE of warp arg.slot of core arg.core. -/
def execDrainComplete (s : State) : Host.Outcome State Fault Refusal := .next (s.drained s.arg.core s.arg.slot)

end Sys2Proof.Machine
end

