-- ==== Sys2Proof/Machine/Offline.lean ====
section
/-! DEFINITION. Machine/Offline.lean: what the spec computes outside the device: utfort's recast of shards for a group of
another size (spec/26_faults_checkpoint.md R440, R441), and the egress port that a switch chooses (spec/27_fabric.md R445). -/

namespace Sys2Proof.Machine

open Sys2Proof

/-! ### Shards as utfort reads them (R437, R440) -/

/-- A shard: its header's fields, its data bytes and its residuals, role by role. -/
structure Shard where
  dtype  : Nat
  job    : Nat
  step   : Nat
  index  : Nat
  shards : Nat
  count  : Nat
  nrole  : Nat
  stream : Nat
  elems  : Nat
  data   : List Byte
  resid  : List Nat
  deriving DecidableEq, Repr

/-- Bytes of a number of elements, and the bytes of their place in a payload. -/
def elemsBytes (dtype n : Nat) : Nat := (n * WellFormed.fmtWidth dtype + 7) / 8
def dataPlace (dtype n : Nat) : Nat := (elemsBytes dtype n + 15) / 16 * 16

/-- An image's shard, or the status of the check that it fails. A payload of another length than the header's fields give
counts as a wrong header (notes/assumptions/79.md). -/
def Shard.parse (bs : List Byte) : Except Nat Shard :=
  let h := leNat (bs.take 128); let pay := bs.drop 128; let f (o k : Nat) : Nat := blockField h o k
  let dtype := f 6 1; let count := f 0x20 8; let nrole := f 0x28 4; let elems := f 0x30 8
  let plen := dataPlace dtype count + nrole * 4 * elems
  if f 0 4 ≠ 0xCA570001 ∨ f 4 2 ≠ 1 ∨ f 7 1 ≠ 0 ∨ f 0x60 32 ≠ 0 ∨ !WellFormed.fmtAssigned dtype ∨ f 0x38 8 ≠ plen ∨ pay.length ≠ plen then
    .error stRange
  else if Sha.sha256 (bs.take 0x40 ++ pay) ≠ (bs.drop 0x40).take 32 then .error stCode
  else .ok { dtype := dtype, job := f 8 8, step := f 0x10 8, index := f 0x18 4, shards := f 0x1C 4, count := count, nrole := nrole,
             stream := f 0x2C 4, elems := elems, data := pay.take (dataPlace dtype count),
             resid := (blocksOf 4 (nrole * elems) (pay.drop (dataPlace dtype count))).map leNat }

/-- A shard's image, with a fresh digest. -/
def Shard.image (x : Shard) : List Byte :=
  let pay := x.data ++ x.resid.flatMap (leBytes 4)
  let h := shardHeader x.dtype x.job x.step x.index x.shards x.count x.nrole x.stream x.elems pay.length
  h ++ Sha.sha256 (h ++ pay) ++ List.replicate 32 0#8 ++ pay

/-- The shards of some images in the order of their INDEX, once every one of them passes its own check, they are 0 to
SHARDS − 1 without a gap, and they agree; else the first failing status in the order RANGE, CODE, STEP_MISMATCH. -/
def shardSet (images : List (List Byte)) : Except Nat (List Shard) :=
  let rs := images.map Shard.parse
  let fails (st : Nat) : Bool := rs.any fun r => match r with | .error e => e == st | .ok _ => false
  let xs := rs.filterMap fun r => match r with | .ok x => some x | .error _ => none
  let n := images.length
  let ordered := (List.range n).filterMap fun i => xs.find? (·.index == i)
  match xs with
  | [] => .error (if fails stRange ∨ n = 0 then stRange else stCode)
  | a :: _ =>
    if fails stRange then .error stRange
    else if !fails stCode && (ordered.length != n || xs.any fun b => b.shards != n || b.job != a.job || b.dtype != a.dtype
        || b.nrole != a.nrole || b.stream != a.stream || b.elems != a.elems) then .error stRange
    else if fails stCode then .error stCode
    else if xs.any (·.step != a.step) then .error stMismatch
    else .ok ordered

/-! ### The recast (R440, R441) -/

/-- The exact sum of some FP32 residuals, rounded once, with NaNs and infinities as a reduction slot forms them
(spec/21_collectives.md R381). -/
def residSum (codes : List Nat) : Nat :=
  let slot : Slot := { tenant := 0, group := 0, stream := 0, seq := 0, chunk := 0, dtype := 0, size := 0, op := 0, elems := 1, root := 0 }
  (codes.foldl (fun x c => x.addElem 0 (contribOf 0 c)) slot).result 0
/-- The output shard, of m, that owns an element's residual of a role. -/
def residOwner (elems m role e : Nat) : Nat :=
  let k := chunkOwner elems m e
  if role = 0 then (k + 1) % m else k
/-- The residuals of output shard k of m, role by role. -/
def recastResid (xs : List Shard) (nrole elems m k : Nat) : List Nat :=
  (List.range nrole).flatMap fun role => (List.range elems).map fun e =>
    if residOwner elems m role e = k then residSum (xs.map fun x => x.resid.getD (role * elems + e) 0) else 0

/-- Elements of a shard. -/
def Shard.elemsOf (x : Shard) : List Nat := Sys2Proof.Machine.elemsOf (WellFormed.fmtWidth x.dtype) x.count 0 x.data

/-- utfort's output shards for m members: every one with the inputs' bytes (`repl`), or each with its part of the logical
vector. The bytes that pad a part to a multiple of 16 are `pad` (notes/assumptions/79.md). -/
def recast (images : List (List Byte)) (m : Nat) (chunked : Bool) (pad : Nat → Byte) : Except Nat (List Shard) :=
  match shardSet images with
  | .error e => .error e
  | .ok xs =>
    match xs with
    | [] => .error stRange
    | a :: _ =>
      let part (k count : Nat) (data : List Byte) : Shard :=
        { a with index := k, shards := m, count := count, data := data, resid := recastResid xs a.nrole a.elems m k }
      if !chunked then
        if xs.any fun x => x.data != a.data || x.count != a.count then .error stRange
        else .ok ((List.range m).map fun k => part k a.count a.data)
      else
        let es := xs.flatMap (·.elemsOf); let w := WellFormed.fmtWidth a.dtype
        .ok ((List.range m).map fun k =>
          let c := chunkAt es.length m k; let n := elemsBytes a.dtype c.2
          part k c.2 (leBytes n (packElems w ((es.drop c.1).take c.2))
            ++ (List.range (dataPlace a.dtype c.2 - n)).map fun i => pad (16 * k + i)))

/-! ### A switch's egress port (spec/27_fabric.md R445) -/

/-- The candidate with the lowest score, QueueFlits − FreeSlots, ties to the lower port: candidates give a port, its queued
flits and its free downstream slots. -/
def egress (es : List (Nat × Nat × Nat)) : Option Nat :=
  let score (e : Nat × Nat × Nat) : Int := (e.2.1 : Int) - e.2.2
  let better (a b : Nat × Nat × Nat) : Bool := decide (score a < score b) || (score a == score b && decide (a.1 < b.1))
  (es.foldl (fun r e => match r with | none => some e | some b => if better e b then some e else some b) none).map (·.1)

end Sys2Proof.Machine
end

