-- ==== Sys2Proof/Machine/HubEvents.lean ====
section
/-! DEFINITION. Machine/HubEvents.lean: the hub: fault records, tenant reset, the MMIO registers, ports as they
are configured, power and clocks, counters, boot and attestation (spec/28_system.md R456 to R473,
spec/26_faults_checkpoint.md R420 to R422, R435, spec/27_fabric.md R443, R451, spec/01_machine.md R17). -/

namespace Sys2Proof.Machine

open Sys2Proof

/-! ### Fault records (spec/26_faults_checkpoint.md R420 to R422) -/

/-- A record of the cause group `cause` of fragment entry i of a core, with the action taken. -/
def State.fragRecord (s : State) (c i cause action : Nat) : FaultRec :=
  let f := fget ({} : Frag) (s.core c).frags i
  let w := s.warpAt c f.slot; let x := s.wg w.wg
  let ls := (lanesOf f.mask).filter fun l => (match (w.thread l).cause with | some e => e.code | none => 0) == cause
  let va := match s.launch x.launch with | none => 0 | some l => l.recVa
  ⟨f.tenant, faultBody cause (4 * action) (maskOf ls).toNat (posWord f.addr f.pslot) ((w.thread (ls.headD 0)).faddr) va
    x.index w.index c (fragId c f.slot i).toNat⟩
/-- A record of a warp-level event: its fault slot, or its watchdog. -/
def State.warpRecord (s : State) (c slot cause action : Nat) : FaultRec :=
  let w := s.warpAt c slot; let x := s.wg w.wg
  let va := match s.launch x.launch with | none => 0 | some l => l.recVa
  let a := if w.wfault.isSome then w.wfaddr else (w.thread ((lanesOf w.liveMask).headD 0)).faddr
  ⟨w.tenant, faultBody cause (2 + 4 * action) w.liveMask.toNat 0 a va
    x.index w.index c 0⟩

/-- Where a record with a sequence number goes, unless it is dropped: CONSUMED is read, the ring has room, and the
slot is writable memory that holds no lasting error. -/
def State.ringSlot (s : State) (t seq : Nat) : Option Nat :=
  let x := s.tenant t; let k := x.ringK + 4
  match s.hubRead t x.consumed 8 with
  | .error _ => none
  | .ok c =>
    if 2 ^ k ≤ (seq + 2 ^ 32 - c % 2 ^ 32) % 2 ^ 32 then none
    else
      let va := x.ringBase + 64 * (seq % 2 ^ k)
      match s.hubTranslate t va .wr with
      | .error _ => none
      | .ok pa => if s.bad pa 64 then none else some va

/-- A record takes the tenant's next number, and is written, its number last, or dropped. -/
def State.writeRecord (s : State) (r : FaultRec) : State :=
  let seq := ((s.tenant r.tenant).faultSeq + 1) % 2 ^ 32
  let s := s.updTenant r.tenant fun t => { t with faultSeq := seq }
  match s.ringSlot r.tenant seq with
  | none => s
  | some va =>
    let s := s.hubWrite r.tenant va (leBytes 0x2C r.body)
    let s := s.hubWrite r.tenant (va + 0x30) (List.replicate 16 0#8)
    s.hubWrite r.tenant (va + 0x2C) (leBytes 4 seq)

/-- FAULT_RECORD_WRITE: the oldest record that waits. The supervisor's own records are written as it treats their
faults (Machine/Supervisor.lean). -/
def State.faultRecordWrite (s : State) : State :=
  match s.recs with | [] => s | r :: rs => ({ s with recs := rs } : State).writeRecord r
def execFaultRecordWrite (s : State) : Host.Outcome State Fault Refusal := .next s.faultRecordWrite

/-! ### Tenant reset (R463, R464) -/

/-- The launches of a tenant. -/
def State.launchOf (s : State) (t n : Nat) : Bool := match s.launch n with | none => false | some l => l.tenant == t
/-- The workgroups of a tenant that have not ended. -/
def State.wgsOfTenant (s : State) (t : Nat) : List Nat :=
  (s.wgs.filter fun x => decide (192 ≤ x.1) && s.launchOf t x.2.launch && x.2.st != .ended).map (·.1)

/-- A warp is aborted: its threads count as killed, and of its accesses only writes on their way remain. -/
def Warp.abort (w : Warp) : Warp :=
  let w := w.exitLanes (BitVec.allOnes 32)
  { w with wfault := some .warpAbort, wpend := none, mode := .tenant, eret := false, saving := false, run := none,
           groups := [], parked := [], bound := [],
           ops := w.ops.filter fun o => o.unordered && o.kind != .feTest && !o.kind.long }
def State.abortWarp (s : State) (c w : Nat) : State :=
  let ids := ((s.warpAt c w).ops.filter (·.kind == .ldf)).map (·.id)
  let s := { s with ldfq := s.ldfq.filter fun x => !(x.core == c && ids.contains x.op) }
  (s.updWarpAt c w (·.abort)).updCore c fun k => { k with frags := k.frags.map fun f =>
    if f.2.valid && f.2.slot == w then (f.1, { f.2 with valid := false, pend := false, mask := 0#32 }) else f }

/-- A tenant's collectives leave the clearing engines, and with them the ends held for it. -/
def State.abortColls (s : State) (t : Nat) (gs : List Nat) : State :=
  let mine (p : Nat × Clear) : Bool := match p.2.coll with | none => false | some x => x.tenant == t
  let keys := s.dies.flatMap fun d => (d.2.procs.filter mine).map fun p => clearKey d.1 p.1
  let die (d : Nat × Die) : Nat × Die := (d.1, { d.2 with
    queue := d.2.queue.filter (·.tenant != t), procs := d.2.procs.map fun p => if mine p then (p.1, { c := p.2.c }) else p,
    held := d.2.held.filter fun h => !gs.contains h.wg })
  { s with dies := s.dies.map die, ldfq := s.ldfq.filter fun x => !keys.contains x.core }

/-- A workgroup of a tenant under reset ends, its save area returning to the pool. -/
def State.abortWg (s : State) (t g : Nat) : State :=
  let x := s.wg g
  if x.st = .ended then s
  else ((s.freeArea t x.area).vacate g .ended).updWg g fun x => { x with area := none, failed := true }

/-- A started launch ends with ABORTED, once the stores still on their way have registered (spec/13_scheduling.md R297). -/
def State.abortLaunch (s : State) (n : Nat) : State :=
  match s.launch n with
  | none => s
  | some l =>
    let m := l.gx * l.gy * l.gz
    if l.done then s
    else (s.updLaunch n fun l => { l with status := stAborted, next := m, ended := m, told := [] }).settleLaunch n

/-- Steps 1 to 5 of a reset. -/
def State.startReset (s : State) (t : Nat) : State :=
  if (s.tenant t).resetting ∨ 16 ≤ t then s
  else
    let s := s.updTenant t fun x => { x with active := false, resetting := true,
                                             queues := x.queues.map fun q => (q.1, { q.2 with en := false }) }
    let ns := (s.launches.filter fun l => l.2.tenant == t && !l.2.done).map (·.1)
    let s := ns.foldl (fun s n => s.updLaunch n fun l => { l with status := stAborted }) s
    let gs := s.wgsOfTenant t
    let s := gs.foldl (fun s g => (s.wg g).slots.foldl (fun s w => s.abortWarp (s.wg g).core w) s) s
    let cs := s.cores.flatMap fun c => (c.2.cmds.filter fun x => x.tenant == t && !x.ended).map fun x => (c.1, x.id)
    let s := cs.foldl (fun s x => s.endCmd x.1 x.2 stAborted) s
    let s := s.abortColls t gs
    let s := gs.foldl (fun s g => s.abortWg t g) s
    let es := (s.episodes.filter fun e => e.2.tenant == t && e.2.st != .free).map (·.1)
    let s := es.foldl (fun s i => s.freeEpisode i) s
    let s := ({ s with escrow := s.escrow.filter (·.tenant != t) } : State).updTenant t fun x => { x with drops := [] }
    ns.foldl (fun s n => s.abortLaunch n) s
/-- Step 6, once every launch of the tenant has ended with its DONEA add. -/
def State.endReset (s : State) (t : Nat) : State :=
  if (s.tenant t).resetting && s.launches.all (fun l => l.2.tenant != t || l.2.done) then s.updTenant t fun x => { x with resetting := false, rgen := (x.rgen + 1) % 256 } else s

/-- TENANT_RESET of tenant arg.idx: arg.a 0, the write of RESET; 1, the end of the reset. -/
def execTenantReset (s : State) : Host.Outcome State Fault Refusal :=
  .next (if s.arg.a = 0 then s.mmio fun s => s.startReset s.arg.idx else s.endReset s.arg.idx)

/-! ### Register accesses (R456, R457, R458, R469, R472) -/

/-- QCFG (R457). -/
def Queue.writeCfg (q : Queue) (v : Nat) : Queue :=
  let en := bitOf v 31
  let q' : Queue := if q.en then q else { q with prio := bitsOf v 10 8, log2n := bitsOf v 4 0 }
  let on := en && decide (4 ≤ q'.log2n ∧ q'.log2n ≤ 16)
  if on && !q.en then { q' with en := true, error := false, tail := q'.next, met := none } else { q' with en := on }
/-- QCFG_WRITE: the value arg.b to queue arg.slot of tenant arg.idx. -/
def execQcfgWrite (s : State) : Host.Outcome State Fault Refusal :=
  .next (s.mmio fun s => if s.arg.slot < 32 ∧ s.arg.idx < 16 then s.updQueue s.arg.idx s.arg.slot fun q => q.writeCfg s.arg.b else s)

/-- TENCTL (R458). -/
def State.writeTenctl (s : State) (t v : Nat) : State :=
  if (s.tenant t).resetting then s.updTenant t fun x => { x with active := false }
  else if bitOf v 31 then s.startReset t
  else s.updTenant t fun x => { x with active := bitOf v 29 }

/-- Word i of n bits of a number is replaced. -/
def putField (old i n v : Nat) : Nat := old - bitsOf old (i + n - 1) i * 2 ^ i + v % 2 ^ n * 2 ^ i

/-- A write at an offset of a tenant block; an offset that is not listed ignores it. -/
def State.writeTenant (s : State) (t o v : Nat) : State :=
  let upd (f : Tenant → Tenant) : State := s.updTenant t f
  if o = 0 then s.writeTenctl t v
  else if o = 8 then upd fun x => { x with root := bitsOf v 55 16 * 2 ^ 16 }
  else if o = 0x10 ∨ o = 0x18 ∨ o = 0x20 then upd fun x => { x with coreset := putField x.coreset (8 * (o - 0x10)) 64 v }
  else if o = 0x30 then upd fun x => { x with poolBase := bitsOf v 54 12 * 2 ^ 12 }
  else if o = 0x38 then upd fun x => { x with poolSize := bitsOf v 31 12 * 2 ^ 12 }
  else if o = 0x3C then upd fun x => { x with poolCount := bitsOf v 15 0 }
  else if o = 0x40 then upd fun x => { x with ringBase := bitsOf v 54 12 * 2 ^ 12, ringK := bitsOf v 3 0 }
  else if o = 0x48 then upd fun x => { x with consumed := bitsOf v 54 0 }
  else if o = 0x50 then upd fun x => { x with evpage := bitsOf v 54 12 * 2 ^ 12 }
  else if 0x100 ≤ o ∧ o < 0x500 then
    let q := (o - 0x100) / 32
    let go (f : Queue → Queue) : State := s.updQueue t q fun x => if x.en then x else f x
    match (o - 0x100) % 32 with
    | 0 => s.updQueue t q fun x => x.writeCfg v
    | 8 => go fun x => { x with ring := bitsOf v 54 12 * 2 ^ 12 }
    | 0x10 => go fun x => { x with ctla := bitsOf v 54 4 * 2 ^ 4 }
    | 0x18 => s.readTail t q
    | _ => s
  else if o = 0x500 then upd fun x => { x with epver := BitVec.ofNat 32 v }
  else if o = 0x504 then upd fun x => { x with eplag := bitsOf v 15 0 }
  else if o = 0x508 then upd fun x => { x with epesc := v % 2 ^ 32 }
  else if o = 0x50C then upd fun x => { x with epjto := v % 2 ^ 32 }
  else if 0x540 ≤ o ∧ o < 0x5C0 ∧ o % 8 = 0 then
    upd fun x => { x with epq := fset x.epq ((o - 0x540) / 8) (bitsOf v 63 12 * 2 ^ 12, bitsOf v 3 0) }
  else if 0x700 ≤ o ∧ o < 0xB00 then upd fun x => { x with policy := fset x.policy (o - 0x700) (v % 256) }
  else s

/-- A write in a counter block of n counters (R469). -/
def writeCounter (m : FMap Nat) (n o v : Nat) : FMap Nat :=
  if o = 0x100 then
    let mask := 2 ^ n - 1; let old := fget 0 m 32
    fset m 32 ((v &&& mask) + ((old / 2 ^ 16) &&& (mask ^^^ (v / 2 ^ 16 &&& mask))) * 2 ^ 16)
  else if 16 * n ≤ o then m
  else match o % 16 with
    | 0 => fset m (o / 16) (v &&& 0x00F000FF)
    | 8 => fset m (16 + o / 16) (v % 2 ^ 48)
    | _ => m

/-- PORTCFG (spec/27_fabric.md R443): an enabled port trains; a disabled one is down and its links idle; no slot limit
outside Mbovas mode. -/
def Port.writeCfg (x : Port) (v : Nat) : Port :=
  let ue := if x.en then x.ue else bitOf v 30
  let limit := if ue then 0 else x.slotLimit
  if bitOf v 31 then
    if x.en then x else { x with en := true, ue := ue, slotLimit := limit, st := 1, live := 0, fails := 0 }
  else { x with en := false, ue := ue, slotLimit := limit, st := 0, live := 0, fails := 0, gap := false, gapAge := 0, failed := false,
                wantRetry := none }
/-- PORTCFG_WRITE: the value arg.b to port arg.idx. -/
def execPortcfgWrite (s : State) : Host.Outcome State Fault Refusal :=
  .next (s.mmio fun s => if s.arg.idx < 72 then s.updPort s.arg.idx fun x => x.writeCfg s.arg.b else s)

/-- A context timing register of a die: 0 FREPLAY, 1 FQUIET, 2 FREPLAYS; a 0 stores 1 (spec/27_fabric.md R451). -/
def State.writeTiming (s : State) (d r v : Nat) : State :=
  match r with
  | 0 => s.updDie d fun k => { k with freplay := max 1 (v % 2 ^ 32) }
  | 1 => s.updDie d fun k => { k with fquiet := max 1 (v % 2 ^ 32) }
  | 2 => s.updDie d fun k => { k with freplays := max 1 (v % 256) }
  | _ => s
/-- FREPLAY_WRITE: the value arg.b to register arg.idx of die arg.core. -/
def execFreplayWrite (s : State) : Host.Outcome State Fault Refusal :=
  .next (s.mmio fun s => s.writeTiming s.arg.core s.arg.idx s.arg.b)

/-! ### Power and clocks (R470 to R473) -/

def isQuarter (i : Nat) : Bool := decide (i < 16)
def Power.mhz (p : Power) (i : Nat) : Nat := fget 1050 p.freq i
/-- An island's clock target changes, and its clock with it. -/
def Power.setMhz (p : Power) (i n : Nat) : Power := { p with freq := fset p.freq i n, cur := fset p.cur i n }
/-- A target rounded down to a step; below the lowest one the spec gives no step, and the result is a free one. -/
def roundMhz (n free : Nat) : Nat :=
  if n < 400 then 400 + 25 * (free % 27) else min 1050 (n / 25 * 25)
def quarters : List Nat := List.range 16
def Power.budgetOf (p : Power) (i : Nat) : Nat := fget 64 p.budget i
def Power.swBudgetOf (p : Power) (i : Nat) : Nat := fget 64 p.swBudget i
/-- PSTAT: whether clocks are lowered for rail current, and budgets for package power (R472). -/
def Power.flags (p : Power) : Power :=
  { p with curlim := quarters.any fun i => fget 0 p.railDrop i != 0, pwrlim := quarters.any fun i => decide (p.budgetOf i < p.swBudgetOf i) }
/-- ISLFREQ (R470). -/
def State.writeFreq (s : State) (i v : Nat) : State :=
  let n := bitsOf v 10 0
  let (x, s) := s.free
  let m := if isQuarter i then roundMhz n x.toNat else n
  let p := s.power.setMhz i m
  { s with power := ({ p with swFreq := fset p.swFreq i m, railDrop := fset p.railDrop i 0 } : Power).flags }
/-- ISLFREQ_WRITE: the value arg.b to island arg.idx. -/
def execIslfreqWrite (s : State) : Host.Outcome State Fault Refusal :=
  .next (s.mmio fun s => if s.arg.idx < 24 then s.writeFreq s.arg.idx s.arg.b else s)

/-- A quarter's BUDGET changes and reaches CORE_BUDGET of its cores. -/
def State.setBudget (s : State) (i n : Nat) : State :=
  let s : State := { s with power := { s.power with budget := fset s.power.budget i n } }
  ((List.range 192).filter fun c => islandOf c == i).foldl (fun s c =>
    s.updCore c fun k => k.setCsr 2 (BitVec.ofNat 32 n)) s
/-- ISLBUDGET (R470); islands that are no compute quarters ignore it. -/
def State.writeBudget (s : State) (i v : Nat) : State :=
  if isQuarter i then
    let s := s.setBudget i (bitsOf v 7 0)
    { s with power := ({ s.power with swBudget := fset s.power.swBudget i (bitsOf v 7 0) } : Power).flags }
  else s
/-- ISLBUDGET_WRITE: the value arg.b to island arg.idx. -/
def execIslbudgetWrite (s : State) : Host.Outcome State Fault Refusal :=
  .next (s.mmio fun s => s.writeBudget s.arg.idx s.arg.b)

/-- PLIMIT (R472). -/
def State.writePlimit (s : State) (v : Nat) : State :=
  { s with power := { s.power with plimit := min 6000 (max 1000 (bitsOf v 12 0)) } }
/-- PLIMIT_WRITE of the value arg.b. -/
def execPlimitWrite (s : State) : Host.Outcome State Fault Refusal := .next (s.mmio fun s => s.writePlimit s.arg.b)

/-- Package power: budgets are lowered above PLIMIT and raised below 95 % of it (R471). -/
def State.samplePower (s : State) (mw : Nat) : State :=
  let xs := (mw :: s.power.samples).take 64
  let n := xs.length; let sum := xs.foldl (· + ·) 0; let lim := s.power.plimit
  let s : State := { s with power := { s.power with samples := xs, ppower := sum / n } }
  let s := quarters.foldl (fun (s : State) i =>
    let b := s.power.budgetOf i; let w := s.power.swBudgetOf i
    let b' := if 10 * lim * n < sum then (if b ≤ 16 then b else max 16 (b - 8))
      else if 100 * sum < 95 * 10 * lim * n then (if w ≤ b then b else min w (b + 8)) else b
    if b' = b then s else s.setBudget i b') s
  { s with power := s.power.flags }

/-- Rail current: above 12,000 A the quarters' clocks fall by some steps of 25 MHz, and rise again by one, except where a
quarter is throttled for its heat (R471, R473). -/
def Power.sampleCurrent (p : Power) (amps steps : Nat) : Power :=
  let p := { p with amps := amps % 2 ^ 16 }
  Power.flags <| quarters.foldl (fun (p : Power) i =>
    let f := p.mhz i; let d := fget 0 p.railDrop i
    if 12000 < amps then
      let g := max 400 (f - 25 * max 1 steps)
      if g < f then { p.setMhz i g with railDrop := fset p.railDrop i (d + (f - g)) } else p
    else if d = 0 ∨ p.hot.contains i then p
    else { p.setMhz i (f + min d 25) with railDrop := fset p.railDrop i (d - min d 25) }) p

/-- Junction temperatures: a quarter at 95 °C is throttled until it is below 92 °C (R473). -/
def Power.readHeat (p : Power) (temps : List Byte) : Power :=
  (quarters.zip temps).foldl (fun (p : Power) x =>
    let i := x.1; let t := x.2.toNat
    let hot := decide (95 ≤ t) || (p.hot.contains i && decide (92 ≤ t))
    { p with hot := if hot then (if p.hot.contains i then p.hot else p.hot ++ [i]) else p.hot.filter (· != i) }) p
/-- The clocks of throttled quarters fall by 25 MHz. -/
def Power.throttle (p : Power) : Power :=
  p.hot.foldl (fun (p : Power) i => if 400 < p.mhz i then p.setMhz i (max 400 (p.mhz i - 25)) else p) p

/-- The islands' power readings. -/
def Power.sampleMw (p : Power) (bs : List Byte) : Power :=
  { p with mw := ((List.range (min 24 (bs.length / 2))).map fun i => (i, leNat ((bs.drop (2 * i)).take 2))) }


/-! ### MINTSTAT (R459, R460, R473), in the form this model gives it (notes/assumptions/50.md) -/

/-- [7:0] ignored EXTENDs, [8 + i] image i failed, [16] a thermal shutdown. -/
def mintCount (n : Nat) : Nat := n / 256 * 256 + (n + 1) % 256
def mintSet (n i : Nat) : Nat := if bitOf n i then n else n + 2 ^ i
def State.updMint (s : State) (f : Mint → Mint) : State := { s with mint := f s.mint }

/-- The rails drop and the mint records the cause (R473). -/
def State.shutdown (s : State) : State :=
  ({ s with power := { s.power with down := true } } : State).updMint fun m => { m with stat := mintSet m.stat 16 }
/-- THERMAL_SHUTDOWN: a junction has reached 115 °C. -/
def execThermalShutdown (s : State) : Host.Outcome State Fault Refusal := .next s.shutdown

/-- One sample of the rails and junctions, in which a junction at 115 °C shuts the module down. -/
def State.sample (s : State) (watts amps steps : Nat) (data : List Byte) : State :=
  let s := s.samplePower watts
  let p := ((s.power.readHeat (data.take 16)).sampleCurrent amps steps).throttle
  let s : State := { s with power := if data.length ≤ 16 then p else p.sampleMw (data.drop 16) }
  if (data.take 16).any fun t => decide (115 ≤ t.toNat) then s.shutdown else s
/-- TELEMETRY_SAMPLE, every 4,096 controller cycles: package power arg.a in 0.1 W, core-rail current arg.b in A, the steps
arg.idx that bring it down; in arg.data the junction temperature of each quarter, then the power of each island. -/
def execTelemetrySample (s : State) : Host.Outcome State Fault Refusal :=
  let x := s.arg
  .next (if s.power.cycles < 4096 then s
    else ({ s with power := { s.power with cycles := s.power.cycles - 4096 } } : State).sample x.a x.b x.idx x.data)

/-! ### Counter snapshots (R468) -/

/-- The count of a counter: of a core, of a die, of the hub. -/
def State.counter (s : State) (place n : Nat) : Nat :=
  if place < 192 then
    ((s.core place).rawCsr (0x108 + n)).toNat + 2 ^ 32 * ((s.core place).rawCsr (0x110 + n)).toNat % 2 ^ 48
  else if place < 196 then fget 0 (s.die (place - 192)).ev (16 + n)
  else fget 0 s.hubEv (16 + n)
/-- Each granted counter of a tenant is written into its page, the sequence word last. -/
def State.snapshot (s : State) (t : Nat) : State :=
  let x := s.tenant t
  if x.evpage = 0 then s
  else
    let n := x.granted.length
    let s := ((List.range n).zip x.granted).foldl (fun (s : State) y =>
      s.hubWrite t (x.evpage + 8 + 8 * y.1) (leBytes 8 (s.counter y.2.1 y.2.2))) s
    let s := s.hubWrite t x.evpage (leBytes 8 (x.evseq + 1))
    s.updTenant t fun x => { x with evseq := x.evseq + 1 }
/-- EVENT_SNAPSHOT of every tenant, every 2^20 hub cycles. -/
def execEventSnapshot (s : State) : Host.Outcome State Fault Refusal :=
  .next (if s.hubCycle < 2 ^ 20 then s
    else (List.range 16).foldl (fun s t => s.snapshot t) { s with hubCycle := s.hubCycle - 2 ^ 20 })

/-! ### Boot and measurement (R459, R460, spec/01_machine.md R17) -/

/-- A measurement register, as the 32 bytes it holds. -/
def Mint.measure (m : Mint) (i : Nat) : List Byte := leBytes 32 (fget 0 m.meas i)
/-- MEASn := SHA-256(MEASn ‖ d). -/
def Mint.extend (m : Mint) (i : Nat) (d : List Byte) : Mint :=
  { m with meas := fset m.meas i (leNat (Sha.sha256 (m.measure i ++ d))) }
/-- An image is measured; one whose signature fails is named in MINTSTAT and boot stops, else it is installed. -/
def Mint.image (m : Mint) (i : Nat) (img : List Byte) (good : Bool) : Mint :=
  let m := m.extend i (Sha.sha256 img)
  if good then { m with installed := m.installed ++ [i] } else { m with stat := mintSet m.stat (8 + i), stopped := true }
/-- Boot has stopped at a failed image. -/
def Mint.halted (m : Mint) : Bool := m.stopped

/-- PACKAGE_RESET: the machine of the reset state, with the boot firmware arg.data measured, and verified when arg.a
is 1, so that system core 0 runs; the vault's boot count rises, and MINTSTAT survives unless arg.b is 0, a power-on. -/
def execPackageReset (s : State) : Host.Outcome State Fault Refusal :=
  let m : Mint := { boots := s.mint.boots + 1, stat := if s.arg.b = 0 then 0 else s.mint.stat }
  let m := m.image 0 s.arg.data (s.arg.a == 1)
  .next { State.reset with agenda := s.agenda, fresh := s.fresh, arg := s.arg,
                           mint := { m with step := if s.arg.a = 1 then 3 else 1 },
                           sys := if s.arg.a = 1 then [(0, { released := true })] else [] }
/-- System core 0, in the boot firmware, releases another (R460). -/
def State.sysRelease (s : State) (h : Nat) : State :=
  if (s.sysCore 0).released ∧ h < 16 then s.updSys h fun k => { k with released := true } else s
/-- A system core that runs changes its mode. -/
def State.setSysMode (s : State) (h : Nat) (m : SysMode) : State :=
  if (s.sysCore h).released then s.updSys h fun k => { k with mode := m } else s

/-- The supervisor image names its three entries in its first 24 bytes (notes/assumptions/51.md). -/
def State.installEntries (s : State) (img : List Byte) : State :=
  let x := leNat (img.take 24)
  { s with entrySvc := blockField x 0 8, entrySave := blockField x 8 8, entryRestore := blockField x 16 8 }

/-- IMAGE_INSTALL: image arg.idx, 1 the supervisor, 2 the clearing ROM, 3 the fabric firmware, with its bytes in
arg.data, verified when arg.a is 1; the supervisor goes to physical address arg.b. The last one locks the registers. -/
def State.installImage (s : State) (i : Nat) (img : List Byte) (good : Bool) (base : Nat) : State :=
  let m := s.mint
  if m.halted || m.locked || !m.installed.contains 0 || m.installed.contains i || decide (i < 1 ∨ 3 < i) then s
  else
    let m := m.image i img good
    let all := (List.range 4).all m.installed.contains
    let m := { m with locked := all, step := if all then 6 else 4 }
    let s : State := { s with mint := m }
    if !good then s
    else if i = 1 then
      (({ s with mem := wrBytes s.mem base img } : State).updMint fun m => { m with supBase := base, supLen := img.length }).installEntries img
    else s.updMint fun m => { m with images := fset m.images i img }
def execImageInstall (s : State) : Host.Outcome State Fault Refusal :=
  .next (s.installImage s.arg.idx s.arg.data (s.arg.a == 1) s.arg.b)

/-- The launch number of the service warps' workgroups, which no launch has. -/
def noLaunch : Nat := 2 ^ 64
/-- A core leaves reset: its service warp starts at the supervisor's entry. -/
def State.releaseCore (s : State) (c : Nat) : State :=
  let (id, s) := s.newId
  let w : Warp := ({ live := true, wg := c, tenant := 0xFF, nv := 96, ns := 32 } : Warp).start 32 s.entrySvc id
  let s := { s with wgs := fset s.wgs c { launch := noLaunch, core := c, slots := [64] } }
  (s.updCore c fun k => ({ k with released := true, stopped := false, cycle := 0 } : Core).setWarp 64 w).grant c 4

/-- A core whose service warp has stopped restarts from the measured image, its state cleared as at a change of
tenant (spec/26_faults_checkpoint.md R435). -/
def State.recoverCore (s : State) (c : Nat) : State :=
  if !(s.core c).released || !(s.residents c).isEmpty then s
  else ((s.switchTenant c 0xFF).setCore c {}).releaseCore c

/-- The boot firmware ends: the planes are fixed (spec/27_fabric.md R444). -/
def State.endBoot (s : State) : State :=
  let ps := (List.range 72).filter fun p => (s.port p).en && !(s.port p).ue
  { s with planes := ps, booted := true, mint := { s.mint with step := 7 } }

/-- CORE_RELEASE: arg.idx 0, the system cores release every compute core and clearing processor once the three images
are installed; 1, the boot firmware ends; 2, the reset of core arg.core by the hypervisor. -/
def State.coreRelease (s : State) : State :=
  if !s.mint.locked then s
  else match s.arg.idx with
    | 0 => (List.range 192).foldl (fun s c => if (s.core c).released then s else s.releaseCore c) s
    | 1 => if s.booted then s else s.endBoot
    | _ => s.recoverCore s.arg.core
def execCoreRelease (s : State) : Host.Outcome State Fault Refusal := .next s.coreRelease

/-- EXTEND: the 32-byte digest arg.data for register arg.idx; one that names MEAS0 to MEAS3 is ignored and counted
(R459). -/
def State.writeExtend (s : State) (i : Nat) (d : List Byte) : State :=
  if i < 4 then s.updMint fun m => { m with stat := mintCount m.stat }
  else if i < 8 then s.updMint (·.extend i ((d ++ List.replicate 32 0#8).take 32))
  else s
def execExtend (s : State) : Host.Outcome State Fault Refusal :=
  .next (s.mmio fun s => s.writeExtend s.arg.idx s.arg.data)

/-! ### Attestation (R461, R462) -/

/-- Bytes 0x000 to 0x15F of a report. -/
def State.report (s : State) (nonce : Nat) (meas : FMap Nat) : Nat :=
  leNat (leBytes 4 0xA7750001 ++ leBytes 4 s.mint.stat ++ leBytes 8 Config.serial.toNat ++ leBytes 8 s.mint.boots
    ++ leBytes 4 (if s.joined then s.dev else 0xFFFFFFFF) ++ leBytes 4 0 ++ leBytes 32 nonce
    ++ (List.range 8).flatMap (fun i => leBytes 32 (fget 0 meas i)) ++ leBytes 32 Config.identityKey.toNat)
/-- A whole report: the bytes it signs and their signature. -/
def reportBytes (n : Nat) : List Byte := leBytes 0x160 n ++ leBytes 7856 (Config.signature n).toNat

/-- A request with its nonce: queued, or answered BUSY the way it came while 8 wait. -/
def Mint.ask (m : Mint) (way nonce : Nat) : Mint :=
  if 8 ≤ m.queue.length then { m with busy := m.busy ++ [(way, nonce)] } else { m with queue := m.queue ++ [(way, nonce)] }
/-- The mint begins the oldest request's report: it latches the measurements. -/
def Mint.begin_ (m : Mint) : Mint :=
  match m.latched, m.queue with
  | none, (w, n) :: q => { m with queue := q, latched := some (w, n, m.meas) }
  | _, _ => m
/-- The report in hand is signed and given back the way its request came. -/
def State.sign (s : State) : State :=
  match s.mint.latched with
  | none => s
  | some (w, n, meas) =>
    (s.updMint fun m => { m with latched := none, reports := m.reports ++ [(w, s.report n meas)] }).countHub 7 15 1
/-- ATTESTATION_REQUEST: arg.b 0, a request comes by way arg.a, 0 the mint mailbox of the system cores, with its nonce in
arg.data; 1, the mint begins the next
report; 2, it gives the report in hand. -/
def execAttestationRequest (s : State) : Host.Outcome State Fault Refusal :=
  .next (match s.arg.b with
    | 0 =>
      let ask (s : State) : State := s.updMint (·.ask s.arg.a (leNat (s.arg.data.take 32)))
      if s.arg.a = 0 then s.mmio ask else ask s
    | 1 => s.updMint (·.begin_)
    | _ => s.sign)

/-! ### Registers by offset -/

/-- A register write at an offset of hub MMIO, in the register's own size; an unassigned offset raises an access
fault. -/
def State.mmioWrite (s : State) (o v : Nat) : State :=
  if 0x10000 ≤ o ∧ o < 0x10000 + 32 * 24 then
    match (o - 0x10000) % 32 with
    | 0 => s.writeFreq ((o - 0x10000) / 32) v
    | 4 => s.writeBudget ((o - 0x10000) / 32) v
    | 8 => s
    | _ => s.accessFault
  else if o = 0x10400 then s.writePlimit v
  else if o = 0x10404 ∨ o = 0x10408 ∨ o = 0x1040C then s
  else if 0x38000 ≤ o ∧ o < 0x38800 ∧ o % 0x200 ≤ 0x100 then
    s.updDie ((o - 0x38000) / 0x200) fun k => { k with ev := writeCounter k.ev 16 (o % 0x200) v }
  else if 0x38800 ≤ o ∧ o ≤ 0x38900 then { s with hubEv := writeCounter s.hubEv 8 (o - 0x38800) v }
  else if 0x40000 ≤ o ∧ o < 0x40000 + 16 * 72 ∧ o % 16 = 0 then s.updPort ((o - 0x40000) / 16) fun x => x.writeCfg v
  else if 0x40000 ≤ o ∧ o < 0x40000 + 16 * 72 ∧ o % 16 = 4 then s
  else if 0x41000 ≤ o ∧ o < 0x41000 + 16 * 4 ∧ o % 4 = 0 ∧ o % 16 ≠ 12 then s.writeTiming ((o - 0x41000) / 16) (o % 16 / 4) v
  else if 0x100000 ≤ o ∧ o < 0x200000 then s.writeTenant ((o - 0x100000) / 0x10000) (o % 0x10000) v
  else if 0x1000000 ≤ o ∧ o < 0x1000000 + 192 * 0x10000 then { s with mem := wrBytes s.mem (0x020000000000 + o) (leBytes 4 v) }
  else s.accessFault

/-! ### What the registers read as (spec/27_fabric.md R443, R451, R457, R458, R469, R470, R472) -/

/-- A read in a counter block of n counters. -/
def readCounter (m : FMap Nat) (n o : Nat) : Nat :=
  if o = 0x100 then fget 0 m 32
  else if 16 * n ≤ o then 0
  else match o % 16 with
    | 0 => fget 0x00F00000 m (o / 16)
    | 8 => fget 0 m (16 + o / 16)
    | _ => 0
/-- A register of a tenant block, in its own size; an offset that is not listed reads 0. -/
def State.readTenant (s : State) (t o : Nat) : Nat :=
  let x := s.tenant t
  if o = 0 then 2 ^ 30 * x.resetting.toNat + 2 ^ 29 * x.active.toNat + x.rgen
  else if o = 8 then x.root
  else if o = 0x10 ∨ o = 0x18 ∨ o = 0x20 then bitsOf x.coreset (8 * (o - 0x10) + 63) (8 * (o - 0x10))
  else if o = 0x30 then x.poolBase
  else if o = 0x38 then x.poolSize
  else if o = 0x3C then x.poolCount
  else if o = 0x40 then x.ringBase + x.ringK
  else if o = 0x48 then x.consumed
  else if o = 0x50 then x.evpage
  else if 0x100 ≤ o ∧ o < 0x500 then
    let q := fget ({} : Queue) x.queues ((o - 0x100) / 32)
    match (o - 0x100) % 32 with
    | 0 => 2 ^ 31 * q.en.toNat + 2 ^ 8 * q.prio + q.log2n
    | 8 => q.ring
    | 0x10 => q.ctla
    | _ => 0
  else if o = 0x500 then x.epver.toNat
  else if o = 0x504 then x.eplag
  else if o = 0x508 then x.epesc
  else if o = 0x50C then x.epjto
  else if 0x540 ≤ o ∧ o < 0x5C0 ∧ o % 8 = 0 then let q := fget (0, 0) x.epq ((o - 0x540) / 8); q.1 + q.2
  else if 0x5C0 ≤ o ∧ o < 0x5E0 ∧ o % 4 = 0 then fget 0 x.drops ((o - 0x5C0) / 4)
  else if o = 0x600 then x.faultSeq
  else if 0x700 ≤ o ∧ o < 0xB00 then fget 0 x.policy (o - 0x700)
  else 0
/-- A port's registers. -/
def Port.read (x : Port) (o : Nat) : Nat :=
  if o = 0 then 2 ^ 31 * x.en.toNat + 2 ^ 30 * x.ue.toNat + 2 ^ 26 * x.live + 2 ^ 24 * x.st + 2 ^ 16 * x.retrains else x.slotLimit
/-- An island's registers, and the package's. -/
def Power.read (p : Power) (o : Nat) : Option Nat :=
  if o < 32 * 24 then
    match o % 32 with
    | 0 => some (p.mhz (o / 32))
    | 4 => some (p.budgetOf (o / 32))
    | 8 => some (2 ^ 16 * fget 0 p.mw (o / 32) + fget 1050 p.cur (o / 32))
    | _ => none
  else match o with
    | 0x400 => some p.plimit
    | 0x404 => some p.ppower
    | 0x408 => some p.amps
    | 0x40C => some (2 * p.curlim.toNat + p.pwrlim.toNat)
    | _ => none
/-- What a system core reads at an offset of hub MMIO, in the register's own size, without an effect on the device; none
where the offset is unassigned, so that the read raises an access fault on that core (R456). -/
def State.mmioRead (s : State) (o : Nat) : Option Nat :=
  if 0x10000 ≤ o ∧ o < 0x20000 then s.power.read (o - 0x10000)
  else if 0x38000 ≤ o ∧ o < 0x38800 ∧ o % 0x200 ≤ 0x100 then some (readCounter (s.die ((o - 0x38000) / 0x200)).ev 16 (o % 0x200))
  else if 0x38800 ≤ o ∧ o ≤ 0x38900 then some (readCounter s.hubEv 8 (o - 0x38800))
  else if 0x40000 ≤ o ∧ o < 0x40000 + 16 * 72 ∧ (o % 16 = 0 ∨ o % 16 = 4) then some ((s.port ((o - 0x40000) / 16)).read (o % 16))
  else if 0x41000 ≤ o ∧ o < 0x41000 + 16 * 4 ∧ o % 4 = 0 ∧ o % 16 ≠ 12 then
    let k := s.die ((o - 0x41000) / 16)
    some (match o % 16 with | 0 => k.freplay | 4 => k.fquiet | _ => k.freplays)
  else if 0x100000 ≤ o ∧ o < 0x200000 then some (s.readTenant ((o - 0x100000) / 0x10000) (o % 0x10000))
  else if 0x1000000 ≤ o ∧ o < 0x1000000 + 192 * 0x10000 then some (s.rdN (0x020000000000 + o) 4)
  else none

/-! ### Service calls -/

/-- System software, or another device, writes memory; the installed supervisor is locked (R460). -/
def State.outsideWrite (s : State) (pa : Nat) (bs : List Byte) : State :=
  if s.imageLocked pa bs.length then s else
  let s := s.recall pa bs.length
  ({ s with mem := wrBytes s.mem pa bs, errs := s.errs.filter fun e => decide (e < pa ∨ pa + bs.length ≤ e) } : State).fillRange
    pa bs.length

/-- utfort on the system cores, over images in memory (spec/26_faults_checkpoint.md R440): arg.data gives the number of
images in 4 bytes, the address and length of each in 16, and the address of each of the arg.a outputs in 8; arg.b 1 means
the layout chunk. A failure writes nothing; the exit status is the failure's, or OK. -/
def State.utfort (s : State) : State :=
  let x := s.arg; let n := leNat (x.data.take 4)
  let ins := (blocksOf 16 n (x.data.drop 4)).map fun b => rdBytes s.mem (leNat (b.take 8)) (leNat (b.drop 8))
  let outs := (blocksOf 8 x.a (x.data.drop (4 + 16 * n))).map leNat
  match recast ins x.a (x.b == 1) fun i => BitVec.ofNat 8 (Config.freeValue (s.fresh + i)).toNat with
  | .error e => { s with utfortSt := some e }
  | .ok ys => (outs.zip ys).foldl (fun s y => s.outsideWrite y.1 y.2.image) { s with fresh := s.fresh + 16 * x.a, utfortSt := some stOk }

/-- Members of a group, four bytes each: device and die. -/
def membersOf (bs : List Byte) : List (Nat × Nat) :=
  (blocksOf 4 (bs.length / 4) bs).map fun b => (leNat (b.take 2) % 4096, leNat (b.drop 2) % 4)

/-- Registers whose place in hub MMIO the spec does not give, and what system software sets through service calls
(notes/assumptions/52.md): arg.idx names one, arg.slot a tenant. -/
def State.named (s : State) : State :=
  let x := s.arg; let t := x.slot
  match x.idx with  -- 11: a device none of whose Mbovas ports has trained stays out of the domain (spec/27_fabric.md R444)
  | 1 => { s with sysBase := x.b * 2 ^ 30 }
  | 2 => { s with sysSize := x.b * 2 ^ 30 }
  | 3 => { s with scrub := fset s.scrub x.core x.b }
  | 4 => if 1 ≤ x.b ∧ x.b ≤ 11 ∧ s.cores.all (fun k => !k.2.released) then { s with flat := x.b } else s
  | 5 => s.updTenant t fun k => { k with granted := k.granted ++ [(x.core, x.b)] }
  | 6 => s.updTenant t fun k => { k with granted := [] }
  | 7 =>
    let ms := membersOf x.data
    if ms.length < 2 ∨ 9216 < ms.length ∨ ms.eraseDups.length ≠ ms.length then s
    else
      let gone := ms.any fun m => s.lost.contains m.1 || (m.1 == s.dev && !(s.die m.2).answers)
      let die (d : Nat × Die) : Nat × Die := (d.1, { d.2 with
        counts := d.2.counts.filter fun k => !(k.1 % 16 == t && k.1 / 16 % 2 ^ 32 == x.a) })
      let s := s.revoke t x.a
      { s with groups := s.groups ++ [{ handle := x.a, tenant := t, members := ms, lost := gone }], dies := s.dies.map die }
  | 8 => s.revoke t x.a
  | 9 =>
    let n := leNat x.data
    let r : Resid := { handle := x.a, tenant := t, nstream := blockField n 0 4, nrole := blockField n 4 4,
                       elems := blockField n 8 8, base := x.b,
                       pages := (blocksOf 8 (x.data.length / 8) (x.data.drop 16)).map leNat }
    if r.pages.length * 65536 < 4 * r.nstream * r.nrole * r.elems ∨ r.nstream < 1 ∨ 65536 < r.nstream ∨ r.nrole < 1 ∨ 16 < r.nrole ∨ r.elems < 1 ∨ 2 ^ 40 < r.elems ∨ x.b % 65536 ≠ 0 then s
    else { s with resids := (s.resids.filter fun y => y.handle != x.a) ++ [r] }
  | 10 => { s with resids := s.resids.filter fun y => y.handle != x.a }
  | 11 =>
    let ds := (blocksOf 2 (x.data.length / 2) x.data).map leNat
    let up := s.planes.any fun p => (s.port p).en && !(s.port p).ue && (s.port p).st == 2
    if 2304 < ds.length ∨ !up then s else { s with dev := x.a % 4096, joined := true, domain := ds }
  | 12 => { s with lost := s.lost.filter (· != x.a) }
  | 13 => { s with ueWins := s.ueWins ++ [(x.core, x.a, x.b)] }
  | 14 => { s with ueWins := s.ueWins.filter (·.1 != x.core) }
  | 15 => s.updLaunch x.a fun l => { l with redirect := fset l.redirect x.core x.b }
  | 16 => s.asyncRec t x.a 0xFF
  | 17 =>
    let s := if s.outCores.contains x.core then s else { s with outCores := s.outCores ++ [x.core] }
    (s.residents x.core).foldl (fun s g => if (s.wg g.1).st = .resident then s.requestSaves (s.together g.1) else s) s
  | 19 =>
    let n := 72 * min 2 x.b + x.core
    { s with uePorts := if 16 ≤ t then ferase s.uePorts n else fset s.uePorts n t }
  | 18 => { s with outCores := s.outCores.filter (· != x.core) }
  | 20 => s.utfort
  | _ => s

/-- What a register whose place in hub MMIO the spec does not give reads as (R456; notes/assumptions/52.md): SYSBASE, SYSSIZE,
a scrub period, the placement count, a measurement register, MINTSTAT, the error log's length and entries, a unit's error
count, and the group and residual-object tables. -/
def State.namedRead (s : State) (i o : Nat) : Option Nat :=
  match i with
  | 1 => some (s.sysBase / 2 ^ 30)
  | 2 => some (s.sysSize / 2 ^ 30)
  | 3 => some (fget 0 s.scrub o)
  | 4 => some s.flat
  | 21 => some s.placed
  | 22 => if o < 8 then some (fget 0 s.mint.meas o) else none
  | 23 => some s.mint.stat
  | 24 => some s.log_.length
  | 25 => s.log_[o]?.map fun x => x.1 + 2 ^ 8 * x.2
  | 26 => some (fget 0 s.errCnt o)
  | 27 => s.groups[o]?.map fun g => g.handle + 2 ^ 32 * g.tenant + 2 ^ 36 * g.members.length
  | 28 => s.resids[o]?.map fun r => r.handle + 2 ^ 32 * r.tenant + 2 ^ 64 * r.base
  | 29 => s.mint.reports[o]?.map (·.2)
  | _ => none
/-- A system core reads a register: by its offset in hub MMIO, or by what names it. -/
def State.sysRead (s : State) (h i o : Nat) : State :=
  ({ s with arg := { hart := h } } : State).mmio fun s =>
    match (if i = 0 then s.mmioRead o else s.namedRead i o) with
    | none => s.accessFault
    | some v => s.updSys h fun k => { k with data := v }

/-- REGISTER_WRITE: the value arg.b to offset arg.a of hub MMIO (R456), or to what arg.idx names. -/
def execRegisterWrite (s : State) : Host.Outcome State Fault Refusal :=
  .next (s.mmio fun s => if s.arg.idx = 0 then s.mmioWrite s.arg.a s.arg.b else s.named)

end Sys2Proof.Machine
end

