-- ==== Sys2Proof/Machine/Supervisor.lean ====
section
/-! DEFINITION. Machine/Supervisor.lean: what the supervisor does with the events its core reports: the emulation of
misaligned accesses, the question to the hypervisor, and the tenant's policy (spec/26_faults_checkpoint.md R419,
R420, R423, spec/15_memory_model.md R319; notes/assumptions/73.md). -/

namespace Sys2Proof.Machine

open Sys2Proof

/-! ### Emulation (spec/15_memory_model.md R319) -/

/-- The bytes of a lane's store, each one access, up to the first that faults: that byte's cause and address, if one does. -/
def State.emuBytes (o : MOps) (l : Nat) : State → Nat → List Byte → State × Option (Cause × Nat)
  | s, _, [] => (s, none)
  | s, va, b :: bs =>
    match s.reach .wr 1 .misaligned false va with
    | .error e => (s, some (e, va))
    | .ok pa => State.emuBytes o l ((s.touch va).addOp
        { id := 0, lane := l, kind := .st, va := va, pa := pa, size := 1, data := b.toNat, rel := mRel o }) (va + 1) bs
/-- An emulated store of some lanes: they go on past it, but for those of which a byte has faulted. -/
def State.emuStore (s : State) (c i : Nat) (m : Word) (o : MOps) (next : Nat × Nat) : State :=
  let f := fget ({} : Frag) (s.core c).frags i
  let n := szBytes o.sz.toNat
  let s : State := { s with cur := { core := c, slot := f.slot, src := c } }
  let s := (lanesOf m).foldl (fun s l =>
    let t := s.warp.thread l
    match s.emuBytes o l t.faddr (leBytes n (s.warp.datum o.d o.sz.toNat l)) with
    | (s, none) => s
    | (s, some (e, va)) => s.updWarp fun w => w.updThread l fun t => { t with cause := some e, faddr := va }) s
  let ok := (lanesOf m).filter fun l => (s.warp.thread l).cause == some .misaligned
  ({ s with cur := {} } : State).resumeFrag c i (maskOf ok) (some next)
/-- An emulated load of some lanes, or of a split, begins; its bytes come one by one (Machine/CoreEvents.lean). -/
def State.emuLoad (s : State) (c i : Nat) (m : Word) (o : MOps) (once : Bool) (next : Nat × Nat) : State :=
  let w := (fget ({} : Frag) (s.core c).frags i).slot
  let ls := if once then (lanesOf m).take 1 else lanesOf m
  let s : State := { s with cur := { core := c, slot := w, src := c } }
  let s := ls.foldl (fun s l => s.addOp
    { id := 0, lane := l, kind := .emu, mask := if once then m else 0#32, va := (s.warp.thread l).faddr,
      size := szBytes o.sz.toNat, sz := o.sz.toNat, acq := mAcq o && !once, dest := some o.d,
      data2 := next.1 * 16 + next.2 }) s
  { s with cur := {} }

/-! ### Policy (R420) -/

/-- What the hypervisor has set for a tenant and a cause: 0 KILL, 1 REDIRECT, 2 HOLD, 3 REPORT. -/
def State.action (s : State) (t code : Nat) : Nat := fget 0 (s.tenant t).policy code % 4

/-- The policy for the lanes of one cause of a fragment: the record, then the action. -/
def State.policyFrag (s : State) (c i code : Nat) (m : Word) : State :=
  let f := fget ({} : Frag) (s.core c).frags i
  let a := s.action f.tenant code
  let entry : Option (Nat × Nat) := match s.launch (s.wg (s.warpAt c f.slot).wg).launch with
    | none => none
    | some l => l.redirect.find? fun x => x.1 == code
  let s := s.writeRecord (s.fragRecord c i code a)
  match a, entry with
  | 1, some x => s.resumeFrag c i m (some (x.2, 0))
  | 2, _ => s.updCore c fun k =>
      { k with heldEv := let e := f.gen * 64 + i; if k.heldEv.contains e then k.heldEv else k.heldEv ++ [e] }
  | _, _ => s.killFrag c i m
/-- The policy for a warp whose fault slot is set, or whose watchdog has expired; HOLD keeps its threads from issuing. -/
def State.policyWarp (s : State) (c w : Nat) (e : Cause) : State :=
  let a := s.action (s.warpAt c w).tenant e.code
  let s := s.writeRecord (s.warpRecord c w e.code a)
  match a with
  | 2 => (s.updWarpAt c w fun x => { x with wfault := some e }).updCore c fun k => { k with heldEv := k.heldEv ++ [2 ^ 16 + w] }
  | 3 => s
  | _ => s.killWarp c w

/-! ### One event (R419) -/

/-- The first event has been dealt with. -/
def Core.supDone (k : Core) (e : Nat) : Core := { k with reported := k.reported.erase e, supCode := 0 }
/-- The lanes of a fragment that carry a cause. -/
def State.causeLanes (s : State) (c i code : Nat) : Word :=
  let f := fget ({} : Frag) (s.core c).frags i
  maskOf ((lanesOf f.mask).filter fun l => causeCode ((s.warpAt c f.slot).thread l).cause == code)
/-- The next cause of a fragment's lanes, in ascending code. -/
def State.nextCause (s : State) (c i : Nat) : Option Nat :=
  let f := fget ({} : Frag) (s.core c).frags i
  pick (fun a b => decide (a < b)) ((((lanesOf f.mask).map fun l => causeCode ((s.warpAt c f.slot).thread l).cause)).filter fun n =>
    decide ((s.core c).supCode < n))

/-- One cause group of a fragment; `mapped` is the hypervisor's answer where it is asked. -/
def State.treatGroup (s : State) (c i code : Nat) (mapped : Bool) : State :=
  let f := fget ({} : Frag) (s.core c).frags i
  let m := s.causeLanes c i code
  let s := s.updCore c fun k => { k with supCode := code }
  if code = Cause.misaligned.code ∧ f.addr % 4 = 0 then
    match s.fragInstr c f with
    | .error (.wait va pa) => (s.fetchNeed c f.slot va pa).updCore c fun k => { k with supCode := code - 1 }
    | .ok (some (.ld o), next) => s.emuLoad c i m o false next
    | .ok (some (.sld o), next) => s.emuLoad c i m o true next
    | .ok (some (.st o), next) => s.emuStore c i m o next
    | _ => s.policyFrag c i code m
  else if (code = Cause.translation.code ∨ code = Cause.protection.code) ∧ mapped then s.resumeFrag c i m none
  else s.policyFrag c i code m

/-- The event that the supervisor takes next: the oldest reported one, FRAG_FULL after the others and once an entry is
free; with none, the one it is told of next. -/
def Core.supNext (k : Core) : Core × Option Nat :=
  let full (e : Nat) : Bool := e / 2 ^ 24 == 2 && (k.warp (e % 64)).wfault == some .fragFull
  match k.reported.find? fun e => !full e with
  | some e => (k, some e)
  | none =>
    match k.nextEvent with
    | some e => (k.report e, none)
    | none => (k, if k.freeFrag.isSome then k.reported.head? else none)

/-- The supervisor of a core goes on with its events (R419, R423). -/
def State.supervise (s : State) (c : Nat) (mapped : Bool) : State :=
  let k := s.core c
  if !k.released || k.stopped then s
  else match k.supNext with
    | (k, none) => s.setCore c k
    | (_, some e) =>
      let i := e % 64
      if e / 2 ^ 24 = 1 then
        let f := fget ({} : Frag) k.frags i
        if !f.valid || f.pend || f.kept then s.updCore c (·.supDone e)
        else if (k.warp f.slot).ops.any fun o => o.kind == .emu && (lanesOf f.mask).any o.covers then s
        else match s.nextCause c i with
          | none => s.updCore c (·.supDone e)
          | some code => s.treatGroup c i code mapped
      else
        let s := s.updCore c (·.supDone e)
        if e / 2 ^ 24 = 5 then (if (k.warp i).live then s.policyWarp c i .watchdog else s)
        else match (k.warp i).wfault with
          | none => s
          | some .fragFull => (s.clearWfault c i).settle c i
          | some x => s.policyWarp c i x

/-- The hypervisor asks for the threads of what is on HOLD to go on, or to end (R420): an entry by generation * 64 +
index with a mask of its lanes, or a warp by 2^16 + slot. -/
def State.askHeld (s : State) (c e : Nat) (kill : Bool) (m : Word) : State :=
  let k := s.core c
  if !k.released || k.stopped || !k.heldEv.contains e then s
  else if 2 ^ 16 ≤ e then
    let w := e % 64
    let s := s.updCore c fun k => { k with heldEv := k.heldEv.erase e }
    if (k.warp w).wfault.isNone then s
    else if kill then s.killWarp c w else (s.clearWfault c w).settle c w
  else
    let i := e % 64
    let f := fget ({} : Frag) k.frags i
    if !f.valid || f.kept || f.gen != e / 64 then s.updCore c fun k => { k with heldEv := k.heldEv.erase e }
    else if kill then s.killFrag c i m else s.resumeFrag c i m none

end Sys2Proof.Machine
end

