-- ==== Sys2Proof/Machine/FabricEvents.lean ====
section
/-! DEFINITION. Machine/FabricEvents.lean: what arrives over the fabric and the Ethernet ports: requests, replies,
flits, retries, the loss of a device or die (spec/27_fabric.md R443 to R455, spec/19_compression.md R359 to R361,
spec/15_memory_model.md R323, spec/21_collectives.md R383). -/

namespace Sys2Proof.Machine

open Sys2Proof

/-! ### Time at a fabric edge (R449) -/

/-- The die whose fabric-edge clock a context counts. -/
def Ctx.die (x : Ctx) : Nat := if x.core < 192 then x.core / 48 else if x.core < 196 then x.core - 192 else 0
/-- n fabric-edge cycles of a die pass. -/
def State.passEdge (s : State) (d n : Nat) : State :=
  let go (x : Ctx) : Ctx :=
    if x.die = d then { x with idle := x.idle + n, reqs := x.reqs.map fun r => { r with timer := r.timer + n } } else x
  { s with ctxs := s.ctxs.map go }.countDie d 1 15 n

/-- n cycles of a port pass: a gap it waits on grows older (spec/19_compression.md R360). -/
def State.passPort (s : State) (p n : Nat) : State :=
  s.updPort p fun x => if x.gap then { x with gapAge := x.gapAge + n } else x
/-- A virtual channel of a port loses its credit at the next hop, or has it again (R447). -/
def State.credit (s : State) (p vc : Nat) (full : Bool) : State :=
  (s.updPort p fun x => { x with full := (x.full.filter (· != vc)) ++ (if full then [vc] else []) }).pump p

/-! ### Requests that reach this device (R323, R447 to R449) -/

/-- Bytes of a store under its mask, over what memory holds. -/
def mergeBytes (mask : Nat) (new old : List Byte) : List Byte :=
  ((new.zip old).zip (List.range new.length)).map fun x => if mask = 0 ∨ mask.testBit x.2 then x.1.1 else x.1.2

def State.dropAt (s : State) (n : Nat) : State := s.updPort n fun x => { x with drops := x.drops + 1 }
/-- A queue advance for a tenant, come at a port: 16 bytes, of which all but the queue's number are 0 (R455). -/
def State.queueAdvance (s : State) (port tenant : Nat) (bs : List Byte) : State :=
  if bs.length ≠ 16 ∨ 32 ≤ leNat bs then s.dropAt port else s.readTail tenant (leNat bs)
/-- A message takes effect: a reward, a clearing message for a die, or a queue advance (R392, R369, R455); one of another
class is dropped. -/
def State.messageIn (s : State) (p : Packet) (whole : List Byte) : State :=
  match p.arg % 256 with
  | 0 => s.rewardsIn p.tenant whole
  | 1 => { s with msgs := s.msgs ++ [msgOf s.dev (p.arg / 256 % 4) whole] }
  | 2 => s.queueAdvance s.arg.idx p.tenant whole
  | _ => s.dropAt s.arg.idx

/-- A request is applied: the state, the reply's payload, and whether it failed. Words that a switch slice owns are read as
their home gives them (R453); a contribution that comes to this device is for a root here (R381). -/
def State.applyRequest (s : State) (p : Packet) (part : List Byte) : State × List Byte × Bool :=
  let pa := p.addr; let n := p.data.length
  if p.kind < 4 ∧ s.meetsSys pa (if p.kind = 0 then p.arg % 4097 else n) then (s, [], true)
  else match p.kind with
    | 0 =>
      let n := p.arg % 4097
      if s.bad pa n then (s, [], true) else (s.countHbm pa 2 p.tenant n, leBytes n (s.homeN pa n), false)
    | 1 => ((s.homePart p.tenant pa pa (mergeBytes p.bmask p.data (leBytes n (s.homeN pa n)))).1, [], false)
    | 2 =>
      let cas := bitOf p.opn 4; let m := if cas then n / 2 else n
      let x := leNat (p.data.take m); let old := s.homeN pa m
      let new := if cas then leNat (p.data.drop m) else atomicNew (p.opn % 16) m (bitOf p.opn 5) old x
      if s.bad pa m then (s.meetsError p.tenant pa pa, [], true)
      else if cas && old != x then (s, leBytes m old, false)
      else
        let r := s.homePart p.tenant pa pa (leBytes m new)
        (r.1, leBytes m old, !r.2)
    | 3 => (s.engineWrite p.tenant pa pa p.data, [], false)
    | 4 =>
      let y := (s.pushOf p).slot
      (if (s.dieOf y.tenant y.group y.root).isSome then s.rootTake y else s, [], false)
    | _ => (if bitOf p.arg 16 then s else s.messageIn p (part ++ p.data), [], false)

def Target.is (t : Target) (src ctx : Nat) : Bool := t.src == src && t.ctx == ctx
def State.target? (s : State) (src ctx : Nat) : Option Target := s.targets.find? (·.is src ctx)
def State.updTarget (s : State) (src ctx : Nat) (f : Target → Target) : State :=
  let go (t : Target) : Target := if t.is src ctx then f t else t
  { s with targets := s.targets.map go }

/-- The reply to a request. -/
def replyTo (dev : Nat) (p : Packet) (data : List Byte) (err : Bool) : Packet :=
  { kind := 6, vc := 3, typ := 0, coded := false, len := data.length, src := dev, tenant := p.tenant, dst := p.src, ctx := p.ctx,
    seq := p.seq, addr := p.addr, opn := if err then 1 else 0, bmask := 0, arg := 0, data := data }

/-- The next request of a context is applied, and its reply kept and sent. -/
def State.takeRequest (s : State) (p : Packet) : State :=
  match s.target? p.src p.ctx with
  | none => s
  | some t =>
    let (s, data, err) := s.applyRequest p t.part
    let r := replyTo s.dev p data err
    let more := p.kind == 5 && bitOf p.arg 16
    (s.updTarget p.src p.ctx fun t => { t with next := t.next + 1, replies := t.replies ++ [(p.seq, r)],
                                               part := if more then t.part ++ p.data else [] }).transmit r

/-- Held arrivals follow once the gap before them has filled. -/
def State.takeEarly (src ctx : Nat) : Nat → State → State
  | 0, s => s
  | n + 1, s =>
    match s.target? src ctx with
    | none => s
    | some t =>
      match t.early.find? fun p => p.seq == t.next % 2 ^ 32 with
      | none => s
      | some p => State.takeEarly src ctx n
          ((s.updTarget src ctx fun t => { t with early := t.early.filter (·.seq != p.seq) }).takeRequest p)

/-- A request reaches its target: in order it is applied, early it is held, and a replayed one gets its kept reply. -/
def State.requestIn (s : State) (p : Packet) : State :=
  let s := if (s.target? p.src p.ctx).isSome then s else { s with targets := s.targets ++ [{ src := p.src, ctx := p.ctx }] }
  match s.target? p.src p.ctx with
  | none => s
  | some t =>
    let d := (p.seq + 2 ^ 32 - t.next % 2 ^ 32) % 2 ^ 32
    if d = 0 then State.takeEarly p.src p.ctx t.early.length (s.takeRequest p)
    else if d < 2 ^ 31 then
      if t.early.any (·.seq == p.seq) || decide (256 ≤ t.early.length) then s
      else s.updTarget p.src p.ctx fun t => { t with early := t.early ++ [p] }
    else match t.replies.find? (·.1 == p.seq) with
      | none => s
      | some r => s.transmit r.2

/-- An acknowledgement frees the kept replies up to the SEQ it names; a context whose close came before it ends with its last
kept reply (R452). -/
def State.ackIn (s : State) (p : Packet) : State :=
  let covered (q : Nat) : Bool := decide ((p.arg + 2 ^ 32 - q) % 2 ^ 32 < 2 ^ 31)
  let s := s.updTarget p.src p.ctx fun t => { t with replies := t.replies.filter fun r => !covered r.1 }
  { s with targets := s.targets.filter fun t => !(t.is p.src p.ctx && t.closing && t.replies.isEmpty) }
/-- A context closes at its target, which keeps it while a reply is not acknowledged (R452). -/
def State.closeIn (s : State) (p : Packet) : State :=
  let s := s.updTarget p.src p.ctx fun t => { t with closing := true }
  { s with targets := s.targets.filter fun t => !(t.is p.src p.ctx && t.replies.isEmpty) }

/-! ### Replies that reach this device (R449) -/

/-- An access whose target is lost: its lanes' results return with an error; a write is gone (R172, R450). -/
def State.failOp (s : State) (c w : Nat) (o : Op) : State :=
  if o.kind.long then (s.opDone c o 0 true).afterOp c w
  else if o.kind = .far then s.opDone c o 0 true
  else if o.kind = .hga then (s.endOp c w o.id).hgaAccepted c o.data2
  else s.endOp c w o.id

/-- The collective a clearing engine of a die runs under a number, with its processor. -/
def State.collOf (s : State) (d job : Nat) : Option (Nat × Clear × Coll) :=
  (s.die d).procs.findSome? fun p => match p.2.coll with
    | some x => if x.cmd = job then some (p.1, p.2, x) else none
    | none => none
/-- The status that a command or collective ends with when a device is lost to it (R450). -/
def State.lostStatus (s : State) (src job dev : Nat) : Nat :=
  if src < 192 then stData
  else match s.collOf (src - 192) job with
    | none => stData
    | some (_, _, x) => match s.group x with
      | none => stData
      | some g => if g.members.any (·.1 == dev) then stLost else stData
/-- What a command or collective has asked of another device comes, or will not come. -/
def State.fetchIn (s : State) (r : Request) : State :=
  let alive := if r.core < 192 then (s.cmdOf r.core r.op).isSome else (s.collOf (r.core - 192) r.op).isSome
  if !alive then s
  else if r.err then { s with fetchBad := fset s.fetchBad r.op (s.lostStatus r.core r.op r.pkt.dst) }
  else
    let put (m : FMap Byte) : FMap Byte := ((List.range r.data.length).zip r.data).foldl (fun m x => fset m (r.addr + x.1) x.2) m
    { s with fetched := fset s.fetched r.op (put (fget [] s.fetched r.op)) }
/-- A chunk that a command or collective has posted is at its home, and counts on the destination barrier; or it, or a
contribution, will not come there, and the command or collective ends. -/
def State.chunkIn (s : State) (r : Request) : State :=
  if r.core < 192 then
    match s.cmdOf r.core r.op with
    | none => s
    | some x =>
      if r.err then
        if x.eng < 4 then s.matBad r.core x else s.updCmd r.core r.op fun x => { x with failAt := true, status := stData }
      else if x.eng = 4 ∧ !r.quiet then s.deliverD r.core x r.pkt.data.length else s
  else match s.collOf (r.core - 192) r.op with
    | none => s
    | some (p, c, _) =>
      if r.err ∧ c.ended.getD stOk = stOk then
        s.setProc (r.core - 192) p { c with ended := some (s.lostStatus r.core r.op r.pkt.dst) }
      else s

/-- A clearing engine's message will not come to its destination: its collective ends at its next message step or wait
(R450, spec/21_collectives.md R383). -/
def State.msgFailed (s : State) (r : Request) : State :=
  match s.msgs.find? fun m => m.req != 0 && m.req == r.op with
  | none => s
  | some m =>
    let d := r.core - 192
    let mine (p : Nat × Clear) : Option (Nat × Clear × Coll) := match p.2.coll with
      | some x => if x.tenant == m.tenant && x.fGroup == m.group && x.fStream == m.stream && x.seq == m.seq then some (p.1, p.2, x) else none
      | none => none
    match (s.die d).procs.findSome? mine with
    | none => s
    | some (p, c, x) =>
      if c.gone.isSome then s else s.setProc d p { c with gone := some (s.lostStatus r.core x.cmd m.dev) }

/-- What a request was for takes effect here. -/
def State.settleRequest (s : State) (r : Request) : State :=
  if r.kind = 3 ∨ r.kind = 4 then s.chunkIn r
  else if r.kind = 0 ∧ (s.findOp r.core r.op).isNone then s.fetchIn r
  else if r.kind = 5 then
    if r.core < 192 then
      if r.err then s.updCmd r.core r.op fun x => { x with failAt := true, status := stLost } else s.accepted r.op
    else
      let s := if r.err then s.msgFailed r else s
      if s.ctxs.any fun x => x.core == r.core && x.reqs.any (·.op == r.op) then s
      else { s with msgs := s.msgs.filter fun m => m.req == 0 || m.req != r.op }
  else match s.findOp r.core r.op with
    | none => s
    | some (w, o) =>
      if o.done then s
      else if r.err then s.failOp r.core w o
      else
        match o.kind with
        | .ld | .far | .pref => s.farLoad r.core w o r.data
        | .st => s.registerOp r.core w o
        | _ => s.farAtomic r.core w o r.data

def Ctx.is (x : Ctx) (core tenant dest : Nat) : Bool := x.core == core && x.tenant == tenant && x.dest == dest
def State.updCtx (s : State) (core tenant dest : Nat) (f : Ctx → Ctx) : State :=
  let go (x : Ctx) : Ctx := if x.is core tenant dest then f x else x
  { s with ctxs := s.ctxs.map go }
def State.ctx? (s : State) (core tenant dest : Nat) : Option Ctx := s.ctxs.find? (·.is core tenant dest)

/-- Replied requests take effect in SEQ order, up to the first without its reply. -/
def State.drainReplies (core tenant dest : Nat) : Nat → State → State
  | 0, s => s
  | n + 1, s =>
    match s.ctx? core tenant dest with
    | none => s
    | some x =>
      match x.reqs with
      | [] => s
      | r :: rs =>
        if !r.replied then s
        else State.drainReplies core tenant dest n
          ((s.updCtx core tenant dest fun x => { x with reqs := rs, acked := r.seq + 1 }).settleRequest r)

/-- A packet of a context's source that carries no request: an acknowledgement (kind 7) or a close (kind 8). -/
def State.control (s : State) (x : Ctx) (kind arg : Nat) : State :=
  s.transmit { kind := kind, vc := 4, typ := 0, coded := false, len := 0, src := s.dev, tenant := x.tenant, dst := x.dest,
               ctx := x.ctx, seq := 0, addr := 0, opn := 0, bmask := 0, arg := arg, data := [] }

/-- Replies of a context take effect, and those that have are acknowledged. -/
def State.finishReplies (s : State) (x : Ctx) : State :=
  let s := State.drainReplies x.core x.tenant x.dest x.reqs.length s
  match s.ctx? x.core x.tenant x.dest with
  | none => s
  | some y =>
    if y.acked ≤ x.acked then s
    else (s.updCtx x.core x.tenant x.dest fun y => { y with idle := 0 }).control y 7 ((y.acked - 1) % 2 ^ 32)

/-- A reply reaches its source; one that has taken effect is acknowledged once more, since its target keeps it (R452). -/
def State.replyIn (s : State) (p : Packet) : State :=
  match s.ctxs.find? fun x => x.ctx == p.ctx && x.dest == p.src with
  | none => s
  | some x =>
    let mark (r : Request) : Request :=
      if r.seq % 2 ^ 32 = p.seq ∧ !r.replied then { r with replied := true, data := p.data, err := p.opn != 0 } else r
    let x' := { x with reqs := x.reqs.map mark }
    if x.acked ≠ 0 ∧ (x.acked - 1 + 2 ^ 32 - p.seq) % 2 ^ 32 < 2 ^ 31 then
      (s.updCtx x.core x.tenant x.dest fun y => { y with idle := 0 }).control x 7 ((x.acked - 1) % 2 ^ 32)
    else (s.updCtx x.core x.tenant x.dest fun _ => x').finishReplies x'

/-! ### Coherence and results of switches (R447, R453) -/

/-- A recall of a line by its switch home: no core of this device owns its words any more, or comes to own them by a store
on its way there. -/
def State.recallIn (s : State) (p : Packet) : State :=
  let far := 2 ^ 55 + p.src * 2 ^ 40 + p.addr / 128 * 128
  ((s.recall (p.addr / 128 * 128) 128).recall far 128).staleOps far 128 none
/-- A switch slice registers as the owner of a line of this device: cores give up its words, and the slice gets their
bytes (spec/15_memory_model.md R310). -/
def State.sliceOwns (s : State) (p : Packet) : State :=
  let a := p.addr / 128 * 128
  if !isHbm a || s.inSys a then s
  else
    let s := s.recall a 128
    let ws := (List.range 32).map (· + a / 4)
    ({ s with swOwned := s.swOwned ++ ws.filter fun w => !s.swOwned.contains w } : State).transmit
      { kind := 9, vc := 6, typ := 0, coded := false, len := 128, src := s.dev, tenant := 0, dst := s.dev, ctx := 0, seq := 0,
        addr := a, opn := 2, bmask := 0, arg := 0, data := rdBytes s.mem a 128 }
/-- A switch slice forwards a line: the words it still owns enter the home order and are owned by none (R310). -/
def State.sliceWords (s : State) (p : Packet) (a : Nat) : State :=
  (List.range 32).foldl (fun (s : State) i =>
    if s.swOwned.contains (a / 4 + i) && decide (4 * i + 4 ≤ p.data.length) then
      (s.homePart p.tenant (a + 4 * i) (a + 4 * i) ((p.data.drop (4 * i)).take 4)).1 else s) s
def State.sliceForward (s : State) (p : Packet) : State :=
  let a := p.addr / 128 * 128
  let s := s.sliceWords p a
  { s with swOwned := s.swOwned.filter fun w => !inWords a 128 w, swAsked := s.swAsked.filter (· != a) }
/-- A coherence packet: 0 a recall, 1 a slice registers, 2 it forwards (notes/assumptions/31.md). -/
def State.coherenceIn (s : State) (p : Packet) : State :=
  match p.opn with
  | 0 => s.recallIn p
  | 1 => s.sliceOwns p
  | _ => s.sliceForward p
/-- A reduction result reaches a die. -/
def State.resultIn (s : State) (p : Packet) : State :=
  let t := p.tag
  { s with msgs := s.msgs ++ [{ dev := s.dev, die := t.who % 4, tenant := p.tenant, group := t.group, stream := t.stream, seq := t.seq,
                                src := t.chunk, chan := 0, kind := 3, count := p.data.length * 8 / WellFormed.fmtWidth (redOfTyp p.typ),
                                data := p.data }] }

/-- A whole packet is delivered. -/
def State.deliver (s : State) (p : Packet) : State :=
  if p.dst ≠ s.dev then s
  else if p.kind ≤ 5 then s.requestIn p
  else match p.kind with
    | 6 => s.replyIn p
    | 7 => s.ackIn p
    | 8 => s.closeIn p
    | 9 => s.coherenceIn p
    | _ => s.resultIn p
/-- A packet given as its bytes, its payload uncoded; a malformed one is discarded and counted at port arg.idx (R446). -/
def State.packetIn (s : State) (bs : List Byte) (kinds : Nat → Bool) : State :=
  if packetBad bs then s.updPort s.arg.idx fun x => { x with discards := x.discards + 1 }
  else if kinds (packetOf bs).kind then s.deliver (packetOf bs) else s

/-- FABRIC_REQUEST_ARRIVAL: the packet arg.data. -/
def execFabricRequestArrival (s : State) : Host.Outcome State Fault Refusal := .next (s.packetIn s.arg.data fun k => decide (k ≤ 5))
/-- FABRIC_REPLY_ARRIVAL: the packet arg.data. -/
def execFabricReplyArrival (s : State) : Host.Outcome State Fault Refusal := .next (s.packetIn s.arg.data fun k => k == 6)
/-- ACKNOWLEDGEMENT: the packet arg.data. -/
def execAcknowledgement (s : State) : Host.Outcome State Fault Refusal := .next (s.packetIn s.arg.data fun k => k == 7)
/-- CONTEXT_CLOSE: the packet arg.data. -/
def execContextClose (s : State) : Host.Outcome State Fault Refusal := .next (s.packetIn s.arg.data fun k => k == 8)

/-! ### Loss (R450, spec/21_collectives.md R383) -/

/-- Accesses on a device's memory that have not been answered. -/
def State.opsOn (s : State) (d : Nat) : List (Nat × Nat × Op) :=
  s.cores.flatMap fun c => c.2.warps.flatMap fun w =>
    (w.2.ops.filter fun o => isFabric o.pa && fabricDev o.pa == d && !o.done).map fun o => (c.1, w.1, o)

/-- A device is lost: its contexts end, what waits for it fails, and its members are lost to their groups. -/
def State.loseDevice (s : State) (d : Nat) : State :=
  if s.lost.contains d then s
  else
    let rs := (s.ctxs.filter (·.dest == d)).flatMap (·.reqs)
    let s := { s with lost := s.lost ++ [d], ctxs := s.ctxs.filter (·.dest != d), msgs := s.msgs.filter (·.dev != d) }
    let s := s.loseMembers fun m => m.1 == d
    let s := rs.foldl (fun s r => s.settleRequest { r with err := true }) s
    (s.opsOn d).foldl (fun s x => match s.findOp x.1 x.2.2.id with
      | none => s
      | some (w, o) => if o.done then s else s.failOp x.1 w o) s

/-- A port is up. -/
def State.portUp (s : State) (n : Nat) : Bool := (s.port n).en && (s.port n).st == 2

/-- A request has waited for FREPLAY cycles: it is sent again, or at the limit its device is lost; with only its own
plane's port down, the request alone fails. -/
def State.replayTimeout (s : State) (i seq : Nat) : State :=
  match s.ctxs[i]? with
  | none => s
  | some x =>
    match x.reqs.find? fun r => r.seq == seq && !r.replied with
    | none => s
    | some r =>
      let d := s.die x.die
      if r.timer < d.freplay then s
      else if r.sends < d.freplays + 1 then
        let again (q : Request) : Request := if q.seq = seq then { q with sends := q.sends + 1, timer := 0 } else q
        (s.updCtx x.core x.tenant x.dest fun x => { x with idle := 0, reqs := x.reqs.map again }).transmit r.pkt
      else
        let up (n : Nat) : Bool := s.portUp n && !(s.port n).ue
        let own := match s.portFor r.pkt with | none => false | some n => up n
        if own || !s.planes.any up then s.loseDevice x.dest
        else
          let fail (q : Request) : Request := if q.seq = seq then { q with replied := true, err := true } else q
          let x' := { x with reqs := x.reqs.map fail }
          (s.updCtx x.core x.tenant x.dest fun _ => x').finishReplies x'
/-- FABRIC_REPLAY_TIMEOUT of request arg.a of context arg.idx (R449, R450). -/
def execFabricReplayTimeout (s : State) : Host.Outcome State Fault Refusal := .next (s.replayTimeout s.arg.idx s.arg.a)

/-- An acknowledgement of a context is still in a port of this device. -/
def State.ackHeld (s : State) (x : Ctx) : Bool :=
  s.ports.any fun p => (p.2.waiting ++ p.2.unacked).any fun q => q.kind == 7 && q.ctx == x.ctx && q.dst == x.dest
/-- CONTEXT_QUIET_EXPIRY of context arg.idx: the source closes it, and acknowledges its replies once more before, so that a
lost acknowledgement is covered (R449, R452). -/
def State.quietExpiry (s : State) (i : Nat) : State :=
  match s.ctxs[i]? with
  | none => s
  | some x =>
    if x.reqs.isEmpty ∧ x.acked = x.next ∧ (s.die x.die).fquiet ≤ x.idle ∧ !s.ackHeld x then
      let s := { s with ctxs := s.ctxs.eraseIdx i }
      (if x.acked = 0 then s else s.control x 7 ((x.acked - 1) % 2 ^ 32)).control x 8 0
    else s
def execContextQuietExpiry (s : State) : Host.Outcome State Fault Refusal := .next (s.quietExpiry s.arg.idx)

/-- PLANE_REPORTS_UNREACHABLE: every plane reports device arg.a unreachable (R450). -/
def execPlaneReportsUnreachable (s : State) : Host.Outcome State Fault Refusal := .next (s.loseDevice s.arg.a)

/-- DIE_STOPS_ANSWERING: die arg.core of this device, where arg.idx is 0; with arg.b 1 it has stopped, and nothing of it runs
or writes any more. With arg.idx not 0, the die of device arg.idx − 1, of which the fabric has told this one (R383). -/
def State.dieStops (s : State) (d : Nat) (halt : Bool) : State :=
  (s.updDie d fun k => { k with answers := false, halted := k.halted || halt }).loseMembers fun m => m == (s.dev, d)
def execDieStopsAnswering (s : State) : Host.Outcome State Fault Refusal := 
  .next (if s.arg.idx = 0 then s.dieStops s.arg.core (s.arg.b == 1) else s.loseMembers fun m => m == (s.arg.idx - 1, s.arg.core))

/-! ### Flits (spec/19_compression.md R359 to R361) -/

/-- The far end has accepted every flit below a number. -/
def Port.ackTo (x : Port) (n : Nat) : Port :=
  match x.retry with
  | [] => x
  | f :: _ =>
    let d := (n + 65536 - f.seq) % 65536
    if x.retry.length < d then x
    else { x with retry := x.retry.drop d, unacked := x.unacked.drop ((x.retry.take d).filter (·.last)).length }

/-- Flits accepted in sequence: the port, and the bytes of the packets that are whole. -/
def Port.acceptGo : Nat → Port → Flit → Port × List (List Byte)
  | 0, x, _ => (x, [])
  | n + 1, x, f =>
    let bs := x.part ++ f.bits
    let x := { x with rxSeq := (f.seq + 1) % 65536, part := if f.last then [] else bs,
                      window := x.window.filter (·.seq != f.seq), wantRetry := none }
    let out := if f.last then [bs] else []
    match x.window.find? (·.seq == x.rxSeq) with
    | none => ({ x with gap := !x.window.isEmpty, gapAge := 0 }, out)
    | some g => let r := Port.acceptGo n x g; (r.1, out ++ r.2)

/-- A flit reaches a port: in sequence it is accepted, ahead it is held, behind it is discarded. -/
def Port.flit (x : Port) (f : Flit) : Port × List (List Byte) :=
  let d := (f.seq + 65536 - x.rxSeq) % 65536
  if d = 0 then x.acceptGo (x.window.length + 1) f
  else if d < 256 then ({ x with window := (x.window.filter (·.seq != f.seq)) ++ [f], gap := true }, [])
  else (x, [])

/-- A packet that has come whole is decoded against the port's table, which its elements advance even where it is then
discarded (spec/19_compression.md R357), and delivered. -/
def State.portPacket (s : State) (n : Nat) (bs : List Byte) : State :=
  let discard (s : State) : State := s.updPort n fun x => { x with discards := x.discards + 1 }
  let p := packetOf bs
  if bs.length < 32 ∨ p.typ = 3 then discard s
  else match decodePayload p.typ p.len p.coded ((s.port n).rxTable p.vc) p.data with
    | none => discard s
    | some (data, tab) =>
      let s := if p.typ = 0 then s else s.updPort n fun x => { x with rxTab := fset x.rxTab p.vc tab }
      if packetBad bs then discard s else s.deliver { p with data := data }

/-- FLIT_RECEIVE at port arg.idx: number arg.a, arg.b 1 on a packet's last, bits arg.data; arg.slot 1 means that its
link check fails; arg.core − 1, where it is not 0, is the number the far end expects next. -/
def State.flitIn (s : State) : State :=
  let x := s.arg
  if !s.portUp x.idx || (s.port x.idx).ue then s
  else if x.slot = 1 then s.updPort x.idx fun p => { p with failed := true }
  else
    let s := if x.core = 0 then s else (s.updPort x.idx fun p => p.ackTo ((x.core - 1) % 65536)).pump x.idx
    let r := (s.port x.idx).flit { seq := x.a % 65536, last := x.b == 1, bits := x.data }
    r.2.foldl (fun s bs => s.portPacket x.idx bs) { s with ports := fset s.ports x.idx r.1 }
def execFlitReceive (s : State) : Host.Outcome State Fault Refusal := .next s.flitIn

/-- RETRY_GAP_EXPIRY at port arg.idx: a flit has failed its check, or a gap has lasted the port's wait, whose length the
spec leaves open; a retry request names the next expected number. -/
def execRetryGapExpiry (s : State) : Host.Outcome State Fault Refusal :=
  .next (s.updPort s.arg.idx fun x =>
    if x.failed || (x.gap && decide (Config.gapWait.toNat ≤ x.gapAge)) then { x with failed := false, gapAge := 0, wantRetry := some x.rxSeq }
    else x)

/-- RETRY_REQUEST at port arg.idx, naming arg.a: the flits from there on are sent again as they were first sent, so
they stay as they are; those before it have been accepted. -/
def execRetryRequest (s : State) : Host.Outcome State Fault Refusal :=
  .next (((s.updPort s.arg.idx fun x => x.ackTo (s.arg.a % 65536)).countDie (s.arg.idx / 18) 7 16 1).pump s.arg.idx)

/-- A port trains again: tables and sequences start afresh, and packets not seen acknowledged will be coded again. -/
def Port.retrain (x : Port) : Port :=
  { x with st := 1, live := 0, txTab := [], rxTab := [], txSeq := 0, rxSeq := 0, retry := [], window := [], part := [],
           waiting := x.unacked ++ x.waiting, unacked := [], gap := false, gapAge := 0, failed := false,
           wantRetry := none }
/-- A link of a port fails: its unacknowledged flits move, with their numbers, to the others, which new flits are striped
across; without one left, the port retrains. -/
def Port.linkDown (x : Port) (i : Nat) : Port :=
  if !bitOf x.live i then x
  else
    let live := x.live - 2 ^ i
    let move (f : Flit) : Flit := if f.link = i then { f with link := stripe live f.seq } else f
    let y := { x with live := live, retry := x.retry.map move }
    if live = 0 then y.retrain else y
/-- LINK_FAILURE of link arg.a of port arg.idx. -/
def execLinkFailure (s : State) : Host.Outcome State Fault Refusal :=
  .next (s.updPort s.arg.idx fun x => if s.arg.a < 4 then x.linkDown s.arg.a else x)
/-- PORT_RETRAIN of port arg.idx. -/
def execPortRetrain (s : State) : Host.Outcome State Fault Refusal :=
  .next (s.updPort s.arg.idx fun x => if x.en then x.retrain else x)

/-- A training ends: with some links live, or failed; the eighth failure in a row fails the port (R443). -/
def Port.train (x : Port) (live slots : Nat) : Port :=
  if !x.en || x.st != 1 then x
  else if live % 16 = 0 then
    { x with fails := x.fails + 1, st := if 8 ≤ x.fails + 1 then 3 else 1 }
  else { x.retrain with st := 2, live := live % 16, fails := 0, retrains := (x.retrains + 1) % 256,
                        slotLimit := if x.ue then 0 else slots % 2 ^ 32 }
/-- PORT_TRAINING of port arg.idx: arg.a the links that are live, none for a failure; arg.b the switch's slot limit; arg.slot 1
says that the leaf switch's number of planes is another than this device's, which no Mbovas port then trains with (R444). -/
def execPortTraining (s : State) : Host.Outcome State Fault Refusal :=
  let x := s.arg
  let live := if x.slot = 1 ∧ s.booted ∧ !(s.port x.idx).ue then 0 else x.a
  .next ((s.updPort x.idx fun p => p.train live x.b).pump x.idx)

/-! ### Ultra Ethernet (R454, R455) -/

/-- A port that carries Ultra Ethernet. -/
def State.ueUp (s : State) (n : Nat) : Bool := s.portUp n && (s.port n).ue
/-- The tenant that the hypervisor has bound to an endpoint: its port's number for rewards, 72 more for queue advances, 144
more for memory. -/
def State.endpoint (s : State) (n : Nat) : Option Nat := fget none (s.uePorts.map fun y => (y.1, some y.2)) n

/-- A port answers a request with a completion: its bytes, or an error (R454). -/
def State.complete (s : State) (port : Nat) (err : Bool) (bs : List Byte) : State := { s with ueOut := s.ueOut ++ [(port, err, bs)] }
/-- The tenant of a port's memory endpoint, if n bytes lie in a window registered for it and none in the system cores' range
(R455, spec/28_system.md R462). -/
def State.ueWindow (s : State) (port pa n : Nat) : Option Nat :=
  let ok := s.ueWins.any fun w => w.1 == port && decide (w.2.1 ≤ pa ∧ pa + n ≤ w.2.1 + w.2.2)
  if s.ueUp port && ok && !s.meetsSys pa n then s.endpoint (144 + port) else none
/-- UE_RMA_WRITE of arg.data at physical address arg.a, at the memory endpoint of port arg.idx; one that no window holds has
no effect but an error completion (notes/assumptions/92.md). -/
def execUeRmaWrite (s : State) : Host.Outcome State Fault Refusal :=
  let x := s.arg
  .next (if !s.ueUp x.idx then s
    else match s.ueWindow x.idx x.a x.data.length with
      | none => s.complete x.idx true []
      | some t => (s.engineWrite t x.a x.a x.data).complete x.idx false [])
/-- An RMA read of n bytes, which R454 supports and R455 gives no endpoint: a window's bytes come back
(notes/assumptions/92.md). -/
def State.ueRead (s : State) (port pa n : Nat) : State :=
  if !s.ueUp port then s
  else match s.ueWindow port pa n with
    | none => s.complete port true []
    | some t => if s.bad pa n then s.complete port true []
                else (s.countRead pa t n).complete port false (leBytes n (s.homeN pa n))

/-- UE_QUEUE_ADVANCE: the 16 bytes arg.data at port arg.idx, for the tenant bound to its endpoint; a port with none bound
drops them. -/
def execUeQueueAdvance (s : State) : Host.Outcome State Fault Refusal :=
  let x := s.arg
  .next (if !s.ueUp x.idx then s
    else match s.endpoint (72 + x.idx) with
      | none => s.dropAt x.idx
      | some t => s.queueAdvance x.idx t x.data)

/-- UE_REWARD_SEND: 1 to 170 reward messages in arg.data at port arg.idx, for the tenant that the hypervisor has bound to
its reward endpoint (spec/23_episodes.md R392); a port with none bound drops them. -/
def execUeRewardSend (s : State) : Host.Outcome State Fault Refusal :=
  let x := s.arg; let n := x.data.length / 24
  .next (if !s.ueUp x.idx then s
    else if x.data.length % 24 ≠ 0 ∨ n < 1 ∨ 170 < n then s.dropAt x.idx
    else match s.endpoint x.idx with
      | none => s.dropAt x.idx
      | some t => s.rewardsIn t x.data)

/-- UE_UNSUPPORTED_REQUEST at port arg.idx: an error completion, and no other effect (R454). -/
def execUeUnsupportedRequest (s : State) : Host.Outcome State Fault Refusal :=
  .next (if s.ueUp s.arg.idx then s.complete s.arg.idx true [] else s)

end Sys2Proof.Machine
end

