-- ==== Sys2Proof/Machine/Dispatch.lean ====
section
/-! DEFINITION. Machine/Dispatch.lean: one arm for each instruction and event of the opcode table. -/

namespace Sys2Proof.Machine

open Sys2Proof

def exec (i : Instr) (s : State) : Host.Outcome State Fault Refusal :=
  match i with
  | .nop o => Sys2Proof.Machine.execNop o s
  | .yield o => Sys2Proof.Machine.execYield o s
  | .bra o => Sys2Proof.Machine.execBra o s
  | .brp o => Sys2Proof.Machine.execBrp o s
  | .call o => Sys2Proof.Machine.execCall o s
  | .ret o => Sys2Proof.Machine.execRet o s
  | .callx o => Sys2Proof.Machine.execCallx o s
  | .jmpx o => Sys2Proof.Machine.execJmpx o s
  | .brt o => Sys2Proof.Machine.execBrt o s
  | .exit o => Sys2Proof.Machine.execExit o s
  | .meet o => Sys2Proof.Machine.execMeet o s
  | .leave o => Sys2Proof.Machine.execLeave o s
  | .join o => Sys2Proof.Machine.execJoin o s
  | .waitm o => Sys2Proof.Machine.execWaitm o s
  | .kmov o => Sys2Proof.Machine.execKmov o s
  | .meetrd o => Sys2Proof.Machine.execMeetrd o s
  | .meetwr o => Sys2Proof.Machine.execMeetwr o s
  | .barSync o => Sys2Proof.Machine.execBarSync o s
  | .barArv o => Sys2Proof.Machine.execBarArv o s
  | .cbarSync o => Sys2Proof.Machine.execCbarSync o s
  | .cbarArv o => Sys2Proof.Machine.execCbarArv o s
  | .gopen o => Sys2Proof.Machine.execGopen o s
  | .gset o => Sys2Proof.Machine.execGset o s
  | .trap o => Sys2Proof.Machine.execTrap o s
  | .iadd o => Sys2Proof.Machine.execIadd o s
  | .isub o => Sys2Proof.Machine.execIsub o s
  | .imul o => Sys2Proof.Machine.execImul o s
  | .imulh o => Sys2Proof.Machine.execImulh o s
  | .imac o => Sys2Proof.Machine.execImac o s
  | .idiv o => Sys2Proof.Machine.execIdiv o s
  | .irem o => Sys2Proof.Machine.execIrem o s
  | .imin o => Sys2Proof.Machine.execImin o s
  | .imax o => Sys2Proof.Machine.execImax o s
  | .iabsd o => Sys2Proof.Machine.execIabsd o s
  | .iaddmin o => Sys2Proof.Machine.execIaddmin o s
  | .iaddmax o => Sys2Proof.Machine.execIaddmax o s
  | .and o => Sys2Proof.Machine.execAnd o s
  | .or o => Sys2Proof.Machine.execOr o s
  | .xor o => Sys2Proof.Machine.execXor o s
  | .andn o => Sys2Proof.Machine.execAndn o s
  | .mov o => Sys2Proof.Machine.execMov o s
  | .popc o => Sys2Proof.Machine.execPopc o s
  | .clz o => Sys2Proof.Machine.execClz o s
  | .brev o => Sys2Proof.Machine.execBrev o s
  | .movi o => Sys2Proof.Machine.execMovi o s
  | .shl o => Sys2Proof.Machine.execShl o s
  | .shr o => Sys2Proof.Machine.execShr o s
  | .sar o => Sys2Proof.Machine.execSar o s
  | .rol o => Sys2Proof.Machine.execRol o s
  | .bfx o => Sys2Proof.Machine.execBfx o s
  | .bfi o => Sys2Proof.Machine.execBfi o s
  | .lea o => Sys2Proof.Machine.execLea o s
  | .iadd64 o => Sys2Proof.Machine.execIadd64 o s
  | .icmp o => Sys2Proof.Machine.execIcmp o s
  | .sel o => Sys2Proof.Machine.execSel o s
  | .fadd o => Sys2Proof.Machine.execFadd o s
  | .fsub o => Sys2Proof.Machine.execFsub o s
  | .fmul o => Sys2Proof.Machine.execFmul o s
  | .ffma o => Sys2Proof.Machine.execFfma o s
  | .fmin o => Sys2Proof.Machine.execFmin o s
  | .fmax o => Sys2Proof.Machine.execFmax o s
  | .faddmin o => Sys2Proof.Machine.execFaddmin o s
  | .fcmp o => Sys2Proof.Machine.execFcmp o s
  | .fclass o => Sys2Proof.Machine.execFclass o s
  | .fdiv o => Sys2Proof.Machine.execFdiv o s
  | .frcp o => Sys2Proof.Machine.execFrcp o s
  | .frsq o => Sys2Proof.Machine.execFrsq o s
  | .fsqrt o => Sys2Proof.Machine.execFsqrt o s
  | .fexp2 o => Sys2Proof.Machine.execFexp2 o s
  | .flog2 o => Sys2Proof.Machine.execFlog2 o s
  | .fsin o => Sys2Proof.Machine.execFsin o s
  | .fcos o => Sys2Proof.Machine.execFcos o s
  | .ftanh o => Sys2Proof.Machine.execFtanh o s
  | .hadd2 o => Sys2Proof.Machine.execHadd2 o s
  | .hmul2 o => Sys2Proof.Machine.execHmul2 o s
  | .hfma2 o => Sys2Proof.Machine.execHfma2 o s
  | .hmin2 o => Sys2Proof.Machine.execHmin2 o s
  | .hmax2 o => Sys2Proof.Machine.execHmax2 o s
  | .dot4 o => Sys2Proof.Machine.execDot4 o s
  | .cvt o => Sys2Proof.Machine.execCvt o s
  | .cvtsr o => Sys2Proof.Machine.execCvtsr o s
  | .pack o => Sys2Proof.Machine.execPack o s
  | .unpack o => Sys2Proof.Machine.execUnpack o s
  | .qscale o => Sys2Proof.Machine.execQscale o s
  | .signq o => Sys2Proof.Machine.execSignq o s
  | .ternq o => Sys2Proof.Machine.execTernq o s
  | .lshf o => Sys2Proof.Machine.execLshf o s
  | .lperm o => Sys2Proof.Machine.execLperm o s
  | .lbc o => Sys2Proof.Machine.execLbc o s
  | .voteAll o => Sys2Proof.Machine.execVoteAll o s
  | .voteAny o => Sys2Proof.Machine.execVoteAny o s
  | .voteBallot o => Sys2Proof.Machine.execVoteBallot o s
  | .voteCount o => Sys2Proof.Machine.execVoteCount o s
  | .lred o => Sys2Proof.Machine.execLred o s
  | .lscan o => Sys2Proof.Machine.execLscan o s
  | .lmatch o => Sys2Proof.Machine.execLmatch o s
  | .sadd o => Sys2Proof.Machine.execSadd o s
  | .ssub o => Sys2Proof.Machine.execSsub o s
  | .smul o => Sys2Proof.Machine.execSmul o s
  | .sand o => Sys2Proof.Machine.execSand o s
  | .sor o => Sys2Proof.Machine.execSor o s
  | .sxor o => Sys2Proof.Machine.execSxor o s
  | .sshl o => Sys2Proof.Machine.execSshl o s
  | .sshr o => Sys2Proof.Machine.execSshr o s
  | .smin o => Sys2Proof.Machine.execSmin o s
  | .smax o => Sys2Proof.Machine.execSmax o s
  | .smov o => Sys2Proof.Machine.execSmov o s
  | .smovi o => Sys2Proof.Machine.execSmovi o s
  | .scmp o => Sys2Proof.Machine.execScmp o s
  | .sld o => Sys2Proof.Machine.execSld o s
  | .srd o => Sys2Proof.Machine.execSrd o s
  | .sfromv o => Sys2Proof.Machine.execSfromv o s
  | .ld o => Sys2Proof.Machine.execLd o s
  | .ldf o => Sys2Proof.Machine.execLdf o s
  | .ldPk o => Sys2Proof.Machine.execLdPk o s
  | .st o => Sys2Proof.Machine.execSt o s
  | .stf o => Sys2Proof.Machine.execStf o s
  | .feopSet o => Sys2Proof.Machine.execFeopSet o s
  | .feopClear o => Sys2Proof.Machine.execFeopClear o s
  | .feopTest o => Sys2Proof.Machine.execFeopTest o s
  | .atom o => Sys2Proof.Machine.execAtom o s
  | .cas o => Sys2Proof.Machine.execCas o s
  | .red o => Sys2Proof.Machine.execRed o s
  | .fenceAcq o => Sys2Proof.Machine.execFenceAcq o s
  | .fenceRel o => Sys2Proof.Machine.execFenceRel o s
  | .fenceAr o => Sys2Proof.Machine.execFenceAr o s
  | .cst o => Sys2Proof.Machine.execCst o s
  | .abinit o => Sys2Proof.Machine.execAbinit o s
  | .abexp o => Sys2Proof.Machine.execAbexp o s
  | .abarr o => Sys2Proof.Machine.execAbarr o s
  | .abwait o => Sys2Proof.Machine.execAbwait o s
  | .abtest o => Sys2Proof.Machine.execAbtest o s
  | .waitc o => Sys2Proof.Machine.execWaitc o s
  | .pref o => Sys2Proof.Machine.execPref o s
  | .hgl o => Sys2Proof.Machine.execHgl o s
  | .hga o => Sys2Proof.Machine.execHga o s
  | .obres o => Sys2Proof.Machine.execObres o s
  | .obrel o => Sys2Proof.Machine.execObrel o s
  | .obset o => Sys2Proof.Machine.execObset o s
  | .acz o => Sys2Proof.Machine.execAcz o s
  | .acrd o => Sys2Proof.Machine.execAcrd o s
  | .acwr o => Sys2Proof.Machine.execAcwr o s
  | .acst o => Sys2Proof.Machine.execAcst o s
  | .mxloop o => Sys2Proof.Machine.execMxloop o s
  | .mxstep o => Sys2Proof.Machine.execMxstep o s
  | .cpyq o => Sys2Proof.Machine.execCpyq o s
  | .gthq o => Sys2Proof.Machine.execGthq o s
  | .clpost o => Sys2Proof.Machine.execClpost o s
  | .clctlQuery o => Sys2Proof.Machine.execClctlQuery o s
  | .clctlAbort o => Sys2Proof.Machine.execClctlAbort o s
  | .epopen o => Sys2Proof.Machine.execEpopen o s
  | .epstep o => Sys2Proof.Machine.execEpstep o s
  | .epclose o => Sys2Proof.Machine.execEpclose o s
  | .rwsend o => Sys2Proof.Machine.execRwsend o s
  | .lqtake o => Sys2Proof.Machine.execLqtake o s
  | .csrrd o => Sys2Proof.Machine.execCsrrd o s
  | .csrwr o => Sys2Proof.Machine.execCsrwr o s
  | .fragrd o => Sys2Proof.Machine.execFragrd o s
  | .fragres o => Sys2Proof.Machine.execFragres o s
  | .fragkill o => Sys2Proof.Machine.execFragkill o s
  | .eret o => Sys2Proof.Machine.execEret o s
  | .svcwait o => Sys2Proof.Machine.execSvcwait o s
  | .tlbinv o => Sys2Proof.Machine.execTlbinv o s
  | .cacheop o => Sys2Proof.Machine.execCacheop o s
  | .pmctl o => Sys2Proof.Machine.execPmctl o s
  | .savex o => Sys2Proof.Machine.execSavex o s
  | .restx o => Sys2Proof.Machine.execRestx o s
  | .cld o => Sys2Proof.Machine.execCld o s
  | .clearingCst o => Sys2Proof.Machine.execClearingCst o s
  | .cadd o => Sys2Proof.Machine.execCadd o s
  | .csub o => Sys2Proof.Machine.execCsub o s
  | .cmov o => Sys2Proof.Machine.execCmov o s
  | .cmovi o => Sys2Proof.Machine.execCmovi o s
  | .cbnz o => Sys2Proof.Machine.execCbnz o s
  | .cbra o => Sys2Proof.Machine.execCbra o s
  | .csend o => Sys2Proof.Machine.execCsend o s
  | .crecv o => Sys2Proof.Machine.execCrecv o s
  | .cred o => Sys2Proof.Machine.execCred o s
  | .ccomp o => Sys2Proof.Machine.execCcomp o s
  | .csigFe o => Sys2Proof.Machine.execCsigFe o s
  | .csigAb o => Sys2Proof.Machine.execCsigAb o s
  | .cwaitFe o => Sys2Proof.Machine.execCwaitFe o s
  | .cwaitPh o => Sys2Proof.Machine.execCwaitPh o s
  | .cswred o => Sys2Proof.Machine.execCswred o s
  | .cend o => Sys2Proof.Machine.execCend o s
  | .clauseWaitMet => Sys2Proof.Machine.execClauseWaitMet s
  | .clauseWordsArrive => Sys2Proof.Machine.execClauseWordsArrive s
  | .longResultReturn => Sys2Proof.Machine.execLongResultReturn s
  | .cbarCompletion => Sys2Proof.Machine.execCbarCompletion s
  | .pageWalk => Sys2Proof.Machine.execPageWalk s
  | .storeRegistration => Sys2Proof.Machine.execStoreRegistration s
  | .homeWriteQueueApply => Sys2Proof.Machine.execHomeWriteQueueApply s
  | .loadServe => Sys2Proof.Machine.execLoadServe s
  | .matrixCommandStart => Sys2Proof.Machine.execMatrixCommandStart s
  | .matrixStep => Sys2Proof.Machine.execMatrixStep s
  | .matrixCommandEnd => Sys2Proof.Machine.execMatrixCommandEnd s
  | .copyCommandStart => Sys2Proof.Machine.execCopyCommandStart s
  | .copyDelivery => Sys2Proof.Machine.execCopyDelivery s
  | .commandEnd => Sys2Proof.Machine.execCommandEnd s
  | .collectiveStart => Sys2Proof.Machine.execCollectiveStart s
  | .clearingMessageArrival => Sys2Proof.Machine.execClearingMessageArrival s
  | .collectiveEnd => Sys2Proof.Machine.execCollectiveEnd s
  | .switchSlotTimeout => Sys2Proof.Machine.execSwitchSlotTimeout s
  | .reductionPush => Sys2Proof.Machine.execReductionPush s
  | .heldEndApply => Sys2Proof.Machine.execHeldEndApply s
  | .rewardMessage => Sys2Proof.Machine.execRewardMessage s
  | .escrowAgeExpiry => Sys2Proof.Machine.execEscrowAgeExpiry s
  | .joinTimeout => Sys2Proof.Machine.execJoinTimeout s
  | .episodeScan => Sys2Proof.Machine.execEpisodeScan s
  | .queueTailPoll => Sys2Proof.Machine.execQueueTailPoll s
  | .queueAdvance => Sys2Proof.Machine.execQueueAdvance s
  | .doorbell => Sys2Proof.Machine.execDoorbell s
  | .dependenceReread => Sys2Proof.Machine.execDependenceReread s
  | .recordStart => Sys2Proof.Machine.execRecordStart s
  | .workgroupPlacement => Sys2Proof.Machine.execWorkgroupPlacement s
  | .gangPlacement => Sys2Proof.Machine.execGangPlacement s
  | .saveHandlerEntry => Sys2Proof.Machine.execSaveHandlerEntry s
  | .drainComplete => Sys2Proof.Machine.execDrainComplete s
  | .restorePlacement => Sys2Proof.Machine.execRestorePlacement s
  | .verUpdate => Sys2Proof.Machine.execVerUpdate s
  | .watchdogExpiry => Sys2Proof.Machine.execWatchdogExpiry s
  | .mailboxMessage => Sys2Proof.Machine.execMailboxMessage s
  | .faultRecordWrite => Sys2Proof.Machine.execFaultRecordWrite s
  | .scrub => Sys2Proof.Machine.execScrub s
  | .tenantReset => Sys2Proof.Machine.execTenantReset s
  | .registerWrite => Sys2Proof.Machine.execRegisterWrite s
  | .qcfgWrite => Sys2Proof.Machine.execQcfgWrite s
  | .portcfgWrite => Sys2Proof.Machine.execPortcfgWrite s
  | .portTraining => Sys2Proof.Machine.execPortTraining s
  | .freplayWrite => Sys2Proof.Machine.execFreplayWrite s
  | .islfreqWrite => Sys2Proof.Machine.execIslfreqWrite s
  | .islbudgetWrite => Sys2Proof.Machine.execIslbudgetWrite s
  | .plimitWrite => Sys2Proof.Machine.execPlimitWrite s
  | .telemetrySample => Sys2Proof.Machine.execTelemetrySample s
  | .thermalShutdown => Sys2Proof.Machine.execThermalShutdown s
  | .eventSnapshot => Sys2Proof.Machine.execEventSnapshot s
  | .packageReset => Sys2Proof.Machine.execPackageReset s
  | .imageInstall => Sys2Proof.Machine.execImageInstall s
  | .coreRelease => Sys2Proof.Machine.execCoreRelease s
  | .extend => Sys2Proof.Machine.execExtend s
  | .attestationRequest => Sys2Proof.Machine.execAttestationRequest s
  | .fabricRequestArrival => Sys2Proof.Machine.execFabricRequestArrival s
  | .fabricReplyArrival => Sys2Proof.Machine.execFabricReplyArrival s
  | .acknowledgement => Sys2Proof.Machine.execAcknowledgement s
  | .fabricReplayTimeout => Sys2Proof.Machine.execFabricReplayTimeout s
  | .contextQuietExpiry => Sys2Proof.Machine.execContextQuietExpiry s
  | .contextClose => Sys2Proof.Machine.execContextClose s
  | .flitReceive => Sys2Proof.Machine.execFlitReceive s
  | .retryGapExpiry => Sys2Proof.Machine.execRetryGapExpiry s
  | .retryRequest => Sys2Proof.Machine.execRetryRequest s
  | .linkFailure => Sys2Proof.Machine.execLinkFailure s
  | .portRetrain => Sys2Proof.Machine.execPortRetrain s
  | .ueRmaWrite => Sys2Proof.Machine.execUeRmaWrite s
  | .ueQueueAdvance => Sys2Proof.Machine.execUeQueueAdvance s
  | .ueRewardSend => Sys2Proof.Machine.execUeRewardSend s
  | .ueUnsupportedRequest => Sys2Proof.Machine.execUeUnsupportedRequest s
  | .dieStopsAnswering => Sys2Proof.Machine.execDieStopsAnswering s
  | .planeReportsUnreachable => Sys2Proof.Machine.execPlaneReportsUnreachable s

end Sys2Proof.Machine
end

