-- ==== Sys2Proof/Machine/Turn.lean ====
section
/-! DEFINITION. Machine/Turn.lean: what one turn does, which turn comes next when the agenda names none
(notes/assumptions/3.md), and how an instruction is placed where the next step runs it
(notes/assumptions/4.md). -/

namespace Sys2Proof.Machine

open Sys2Proof

/-! ### One turn -/

/-- An instruction is about to issue: its warp's watchdog count is 0 (spec/26_faults_checkpoint.md R423). -/
def State.issuing (s : State) : State := s.updWarp fun w => { w with wdog := 0 }
/-- The outcome of the issue that a turn has prepared (spec/04_encoding.md R96). -/
def State.issue (r : State × Bool) : Host.Outcome State Fault Refusal :=
  if !r.2 then .next r.1
  else match r.1.nextInstr with
    | .none => .next r.1
    | .cause c => .next (r.1.issuing.faultOpen c).afterIssue
    | .run i => match exec i r.1.issuing with
      | .next t => .next t.afterIssue
      | .fault f => .fault f
      | .refused x => .refused x

/-- An event of the opcode table, which has no encoding. -/
def isEvent (i : Instr) : Bool := (encode i).isEmpty

/-- An event of the core that its operands name. -/
def Instr.onCore (i : Instr) : Bool :=
  match i with
  | .clauseWaitMet | .clauseWordsArrive | .loadServe | .longResultReturn | .storeRegistration | .homeWriteQueueApply
  | .saveHandlerEntry | .drainComplete | .watchdogExpiry | .matrixCommandStart | .matrixStep | .matrixCommandEnd
  | .copyCommandStart | .copyDelivery | .commandEnd | .mailboxMessage | .verUpdate | .cbarCompletion => true
  | _ => false

/-- A turn's effect. A core that has not been released runs nothing (spec/01_machine.md R17). -/
def State.doTurn (s : State) (t : Turn) : Host.Outcome State Fault Refusal :=
  match t with
  | .issue c q => if (s.core c).released && !(s.die (c / 48)).halted && decide (q < 4) then State.issue (s.turnOf c q) else .next s
  | .service c => if (s.core c).released && !(s.die (c / 48)).halted then State.issue (s.turnOfService c) else .next s
  | .clear d p =>
    (match s.clearTurn d p with
     | (t, none) => .next (s.clearOut t d p)
     | (t, some i) => match exec i t with
       | .next u => .next (s.clearOut u d p)
       | r => r)
  | .event e a =>
    if !isEvent e || (Instr.onCore e && (s.die (a.core / 48)).halted) then .next s else exec e { s with arg := a, cur := {} }
  | .cycles cls u n =>
    (match cls with
     | 0 => .next (if (s.core u).released then s.passCycles u n else s)
     | 1 => .next ({ s with joinCycle := s.joinCycle + n } : State)
     | 2 => .next (s.passEdge u n)
     | 3 => .next (s.passPort u n)
     | 6 => .next (s.passSwitch u n)
     | 4 => .next (({ s with hubCycle := s.hubCycle + n } : State).countHub 1 15 n)
     | _ => .next { s with power := { s.power with cycles := s.power.cycles + n } })
  | .write pa bs => .next (s.outsideWrite pa bs)
  | .damage pa n => .next { s with errs := s.errs ++ (List.range n).map (· + pa) }
  | .damageReg c w x => .next (s.updWarpAt c w fun wp => { wp with bad := wp.bad ++ [x] })
  | .damageBuf c r => .next (s.updCore c fun k => { k with bufBad := k.bufBad ++ [r] })
  | .damageL1 c w => .next (s.updCore c fun k =>
      if (fhas k.copies w || k.owned.contains w) && !k.l1Bad.contains w then { k with l1Bad := k.l1Bad ++ [w] } else k)
  | .damageHub n => .next (s.damageHub n)
  | .evict c w => .next (s.updCore c fun k => k.dropWords (· == w))
  | .supervise c m => .next (if (s.die (c / 48)).halted then s else s.supervise c m)
  | .askHeld c e k m => .next (s.askHeld c e k (BitVec.ofNat 32 m))
  | .credit p vc f => .next (s.credit p vc f)
  | .ueRead p pa n => .next (s.ueRead p pa n)
  | .sysMode h m => .next (s.setSysMode h m)
  | .sysRelease h => .next (s.sysRelease h)
  | .sysRead h i o => .next (s.sysRead h i o)
  | .tlbDrop c => .next ((s.updCore c fun k => { k with tlb := [] }).updDie (c / 48) fun d => { d with ltlb := [] })

/-! ### The turn that comes when the agenda is empty -/

def ev (e : Instr) (core slot idx a b : Nat) : Turn := .event e { core := core, slot := slot, idx := idx, a := a, b := b }

/-- Events of a warp that may be due. -/
def warpTurns (c w : Nat) (wp : Warp) : List Turn :=
  (if wp.parked.any (·.park == .clauseWait) then [ev .clauseWaitMet c w 0 0 0] else [])
  ++ ((wp.groups.filter fun g => g.ib && g.words == .absent).map fun g => ev .clauseWordsArrive c w 0 g.addr g.slot)
  ++ (wp.ops.flatMap fun o => match o.kind with
      | .ld | .ldf => [ev .loadServe c 0 0 o.id 0, ev .longResultReturn c 0 0 o.id 0]
      | .far | .pref | .emu => [ev .loadServe c 0 0 o.id 0]
      | .st => [ev .storeRegistration c 0 0 o.id 0]
      | _ => [ev .homeWriteQueueApply c 0 0 o.id 0, ev .longResultReturn c 0 0 o.id 0])
  ++ (if wp.saving && wp.mode == .tenant then [ev .saveHandlerEntry c w 0 0 0] else [])
  ++ (if wp.mode == .save && !wp.drained then [ev .drainComplete c w 0 0 0] else [])
  ++ (if wp.live then [ev .watchdogExpiry c w 0 0 0] else [])
/-- Events of a core that may be due. -/
def coreTurns (s : State) (c : Nat) (k : Core) : List Turn :=
  (k.warps.flatMap fun w => warpTurns c w.1 w.2)
  ++ (if k.cmds.isEmpty then [] else
      ([0, 1, 2, 3].flatMap fun e => [ev .matrixCommandStart c 0 e 0 0, ev .matrixStep c 0 e 0 0, ev .matrixCommandEnd c 0 e 0 0])
      ++ [ev .copyCommandStart c 0 0 0 0]
      ++ k.cmds.flatMap fun x => [ev .copyDelivery c 0 0 x.id 0, ev .commandEnd c 0 0 x.id 0])
  ++ (if k.tenant < 16 ∧ fget 0#32 k.ver k.tenant ≠ (s.tenant k.tenant).epver then [ev .verUpdate c 0 k.tenant 0 0] else [])
/-- Events of a die that may be due. -/
def dieTurns (d : Nat) (k : Die) : List Turn :=
  (if k.queue.isEmpty then [] else [ev .collectiveStart d 0 0 0 0])
  ++ (k.procs.filter (·.2.ended.isSome)).map (fun p => ev .collectiveEnd d 0 p.1 0 0)
  ++ (if k.held.isEmpty then [] else [ev .heldEndApply d 0 0 0 0])
/-- Events of the hub, the links and the fabric's source ends that may be due. -/
def hubTurns (s : State) : List Turn :=
  (match s.msgReady with | none => [] | some i => [ev .clearingMessageArrival 0 0 i 0 0])
  ++ (if s.pushes.isEmpty then [] else [ev .reductionPush 0 0 0 0 0])
  ++ (if s.rewardsOut.isEmpty then [] else [ev .rewardMessage 0 0 0 0 0])
  ++ (List.range s.escrow.length).map (fun i => ev .escrowAgeExpiry 0 0 i 0 0)
  ++ (s.episodes.filter (·.2.st == .closed)).map (fun e => ev .joinTimeout 0 0 e.1 0 0)
  ++ (if s.joinedQ.isEmpty then [] else [ev .episodeScan 0 0 0 0 0])
  ++ (s.launches.flatMap fun l => l.2.told.map fun x => ev .cbarCompletion x.2 0 x.1 l.1 0)
  ++ (if s.walks.isEmpty then [] else [ev .pageWalk 0 0 0 0 0])
  ++ (if s.recs.isEmpty then [] else [ev .faultRecordWrite 0 0 0 0 0])
  ++ (s.tenants.filter (·.2.resetting)).map (fun t => ev .tenantReset 0 0 t.1 1 0)
  ++ (s.tenants.flatMap fun t => (t.2.queues.filter (·.2.en)).flatMap fun q =>
      [ev .queueTailPoll 0 q.1 t.1 0 0, ev .dependenceReread 0 q.1 t.1 0 0])
  ++ [ev .recordStart 0 0 0 0 0, ev .restorePlacement 0 0 0 0 0, ev .gangPlacement 0 0 0 0 0, ev .workgroupPlacement 0 0 0 0 0,
      ev .workgroupPlacement 0 0 0 0 1]
  ++ ((List.range s.ctxs.length).zip s.ctxs).flatMap (fun x =>
      ev .contextQuietExpiry 0 0 x.1 0 0 :: x.2.reqs.map fun r => ev .fabricReplayTimeout 0 0 x.1 r.seq 0)
  ++ (if s.mint.latched.isSome then [ev .attestationRequest 0 0 0 0 2]
      else if s.mint.queue.isEmpty then [] else [ev .attestationRequest 0 0 0 0 1])

/-- A state apart from whose turn it was. -/
def State.plain (s : State) : State := { s with agenda := [], cur := {}, arg := {}, flow := .advance }
/-- A turn changes something. -/
def State.moves (s : State) (t : Turn) : Bool :=
  match s.doTurn t with
  | .next u => decide (u.plain ≠ s.plain)
  | _ => true

/-- The partition of a core, or its service warp, that has something to issue; the first tried turns with %cycle. -/
def State.coreReady (s : State) (c : Nat) : Option Turn :=
  let k := s.core c
  let busy (w : Nat) : Bool := (k.warp w).run.isSome || s.ready c w
  let qs := (List.range 4).map fun i => (i + k.cycle) % 4
  match qs.find? fun q => (partSlots q).any busy with
  | some q => some (.issue c q)
  | none => if !k.stopped && busy 64 then some (.service c) else none

/-- The default: an event that is due, else a clearing processor that can go on, else the core with the fewest
cycles among those with something to issue, else time passes on a core. -/
def State.defaultTurn (s : State) : Turn :=
  let events := (s.cores.flatMap fun c => coreTurns s c.1 c.2) ++ (s.dies.flatMap fun d => dieTurns d.1 d.2) ++ hubTurns s
  let clears := s.dies.flatMap fun d => (d.2.procs.filter fun p => p.2.coll.isSome && p.2.ended.isNone).map fun p => Turn.clear d.1 p.1
  match (events ++ clears).find? s.moves with
  | some t => t
  | none =>
    let on := s.cores.filter (·.2.released)
    let go := on.filterMap fun c => (s.coreReady c.1).map fun t => (c.2.cycle, t)
    match pick (fun a b => decide (a.1 < b.1)) go with
    | some x => x.2
    | none =>
      match pick (fun (a b : Nat × Core) => decide (a.2.cycle < b.2.cycle)) on with
      | some c => .cycles 0 c.1 1
      | none => .cycles 1 0 1

/-- The next turn, and the state it finds. -/
def State.nextTurn (s : State) : Turn × State :=
  match s.agenda with
  | [] => (s.defaultTurn, s)
  | t :: ts => (t, { s with agenda := ts })

/-- A package reset, the one turn that a machine without power takes (spec/28_system.md R473). -/
def isReset (t : Turn) : Bool := match t with | .event .packageReset _ => true | _ => false

/-- One step. -/
def State.oneStep (s : State) : Host.Outcome State Fault Refusal :=
  let (t, s) := s.nextTurn
  if s.power.down && !isReset t then .fault .poweredOff else s.doTurn t

/-! ### Placing an instruction (notes/assumptions/4.md) -/

/-- Where the placed clause lies, by virtual and physical address. -/
def placedAt : Nat := 0x100000
/-- Page tables of tenant 0 that map the first 512 MiB to themselves, readable, writable and executable. -/
def placeTables (m : List Host.Cell) : List Host.Cell :=
  wrBytes (wrBytes m 0x10000 (leBytes 8 (2 ^ 63 + 0x20000))) 0x20000 (leBytes 8 (2 ^ 63 + 2 ^ 62 + 2 ^ 61 + 2 ^ 60 + 2 ^ 59))
/-- The clause: a header of one instruction of its class, the instruction's words. -/
def placeWords (v : Nat) : List Word :=
  let w := BitVec.ofNat 32 v
  let h := BitVec.ofNat 32 (1 + 16 * (Decode.classOf (Decode.opcode w)).getD 0)
  if Decode.xbit w then [h, w, BitVec.ofNat 32 (v / 2 ^ 32)] else [h, w]
def placeBytes (ws : List Word) : List Byte := ws.flatMap fun w => leBytes 4 w.toNat

/-- A warp with 32 active threads at the placed clause. -/
def placeWarp (ws : List Word) : Warp :=
  { live := true, nv := 96, ns := 32, nt := 16, na := 16,
    th := allLanes.map fun l => (l, { st := .active, addr := placedAt }),
    groups := [{ addr := placedAt, slot := 0, mask := BitVec.allOnes 32, ib := true, words := .present ws }] }

/-- Core 0 runs the clause next: in a tenant warp, in the service warp for a SYS instruction, and in a restore handler
for an ERET. -/
def State.placeCore (s : State) (v : Nat) : State :=
  let ws := placeWords v
  let w := BitVec.ofNat 32 v
  let sys := decide (Decode.classOf (Decode.opcode w) = some 3)
  let eret := Decode.opcode w == 0x7C && v / 2 ^ 21 % 8 == 0
  let s := { s with mem := wrBytes (placeTables s.mem) placedAt (placeBytes ws) }
  let s := s.updTenant 0 fun t => { t with root := 0x10000 }
  if sys && !eret then
    let s := s.updWg 0 fun _ => { launch := noLaunch, core := 0, slots := [64] }
    let s := s.updCore 0 fun k => ({ k with released := true, stopped := false } : Core).setWarp 64 { placeWarp ws with tenant := 0xFF }
    { s with agenda := [.service 0] }
  else
    let s := s.updWg 300 fun _ =>
      { launch := noLaunch, core := 0, slots := [0], lsize := 0x10000, st := if eret then .restoring else .resident }
    let wp : Warp := { placeWarp ws with wg := 300, mode := if eret then .restore else .tenant, drained := eret }
    let s := s.updCore 0 fun k => ({ k with released := true, tenant := 0, parts := [] } : Core).setWarp 0 wp
    { s with agenda := [.issue 0 0] }

/-- Clearing processor 0 of die 0 runs a program whose next word is placed. -/
def State.placeClear (s : State) (v : Nat) : State :=
  let s := { s with mem := wrBytes (placeTables s.mem) placedAt (leBytes 4 v) }
  let s := s.updTenant 0 fun t => { t with root := 0x10000 }
  let x : Coll := { id := 0, tenant := 0, core := 0, slot := 0, cmd := 0, wg := 300, va := 0, block := 3 * 2 ^ 32, seq := 0,
                    local_ := 0, lsize := 0 }
  let s := s.setProc 0 0 { coll := some x, pc := placedAt, size := 2 }
  { s with agenda := [.clear 0 0] }

/-- The instruction of w, its bits above nbits zero, stands where the next step takes it. -/
def State.placeWord (s : State) (nbits w : Nat) : State :=
  let v := w % 2 ^ nbits
  match Decode.bytes (leBytes 8 v) with
  | .ok _ => s.placeCore v
  | .error _ =>
    match Decode.clr (BitVec.ofNat 32 v) with
    | .ok _ => s.placeClear v
    | .error _ => s.placeCore v

end Sys2Proof.Machine
end

