-- ==== Sys2Proof/Machine/Step.lean ====
section
/-! DEFINITION. Machine/Step.lean: the step, and the placing of an instruction for it. -/

namespace Sys2Proof.Machine

open Sys2Proof

/-- One step of the machine: the next turn of its agents. -/
def step (s : State) : Host.Outcome State Fault Refusal := s.oneStep

/-- The instruction whose bits are w, placed where the next step runs it (notes/assumptions/4.md). -/
def State.withFetchWord (s : State) (nbits w : Nat) : State := s.placeWord nbits w

end Sys2Proof.Machine
end

