-- ==== Sys2Proof/Safety.lean ====
section
/-! DEFINITION. Safety.lean: what counts as a safe run, in the terms the statements use. -/

namespace Sys2Proof

/-- What a row of the opcode table is: an instruction of a warp, an instruction of a clearing processor, or an event of
the machine, which has no encoding. -/
inductive Form where
  | core | clearing | event
  deriving DecidableEq, Repr

/-- The form of each row of the opcode table. -/
def formOf : Instr → Form
  | .nop _ | .yield _ | .bra _ | .brp _ | .call _ | .ret _ | .callx _ | .jmpx _ | .brt _ | .exit _
  | .meet _ | .leave _ | .join _ | .waitm _ | .kmov _ | .meetrd _ | .meetwr _ | .barSync _ | .barArv _
  | .cbarSync _ | .cbarArv _ | .gopen _ | .gset _ | .trap _ | .iadd _ | .isub _ | .imul _ | .imulh _
  | .imac _ | .idiv _ | .irem _ | .imin _ | .imax _ | .iabsd _ | .iaddmin _ | .iaddmax _ | .and _ | .or _
  | .xor _ | .andn _ | .mov _ | .popc _ | .clz _ | .brev _ | .movi _ | .shl _ | .shr _ | .sar _ | .rol _
  | .bfx _ | .bfi _ | .lea _ | .iadd64 _ | .icmp _ | .sel _ | .fadd _ | .fsub _ | .fmul _ | .ffma _
  | .fmin _ | .fmax _ | .faddmin _ | .fcmp _ | .fclass _ | .fdiv _ | .frcp _ | .frsq _ | .fsqrt _
  | .fexp2 _ | .flog2 _ | .fsin _ | .fcos _ | .ftanh _ | .hadd2 _ | .hmul2 _ | .hfma2 _ | .hmin2 _
  | .hmax2 _ | .dot4 _ | .cvt _ | .cvtsr _ | .pack _ | .unpack _ | .qscale _ | .signq _ | .ternq _
  | .lshf _ | .lperm _ | .lbc _ | .voteAll _ | .voteAny _ | .voteBallot _ | .voteCount _ | .lred _
  | .lscan _ | .lmatch _ | .sadd _ | .ssub _ | .smul _ | .sand _ | .sor _ | .sxor _ | .sshl _ | .sshr _
  | .smin _ | .smax _ | .smov _ | .smovi _ | .scmp _ | .sld _ | .srd _ | .sfromv _ | .ld _ | .ldf _
  | .ldPk _ | .st _ | .stf _ | .feopSet _ | .feopClear _ | .feopTest _ | .atom _ | .cas _ | .red _
  | .fenceAcq _ | .fenceRel _ | .fenceAr _ | .cst _ | .abinit _ | .abexp _ | .abarr _ | .abwait _
  | .abtest _ | .waitc _ | .pref _ | .hgl _ | .hga _ | .obres _ | .obrel _ | .obset _ | .acz _ | .acrd _
  | .acwr _ | .acst _ | .mxloop _ | .mxstep _ | .cpyq _ | .gthq _ | .clpost _ | .clctlQuery _
  | .clctlAbort _ | .epopen _ | .epstep _ | .epclose _ | .rwsend _ | .lqtake _ | .csrrd _ | .csrwr _
  | .fragrd _ | .fragres _ | .fragkill _ | .eret _ | .svcwait _ | .tlbinv _ | .cacheop _ | .pmctl _
  | .savex _ | .restx _ => .core
  | .cld _ | .clearingCst _ | .cadd _ | .csub _ | .cmov _ | .cmovi _ | .cbnz _ | .cbra _ | .csend _
  | .crecv _ | .cred _ | .ccomp _ | .csigFe _ | .csigAb _ | .cwaitFe _ | .cwaitPh _ | .cswred _ | .cend _ => .clearing
  | .clauseWaitMet | .clauseWordsArrive | .longResultReturn | .cbarCompletion | .pageWalk
  | .storeRegistration | .homeWriteQueueApply | .loadServe | .matrixCommandStart | .matrixStep
  | .matrixCommandEnd | .copyCommandStart | .copyDelivery | .commandEnd | .collectiveStart
  | .clearingMessageArrival | .collectiveEnd | .switchSlotTimeout | .reductionPush | .heldEndApply
  | .rewardMessage | .escrowAgeExpiry | .joinTimeout | .episodeScan | .queueTailPoll | .queueAdvance
  | .doorbell | .dependenceReread | .recordStart | .workgroupPlacement | .gangPlacement | .saveHandlerEntry
  | .drainComplete | .restorePlacement | .verUpdate | .watchdogExpiry | .mailboxMessage | .faultRecordWrite
  | .scrub | .tenantReset | .registerWrite | .qcfgWrite | .portcfgWrite | .portTraining | .freplayWrite
  | .islfreqWrite | .islbudgetWrite | .plimitWrite | .telemetrySample | .thermalShutdown | .eventSnapshot
  | .packageReset | .imageInstall | .coreRelease | .extend | .attestationRequest | .fabricRequestArrival
  | .fabricReplyArrival | .acknowledgement | .fabricReplayTimeout | .contextQuietExpiry | .contextClose
  | .flitReceive | .retryGapExpiry | .retryRequest | .linkFailure | .portRetrain | .ueRmaWrite
  | .ueQueueAdvance | .ueRewardSend | .ueUnsupportedRequest | .dieStopsAnswering | .planeReportsUnreachable => .event

end Sys2Proof

namespace Sys2Proof.Machine

open Sys2Proof

/-- A state whose memory is in its canonical form. -/
def State.memOk (s : State) : Bool := memWf s.mem

/-- An outcome that is a next state. -/
def completes (o : Host.Outcome State Fault Refusal) : Prop := ∃ t, o = .next t

/-- A step that answers a next state, and leaves memory canonical. -/
def safeStep (s : State) : Prop := ∃ t, step s = .next t ∧ t.memOk = true

/-- Every one of the first n steps from a state is safe. -/
def safeRun : Nat → State → Prop
  | 0, s => s.memOk = true
  | n + 1, s => ∃ t, step s = .next t ∧ t.memOk = true ∧ safeRun n t

/-! ### What an instruction needs of its warp, and what it leaves alone -/

/-- The conditions under which a core instruction has its own effect: the privilege of a SYS instruction (R233), the
instructions a handler may run and its own context (R235, R244), the declared counts (spec/02_state.md R19), and operand
registers that hold no lasting error (spec/26_faults_checkpoint.md R425). -/
def Runs (i : Instr) (s : State) : Prop :=
  (isSys i = true → s.cur.slot = 64 ∨ s.warp.mode ≠ .tenant)
  ∧ (svcOnly i = true → s.cur.slot = 64)
  ∧ (isSys i = true → refOk (s.cur.slot == 64) i = true)
  ∧ (namesMask i = true → s.warp.mode = .tenant)
  ∧ s.warp.countsOk i = true
  ∧ s.warp.readsBad s.mask i = false

/-- With the acting warp blanked in both, the states are equal: nothing outside the acting warp differs. And every byte of
memory reads as before. -/
def OnlyWarp (s t : State) : Prop := t.setWarp {} = s.setWarp {} ∧ ∀ a, rd8 t.mem a = rd8 s.mem a

/-- The outstanding results of a warp, apart from the note that a later uniform write stands (spec/06_vector.md R151). -/
def Warp.pending (w : Warp) : List Op := w.ops.map fun o => { o with skip := 0 }

/-- The registers of the acting warp after an instruction: register c reads `f c l` in lane l where that is given, and as
before where it is not; no other part of the warp differs but for lasting errors cleared, and nothing outside the warp. -/
def Results (s t : State) (f : Nat → Nat → Option Word) : Prop :=
  OnlyWarp s t
  ∧ (∀ c l, c < 128 → l < 32 → t.warp.reg c l = (f c l).getD (s.warp.reg c l))
  ∧ t.warp = { s.warp with v := t.warp.v, s := t.warp.s, sv := t.warp.sv, ss := t.warp.ss, bad := t.warp.bad, ops := t.warp.ops }
  ∧ t.warp.pending = s.warp.pending
  ∧ ∀ x ∈ t.warp.bad, x ∈ s.warp.bad

/-- An instruction that completes with `f` in the registers, wherever it runs. -/
def Computes (i : Instr) (s : State) (f : Nat → Nat → Option Word) : Prop :=
  i.wf = true → Runs i s → ∃ t, exec i s = .next t ∧ Results s t f

/-- One vector register written in each lane of the issuing split. -/
def inLanes (s : State) (d : BitVec 7) (v : Nat → Word) (c l : Nat) : Option Word :=
  if c = d.toNat ∧ s.mask.getLsbD l = true then some (v l) else none

/-- One uniform register written once for the split. -/
def inUniform (d : BitVec 7) (v : Word) (c _l : Nat) : Option Word := if c = d.toNat then some v else none

/-- A 64-bit value per lane of the split, low word first, in a pair of vector registers. -/
def inPairs (s : State) (d : BitVec 7) (v : Nat → Nat) (c l : Nat) : Option Word :=
  if s.mask.getLsbD l = true then
    if c = d.toNat then some (BitVec.ofNat 32 (v l)) else if c = d.toNat + 1 then some (BitVec.ofNat 32 (v l / 2 ^ 32)) else none
  else none

/-- A destination that is a vector or a uniform register, written with one value for the split. -/
def inEither (s : State) (d : BitVec 7) (v : Word) : Nat → Nat → Option Word :=
  if 96 ≤ d.toNat then inUniform d v else inLanes s d fun _ => v

/-- The predicates of the acting warp after an instruction: predicate p reads `f l` in each lane l of the split, p7 keeps
reading true, and nothing else differs but for lasting errors cleared. -/
def Predicates (s t : State) (p : Nat) (f : Nat → Bool) : Prop :=
  OnlyWarp s t
  ∧ (∀ q l, q < 8 → l < 32 → t.warp.pred q l = if q = p ∧ p ≠ 7 ∧ s.mask.getLsbD l = true then f l else s.warp.pred q l)
  ∧ (∀ l, l < 32 → { t.warp.thread l with preds := 0 } = { s.warp.thread l with preds := 0 })
  ∧ t.warp = { s.warp with th := t.warp.th, sp := t.warp.sp, bad := t.warp.bad }
  ∧ ∀ x ∈ t.warp.bad, x ∈ s.warp.bad

/-- A long result of the issuing split: one outstanding operation for each of its lanes, in lane order after the earlier
ones, that is to write `f l` to register d of lane l; nothing else differs but the number of the next operation. -/
def LongResults (s t : State) (d : BitVec 7) (f : Nat → Word) : Prop :=
  (∀ a, rd8 t.mem a = rd8 s.mem a)
  ∧ t.setWarp {} = { s.setWarp {} with nextId := t.nextId }
  ∧ t.warp = { s.warp with ops := t.warp.ops }
  ∧ ∃ os, t.warp.ops = s.warp.ops ++ os ∧ os.map (·.lane) = s.lanes
      ∧ ∀ o ∈ os, o.kind = .fn ∧ o.dest = some d ∧ o.done = true ∧ o.err = false ∧ o.val = (f o.lane).toNat

/-- An instruction that completes with an outstanding long result of the split, wherever it runs. -/
def ComputesLong (i : Instr) (s : State) (d : BitVec 7) (f : Nat → Word) : Prop :=
  i.wf = true → Runs i s → ∃ t, exec i s = .next t ∧ LongResults s t d f

/-- An instruction that completes with predicate p written in each lane of the split, wherever it runs. -/
def ComputesPred (i : Instr) (s : State) (p : Nat) (f : Nat → Bool) : Prop :=
  i.wf = true → Runs i s → ∃ t, exec i s = .next t ∧ Predicates s t p f

/-- An instruction that completes with a vector register written in each lane of the split, given by its elements of width
w: element k of lane l is `f l k`. -/
def ComputesElems (i : Instr) (s : State) (d : BitVec 7) (w : Nat) (f : Nat → Nat → Nat) : Prop :=
  i.wf = true → Runs i s → ∃ t v, exec i s = .next t ∧ Results s t (inLanes s d v)
    ∧ ∀ l k, l < 32 → s.mask.getLsbD l = true → k < 32 / w → elemN w (v l) k = f l k

/-- Element k of an operand in lane l, as a value of the instruction's type (spec/06_vector.md R129): a, the permuted b, the
b that is not permuted, and the old d. -/
def elA (o : VOps) (s : State) (l k : Nat) : Int := tyVal (vTy o) (elemN (tyWidth (vTy o)) (s.warp.reg o.a.toNat l) k)
def elB (o : VOps) (s : State) (l k : Nat) : Int := tyVal (vTy o) (elemN (tyWidth (vTy o)) (s.warp.regB s.mask o l) k)
def elD (o : VOps) (s : State) (l k : Nat) : Int := tyVal (vTy o) (elemN (tyWidth (vTy o)) (s.warp.reg o.d.toNat l) k)

/-- Element k of an operand in lane l, as bits. -/
def bitsA (o : VOps) (s : State) (l k : Nat) : Nat := elemN (tyWidth (vTy o)) (s.warp.reg o.a.toNat l) k
def bitsB (o : VOps) (s : State) (l k : Nat) : Nat := elemN (tyWidth (vTy o)) (s.warp.regB s.mask o l) k
def bitsC (o : VOps) (s : State) (l k : Nat) : Nat := elemN (tyWidth (vTy o)) (s.warp.reg o.b.toNat l) k

/-- The value of a finite number in units of 2^-k, where it is a whole number of them. -/
def inUnits (k : Nat) (neg : Bool) (m : Nat) (e : Int) : Option Int :=
  if 0 ≤ e + k then some ((if neg then -1 else 1) * (m * 2 ^ (e + k).toNat : Nat)) else none
def FVal.units (k : Nat) : FVal → Option Int
  | .fin n m e => inUnits k n m e
  | _ => none
def Ex.units (k : Nat) : Ex → Option Int
  | .zero _ => some 0
  | .num n (.rat m 1 e) => inUnits k n m e
  | _ => none

/-! ### Where threads go, and what they leave outstanding -/

/-- An instruction that completes in a state that p describes, wherever it runs. -/
def Reaches (i : Instr) (s : State) (p : State → Prop) : Prop := i.wf = true → Runs i s → ∃ t, exec i s = .next t ∧ p t

/-- A lane stands in the warp's group at a position. -/
def Warp.inGroup (w : Warp) (a p l : Nat) : Prop := ∃ g ∈ w.groups, g.addr = a ∧ g.slot = p ∧ g.mask.getLsbD l = true

/-- Of the dies nothing differs but their event counters, which count the walks that accesses start (spec/28_system.md
R466). -/
def DieCounts (s t : State) : Prop := ∀ d, t.die d = { s.die d with ev := (t.die d).ev }

/-- No byte of memory differs, and outside the acting warp nothing but the number of the next operation, the walks that
its accesses have started and the events that count them. -/
def OnlyWarpIds (s t : State) : Prop :=
  (∀ a, rd8 t.mem a = rd8 s.mem a)
  ∧ t.setWarp {} = { s.setWarp {} with nextId := t.nextId, walks := t.walks, dies := t.dies }
  ∧ s.nextId ≤ t.nextId ∧ DieCounts s t ∧ ∃ ws, t.walks = s.walks ++ ws

/-- Reads that an instruction makes as it issues: walks they have started, the events they count in the core's and the dies'
counters, and copies in the core's L1 that they have made give way. -/
def OnlyReads (s t : State) : Prop :=
  let k := s.core s.cur.core; let k' := t.core s.cur.core
  t = { s with cores := t.cores, walks := t.walks, dies := t.dies } ∧ DieCounts s t
  ∧ (∀ c, c ≠ s.cur.core → t.core c = s.core c)
  ∧ k' = { k with copies := k'.copies, l1Bad := k'.l1Bad, csr := k'.csr } ∧ (∀ n, n < 0x100 → k'.rawCsr n = k.rawCsr n)
  ∧ (∀ x ∈ k'.copies, x ∈ k.copies) ∧ (∀ x ∈ k'.l1Bad, x ∈ k.l1Bad) ∧ ∃ ws, t.walks = s.walks ++ ws

/-- A control transfer of the issuing split (spec/05_control.md R101, R108, spec/04_encoding.md R77): its run has ended, and
each of its threads stands at its target's first slot: behind a marker with results outstanding, it waits for them there; held,
where its meet names the target and the mask has it; else in the group there, and without its meet where the mask that this
names does not have it (spec/12_divergence.md R267). The other threads, and every other warp, are as they were. -/
def Transfers (s t : State) (target : Nat → Nat) : Prop :=
  t = { s with cores := t.cores, nextId := t.nextId, flow := .moved }
  ∧ (∀ c, c ≠ s.cur.core → t.core c = s.core c) ∧ (∀ w, w ≠ s.cur.slot → t.warpAt s.cur.core w = s.warpAt s.cur.core w)
  ∧ t.core s.cur.core = { s.core s.cur.core with warps := (t.core s.cur.core).warps, parts := (t.core s.cur.core).parts }
  ∧ t.warp = { s.warp with th := t.warp.th, groups := t.warp.groups, bound := t.warp.bound, run := none }
  ∧ (∀ a p l, s.mask.getLsbD l = false → (t.warp.inGroup a p l ↔ s.warp.inGroup a p l))
  ∧ ∀ l, l < 32 →
    let x := s.warp.thread l; let y := t.warp.thread l
    let there := { x with addr := target l, slot := 0, wait := .none }
    if s.mask.getLsbD l = false then y = x
    else if s.marked = true ∧ s.warp.awaits l = true then
      fget (0, 1) t.warp.bound l = (target l, 0) ∧ (s.warp.mode = .tenant → y = { there with st := .active })
    else if s.warp.mode = .tenant ∧ meetValid x.meet = true ∧ s.warp.inMask (meetMask x.meet) l = false then
      y = { there with st := .active, meet := meetClear x.meet } ∧ t.warp.inGroup (target l) 0 l
    else if s.warp.mode = .tenant ∧ meetValid x.meet = true ∧ meetAddr x.meet = target l then y = { there with st := .held }
    else (s.warp.mode = .tenant → y = { there with st := .active })
      ∧ (s.warp.mode = .tenant ∨ s.warp.drained = true → t.warp.inGroup (target l) 0 l)

/-- The convergence masks and the threads of the acting warp after an instruction; nothing else differs. -/
def Masks (s t : State) (mk : Nat → Word) (th : Nat → Thread) : Prop :=
  OnlyWarp s t ∧ t.warp = { s.warp with k := t.warp.k, th := t.warp.th }
  ∧ (∀ j, t.warp.kmask j = mk j) ∧ ∀ l, l < 32 → t.warp.thread l = th l

/-- Some lanes leave the split to wait inside the instruction: each keeps its position, with the one it is to go on at; the
other lanes stay in the split (spec/04_encoding.md R80). -/
def Waits (s : State) (w : Warp) (ls : List Nat) (f : Thread → Thread) : Prop :=
  w.run = s.warp.run.map (fun r => { r with mask := r.mask &&& ~~~(maskOf ls) })
  ∧ ∀ l, l < 32 → w.thread l = if l ∈ ls then
      f { s.warp.thread l with addr := s.here.1, slot := s.here.2, naddr := s.nextPos.1, nslot := s.nextPos.2, nmark := s.marked }
    else s.warp.thread l

/-- Operations join the acting warp's outstanding ones, in the order of some lanes; nothing else of it differs. -/
def Adds (s t : State) (ls : List Nat) (op : Nat → Op) : Prop :=
  OnlyWarpIds s t ∧ t.warp = { s.warp with ops := t.warp.ops }
  ∧ ∃ os, t.warp.ops = s.warp.ops ++ os ∧ os.map (·.lane) = ls
    ∧ ∀ o ∈ os, s.nextId ≤ o.id ∧ o = { op o.lane with id := o.id }

/-- The accesses of a split (spec/08_memory_isa.md R171, R268): each lane whose address passes its checks adds its operation, on
its physical address; each other lane parks with its cause, its address in the fragment-table entry that was the lowest free
one, and leaves the split. No byte of memory and no register differs. -/
def Accesses (s t : State) (acc : Nat → Except Cause Nat) (va : Nat → Nat) (op : Nat → Nat → Op) : Prop :=
  (∀ a, rd8 t.mem a = rd8 s.mem a)
  ∧ t = { s with cores := t.cores, nextId := t.nextId, walks := t.walks, dies := t.dies } ∧ DieCounts s t
  ∧ (∀ c, c ≠ s.cur.core → t.core c = s.core c) ∧ (∀ w, w ≠ s.cur.slot → t.warpAt s.cur.core w = s.warpAt s.cur.core w)
  ∧ (∃ k, t.core s.cur.core = { s.core s.cur.core with
      warps := (t.core s.cur.core).warps, frags := (t.core s.cur.core).frags, csr := k })
  ∧ t.warp = { s.warp with th := t.warp.th, run := s.warp.run.map fun r => { r with mask := t.mask }, ops := t.warp.ops }
  ∧ (∃ os, t.warp.ops = s.warp.ops ++ os ∧ os.map (·.lane) = s.lanes.filter (fun l => (acc l).isOk)
      ∧ ∀ o ∈ os, ∃ pa, acc o.lane = .ok pa ∧ o = { op o.lane pa with id := o.id })
  ∧ ∀ l, l < 32 → (s.mask.getLsbD l = true ∧ (acc l).isOk = false →
        ∃ i c, (s.core s.cur.core).freeFrag = some i ∧ acc l = .error c ∧ t.mask.getLsbD l = false
          ∧ t.warp.thread l = { s.warp.thread l with
              st := .parked, cause := some c, faddr := va l, findex := i, addr := s.here.1, slot := s.here.2, wait := .none,
              pend := none, pendIss := 0, frag := fragId s.cur.core s.cur.slot i })
      ∧ (s.mask.getLsbD l = false ∨ (acc l).isOk = true →
          t.warp.thread l = s.warp.thread l ∧ t.mask.getLsbD l = s.mask.getLsbD l)

/-- Where lanes that fail their checks can be parked: a tenant warp, and a free fragment-table entry; or none fails. -/
def State.canPark (s : State) (ok : Nat → Bool) : Prop :=
  (∀ l ∈ s.lanes, ok l = true) ∨ s.cur.slot ≠ 64 ∧ s.warp.mode = .tenant ∧ (s.core s.cur.core).freeFrag ≠ none

/-- A command joins those of the acting core, and its warp's counter rises; `same` is what of a command this says nothing
about: the engine and the place it stands at (spec/02_state.md R27, spec/17_matrix_copy.md R336). -/
def Cmd.placed (x : Cmd) : Cmd := { x with eng := 0, stamp := 0, started := false, statedD := 0 }
def Queues (s t : State) (x : Cmd) (os : List Op) : Prop :=
  (∀ a, rd8 t.mem a = rd8 s.mem a)
  ∧ t.warp = { s.warp.setCtr x.ctr (s.warp.ctr x.ctr + 1) with ops := s.warp.ops ++ os }
  ∧ (t.core s.cur.core).cmds.map Cmd.placed = ((s.core s.cur.core).cmds ++ [{ x with id := s.nextId }]).map Cmd.placed
  ∧ ∀ w, w ≠ s.cur.slot → t.warpAt s.cur.core w = s.warpAt s.cur.core w

/-- Nothing stands between the acting warp and memory: it has no access outstanding, its core's L1 holds no copy, no byte holds a
lasting error, in memory or in an L1, and no switch slice owns a word. -/
def State.Plain (s : State) : Prop :=
  s.warp.ops = [] ∧ (s.core s.cur.core).copies = [] ∧ s.errs = [] ∧ (∀ k ∈ s.cores, k.2.l1Bad = []) ∧ s.swOwned = []

/-- An access of n bytes passes its checks (spec/08_memory_isa.md R171), on memory of this device. -/
def State.Passes (s : State) (need : Need) (va n : Nat) : Prop :=
  ∃ pa, s.reach need n .misaligned false va = .ok pa ∧ isFabric pa = false

end Sys2Proof.Machine
end

