-- ==== Sys2Proof/Certificates/Slice0/Obligations.lean ====
section
/-! DEFINITION. Obligations.lean: the statements for the provers. Safety.lean defines the terms they use. -/

open Sys2Proof Sys2Proof.Machine

/-! ### Encoding (spec/04_encoding.md, spec/10_system_clearing_isa.md R250) -/

/-- Every well-formed core instruction is read back from its words, whatever follows them, every clearing instruction from
its one word, and an event has no words (R81 to R94, R250). -/
def Obligations.DecodeEncodeRoundTrip : Prop :=
  ∀ i : Instr, i.wf = true →
    match formOf i with
    | .event => encode i = []
    | .clearing => ∃ w, encode i = [w] ∧ Decode.clr w = .ok i
    | .core => ∀ rest, Decode.words (encode i ++ rest) = .ok (i, rest)

/-- The other direction: words that decode are the encoding of the instruction read, which is well formed; so no two
instructions share a word, and no bit of a word is ignored (R81 to R94, R250). The words that the model leaves without an
instruction by choice are those of notes/assumptions/82.md and 88.md. -/
def Obligations.DecodedWordsAreTheEncoding : Prop :=
  (∀ ws i rest, Decode.words ws = .ok (i, rest) → i.wf = true ∧ formOf i = .core ∧ ws = encode i ++ rest)
  ∧ ∀ w i, Decode.clr w = .ok i → i.wf = true ∧ formOf i = .clearing ∧ encode i = [w]

/-- Words that the spec writes out, in its worked examples, decode to what it says they stand for, and a few more do that are
written out from its tables; with `clr` for the words of a clearing processor. -/
def Obligations.WordsOfTheSpec : Prop :=
  -- IADD v4, v2, v3; FFMA.rup v6, v1, s5; LD.n32 v8, [v10:v11+0x40] (R96's example)
  Decode.words [0x20080818#32] = .ok (.iadd ⟨4, 2, 3, 0, none⟩, [])
  ∧ Decode.words [0x530C0728#32, 0x40000000#32] = .ok (.ffma ⟨6, 1, 101, 0, some ⟨2, 0, 0, 0, 0⟩⟩, [])
  ∧ Decode.words [0xB4102A10#32] = .ok (.ld ⟨8, 10, 4, 16, none⟩, [])
  -- MEET k0, +14; BRT v2 (the example of R92 and R107)
  ∧ Decode.words [0x1200000E#32] = .ok (.meet ⟨0, 14, none⟩, [])
  ∧ Decode.words [0x0E000800#32] = .ok (.brt ⟨0, 2, 0, 0, none⟩, [])
  -- IADD.i16.sat v5, v6, v7; DOT4 v4, v2, v3 (R129, R145)
  ∧ Decode.words [0x210A1838#32, 0x14000000#32] = .ok (.iadd ⟨5, 6, 7, 0, some ⟨0, 1, 0x10, 0, 0⟩⟩, [])
  ∧ Decode.words [0x6C080818#32] = .ok (.dot4 ⟨4, 2, 3, 0, none⟩, [])
  -- LSHF.up v7, v7, s0, 1; FENCE.ar; WAITC copy, 0 (R155, R184, R192)
  ∧ Decode.words [0x890E1F00#32, 0x00000001#32] = .ok (.lshf ⟨7, 7, 96, 0, some ⟨0, 0, 0, 0, 1⟩⟩, [])
  ∧ Decode.words [0xC0000002#32] = .ok (.fenceAr ⟨0, 0, 0, 2, none⟩, [])
  ∧ Decode.words [0xC6000080#32] = .ok (.waitc ⟨0, 0, 0x080, none⟩, [])
  -- LDF.clr.acq.n32 v9, [s4:s5+0x10]; STF.rel.n32 v8, [s4:s5+0x10] (R177, R178)
  ∧ Decode.words [0xB5139204#32, 0x00000E00#32] = .ok (.ldf ⟨9, 100, 4, 4, some ⟨0, 0, 0, 0, 0, 0, 0, 1, 1, 1, 0, 0⟩⟩, [])
  ∧ Decode.words [0xB7119204#32, 0x00000500#32] = .ok (.stf ⟨8, 100, 4, 4, some ⟨0, 0, 0, 0, 0, 0, 0, 0, 1, 0, 1, 0⟩⟩, [])
  -- ACZ a2: opcode 0x6C, d 2; SMOVI s3, -1: opcode 0x55, d 99; CVT needs its extension word
  ∧ Decode.words [0xD8040000#32] = .ok (.acz ⟨2, 0, 0, 0, none⟩, [])
  ∧ Decode.words [0xAAC603FF#32] = .ok (.smovi ⟨99, 0, 0x3FF, none⟩, [])
  ∧ Decode.words [0x78000000#32] = .error (.cause .illegalOpcode)
  -- CPYQ s16:s17 under SP = 8 (R232's example is SP 8); FRAGRES s6:s7, s4, s5 (R255's example)
  ∧ Decode.words [0xE4400000#32] = .ok (.cpyq ⟨8, 0, 0, 0, none⟩, [])
  ∧ Decode.words [0xF639B265#32] = .ok (.fragres ⟨1, 102, 100, 101, none⟩, [])
  -- CLD c8, [c0+0x58]; CWAIT.fe c9, [c8]; CMOVI c10, 1; CSUB c11, c10, c1; CSEND.sign c11, c3, c5, 0, 0; CEND 0 (R255)
  ∧ Decode.clr 0x04000058#32 = .ok (.cld ⟨8, 0, 0, 0x58⟩)
  ∧ Decode.clr 0x6CC00000#32 = .ok (.cwaitFe ⟨9, 8, 0, 0⟩)
  ∧ Decode.clr 0x2D000001#32 = .ok (.cmovi ⟨10, 1⟩)
  ∧ Decode.clr 0x1DD08000#32 = .ok (.csub ⟨11, 10, 1, 0⟩)
  ∧ Decode.clr 0x459AA000#32 = .ok (.csend ⟨11, 3, 5, 0x2000⟩)
  ∧ Decode.clr 0x78000000#32 = .ok (.cend ⟨0, 0⟩)

/-- An opcode that the tables mark unassigned raises ILLEGAL_OPCODE, with or without an extension word, and a clearing word of
opcode 0x10 to 0x1F is refused (R94, R250). -/
def Obligations.UnassignedOpcodesAreRefused : Prop :=
  (∀ (w : Word) (x : Option Word),
    Decode.opcode w ∈ [0x37, 0x38, 0x39, 0x3A, 0x3B, 0x43, 0x4B, 0x67, 0x68, 0x69, 0x79, 0x7F] →
      Decode.core w x = .error .illegalOpcode)
  ∧ ∀ w : Word, 0x80000000 ≤ w.toNat → Decode.clr w = .error ()

/-! ### Reset, memory, the address map (spec/00_scope.md R2, spec/01_machine.md, spec/28_system.md) -/

/-- The state after reset lists no memory, which is the canonical form of a memory that nothing has written. -/
def Obligations.ResetMemoryCanonical : Prop := State.reset.mem = [] ∧ memWf State.reset.mem = true

/-- Every step keeps memory in its canonical form: addresses strictly rising, no byte listed that an unlisted one reads as. -/
def Obligations.StepKeepsMemoryCanonical : Prop :=
  ∀ s t : State, memWf s.mem = true → Sys2Proof.Machine.step s = .next t → memWf t.mem = true

/-- Register values the spec gives at reset: no core or clearing processor runs (R17); the core CSRs (R237) and the event
selections, none counting any event (R465); the measurements zero and the boot at step 1 (R459, R460); no tenant active, each queue
disabled (R457, R280); the join unit's settings (R390); the fabric timers (R451); the power limits (R470, R472). -/
def Obligations.ResetRegisters : Prop :=
  let s := State.reset
  (∀ c, (s.core c).released = false ∧ (s.core c).cycle = 0 ∧ (s.core c).tenant = 0xFF)
  ∧ (∀ c, (s.core c).rawCsr 0x001 = 8#32 ∧ (s.core c).rawCsr 0x002 = 64#32 ∧ (s.core c).rawCsr 0x003 = 0x04030201#32
      ∧ (s.core c).rawCsr 0x004 = 0x100B0806#32 ∧ (s.core c).rawCsr 0x005 = 256#32 ∧ (s.core c).rawCsr 0x006 = 0x40000000#32
      ∧ (s.core c).rawCsr 0x007 = 0xFF#32)
  ∧ (∀ c n, n < 8 → (s.core c).rawCsr (0x100 + n) = 0x00F00000#32 ∧ (s.core c).rawCsr (0x108 + n) = 0#32
      ∧ (s.core c).rawCsr (0x110 + n) = 0#32)
  ∧ (∀ c i, (fget ({} : Frag) (s.core c).frags i).valid = false)
  ∧ (∀ d p, ((s.die d).procs.any fun x => x.1 == p) = false)
  ∧ (∀ n, fget 0 s.mint.meas n = 0) ∧ s.mint.step = 1
  ∧ (∀ t, (s.tenant t).active = false ∧ (s.tenant t).epver = 0#32 ∧ (s.tenant t).eplag = 0
      ∧ (s.tenant t).epesc = 0x01000000 ∧ (s.tenant t).epjto = 0x04000000)
  ∧ (∀ t q, ((s.tenant t).queue q).en = false)
  ∧ (∀ p, (s.port p).en = false ∧ (s.port p).st = 0)
  ∧ (∀ d, (s.die d).freplay = 0x4000 ∧ (s.die d).fquiet = 0x10000 ∧ (s.die d).freplays = 16)
  ∧ (∀ i, fget 1050 s.power.freq i = 1050 ∧ fget 64 s.power.budget i = 64) ∧ s.power.plimit = 6000

/-- Memory is little-endian: n bytes stored from an address read back as the number stored, with the low byte at the lowest
address; and a 64-bit value in a register pair has its low 32 bits in the first register (R2). -/
def Obligations.MemoryAndPairsAreLittleEndian : Prop :=
  (∀ (s : State) (a n v : Nat), v < 256 ^ n →
    ({ s with mem := wrBytes s.mem a (leBytes n v) } : State).rdN a n = v
    ∧ ∀ k, k < n → rd8 (wrBytes s.mem a (leBytes n v)) (a + k) = BitVec.ofNat 8 (v / 256 ^ k))
  ∧ ∀ (w : Warp) (d l v : Nat), (d + 1 < 96 ∨ 96 ≤ d) → l < 32 →
    (w.setReg64 d l v).reg d l = BitVec.ofNat 32 v ∧ (w.setReg64 d l v).reg (d + 1) l = BitVec.ofNat 32 (v / 2 ^ 32)
    ∧ (v < 2 ^ 64 → (w.setReg64 d l v).reg64 d l = v)

/-- Predicate p7 always reads true and writes to it are discarded; each of p0 to p6 holds one bit per thread (R22). -/
def Obligations.PredicateSevenReadsTrue : Prop :=
  ∀ (w : Warp) (l k : Nat) (x : Bool), w.pred 7 l = true ∧ w.setPred 7 l x = w
    ∧ ∀ p q, p < 7 → q < 7 → (w.setPred p k x).pred q l = if q = p ∧ l = k then x else w.pred q l

/-- A core's package number gives its place: what %core and %die read, and the quarter of its die that it belongs to (R8). That
the island of that quarter is number 4 × die + quarter is the model's choice: notes/assumptions/78.md. -/
def Obligations.CorePlaces : Prop :=
  ∀ (s : State) (die x y l : Nat), die < 4 → x < 8 → y < 6 → s.cur.core = die * 48 + (y * 8 + x) →
    s.special 0x06 l = y * 8 + x ∧ s.special 0x07 l = die ∧ islandOf s.cur.core = 4 * die + (x / 4 + 2 * (y / 3))

/-- The home of every byte of the flat window and of local HBM, and the plane of a fabric line, as HomeOf computes them; the
words of a line share it; and the two addresses of the spec's example (R309). -/
def Obligations.HomeOfEveryByte : Prop :=
  (∀ pa, 0x010000000000 ≤ pa → pa < 0x010030000000 → homeCore pa = some ((pa - 0x010000000000) / 2 ^ 22))
  ∧ (∀ pa, pa < 0x010000000000 →
      homeCore pa = some ((pa / 2 ^ 7 ^^^ pa / 2 ^ 23 ^^^ pa / 2 ^ 39) % 2 ^ 16 * 192 / 2 ^ 16)
      ∧ homeCore pa = homeCore (pa / 128 * 128))
  ∧ (∀ pa c, homeCore pa = some c → c < 192)
  ∧ (∀ pa m, 0 < m → homePlane pa m < m ∧ homePlane pa m = homePlane (pa / 128 * 128) m)
  ∧ homeCore 0x001234567ABC = some 102 ∧ homePlane 0x85A31234567ABC 72 = 38

/-- The flat window of every tenant's space: its order of checks and the physical address it names; and where no translation
exists: outside the 55-bit space, and above the window's last core (R307, R324). -/
def Obligations.FlatWindowTranslation : Prop :=
  (∀ (s : State) (core tenant c off : Nat) (need : Need), c < 192 → off < 2 ^ 22 →
    let va := 0x40000000000000 + c * 2 ^ 22 + off
    s.translate core tenant va need =
      if need = .ex then .error .protection
      else if (s.core c).tenant ≠ tenant then .error .protection
      else if s.flatBytes ≤ off then .error .flatUnpopulated
      else .ok (0x010000000000 + c * 2 ^ 22 + off))
  ∧ (∀ (s : State) (core tenant va : Nat) (need : Need),
    (2 ^ 55 ≤ va ∨ 0x40000030000000 ≤ va ∧ va < 0x40040000000000) → s.translate core tenant va need = .error .translation)

/-! ### The step -/

/-- Exactly a machine without power stops, with poweredOff, and a package reset is the one turn it takes (R473; that nothing
else of it acts until then is notes/assumptions/59.md); every other step answers a next state: no instruction of the table, on
any operands, in any state, ends in a fault or a refusal. -/
def Obligations.StepStopsOnlyWithoutPower : Prop :=
  (∀ (i : Instr) (s : State), ∃ t, exec i s = .next t)
  ∧ ∀ s : State,
      if s.power.down = true ∧ isReset s.nextTurn.1 = false then Sys2Proof.Machine.step s = .fault .poweredOff
      else ∃ t, Sys2Proof.Machine.step s = .next t

/-- In the turn of a partition's issue slot, or of the service warp, whose due split's words decode to i, the step is exec of
i at the state the turn has prepared, its watchdog count zeroed (R423), with what follows an instruction after it. The cycle that the turn has passed is
notes/assumptions/74.md. -/
def Obligations.StepRunsTheDecodedInstruction : Prop :=
  ∀ (s u v : State) (c q : Nat) (r : Split) (w : Word) (x : Option Word) (n : Nat) (i : Instr),
    u.power.down = false → (u.core c).released = true → (u.die (c / 48)).halted = false →
    (s.nextTurn = (.issue c q, u) ∧ q < 4 ∧ u.turnOf c q = (v, true)
      ∨ s.nextTurn = (.service c, u) ∧ u.turnOfService c = (v, true)) →
    v.warp.run = some r → (clauseInstrs r.words)[r.slot]? = some (w, x, n) → Decode.core w x = .ok i →
    Sys2Proof.Machine.step s =
      match exec i v.issuing with
      | .next t => .next t.afterIssue
      | .fault f => .fault f
      | .refused e => .refused e

/-- Words that break the encoding rules, at the slot that is due, take the whole split with the cause the decoder names; for a
reserved format code that is FORMAT_RESERVED only once the operands lie within the declared counts, and else ILLEGAL_OPCODE (R96
orders 3 to 5, R19). -/
def Obligations.StepFaultsOnBadWords : Prop :=
  ∀ (s u v : State) (c q : Nat) (r : Split) (w : Word) (x : Option Word) (n : Nat) (e : Cause),
    u.power.down = false → (u.core c).released = true → (u.die (c / 48)).halted = false →
    (s.nextTurn = (.issue c q, u) ∧ q < 4 ∧ u.turnOf c q = (v, true)
      ∨ s.nextTurn = (.service c, u) ∧ u.turnOfService c = (v, true)) →
    v.warp.run = some r → (clauseInstrs r.words)[r.slot]? = some (w, x, n) → Decode.core w x = .error e →
    let faults := fun (f : Cause) => Sys2Proof.Machine.step s = .next (v.issuing.faultOpen f).afterIssue
    (e ≠ .formatReserved → faults e)
    ∧ ∀ i, e = .formatReserved → Decode.parse w x = some i → faults (if v.warp.countsOk i = true then e else .illegalOpcode)

/-- A clearing processor's turn runs the instruction its program counter points to, and the instruction waits where it lacks
bytes of another device; an event's turn runs the event, but for a core of a die that has stopped; and a word that is no
clearing instruction ends the collective with RANGE (R249, R250, R383); that a CSIG or CWAIT of another IMM15 is one is
notes/assumptions/88.md. -/
def Obligations.StepRunsClearingAndEvents : Prop :=
  (∀ (s u v : State) (d p : Nat) (i : Instr), s.nextTurn = (.clear d p, u) → u.power.down = false →
    u.clearTurn d p = (v, some i) → Sys2Proof.Machine.step s =
      match exec i v with
      | .next t => .next (u.clearOut t d p)
      | .fault f => .fault f
      | .refused e => .refused e)
  ∧ (∀ (s u : State) (e : Instr) (a : Arg), s.nextTurn = (.event e a, u) → u.power.down = false → formOf e = .event →
    Sys2Proof.Machine.step s =
      if Instr.onCore e = true ∧ (u.die (a.core / 48)).halted = true then .next u else exec e { u with arg := a, cur := {} })
  ∧ ∀ (s : State) (d p pa : Nat) (x : Coll),
    let u := s.clearActs d p
    u.clear.coll = some x → u.clear.ended = none → (u.die d).halted = false → u.posted x.cmd = false →
    x.abort = false → x.fAlgo = 3 →
    u.hubTranslate x.tenant u.clear.pc .ex = .ok pa → isFabric pa = false → u.swHeld pa 4 = false → u.bad pa 4 = false →
    s.clearTurn d p = match Decode.clr (BitVec.ofNat 32 (u.rdN pa 4)) with
      | .ok i => (u, some i)
      | .error _ => (u.clearEnd stRange, none)

/-- The words of a fetched clause are memory's: each is what the fetch of its own address gives, a header and as many words as
its instructions take; a warp's code is read little-endian, supervisor code at physical addresses, a tenant's through an
executable translation and its launch's patches; of another device's memory, a word that has not come is asked for
(R72, R93, R101, R323, R326). That supervisor code is fetched at physical addresses and that a fetch reads memory as it stands
is notes/assumptions/11.md; that it asks for a word of another device, and waits for one that a switch slice owns, is
notes/assumptions/9.md. -/
def Obligations.ClausesAreMemorysWords : Prop :=
  (∀ (s : State) (c w a : Nat) (ws : List Word), s.fetchClause c w a = .present ws →
    ∀ k x, ws[k]? = some x → s.fetchWord c w (a + 4 * k) = .ok x)
  ∧ (∀ (s : State) (c a : Nat), isHbm a = true →
      s.fetchWord c 64 a = if s.swHeld a 4 = true then .error (.wait a a)
        else if s.bad a 4 = true then .error (.fault .dataUncorrectable) else .ok (BitVec.ofNat 32 (s.rdN a 4)))
  ∧ ∀ (s : State) (c w a pa : Nat), w ≠ 64 → (s.warpAt c w).mode = .tenant →
      s.translate c (s.warpAt c w).tenant a .ex = .ok pa →
      (isFabric pa = false →
        s.fetchWord c w a = if s.swHeld pa 4 = true then .error (.wait a pa)
          else if s.bad pa 4 = true then .error (.fault .dataUncorrectable)
          else .ok (match s.launch (s.wg (s.warpAt c w).wg).launch with
            | none => BitVec.ofNat 32 (s.rdN pa 4)
            | some l => l.overlay a (BitVec.ofNat 32 (s.rdN pa 4))))
      ∧ (isFabric pa = true → (s.warpAt c w).ops = [] → s.fetchWord c w a = .error (.wait a pa)
          ∧ s.fetchClause c w a = if a % 4 = 0 then .absent else .failed .misaligned a)

/-! ### Checks at issue, and taking an exception (R19, R233, R268, R270) -/

/-- A SYS instruction reached by a tenant warp outside handler mode takes PRIVILEGED in the whole split at its clause's header; one
that handler mode refuses takes it at the instruction (R74, R233). An instruction that names a register at or beyond the declared
count takes ILLEGAL_OPCODE in the whole split (R19), as does one that names a convergence mask, the meet register or a guard slot
in handler mode (R235), and ERET in the service warp (R247); one that reads a register with a lasting error takes
DATA_UNCORRECTABLE (R425). The address recorded is a free value: the spec states none (notes/assumptions/5.md). -/
def Obligations.IssueChecksFault : Prop :=
  (∀ (i : Instr) (s : State), s.cur.slot ≠ 64 →
    (isSys i = true → s.warp.mode = .tenant → exec i s = .next (s.faultOpenAt s.here.1 0 .privileged))
    ∧ (svcOnly i = true → s.warp.mode ≠ .tenant → exec i s = .next (s.faultOpen .privileged)))
  ∧ (∀ (i : Instr) (s : State), formOf i = .core → isSys i = false →
    (s.warp.countsOk i = false → exec i s = .next (s.faultOpen .illegalOpcode))
    ∧ (namesMask i = true → s.warp.mode ≠ .tenant → exec i s = .next (s.faultOpen .illegalOpcode))
    ∧ (s.cur.slot = 64 → ∀ o, exec (.eret o) s = .next (s.faultOpen .illegalOpcode))
    ∧ (s.warp.countsOk i = true → (namesMask i = true → s.warp.mode = .tenant) → s.warp.readsBad s.mask i = true →
        exec i s = .next (s.faultOpen .dataUncorrectable)))

/-- An exception of some lanes of a tenant warp's split, where the fragment table has a free entry: the lowest such entry takes
the lanes, valid, pending and of the next generation; each lane parks with its cause, its faulting address, the one position and
its %frag; the lanes leave the split; no other lane of the warp, no register and no byte of memory changes (R268, R29). -/
def Obligations.ExceptionEntry : Prop :=
  ∀ (s : State) (addr pslot i : Nat) (fs : List LaneFault),
    s.cur.slot ≠ 64 → s.warp.mode = .tenant → fs ≠ [] → (fs.map (·.1)).Nodup → (∀ f ∈ fs, f.1 < 32) →
    (s.core s.cur.core).freeFrag = some i →
    let t := (s.takeFaults addr pslot fs).1
    let gone := maskOf (fs.map (·.1))
    (s.takeFaults addr pslot fs).2 = true
    ∧ fget ({} : Frag) (t.core s.cur.core).frags i =
        { valid := true, pend := true, gen := ((fget ({} : Frag) (s.core s.cur.core).frags i).gen + 1) % 1024,
          tenant := s.warp.tenant, slot := s.cur.slot, mask := gone, addr := addr, pslot := pslot }
    ∧ (∀ l c a, (l, c, a) ∈ fs → t.warp.thread l = { s.warp.thread l with
        st := .parked, cause := some c, faddr := a, findex := i, addr := addr, slot := pslot, wait := .none, pend := none,
        pendIss := 0, frag := fragId s.cur.core s.cur.slot i })
    ∧ (∀ l, l ∉ fs.map (·.1) → t.warp.thread l = s.warp.thread l)
    ∧ t.warp.run = s.warp.run.map (fun r => { r with mask := r.mask &&& ~~~gone })
    ∧ t.warp = { s.warp with th := t.warp.th, run := t.warp.run }
    ∧ (∀ j, j ≠ i → fget ({} : Frag) (t.core s.cur.core).frags j = fget ({} : Frag) (s.core s.cur.core).frags j)
    ∧ t = { s with cores := t.cores }
    ∧ (∀ w, w ≠ s.cur.slot → t.warpAt s.cur.core w = s.warpAt s.cur.core w)
    ∧ ∀ c, c ≠ s.cur.core → t.core c = s.core c

/-- With no free entry the instruction takes effect in no lane: the warp fault slot takes FRAG_FULL, the service warp is told, and
the split keeps its lanes and its place (R270). A fault of the service warp stops it, enters no fragment, and the system cores
are told (R246); a fault of a handler stops its warp with the cause, and the address that goes with it, in the warp fault slot
(R235). The instruction takes no effect. -/
def Obligations.StoppingFaults : Prop :=
  (∀ (s : State) (fs : List LaneFault) (f : State → State),
    s.cur.slot ≠ 64 → s.warp.mode = .tenant → fs ≠ [] → (s.core s.cur.core).freeFrag = none →
    let t := s.withFaults fs f
    t.flow = .stall ∧ t.warp = { s.warp with wfault := some .fragFull, wfaddr := 0 }
    ∧ (t.core s.cur.core).slotEv = (if s.cur.slot ∈ (s.core s.cur.core).slotEv then (s.core s.cur.core).slotEv
        else (s.core s.cur.core).slotEv ++ [s.cur.slot])
    ∧ t = { s with cores := t.cores, flow := .stall })
  ∧ (∀ (s : State) (l : Nat) (c : Cause) (a : Nat) (fs : List LaneFault) (f : State → State),
    (s.cur.slot = 64 →
      s.withFaults ((l, c, a) :: fs) f =
        { s.updCore s.cur.core fun k => { k with stopped := true } with
          told := s.told ++ [(1, s.cur.core)], flow := .stall })
    ∧ (s.cur.slot ≠ 64 → s.warp.mode ≠ .tenant → c ≠ .warpAbort →
      let t := s.withFaults ((l, c, a) :: fs) f
      t.flow = .stall ∧ t.warp = { s.warp with wfault := some c, wfaddr := a } ∧ t = { s with cores := t.cores, flow := .stall }
      ∧ (t.core s.cur.core).frags = (s.core s.cur.core).frags))

/-! ### Integer vector instructions (spec/06_vector.md R129 to R136) -/

/-- Each packed element of d is computed on its own, exactly, and fitted: wrapped modulo 2^w, or clamped to the type under SAT; the
bitwise operations act on the whole registers; only the lanes of the split are written, and nothing else changes (R129, R130). -/
def Obligations.IntegerArithmetic : Prop :=
  ∀ (o : VOps) (s : State),
    let w := tyWidth (vTy o); let fits := fit (vTy o) (vSat o)
    let x := elA o s; let y := elB o s; let z := elD o s
    let a := fun l => s.warp.reg o.a.toNat l; let b := fun l => s.warp.regB s.mask o l
    ComputesElems (.iadd o) s o.d w (fun l k => fits (x l k + y l k))
    ∧ ComputesElems (.isub o) s o.d w (fun l k => fits (x l k - y l k))
    ∧ ComputesElems (.imul o) s o.d w (fun l k => fits (x l k * y l k))
    ∧ ComputesElems (.imulh o) s o.d w (fun l k => modW w (x l k * y l k / 2 ^ w))
    ∧ ComputesElems (.imac o) s o.d w (fun l k => fits (z l k + x l k * y l k))
    ∧ ComputesElems (.imin o) s o.d w (fun l k => modW w (min (x l k) (y l k)))
    ∧ ComputesElems (.imax o) s o.d w (fun l k => modW w (max (x l k) (y l k)))
    ∧ ComputesElems (.iabsd o) s o.d w (fun l k => (x l k - y l k).natAbs)
    ∧ ComputesElems (.iaddmin o) s o.d w (fun l k => modW w (min (z l k) (tyVal (vTy o) (fits (x l k + y l k)))))
    ∧ ComputesElems (.iaddmax o) s o.d w (fun l k => modW w (max (z l k) (tyVal (vTy o) (fits (x l k + y l k)))))
    ∧ Computes (.and o) s (inLanes s o.d fun l => a l &&& b l)
    ∧ Computes (.or o) s (inLanes s o.d fun l => a l ||| b l)
    ∧ Computes (.xor o) s (inLanes s o.d fun l => a l ^^^ b l)
    ∧ Computes (.andn o) s (inLanes s o.d fun l => a l &&& ~~~ b l)

/-- What fitting means: under SAT the value of the fitted element is the nearest value of the type, otherwise the element is the
exact value modulo 2^w (R129). -/
def Obligations.FittedElements : Prop :=
  ∀ (ty : Nat) (z : Int), ty < 6 →
    let w := tyWidth ty
    let lo : Int := if tySigned ty then -(2 ^ (w - 1)) else 0
    let hi : Int := if tySigned ty then 2 ^ (w - 1) - 1 else 2 ^ w - 1
    fit ty false z < 2 ^ w ∧ fit ty true z < 2 ^ w
    ∧ ((fit ty false z : Int) - z) % 2 ^ w = 0
    ∧ tyVal ty (fit ty true z) = max lo (min hi z)
    ∧ (lo ≤ z → z ≤ hi → tyVal ty (fit ty false z) = z)

/-- Shifts, rotation and bit counts of each element, with counts of the width or more; MOV copies the permuted b, and MOVI
writes its immediate (R132, R133). -/
def Obligations.ShiftsAndCounts : Prop :=
  ∀ (o : VOps) (m : IOps) (s : State),
    let w := tyWidth (vTy o); let x := bitsA o s; let c := bitsC o s; let y := bitsB o s
    ComputesElems (.shl o) s o.d w (fun l k => if w ≤ c l k then 0 else x l k * 2 ^ c l k % 2 ^ w)
    ∧ ComputesElems (.shr o) s o.d w (fun l k => x l k / 2 ^ c l k)
    ∧ ComputesElems (.sar o) s o.d w (fun l k => modW w (sext w (x l k) / 2 ^ c l k))
    ∧ ComputesElems (.rol o) s o.d w (fun l k => (x l k * 2 ^ (c l k % w) + x l k / 2 ^ (w - c l k % w)) % 2 ^ w)
    ∧ ComputesElems (.popc o) s o.d w (fun l k => ((List.range w).filter fun j => bitOf (y l k) j).length)
    ∧ ComputesElems (.clz o) s o.d w (fun l k => ((List.range w).filter fun j => y l k < 2 ^ j).length)
    ∧ ComputesElems (.brev o) s o.d w (fun l k => brevEl w (y l k))
    ∧ (∀ v j, j < w → bitOf (brevEl w v) j = bitOf v (w - 1 - j))
    ∧ Computes (.mov o) s (inLanes s o.d fun l => s.warp.regB s.mask o l)
    ∧ Computes (.movi m) s (inLanes s m.d fun _ => match m.x with | none => m.imm.signExtend 32 | some v => v)

/-- Bit fields, 64-bit sums modulo 2^64 or clamped, the comparison that writes a predicate, and the selection by one (R134, R135,
R136). -/
def Obligations.FieldsAndPairs : Prop :=
  ∀ (o : VOps) (s : State),
    let sg := tySigned (vTy o)
    let a := fun l => s.warp.reg o.a.toNat l; let b := fun l => s.warp.reg o.b.toNat l; let d := fun l => s.warp.reg o.d.toNat l
    let aa := fun l => s.warp.reg64 o.a.toNat l; let bb := fun l => s.warp.reg64 o.b.toNat l
    let pos := fun l => (b l).toNat % 256
    let len := fun l => if 32 ≤ pos l then 0 else min ((b l).toNat / 256 % 256) (32 - pos l)
    Computes (.bfx o) s (inLanes s o.d fun l =>
      let field := (a l).toNat / 2 ^ pos l % 2 ^ len l
      if len l = 0 then 0#32 else BitVec.ofInt 32 (if sg then sext (len l) field else field))
    ∧ Computes (.bfi o) s (inLanes s o.d fun l =>
      let m := BitVec.ofNat 32 ((2 ^ len l - 1) * 2 ^ pos l)
      (d l &&& ~~~m) ||| (BitVec.ofNat 32 ((a l).toNat * 2 ^ pos l) &&& m))
    ∧ Computes (.lea o) s (inPairs s o.d fun l =>
      modW 64 ((aa l : Int) + (if sg then (b l).toInt else ((b l).toNat : Int)) * 2 ^ (vSub o % 8)))
    ∧ Computes (.iadd64 o) s (inPairs s o.d fun l =>
      if vSat o = false then (aa l + bb l) % 2 ^ 64
      else if sg then modW 64 (max (-(2 ^ 63)) (min (2 ^ 63 - 1) (sext 64 (aa l) + sext 64 (bb l))))
      else min (aa l + bb l) (2 ^ 64 - 1))
    ∧ ComputesPred (.icmp o) s o.d.toNat (fun l =>
      let x := wordVal sg (a l); let y := wordVal sg (b l)
      match o.pm.toNat with
      | 0 => decide (x = y) | 1 => decide (x ≠ y) | 2 => decide (x < y)
      | 3 => decide (x ≤ y) | 4 => decide (y < x) | _ => decide (y ≤ x))
    ∧ Computes (.sel o) s (inLanes s o.d fun l => if s.warp.pred o.pm.toNat l then a l else b l)

/-- IDIV and IREM, long results of 32-bit elements: the quotient truncated toward zero and the remainder with the sign of x; a
zero divisor gives 0xFFFF_FFFF and x, and the most negative value over -1 gives 0x8000_0000 and 0 (R131). -/
def Obligations.DivisionAndRemainder : Prop :=
  ∀ (o : VOps) (s : State),
    let sg := tySigned (vTy o)
    let x := fun l => s.warp.reg o.a.toNat l; let y := fun l => s.warp.regB s.mask o l
    ComputesLong (.idiv o) s o.d (fun l => if y l = 0#32 then 0xFFFFFFFF#32
      else BitVec.ofInt 32 (Int.tdiv (wordVal sg (x l)) (wordVal sg (y l))))
    ∧ ComputesLong (.irem o) s o.d (fun l => if y l = 0#32 then x l
      else BitVec.ofInt 32 (Int.tmod (wordVal sg (x l)) (wordVal sg (y l))))

/-! ### Uniform arithmetic and special registers (spec/06_vector.md R146 to R149, spec/02_state.md R28) -/

/-- Uniform arithmetic writes its uniform register once for the split, on 32-bit values (R147, R149). -/
def Obligations.UniformArithmetic : Prop :=
  ∀ (o : VOps) (m : IOps) (s : State),
    let sg := tySigned (vTy o); let ty := if sg then 0 else 1
    let a := s.warp.reg o.a.toNat 0; let b := s.warp.reg o.b.toNat 0
    let x := wordVal sg a; let y := wordVal sg b
    let W := fun (z : Int) => BitVec.ofInt 32 z
    Computes (.sadd o) s (inUniform o.d (BitVec.ofNat 32 (fit ty (vSat o) (x + y))))
    ∧ Computes (.ssub o) s (inUniform o.d (BitVec.ofNat 32 (fit ty (vSat o) (x - y))))
    ∧ Computes (.smul o) s (inUniform o.d (BitVec.ofNat 32 (fit ty (vSat o) (x * y))))
    ∧ Computes (.sand o) s (inUniform o.d (a &&& b))
    ∧ Computes (.sor o) s (inUniform o.d (a ||| b))
    ∧ Computes (.sxor o) s (inUniform o.d (a ^^^ b))
    ∧ Computes (.sshl o) s (inUniform o.d (if 32 ≤ b.toNat then 0#32 else a <<< b.toNat))
    ∧ Computes (.sshr o) s (inUniform o.d (if sg then a.sshiftRight b.toNat else a >>> b.toNat))
    ∧ Computes (.smin o) s (inUniform o.d (W (min x y)))
    ∧ Computes (.smax o) s (inUniform o.d (W (max x y)))
    ∧ Computes (.smov o) s (inUniform o.d b)
    ∧ Computes (.smovi m) s (inUniform m.d (match m.x with | none => m.imm.signExtend 32 | some v => v))
    ∧ Computes (.scmp o) s (inUniform o.d (if icond o.pm.toNat x y then 1#32 else 0#32))
    ∧ Computes (.sfromv o) s (inUniform o.d (s.warp.reg o.a.toNat s.lowest))

/-- SRD delivers the special register that IMM10, or the extension word in its place, selects: of 32 bits to a vector register, per
lane, or to a uniform one; %lbase and %cycle to a pair (R28, R86, R148). In the service warp the coordinates, the grid, %lbase
and %ver have no stated value: not said here (log 5). -/
def Obligations.SpecialRegisterReads : Prop :=
  ∀ (o : IOps) (s : State), (s.cur.slot = 64 → serviceOpen (WellFormed.srSel o) = false) →
    let n := match o.x with | none => o.imm.toNat | some x => x.toNat
    let v := s.special n
    let wide := n = 0x0A ∨ n = 0x0D
    let d := o.d.toNat
    Computes (.srd o) s fun c l =>
      if 96 ≤ d then
        (if c = d then some (BitVec.ofNat 32 (v 0)) else if wide ∧ c = d + 1 then some (BitVec.ofNat 32 (v 0 / 2 ^ 32)) else none)
      else if s.mask.getLsbD l = true then
        (if c = d then some (BitVec.ofNat 32 (v l)) else if wide ∧ c = d + 1 then some (BitVec.ofNat 32 (v l / 2 ^ 32)) else none)
      else none

/-! ### Floating vector instructions and conversions (spec/06_vector.md R138 to R145, spec/07_lanes_convert.md) -/

/-- FADD, FSUB, FMUL, FFMA and their 16-bit packed forms compute the exact result of their decoded operands and round it once into the
destination format, element by element, under RND, SAT and, for stochastic rounding, the seed and the lane's group (R138,
R143, R61). On finite operands addE, mulE and fmaE are the exact sum, product and fused product; an exact zero sum of opposite
signs is +0, and -0 under RDN; a NaN operand and an invalid operation give the canonical NaN; and infinities follow IEEE 754. -/
def Obligations.FloatArithmetic : Prop :=
  (∀ (rdn : Bool) (k : Nat) (x y z : FVal) (i j l : Int), x.units k = some i → y.units k = some j → z.units (2 * k) = some l →
    (addE rdn x y).units k = some (i + j) ∧ (mulE x y).units (2 * k) = some (i * j)
    ∧ (fmaE rdn x y z).units (2 * k) = some (i * j + l)
    ∧ (i + j = 0 → addE rdn x y = .zero (if x.neg = y.neg then x.neg else rdn))
    ∧ (i * j = 0 → mulE x y = .zero (x.neg != y.neg))
    ∧ (i * j + l = 0 → fmaE rdn x y z = .zero (if (x.neg != y.neg) = z.neg then z.neg else rdn)))
  ∧ (∀ (rdn a b : Bool) (m : Nat) (e : Int) (x y z : FVal),
    (x.isNan = true ∨ y.isNan = true → addE rdn x y = .nan false ∧ mulE x y = .nan false ∧ fmaE rdn x y z = .nan false)
    ∧ (z.isNan = true → fmaE rdn x y z = .nan false)
    ∧ addE rdn (.inf a) (.inf b) = (if a = b then .inf a else .nan false)
    ∧ addE rdn (.inf a) (.fin b m e) = .inf a ∧ addE rdn (.fin b m e) (.inf a) = .inf a
    ∧ mulE (.inf a) (.inf b) = .inf (a != b)
    ∧ mulE (.inf a) (.fin b m e) = (if m = 0 then .nan false else .inf (a != b))
    ∧ mulE (.fin b m e) (.inf a) = (if m = 0 then .nan false else .inf (b != a))
    ∧ (mulE x y = .nan false → fmaE rdn x y z = .nan false)
    ∧ (mulE x y = .inf a → fmaE rdn x y (.inf b) = (if a = b then .inf a else .nan false) ∧ fmaE rdn x y (.fin b m e) = .inf a)
    ∧ (∀ k i j, x.units k = some i → y.units k = some j → fmaE rdn x y (.inf b) = .inf b))
  ∧ ∀ (o : VOps) (s : State),
    let h := vFmt o 1; let wd := WellFormed.fmtWidth h; let rdn := isRdn o; let w := s.warp; let m := s.mask
    let rnd := fun (dst : Nat) (ex : Nat → Nat → Ex) => roundLane m dst (vRnd o) (vSat o) false (vSeed o) ex
    ComputesElems (.fadd o) s o.d 32 (rnd 0 fun l j => addE rdn (fX o 0 w l j) (fY o m 0 w l j))
    ∧ ComputesElems (.fsub o) s o.d 32 (rnd 0 fun l j => addE rdn (fX o 0 w l j) (fY o m 0 w l j).flip)
    ∧ ComputesElems (.fmul o) s o.d 32 (rnd 0 fun l j => mulE (fX o 0 w l j) (fY o m 0 w l j))
    ∧ ComputesElems (.ffma o) s o.d 32 (rnd 0 fun l j => fmaE rdn (fX o 0 w l j) (fY o m 0 w l j) (fZ o 0 w l j))
    ∧ ComputesElems (.hadd2 o) s o.d wd (rnd h fun l j => addE rdn (fX o h w l j) (fY o m h w l j))
    ∧ ComputesElems (.hmul2 o) s o.d wd (rnd h fun l j => mulE (fX o h w l j) (fY o m h w l j))
    ∧ ComputesElems (.hfma2 o) s o.d wd (rnd h fun l j => fmaE rdn (fX o h w l j) (fY o m h w l j) (fZ o h w l j))

/-- Rounding a value that a floating format holds gives its own code back, under every rounding mode, saturation and hash (R54,
R59): nothing is rounded twice, and no code is unreachable. Formats FP32, BF16, FP16, E4M3, E5M2 and E2M1, and every binary8
format. -/
def Obligations.RepresentableValuesRoundToThemselves : Prop :=
  ∀ (f : Nat) (x : FFmt) (c rnd h : Nat) (sat : Bool), ffmt f = some x → c < 2 ^ WellFormed.fmtWidth f → h < 2 ^ 32 →
    (decodeE f c).isNan = false → roundTo f rnd sat false h (Ex.ofF (decodeE f c)) = c

/-- DOT4 adds the exact sum of four products to the old d with one rounding; an exact zero sum leaves d's value; the second
format is the first one's where SUB[13:8] is 0 (R144). FADDMIN takes MinNum of the old d and the rounded sum (R139). -/
def Obligations.DotProductAndFusedMinimum : Prop :=
  ∀ (o : VOps) (s : State),
    let rdn := isRdn o; let w := s.warp; let m := s.mask
    let rnd := fun (ex : Nat → Nat → Ex) => roundLane m 0 (vRnd o) (vSat o) false (vSeed o) ex
    let fa := vFmt o 3
    let fb := if vSub o / 256 % 64 = 0 then fa else vSub o / 256 % 64
    let prods := fun l => (List.range 4).map fun k =>
      mulF (decodeE fa (elemN 8 (w.reg o.a.toNat l) k)) (decodeE fb (elemN 8 (w.regB m o l) k))
    ComputesElems (.dot4 o) s o.d 32 (rnd fun l _ => dotE rdn (dec32 (w.reg o.d.toNat l)) (sumF (prods l)))
    ∧ ComputesElems (.faddmin o) s o.d 32 (fun l _ => minNumC 0 false (w.reg o.d.toNat l).toNat
        (rnd (fun l j => addE rdn (fX o 0 w l j) (fY o m 0 w l j)) l 0))
    ∧ ∀ z v : FVal, z.isNan = false → v.isZero = true → dotE rdn z v = Ex.ofF z

/-- FMIN, FMAX, HMIN2 and HMAX2 deliver one of their inputs bit for bit, or the canonical NaN where both are NaN: the other one
where one is NaN, the smaller (greater) where neither is, and -0 below +0 (R139). -/
def Obligations.MinimumAndMaximum : Prop :=
  (∀ (o : VOps) (s : State),
    let h := vFmt o 1; let w := s.warp; let m := s.mask
    let x := fun (wd l j : Nat) => elemN wd (w.reg o.a.toNat l) j; let y := fun (wd l j : Nat) => elemN wd (w.regB m o l) j
    ComputesElems (.fmin o) s o.d 32 (fun l j => minNumC 0 false (x 32 l j) (y 32 l j))
    ∧ ComputesElems (.fmax o) s o.d 32 (fun l j => minNumC 0 true (x 32 l j) (y 32 l j))
    ∧ ComputesElems (.hmin2 o) s o.d 16 (fun l j => minNumC h false (x 16 l j) (y 16 l j))
    ∧ ComputesElems (.hmax2 o) s o.d 16 (fun l j => minNumC h true (x 16 l j) (y 16 l j)))
  ∧ ∀ (f : Nat) (t : FFmt) (mx : Bool) (x y : Nat), f < 3 → ffmt f = some t →
    let a := decodeE f x; let b := decodeE f y
    (a.isNan = true → b.isNan = true → some (minNumC f mx x y) = t.nan)
    ∧ (a.isNan = true → b.isNan = false → minNumC f mx x y = y) ∧ (a.isNan = false → b.isNan = true → minNumC f mx x y = x)
    ∧ (a.isNan = false → b.isNan = false →
        (cmpF a b < 0 → minNumC f mx x y = if mx then y else x) ∧ (0 < cmpF a b → minNumC f mx x y = if mx then x else y)
        ∧ (a.isZero = true → b.isZero = true → a.neg = true → b.neg = false → minNumC f mx x y = if mx then y else x)
        ∧ (a.isZero = true → b.isZero = true → a.neg = false → b.neg = true → minNumC f mx x y = if mx then x else y))

/-- FCMP writes its condition of the decoded operands to a predicate: only ne and unord are true with a NaN (R140). FCLASS sets
exactly one bit, by the class of the source (R141). -/
def Obligations.FloatComparisonAndClass : Prop :=
  (∀ (o : VOps) (s : State),
    let x := fun l => dec32 (s.warp.reg o.a.toNat l); let y := fun l => dec32 (s.warp.reg o.b.toNat l)
    ComputesPred (.fcmp o) s o.d.toNat (fun l =>
      let un := (x l).isNan || (y l).isNan; let c := cmpF (x l) (y l)
      match o.pm.toNat with
      | 0 => !un && decide (c = 0) | 1 => un || decide (c ≠ 0) | 2 => !un && decide (c < 0) | 3 => !un && decide (c ≤ 0)
      | 4 => !un && decide (0 < c) | 5 => !un && decide (0 ≤ c) | 6 => un | _ => !un))
  ∧ ((∀ (o : VOps) (s : State),
    Computes (.fclass o) s (inLanes s o.d fun l => BitVec.ofNat 32 (2 ^ fclassBit (s.warp.regB s.mask o l))))
  ∧ ∀ x : Word,
    let neg := x.getLsbD 31; let e := x.toNat / 2 ^ 23 % 2 ^ 8; let m := x.toNat % 2 ^ 23
    (e = 255 → m ≠ 0 → fclassBit x = 8) ∧ (e = 255 → m = 0 → fclassBit x = if neg then 0 else 7)
    ∧ (e ≠ 0 → e ≠ 255 → fclassBit x = if neg then 1 else 6)
    ∧ (e = 0 → m ≠ 0 → fclassBit x = if neg then 2 else 5) ∧ (e = 0 → m = 0 → fclassBit x = if neg then 3 else 4)
    ∧ ((dec32 x).isNan = decide (fclassBit x = 8)))

/-- FDIV and the eight functions of opcode 0x30 deliver long results: the exact value at the decoded source, a quotient or a
root exactly, and the others as a value with more digits than a rounding needs, rounded once (R138, R142; that the digits
suffice is notes/assumptions/18.md, and nothing here rests on it). The quotients and roots of finite operands, division by
zero and each special input of R142's table have the values given; FEXP2 of an integer in range and FLOG2 of a power of two
are exact. -/
def Obligations.FloatLongResults : Prop :=
  (∀ (a b : Bool) (m n : Nat) (e f : Int) (x : FVal), m ≠ 0 → n ≠ 0 →
    let z := FVal.fin a 0 e; let v := FVal.fin a m e; let one := Ex.num false (.rat 1 1 0); let nan := Ex.nan false
    -- FDIV
    divE v (.fin b n f) = .num (a != b) (.rat m n (e - f)) ∧ divE v (.fin b 0 f) = .inf (a != b)
    ∧ divE z (.fin b 0 f) = nan ∧ divE z (.fin b n f) = .zero (a != b) ∧ divE (.inf a) (.inf b) = nan
    ∧ divE (.inf a) (.fin b n f) = .inf (a != b) ∧ divE (.inf a) (.fin b 0 f) = .inf (a != b)
    ∧ divE v (.inf b) = .zero (a != b) ∧ (x.isNan = true → divE x v = nan ∧ divE v x = nan)
    -- NaN
    ∧ (x.isNan = true → divE (.fin false 1 0) x = nan ∧ rsqE x = nan ∧ sqrtE x = nan ∧ exp2E x = nan ∧ log2E x = nan
      ∧ sinE x = nan ∧ cosE x = nan ∧ tanhE x = nan)
    -- FRCP, FRSQ, FSQRT
    ∧ divE (.fin false 1 0) (.inf a) = .zero a ∧ divE (.fin false 1 0) z = .inf a
    ∧ divE (.fin false 1 0) v = .num a (.rat 1 m (-e))
    ∧ rsqE (.inf a) = (if a then nan else .zero false) ∧ rsqE z = .inf a
    ∧ rsqE v = (if a then nan else .num false (.root 1 m (-e)))
    ∧ sqrtE (.inf a) = (if a then nan else .inf false) ∧ sqrtE z = .zero a
    ∧ sqrtE v = (if a then nan else .num false (.root m 1 e))
    -- FEXP2, FLOG2
    ∧ exp2E (.inf a) = (if a then .zero false else .inf false) ∧ exp2E z = one
    ∧ (∀ i j : Nat, i ≤ 400 → j ≤ 480 →
        exp2E (.fin a (i * 2 ^ j) (-(j : Int))) = .num false (.rat 1 1 (if a then -(i : Int) else i)))
    ∧ log2E (.inf a) = (if a then nan else .inf false) ∧ log2E z = .inf true ∧ (a = true → log2E v = nan)
    ∧ (∀ k : Nat, log2E (.fin false (2 ^ k) e) = Ex.ofInt (k + e) 0 false)
    -- FSIN, FCOS, FTANH
    ∧ sinE (.inf a) = nan ∧ sinE z = .zero a ∧ cosE (.inf a) = nan ∧ cosE z = one
    ∧ tanhE (.inf a) = .num a (.rat 1 1 0) ∧ tanhE z = .zero a
    ∧ (0 ≤ cmpF (.fin false m e) (.fin false 10 0) → tanhE v = .num a (.rat 1 1 0)))
  ∧ ∀ (o : VOps) (s : State),
    let m := s.mask; let w := s.warp
    let x := fun l => dec32 (w.reg o.a.toNat l); let y := fun l => dec32 (w.regB m o l)
    let rnd := fun (ex : Nat → Ex) l =>
      BitVec.ofNat 32 (roundLane m 0 (vRnd o) (vSat o) false (vSeed o) (fun l _ => ex l) l 0)
    ComputesLong (.fdiv o) s o.d (rnd fun l => divE (x l) (y l))
    ∧ ComputesLong (.frcp o) s o.d (rnd fun l => divE (.fin false 1 0) (y l))
    ∧ ComputesLong (.frsq o) s o.d (rnd fun l => rsqE (y l))
    ∧ ComputesLong (.fsqrt o) s o.d (rnd fun l => sqrtE (y l))
    ∧ ComputesLong (.fexp2 o) s o.d (rnd fun l => exp2E (y l))
    ∧ ComputesLong (.flog2 o) s o.d (rnd fun l => log2E (y l))
    ∧ ComputesLong (.fsin o) s o.d (rnd fun l => sinE (y l))
    ∧ ComputesLong (.fcos o) s o.d (rnd fun l => cosE (y l))
    ∧ ComputesLong (.ftanh o) s o.d (rnd fun l => tanhE (y l))

/-- The conversions: CVT writes its low elements and zeros above them, CVTSR is CVT under stochastic rounding with the seed in its
uniform b, PACK writes two runs of elements and keeps the others, UNPACK writes all of them (R162 to R164). That an
integer conversion which does not narrow wraps with SAT off is notes/assumptions/83.md. -/
def Obligations.Conversions : Prop :=
  ∀ (o : VOps) (s : State),
    let m := s.mask; let w := s.warp
    let src := cvtSrc o; let dst := cvtDst o; let h := cvtTop o
    let ws := WellFormed.fmtWidth src; let wd := WellFormed.fmtWidth dst
    let n := 32 / max ws wd; let p := 32 / ws; let q := 32 / wd
    let a := fun l j => elemN ws (w.reg o.a.toNat l) j; let b := fun l j => elemN ws (w.reg o.b.toNat l) j
    let cv := fun (rnd seed : Nat) (code : Nat → Nat → Nat) => convLane m src dst rnd (vSat o) seed code
    ComputesElems (.cvt o) s o.d wd (fun l j => if j < n then cv (vRnd o) (vSeed o) a l j else 0)
    ∧ (s.differing o.b.toNat 1 = [] → ComputesElems (.cvtsr o) s o.d wd (fun l j =>
        if j < n then cv 5 ((w.reg o.b.toNat s.lowest).toNat % 256) a l j else 0))
    ∧ ComputesElems (.pack o) s o.d wd (fun l j =>
        if 2 * p * h ≤ j ∧ j < 2 * p * (h + 1) then
          cv (vRnd o) (vSeed o) (fun l j => if j < 2 * p * h + p then a l (j - 2 * p * h) else b l (j - 2 * p * h - p)) l j
        else elemN wd (w.reg o.d.toNat l) j)
    ∧ ComputesElems (.unpack o) s o.d wd (fun l j => cv (vRnd o) (vSeed o) (fun l j => a l (q * h + j)) l j)

/-- QSCALE forms its block scale over the lanes of the split and writes the scale or the codes; SIGNQ and TERNQ write their
scale, their decoded values in as many registers as the block has, or their code words (R165, R167 to R169). -/
def Obligations.BlockCodes : Prop :=
  ∀ (o : VOps) (s : State),
    let m := s.mask; let w := s.warp
    let src := cvtSrc o; let dst := cvtDst o; let ws := WellFormed.fmtWidth src; let wd := WellFormed.fmtWidth dst
    let val := fun l j => decodeE src (elemN ws (w.reg o.a.toNat l) j)
    let block := fun l => (lanesOf m).filter fun k => ws == 32 || k / 16 == l / 16
    let X := fun l => blockScale dst ((block l).flatMap fun k => (List.range (32 / ws)).map (val k))
    let g := vSub o / 256 % 4; let out := vSub o / 4096 % 4
    let xs := (List.range (32 * 2 ^ g)).map fun e =>
      if m.getLsbD (e % 32) then w.reg (o.a.toNat + e / 32) (e % 32) else 0#32
    let coded := fun (r : Coded) (bits : Nat) (c l : Nat) => if m.getLsbD l = true then
        (match out with
         | 0 => if c = o.d.toNat then some (BitVec.ofNat 32 r.s) else none
         | 1 => if o.d.toNat ≤ c ∧ c < o.d.toNat + 2 ^ g then some (r.decs.getD (32 * (c - o.d.toNat) + l) 0#32) else none
         | _ => if c = o.d.toNat then some (BitVec.ofNat 32 (packCodes bits r.codes / 2 ^ (32 * l))) else none)
      else none
    (cvtTop o = 0 → Computes (.qscale o) s (inLanes s o.d fun l => BitVec.ofNat 32 (X l)))
    ∧ (cvtTop o ≠ 0 → ComputesElems (.qscale o) s o.d wd (fun l j => if X l = 0xFF ∨ cvtCount src dst ≤ j then 0
        else roundLane m dst (vRnd o) (vSat o) false (vSeed o) (fun k j => scaled dst (X l) (val k j)) l j))
    ∧ Computes (.signq o) s (coded (signCode (5 + g) xs) 1)
    ∧ Computes (.ternq o) s (coded (ternCode xs) 2)

/-! ### Cross-lane instructions (spec/07_lanes_convert.md R153 to R160) -/

/-- LSHF fills from b past the ends of the warp and, like LPERM and LBC, delivers the reader's own value for a lane outside the
split (R153, R155, R156). -/
def Obligations.LaneMoves : Prop :=
  ∀ (o : VOps) (s : State),
    let k := vSub o % 32; let m := s.mask
    let a := fun l => s.warp.reg o.a.toNat l; let b := fun l => s.warp.reg o.b.toNat l
    let frm := fun i l => if m.getLsbD i = true then a i else a l
    Computes (.lshf o) s (inLanes s o.d fun l =>
      if bitOf (vSub o) 5 = false then (if l < k then b l else frm (l - k) l) else if 31 < l + k then b l else frm (l + k) l)
    ∧ Computes (.lperm o) s (inLanes s o.d fun l => frm ((b l).toNat % 32) l)
    ∧ (s.differing o.b.toNat 1 = [] →
        Computes (.lbc o) s (inLanes s o.d fun l => frm ((b s.lowest).toNat % 32) l))

/-- Votes over the predicates of the split's threads, and the match mask (R157, R158). -/
def Obligations.VotesAndMatch : Prop :=
  ∀ (o : VOps) (s : State),
    let p := fun l => s.warp.pred o.a.toNat l
    let bal := maskOf (s.lanes.filter p)
    ComputesPred (.voteAll o) s o.d.toNat (fun _ => s.lanes.all p)
    ∧ ComputesPred (.voteAny o) s o.d.toNat (fun _ => s.lanes.any p)
    ∧ Computes (.voteBallot o) s (inEither s o.d bal)
    ∧ Computes (.voteCount o) s (inEither s o.d (BitVec.ofNat 32 (s.lanes.filter p).length))
    ∧ Computes (.lmatch o) s (inLanes s o.d fun l =>
        maskOf (s.lanes.filter fun j => s.warp.reg o.a.toNat j == s.warp.reg o.a.toNat l))
    ∧ ∀ j, j < 32 → bal.getLsbD j = (s.mask.getLsbD j && p j)

/-- LRED combines the lanes of the split along its tree, and LSCAN forms the inclusive prefix; a lane outside the split gives no
operand, and a node without one passes the other on (R68, R69, R159, R160). -/
def Obligations.ReductionAndScan : Prop :=
  ∀ (o : VOps) (s : State),
    let op := redOp o
    let x := fun l => if s.mask.getLsbD l = true then some (s.warp.reg o.a.toNat l) else none
    let up := fun (k : Nat) (v : Nat → Option Word) => fun l => if k ≤ l then node op (v (l - k)) (v l) else v l
    let pair := fun (v : Nat → Option Word) => fun l => node op (v (2 * l)) (v (2 * l + 1))
    Computes (.lred o) s (inEither s o.d ((pair (pair (pair (pair (pair x)))) 0).getD 0#32))
    ∧ Computes (.lscan o) s (inLanes s o.d fun l => ((up 16 (up 8 (up 4 (up 2 (up 1 x)))) l).getD 0#32))

/-! ### Control flow and convergence (spec/05_control.md) -/

/-- BRA goes to the branch word's address + 4 × its signed offset; BRP goes there in the threads whose predicate, inverted under
C[3], is true, and falls through in the others; CALL first writes the fall-through address to its pair; RET goes to the address
in its pair, and its misaligned lanes fault first (R87, R101 to R104). -/
def Obligations.ControlTransfers : Prop :=
  ∀ (b : BOps) (o : VOps) (s : State) (r : Split), s.warp.run = some r →
    let tgt := modW 64 ((r.wordAddr : Int) + 4 * sext 20 b.off.toNat); let next := r.after
    let a := fun l => s.warp.reg64 o.a.toNat l
    Reaches (.bra b) s (fun t => Transfers s t fun _ => tgt)
    ∧ Reaches (.brp b) s (fun t => Transfers s t fun l =>
        if s.warp.pred (b.c.toNat % 8) l = b.c.getLsbD 3 then next else tgt)
    ∧ Reaches (.call b) s (fun t => ∃ u, Results s u (inPairs s (BitVec.ofNat 7 (2 * b.c.toNat)) fun _ => next)
        ∧ Transfers u t fun _ => tgt)
    ∧ ((∀ l ∈ s.lanes, a l % 4 = 0) → Reaches (.ret o) s (fun t => Transfers s t a))
    ∧ Reaches (.ret o) s fun t =>
        t = s.withFaults ((s.lanes.filter fun l => a l % 4 != 0).map fun l => (l, .misaligned, a l)) (·.transfer a)

/-- CALLX, JMPX and BRT: the words after the clause are a target block, word 0 with its mark and its count; the targets it lists
are its address + 4 × each signed entry. CALLX and JMPX go to an address that is one of them, CALLX linking the address after
the block; BRT goes to the entry its index names; what was read of the block from another device goes (R92, R105). -/
def Obligations.IndirectTransfers : Prop :=
  ∀ (o : VOps) (s : State) (r : Split) (h : Word), s.warp.run = some r →
    let w0 := r.after; let n := h.toNat % 256
    let word := fun e => s.fetchWord s.cur.core s.cur.slot (w0 + 4 * e)
    let tgt := fun (x : Word) => modW 64 ((w0 : Int) + 4 * sext 32 x.toNat)
    let a := fun l => s.warp.reg64 o.a.toNat l; let ix := fun l => (s.warp.reg o.a.toNat l).toNat
    word 0 = .ok h → bitsOf h.toNat 31 8 = 0xB7B700 → n ≠ 0 →
    ((∀ e, 1 ≤ e → e ≤ n → ∃ x, word e = .ok x) →
      (∀ l ∈ s.lanes, ∃ e x, 1 ≤ e ∧ e ≤ n ∧ word e = .ok x ∧ a l = tgt x) →
      Reaches (.jmpx o) s (fun t => Transfers (s.blockDone w0) t a)
      ∧ Reaches (.callx o) s (fun t => ∃ u, Results s u (inPairs s o.d fun _ => w0 + 4 * (n + 1))
          ∧ Transfers (u.blockDone w0) t a))
    ∧ ∀ x : Nat → Word, (∀ l ∈ s.lanes, ix l < n ∧ word (ix l + 1) = .ok (x l)) →
      Reaches (.brt o) s (fun t => Transfers (s.blockDone w0) t fun l => tgt (x l))

/-- MEET, LEAVE, JOIN and KMOV change convergence masks and meet registers as they say, MEET and LEAVE for the threads of the
split only, KMOV also the meets of the armed threads that it takes out of its mask, where R267 and R114 differ
(notes/assumptions/95.md); MEETRD reads the meet register, and MEETWR writes any value but a malformed one (R107, R109, R114,
R115, R267). What State.settle re-evaluates after them: the threads held at an address on a mask go on together, without their
meets, once every member is held there, one that is no member alone (R110); the waiters of a WAITM once every member waits at
one, one that is no member alone, each to the place after its own (R111); no other thread moves. -/
def Obligations.ConvergenceMasks : Prop :=
  (∀ (b : BOps) (o : VOps) (s : State) (r : Split), s.warp.run = some r →
    let tgt := modW 64 ((r.wordAddr : Int) + 4 * sext 20 b.off.toNat)
    let k := o.d.toNat; let m := s.mask; let w := s.warp
    let v := fun l => w.reg64 o.a.toNat l
    Reaches (.meet b) s (fun t => Masks s t (fun j => if j = b.c.toNat then w.kmask j ||| m else w.kmask j)
        fun l => if m.getLsbD l = true then { w.thread l with meet := meetMake b.c.toNat tgt } else w.thread l)
    ∧ Reaches (.leave o) s (fun t => Masks s t (fun j => if j = k then w.kmask j &&& ~~~m else w.kmask j)
        fun l => if m.getLsbD l = true ∧ meetMask (w.thread l).meet = k then
          { w.thread l with meet := meetClear (w.thread l).meet } else w.thread l)
    ∧ Reaches (.join o) s (fun t => Masks s t (fun j => if j = k then w.kmask j ||| m else w.kmask j) w.thread)
    ∧ (o.b = 0#7 → Computes (.kmov o) s (inUniform o.d (w.kmask o.a.toNat)))
    ∧ (o.b ≠ 0#7 → Reaches (.kmov o) s
        (fun t =>
          let new := w.reg o.a.toNat 0 &&& w.liveMask
          Masks s t (fun j => if j = k then new else w.kmask j) fun l =>
            let y := w.thread l
            if w.inMask k l = true ∧ new.getLsbD l = false ∧ y.st ≠ .held ∧ meetMask y.meet = k then
              { y with meet := meetClear y.meet } else y))
    ∧ Computes (.meetrd o) s (inPairs s o.d fun l => (w.thread l).meet.toNat)
    ∧ ((∀ l ∈ s.lanes, meetBad (v l) = false) → Reaches (.meetwr o) s (fun t => Masks s t w.kmask
        fun l => if m.getLsbD l = true then { w.thread l with meet := BitVec.ofNat 64 (v l) } else w.thread l)))
  ∧ (∀ k a, k < 16 → meetValid (meetMake k a) = true ∧ meetMask (meetMake k a) = k ∧ meetAddr (meetMake k a) = a % 2 ^ 55
      ∧ meetValid (meetClear (meetMake k a)) = false)
  ∧ (∀ (w : Warp) (l : Nat), l < 32 → w.liveMask.getLsbD l = ((w.thread l).st != .exited))
  ∧ (∀ (w : Warp) (stamp : Nat), w.mode = .tenant →
      let v := w.releaseMeets stamp
      v = { w with th := v.th, groups := v.groups }
      ∧ ∀ l, l < 32 →
        let x := w.thread l; let k := meetMask x.meet
        let there := fun m => (w.thread m).st = .held ∧ meetMask (w.thread m).meet = k ∧ meetAddr (w.thread m).meet = meetAddr x.meet
        let due := x.st = .held ∧ (w.inMask k l = false ∨ ∀ m, m < 32 → w.inMask k m = true → there m)
        (due → v.thread l = { x with st := .active, wait := .none, meet := meetClear x.meet } ∧ v.inGroup x.addr x.slot l)
        ∧ (¬ due → v.thread l = x ∧ ∀ a p, v.inGroup a p l ↔ w.inGroup a p l))
  ∧ (∀ w : Warp,
      let v := w.releaseWaitm
      v.1 = { w with th := v.1.th }
      ∧ ∀ l, l < 32 →
        let x := w.thread l
        let due := ∃ k, x.wait = .waitm k
          ∧ (w.inMask k l = false ∨ ∀ m, m < 32 → w.inMask k m = true → (w.thread m).wait = .waitm k)
        (due → v.1.thread l = { x with wait := .none } ∧ l ∈ v.2) ∧ (¬ due → v.1.thread l = x ∧ l ∉ v.2))
  ∧ ∀ (s : State) (c w : Nat), (s.warpAt c w).mode = .tenant →
      let t := s.settleMasks c w; let v := (s.warpAt c w).releaseMeets s.nextId
      (∀ k, k ≠ (c, w) → t.warpAt k.1 k.2 = s.warpAt k.1 k.2)
      ∧ (v.releaseWaitm.2 = [] → t.warpAt c w = v.releaseWaitm.1)
      ∧ ∀ l ∈ v.releaseWaitm.2, (v.thread l).nmark = false → meetValid (v.thread l).meet = false →
          (t.warpAt c w).inGroup (v.thread l).naddr (v.thread l).nslot l

/-- EXIT ends the threads of the split: out of every mask, group and wait, their meets invalid, their results written nowhere
(R106). TRAP takes SOFTWARE_TRAP in all of them, with its code as the address, recorded past the trap (R125). WAITM keeps the
members of the mask waiting, and the others pass (R111). -/
def Obligations.EndsTrapsAndWaits : Prop :=
  ∀ (o : VOps) (p : IOps) (s : State) (r : Split), s.warp.run = some r →
    let m := s.mask
    Reaches (.exit o) s (fun t =>
      (∀ a, rd8 t.mem a = rd8 s.mem a)
      ∧ t.setWarp {} = { (if r.yield = true then s.stallSlot else s).setWarp {} with flow := .moved }
      ∧ t.warp = { s.warp with run := none, th := t.warp.th, k := t.warp.k, groups := t.warp.groups, bound := t.warp.bound,
                               parked := t.warp.parked, ops := t.warp.ops }
      ∧ (∀ j, t.warp.kmask j = s.warp.kmask j &&& ~~~m)
      ∧ (∀ g ∈ t.warp.groups, g.mask &&& m = 0#32) ∧ (∀ x ∈ t.warp.bound, m.getLsbD x.1 = false)
      ∧ (∀ q ∈ t.warp.parked, q.mask &&& m = 0#32)
      ∧ (∀ a q l, m.getLsbD l = false → (t.warp.inGroup a q l ↔ s.warp.inGroup a q l))
      ∧ t.warp.ops.map (·.id) = s.warp.ops.map (·.id)
      ∧ (∀ x ∈ t.warp.ops, x.kind.long = true → x.mask = 0#32 → m.getLsbD x.lane = true → x.dest = none)
      ∧ ∀ l, l < 32 → t.warp.thread l = if m.getLsbD l = true then
          { s.warp.thread l with
            st := .exited, meet := meetClear (s.warp.thread l).meet, cause := none, faddr := 0, findex := 0, opnd := 0, wait := .none,
            pend := none, cdone := false }
        else s.warp.thread l)
    ∧ Reaches (.trap p) s (fun t => t = (s.takeFaults (if r.slot + 1 < hdrN r.hdr then r.addr else r.after)
        (if r.slot + 1 < hdrN r.hdr then r.slot + 1 else 0)
        (s.lanes.map fun l => (l, .softwareTrap, p.imm.toNat % 512))).1)
    ∧ Reaches (.waitm o) s (fun t => t.setWarp {} = s.setWarp {}
        ∧ t.warp = { s.warp with th := t.warp.th, run := t.warp.run }
        ∧ Waits s t.warp (s.lanes.filter fun l => s.warp.inMask o.d.toNat l) fun x => { x with wait := .waitm o.d.toNat })

/-- BAR and CBAR: the split's threads arrive, and under .sync wait. Where the warp has no store that is not registered and no
arrival uncounted, its operations being numbered before, the barrier's count rises at once by the number of threads, the first
arrival of a phase fixing its expected count; where every thread of the split has such a store, no count changes and each arrival
waits (R116 to R118, R120). A cohort the workgroup has no barrier of faults CBAR_NONRESIDENT. Once the arrivals of a phase reach
its expected count, and only then, its phase bit flips, its count is 0, any excess discarded, and an explicit count is unset; the
threads that wait at it go on, with an acquire of their core, and a cohort's are told by core; a thread whose own arrival is not
counted stays (notes/assumptions/23.md). -/
def Obligations.BarrierArrivals : Prop :=
  (∀ (s : State) (g n : Nat),
    let x := s.wg g; let b := fget {} x.bars n; let t := s.settleBar g n
    let full := b.begun = true ∧ b.fixed.getD (s.liveIn g) ≤ b.arrived
    let waits := fun (w l : Nat) => let y := s.warpAt x.core w
      y.stowed = false ∧ (y.thread l).st = .atBar ∧ (y.thread l).opnd = n ∧ y.arriving .barArr l = false
    (¬ full → t = s)
    ∧ (full → fget {} (t.wg g).bars n = { phase := !b.phase }
        ∧ (∀ j, j ≠ n → fget {} (t.wg g).bars j = fget {} x.bars j)
        ∧ ∀ w ∈ x.slots, ∀ l, l < 32 →
          let z := (t.warpAt x.core w).thread l; let y := (s.warpAt x.core w).thread l
          (waits w l → (z.st = .active ∨ z.st = .held) ∧ (t.core x.core).copies = [])
          ∧ (¬ waits w l → y.st = .atBar → y.wait = .none → z = y)))
  ∧ (∀ (s : State) (n coh : Nat) (l : Launch), s.launch n = some l →
    let b := fget ({} : Bar) l.cbars coh; let t := s.settleCbar n coh
    let ms := (s.wgsOf n).filter fun x => l.member coh x.2.index
    let full := b.begun = true ∧ (ms.map fun x => s.liveIn x.1).foldl (· + ·) 0 ≤ b.arrived
    (¬ full → t = s)
    ∧ (full → ∃ l', t.launch n = some l' ∧ fget ({} : Bar) l'.cbars coh = { phase := !b.phase }
        ∧ ∀ x ∈ ms, x.2.st ≠ .ended → x.2.st ≠ .saved → ∀ w ∈ x.2.slots, ∀ i, i < 32 →
          let y := s.warpAt x.2.core w
          y.stowed = false → (y.thread i).st = .atCbar → (y.thread i).opnd = coh → y.arriving .cbarArr i = false →
          (y.thread i).cdone = false → ((t.warpAt x.2.core w).thread i).cdone = true ∧ (coh, x.2.core) ∈ l'.told))
  ∧ ∀ (o : IOps) (s : State), s.mask ≠ 0#32 →
    let n := o.imm.toNat % 16; let coh := o.imm.toNat % 256; let w := s.warp; let g := w.wg
    let cnt := (w.reg o.a.toNat s.lowest).toNat % 2 ^ 11
    let explicit := o.imm.getLsbD 5 = true ∧ 1 ≤ cnt ∧ cnt ≤ 1024
    let quiet := ∀ x ∈ w.ops, x.id < s.nextId ∧ x.unordered = false ∧ x.kind ≠ .barArr ∧ x.kind ≠ .cbarArr
    let behind := (∀ l ∈ s.lanes, w.unregistered l s.nextId = true) ∧ ∀ x ∈ w.ops, x.kind ≠ .barArr ∧ x.kind ≠ .cbarArr
    let stands := fun (t : State) (sync : Bool) (f : Thread → Thread) =>
      (∀ a, rd8 t.mem a = rd8 s.mem a)
      ∧ t.warp = { w with th := t.warp.th, run := t.warp.run, ops := t.warp.ops }
      ∧ (∀ c k, (c, k) ≠ (s.cur.core, s.cur.slot) → t.warpAt c k = s.warpAt c k)
      ∧ Waits s t.warp (if sync then s.lanes else []) f
    let counted := fun (b : Bar) =>
      { b with begun := true, arrived := b.arrived + s.lanes.length,
               fixed := if b.begun then b.fixed else if explicit then some cnt else none }
    let bar := fun (sync : Bool) (t : State) => stands t sync (fun x => { x with st := .atBar, opnd := n })
      ∧ (quiet → t.warp.ops = w.ops ∧ fget {} (t.wg g).bars n = counted (fget {} (s.wg g).bars n)
          ∧ ∀ j, j ≠ n → fget {} (t.wg g).bars j = fget {} (s.wg g).bars j)
      ∧ (behind → t.wgs = s.wgs ∧ ∃ os, t.warp.ops = w.ops ++ os ∧ os.map (·.lane) = s.lanes
          ∧ ∀ x ∈ os, x.kind = .barArr ∧ x.aop = n ∧ x.rel = true)
    let cbar := fun (l : Launch) (sync : Bool) (t : State) => stands t sync (fun x => { x with st := .atCbar, opnd := coh })
      ∧ (quiet → t.warp.ops = w.ops ∧ ∃ l', t.launch (s.wg g).launch = some l' ∧ l' = { l with cbars := l'.cbars }
          ∧ (let b := fget ({} : Bar) l.cbars coh
             fget {} l'.cbars coh = { b with begun := true, arrived := b.arrived + s.lanes.length })
          ∧ ∀ j, j ≠ coh → fget {} l'.cbars j = fget {} l.cbars j)
      ∧ (behind → t.launches = s.launches ∧ ∃ os, t.warp.ops = w.ops ++ os ∧ os.map (·.lane) = s.lanes
          ∧ ∀ x ∈ os, x.kind = .cbarArr ∧ x.aop = coh ∧ x.rel = true)
    Reaches (.barSync o) s (bar true) ∧ Reaches (.barArv o) s (bar false)
    ∧ (∀ l, s.launch (s.wg g).launch = some l → bitOf l.cbarmap coh = true → l.member coh (s.wg g).index = true →
        Reaches (.cbarSync o) s (cbar l true) ∧ Reaches (.cbarArv o) s (cbar l false))
    ∧ ((∀ l, s.launch (s.wg g).launch = some l → bitOf l.cbarmap coh = false ∨ l.member coh (s.wg g).index = false) →
        Reaches (.cbarSync o) s (fun t => t = s.faultSplit .cbarNonresident coh)
        ∧ Reaches (.cbarArv o) s (fun t => t = s.faultSplit .cbarNonresident coh))

/-- NOP changes no state, and YIELD only marks its run, which gives up the issue slot as it ends (R124). FENCE.rel passes once
every earlier store and home operation of the split's threads has registered, FENCE.acq once every earlier load has returned,
dropping the core's unowned words and what its loads on their way to another device will bring, FENCE.ar when both hold; WAITC
passes, as an acquire, once its counter is at or below its number, and parks its split until then. PREF changes no register; it
brings the words of the local lines whose checks pass, but for owned ones, ones with a lasting error and ones a switch slice
owns, and asks another device for its lines; this says which copies are there where the L1, of 2,048 lines, has room (R184,
R192, R193, R306, R314). That a whole local line comes at once, without those words, and that the L1 holds 2,048 lines is
notes/assumptions/13.md. -/
def Obligations.OrderingInstructions : Prop :=
  ∀ (o : VOps) (p : IOps) (q : MOps) (s : State),
    let w := s.warp; let c := s.cur.core
    let ordered := ∀ l ∈ s.lanes, w.unregistered l s.nextId = false
    let back := ∀ l ∈ s.lanes, ∀ x ∈ w.ops, x.covers l = true → x.kind ≠ .ld ∧ x.kind ≠ .ldf ∧ x.kind ≠ .atom ∧ x.kind ≠ .cas
    let acquired := s.setCore c { s.core c with
      copies := [], l1Bad := (s.core c).l1Bad.filter fun i => (s.core c).owned.contains i
      warps := (s.core c).warps.map fun y => (y.1, { y.2 with ops := y.2.ops.map fun x => if x.fab then { x with stale := true } else x }) }
    let stall : State := { s with flow := .stall }
    let low := match p.imm.toNat / 64 % 8 with
      | 1 => w.cmat ≤ p.imm.toNat % 64 | 2 => w.ccopy ≤ p.imm.toNat % 64 | 3 => w.cclr ≤ p.imm.toNat % 64
      | 4 => w.caux ≤ p.imm.toNat % 64
      | _ => w.cmat ≤ p.imm.toNat % 64 ∧ w.ccopy ≤ p.imm.toNat % 64 ∧ w.cclr ≤ p.imm.toNat % 64 ∧ w.caux ≤ p.imm.toNat % 64
    let asked := fun i => ∃ l pa, l ∈ s.lanes ∧ s.reach .rd 4 .misaligned false (w.ea q 4 l) = .ok pa
      ∧ isFabric pa = false ∧ i / 32 = pa / 128
    let brought := fun i => asked i ∧ (s.core c).owned.contains i = false ∧ s.bad (4 * i) 4 = false ∧ s.swOwned.contains i = false
    Reaches (.nop o) s (fun t => t = s)
    ∧ Reaches (.yield o) s (fun t => t = s.setWarp { w with run := w.run.map fun r => { r with yield := true } })
    ∧ (ordered → Reaches (.fenceRel o) s (fun t => t = s)) ∧ (¬ ordered → Reaches (.fenceRel o) s (fun t => t = stall))
    ∧ (back → Reaches (.fenceAcq o) s (fun t => t = acquired)) ∧ (¬ back → Reaches (.fenceAcq o) s (fun t => t = stall))
    ∧ (ordered ∧ back → Reaches (.fenceAr o) s (fun t => t = acquired))
    ∧ (¬ (ordered ∧ back) → Reaches (.fenceAr o) s (fun t => t = stall))
    ∧ (low → Reaches (.waitc p) s (fun t => t = acquired))
    ∧ (¬ low → Reaches (.waitc p) s (fun t => t = { s with flow := .park .waitc }))
    ∧ Reaches (.pref q) s (fun t => t = { s with cores := t.cores, errs := t.errs, nextId := t.nextId, fresh := t.fresh }
        ∧ (∀ k, k ≠ c → t.core k = s.core k)
        ∧ t.core c = { s.core c with
            copies := (t.core c).copies, owned := (t.core c).owned, l1Bad := (t.core c).l1Bad, warps := (t.core c).warps }
        ∧ (∀ k, k ≠ s.cur.slot → t.warpAt c k = s.warpAt c k) ∧ t.warp = { w with ops := t.warp.ops }
        ∧ (∃ os, t.warp.ops = w.ops ++ os ∧ ∀ x ∈ os, x.kind = .pref ∧ x.size = 128 ∧ isFabric x.pa = true)
        ∧ ((s.core c).l1Lines.length + s.lanes.length ≤ 2048 → t.fresh = s.fresh ∧ t.errs = s.errs ∧ (t.core c).owned = (s.core c).owned
            ∧ (∀ i, i ∈ (t.core c).l1Bad ↔ i ∈ (s.core c).l1Bad ∧ (asked i → (s.core c).owned.contains i = true))
            ∧ ∀ i, (brought i → fget 0#32 (t.core c).copies i = BitVec.ofNat 32 (s.rdN (4 * i) 4)
                      ∧ fhas (t.core c).copies i = true)
              ∧ (asked i → ¬ brought i → fhas (t.core c).copies i = false)
              ∧ (¬ asked i → fget 0#32 (t.core c).copies i = fget 0#32 (s.core c).copies i
                  ∧ fhas (t.core c).copies i = fhas (s.core c).copies i)))

/-! ### Memory instructions (spec/08_memory_isa.md, spec/06_vector.md R150) -/

/-- LD, LDF, ST, STF, ATOM, RED and CAS check each lane's address, alignment first, and make one outstanding operation for each
lane that passes, on its physical address, with the bytes, the operands and the marks the form gives it; the others fault (R171,
R175, R177, R178, R181, R182). -/
def Obligations.LaneAccesses : Prop :=
  ∀ (o : MOps) (s : State),
    let w := s.warp; let sz := o.sz.toNat; let n := szBytes sz; let va := w.ea o n
    let datum := fun l => w.datum o.d sz l
    let acc := fun (need : Need) (mis : Cause) (flat : Bool) (l : Nat) => s.reach need n mis flat (va l)
    let act := fun (i : Instr) (a : Nat → Except Cause Nat) (op : Nat → Nat → Op) =>
      s.canPark (fun l => (a l).isOk) → Reaches i s fun t => Accesses s t a va op
    let base := fun (k : OpKind) (l pa : Nat) => ({ id := 0, lane := l, kind := k, va := va l, pa := pa, size := n } : Op)
    let back := fun (k : OpKind) (l pa : Nat) => { base k l pa with iss := s.nextId }
    let atomic := fun (k : OpKind) (l pa : Nat) =>
      { back k l pa with sz := sz, data := datum l, aop := mAop o, sgn := mSgn o, acq := mAcq o, rel := mRel o }
    act (.ld o) (acc .rd .misaligned false) (fun l pa => { back .ld l pa with sz := sz, acq := mAcq o, dest := some o.d })
    ∧ ((∀ l ∈ s.lanes, (w.ops.filter fun x => x.kind == .ldf && !x.done && x.lane == l).length < 4) →
        act (.ldf o) (acc .rd .misaligned true)
          fun l pa => { back .ldf l pa with sz := sz, acq := mAcq o, clr := mClr o, dest := some o.d })
    ∧ act (.st o) (acc .wr .misaligned false) (fun l pa => { base .st l pa with data := datum l, rel := mRel o })
    ∧ act (.stf o) (acc .wr .misaligned true) (fun l pa => { base .stf l pa with data := datum l, rel := mRel o })
    ∧ act (.atom o) (acc .rw .misalignedAtomic false) (fun l pa => { atomic .atom l pa with dest := some o.d })
    ∧ act (.red o) (acc .wr .misalignedAtomic false) (atomic .red)
    ∧ act (.cas o) (acc .rw .misalignedAtomic false) (fun l pa => { atomic .cas l pa with
        data2 := w.regN (o.d.toNat + szRegs sz) l (szRegs sz), dest := some o.d })

/-- SLD makes one load for the split, into its uniform registers, from the address of its lowest lane (R150); a failing check
faults the whole split. FEOP.set and .clear make one operation for each lane with granules; FEOP.test makes one for each lane and
holds its split there, and once the homes have seen every granule, its registers take the counts they found (R180). -/
def Obligations.SharedAccesses : Prop :=
  ∀ (o : MOps) (s : State),
    let w := s.warp; let sz := o.sz.toNat; let n := szBytes sz; let va := w.ea o n s.lowest
    let gva := w.ea o 16; let count := fun l => min (w.reg o.d.toNat l).toNat 4096
    (∀ pa, s.reach .rd n .misaligned false va = .ok pa → Reaches (.sld o) s fun t => Adds s t [s.lowest] fun l =>
      { id := 0, iss := s.nextId, lane := l, kind := .ld, mask := s.mask, va := va, pa := pa, size := n, sz := sz, dest := some o.d })
    ∧ (∀ c, s.reach .rd n .misaligned false va = .error c → Reaches (.sld o) s fun t => t = (s.touch va).faultSplit c va)
    ∧ (∀ pa : Nat → Nat, (∀ l ∈ s.lanes, s.reach .rw 16 .misaligned true (gva l) = .ok (pa l)
          ∧ flatOff (pa l) + 16 * count l ≤ s.flatBytes) →
        (let op := fun (k : OpKind) (l : Nat) => ({ id := 0, lane := l, kind := k, va := gva l, pa := pa l, size := count l } : Op)
         let some_ := s.lanes.filter fun l => count l != 0
         Reaches (.feopSet o) s (fun t => Adds s t some_ (op .feSet))
         ∧ Reaches (.feopClear o) s (fun t => Adds s t some_ (op .feClear)))
        ∧ (s.mask ≠ 0#32 → (∀ x ∈ w.ops, x.kind = .feTest → s.mask.getLsbD x.lane = false) →
            (∀ l ∈ s.lanes, w.conflicts (laneBit l) (pa l) (16 * count l) = false) → Reaches (.feopTest o) s fun t =>
              ∃ u, Adds s u s.lanes (fun l =>
                { id := 0, lane := l, kind := .feTest, va := gva l, pa := pa l, size := count l, done := count l = 0 })
                ∧ t = { u with flow := .stall }))
    ∧ ∀ n : Nat → Nat, s.mask ≠ 0#32 → (∀ x ∈ w.ops, x.kind = .feTest → s.mask.getLsbD x.lane = true → x.done = true) →
        (∀ l ∈ s.lanes, ∃ x, w.ops.find? (fun y => y.kind == .feTest && y.lane == l && y.done) = some x ∧ x.val = n l) →
        Reaches (.feopTest o) s fun t =>
          Results (s.setWarp { w with ops := w.ops.filter fun x => !(x.kind == .feTest && s.mask.getLsbD x.lane) }) t
            (inLanes s o.d fun l => BitVec.ofNat 32 (n l))

/-- The async barrier instructions, where the split's threads name one well-formed object that no earlier write of theirs is
bound for, and that holds no lasting error, outside the locked supervisor image: ABINIT, ABEXP and ABARR write the object's new words, 16 bytes, and wake the waiters
whose phase has passed; ABWAIT waits for the phase or acquires, and ABTEST writes its predicate; the core keeps no copy of the
object that is older (R313). An update completes the phase
exactly where both words reach zero: the phase flips, and the counts load again (R188 to R191). An object that holds a lasting
error faults the split with DATA_UNCORRECTABLE, but for ABINIT, which writes all of it (R424; notes/assumptions/89.md). -/
def Obligations.AsyncBarriers : Prop :=
  (∀ (o : VOps) (s : State) (pa : Nat),
    let w := s.warp; let va := w.reg64 o.a.toNat s.lowest; let b := w.reg o.b.toNat s.lowest
    let x := s.abRead pa; let c := s.cur.core; let n := s.lanes.length
    let writes := fun (obj : AbObj) (t : State) => ∃ u : State, t = u.wakeAb ∧ u.abRead pa = obj
      ∧ (∀ a, a < pa ∨ pa + 16 ≤ a → rd8 u.mem a = rd8 s.mem a) ∧ u.warp = w ∧ u.wgs = s.wgs ∧ u.full = s.full
    s.differing o.a.toNat 2 = [] → s.differing o.b.toNat 1 = [] → s.reach .rw 16 .misaligned true va = .ok pa →
    w.conflicts s.mask pa 16 = false →
    (s.bad pa 16 = true → ∀ i ∈ [Instr.abexp o, .abarr o, .abwait o, .abtest o],
      Reaches i s fun t => t = s.withFaults (s.lanes.map fun l => (l, .dataUncorrectable, va)) id)
    ∧ (s.discards pa 16 = false → s.imageLocked pa 16 = false →
    Reaches (.abinit o) s (writes ⟨BitVec.ofNat 32 (b.toNat % 2 ^ 16 * 128), BitVec.ofNat 32 (b.toNat / 2 ^ 16), 0x80000000#32, b⟩)
    ∧ (s.bad pa 16 = false → x.malformed = false →
      Reaches (.abexp o) s (writes (x.update b 0#32))
      ∧ ((∀ y ∈ w.ops, y.id < s.nextId ∧ y.kind ≠ .abArr ∧ y.unordered = false) →
          Reaches (.abarr o) s (writes (x.update b (BitVec.ofNat 32 n))))
      ∧ (x.phase = b.getLsbD 0 → Reaches (.abwait o) s fun t => (∃ r, OnlyReads s r ∧ t.setWarp {} = r.setWarp {})
          ∧ t.warp = { w with th := t.warp.th, run := t.warp.run }
          ∧ Waits s t.warp s.lanes fun y => { y with wait := .abwait pa (b.getLsbD 0) })
      ∧ (x.phase ≠ b.getLsbD 0 → Reaches (.abwait o) s fun t => t = s.acquire c)
      ∧ Reaches (.abtest o) s (fun t => ∃ r u, OnlyReads s r ∧ Predicates r u o.d.toNat (fun _ => x.phase != b.getLsbD 0)
          ∧ t = if x.phase != b.getLsbD 0 then u.acquire c else u))))
  ∧ ∀ (x : AbObj) (add sub : Word),
    let w0 := x.bytes + add; let w1 := x.arrivals - sub; let y := x.update add sub
    y.reload = x.reload
    ∧ (w0 ≠ 0#32 ∨ w1 ≠ 0#32 → y.bytes = w0 ∧ y.arrivals = w1 ∧ y.phase = x.phase)
    ∧ (w0 = 0#32 → w1 = 0#32 → y.phase = !x.phase ∧ y.bytes = BitVec.ofNat 32 (x.reload.toNat % 2 ^ 16 * 128)
        ∧ y.arrivals = BitVec.ofNat 32 (x.reload.toNat / 2 ^ 16))
    ∧ y.flags.getLsbD 1 = (x.flags.getLsbD 1 || w1.getLsbD 31) ∧ y.malformed = x.malformed

/-- CST stores, as one packed vector of the split's elements in lane order, the header and the shorter of the two forms; LD.pk
delivers each lane's element as a long result: 0 past the vector's end or where the mask has no bit for it, else the bits of the
payload that belong to it, by its number in the raw form and by the mask's bits below it in the packed one (R185 to R187, R351,
R352). HGL delivers the features of each lane, summed corner by corner; HGA enters a counted command and its reductions at the
homes (R194, R195, R414, R415). That the values of LD.pk and HGL are those of the issuing step is notes/assumptions/14.md, and that an
LD.pk may pass by the header or mask of its own warp's CST that has not registered notes/assumptions/91.md. Each where its reads succeed and need not wait; and the last clauses say that the four complete on
plain memory of this device wherever the record they name is well formed and every access passes the checks of R171. -/
def Obligations.PackedVectorsAndHashGrid : Prop :=
  (∀ (o : MOps) (s : State) (pa : Nat),
    let w := s.warp; let H := w.ea o 16 s.lowest; let h := Pk.of (s.rdN pa 16); let wd := h.width
    let regs := szRegs o.sz.toNat; let per := 32 * regs / wd
    let es := (List.range (32 * per)).map fun e =>
      if s.mask.getLsbD (e / per) then w.regN o.d.toNat (e / per) regs / 2 ^ (wd * (e % per)) % 2 ^ wd else 0
    let pk := packVector wd es
    (∀ l ∈ s.lanes, w.ea o 16 l = H) → s.reach .wr 16 .misaligned false H = .ok pa → w.conflicts s.mask pa 16 = false →
    isFabric pa = false → s.swHeld pa 16 = false → s.bad pa 16 = false → h.bad = false → pk.2.length ≤ h.cap →
    (∀ i, 16 * i < pk.2.length → ∃ q, s.reach .wr 16 .misaligned false (H + 16 + 16 * i) = .ok q) →
    Reaches (.cst o) s fun t => OnlyWarpIds s t ∧ t.warp = { w with ops := t.warp.ops }
      ∧ ∃ os, t.warp.ops = w.ops ++ os
        ∧ (∀ x ∈ os, x.kind = .st ∧ x.mask = s.mask ∧ s.reach .wr 16 .misaligned false x.va = .ok x.pa)
        ∧ os.map (·.va) = (List.range os.length).map (fun i => H + 16 * i)
        ∧ os.flatMap (fun x => leBytes x.size x.data)
          = ({ h with raw := pk.1, n := 32 * per, len := pk.2.length } : Pk).bytes ++ pk.2)
  ∧ (∀ (o : MOps) (s : State) (v : Nat → Nat),
    let w := s.warp; let sz := o.sz.toNat; let H := fun l => modW 64 (w.reg64 o.a.toNat l + sext 7 o.off.toNat * 16)
    let e := fun l => match o.x with | none => 0 | some x => (w.reg x.idx.toNat l).toNat
    -- the element of wd bits that starts at bit p of what follows the header
    let elem := fun (l p wd : Nat) => ∃ y, s.readNow l (H l + 16 + p / 32 * 4) 4 = .ok y false
      ∧ v l = if sz = 1 ∨ sz = 3 then modW 32 (sext wd (y / 2 ^ (p % 32) % 2 ^ wd)) else y / 2 ^ (p % 32) % 2 ^ wd
    let v' := s.pkViews
    (∀ l ∈ s.lanes, ∃ x, v'.1.1.readNow l (H l) 16 false = .ok x false ∧
      let h := Pk.of x; let wd := h.width
      h.bad = false ∧ (if wd ≤ 8 then sz ≤ 1 else if wd = 16 then sz = 2 ∨ sz = 3 else sz = 4)
      ∧ (h.n ≤ e l ∧ v l = 0
        ∨ e l < h.n ∧ h.raw = true ∧ elem l (e l * wd) wd
        ∨ e l < h.n ∧ h.raw = false ∧ ∃ m : Nat → Nat,
            (∀ g, g ≤ e l / 128 → v'.1.2.readNow l (H l + 16 + 16 * g) 16 false = .ok (m g) false) ∧
            let bit := fun j => bitOf (m (j / 128)) (j % 128)
            (bit (e l) = false ∧ v l = 0
              ∨ bit (e l) = true ∧ elem l (8 * maskBytes h.n + ((List.range (e l)).filter bit).length * wd) wd))) →
    Reaches (.ldPk o) s fun t => ∃ u, OnlyReads v'.2 u ∧ Adds u t s.lanes fun l =>
      { id := 0, iss := s.nextId, lane := l, kind := .ld, va := H l, size := 0, sz := 4, acq := mAcq o, dest := some o.d,
        done := true, val := v l })
  -- headers and masks are read with the warp's own stores, but for those of a CST that has not registered, each or none
  ∧ (∀ s : State, let v := s.pkViews; let old := s.updWarp fun w => { w with ops := w.ops.filter fun x => !(x.kind == .st && x.mask != 0#32) }
    ((∀ x ∈ s.warp.ops, x.kind = .st → x.mask = 0#32) → v = ((s, s), s))
    ∧ ((∃ x ∈ s.warp.ops, x.kind = .st ∧ x.mask ≠ 0#32) →
        v.2 = { s with fresh := s.fresh + 1 } ∧ (v.1.1 = s ∨ v.1.1 = old) ∧ (v.1.2 = s ∨ v.1.2 = old)))
  ∧ (∀ (o : VOps) (s : State) (x : Nat) (r : Region),
    let w := s.warp; let va := w.reg64 o.b.toNat 0
    va % 256 = 0 → s.readBlock16 s.lowest va 16 = .ok x → Region.parse x = some r →
    w.rangeOk o.a.toNat r.d false = true → w.rangeBad s.mask o.a.toNat r.d = false →
    (w.rangeOk o.d.toNat (r.l * r.f) false = true →
      let cs := fun l => r.corners (w.coords o.a.toNat r.d l)
      (∀ l ∈ s.lanes, s.hgLane r .rd o.a.toNat l r.paddr (r.psize * r.f) = none
        ∧ s.mustWait l (s.paramReads r o.a.toNat l) = false
        ∧ ∀ c ∈ cs l, ∀ f, f < r.f → (s.param r l (r.paddr c.2.1) f).2 = false) →
      Reaches (.hgl o) s fun t => ∃ u, OnlyReads s u ∧ Adds u t s.lanes fun l =>
        { id := 0, iss := s.nextId, lane := l, kind := .fn, size := 0, data := r.l * r.f, dest := some o.d, done := true,
          val := packElems 32 ((List.range (r.l * r.f)).map fun i => ((cs l).foldl (fun acc c =>
            if c.1 = i / r.f then
              ne32 (fmaE false (dec32 c.2.2) (s.param r l (r.paddr c.2.1) (i % r.f)).1 (dec32 acc)) else acc) 0#32).toNat) })
    ∧ (w.rangeOk o.d.toNat (r.l * r.f) true = true → w.rangeBad s.mask o.d.toNat (r.l * r.f) = false → w.caux < 63 →
      s.mask ≠ 0#32 →
      (∀ l ∈ s.lanes, s.hgLane r .wr o.a.toNat l (fun e => r.gbase + r.gsize * (r.f * e)) (r.gsize * r.f) = none) →
      Reaches (.hga o) s fun t => ∃ (u : State) (y : Cmd) (os : List Op), OnlyReads s u ∧ Queues u t y os
        ∧ y.op = 0x66 ∧ y.ctr = .aux ∧ y.slot = s.cur.slot ∧ os.length ≤ y.units
        ∧ ∀ p ∈ os, p.kind = .hga ∧ p.data2 = s.nextId ∧ p.size = r.gsize ∧ (r.exact_ = true → p.aop = 0)
          ∧ (r.exact_ = false → p.aop = 9) ∧ s.reach .wr r.gsize .misaligned false p.va = .ok p.pa))
  ∧ (∀ (o : MOps) (s : State) (pa : Nat),
    let H := s.warp.ea o 16 s.lowest; let h := Pk.of (s.rdN pa 16); let regs := szRegs o.sz.toNat
    s.Plain → (∀ l ∈ s.lanes, s.warp.ea o 16 l = H) → s.reach .wr 16 .misaligned false H = .ok pa → isFabric pa = false →
    h.bad = false → 128 * regs ≤ h.cap → (∀ i, i < 8 * regs → s.Passes .wr (H + 16 + 16 * i) 16) →
    Reaches (.cst o) s fun t => OnlyWarpIds s t ∧ t.warp = { s.warp with ops := t.warp.ops } ∧ ∀ x ∈ t.warp.ops, x.kind = .st)
  ∧ (∀ (o : MOps) (s : State),
    let sz := o.sz.toNat; let H := fun l => modW 64 (s.warp.reg64 o.a.toNat l + sext 7 o.off.toNat * 16)
    s.Plain → (∀ l ∈ s.lanes, ∃ pa, s.reach .rd 16 .misaligned false (H l) = .ok pa ∧ isFabric pa = false ∧
      let h := Pk.of (s.rdN pa 16)
      h.bad = false ∧ (if h.width ≤ 8 then sz ≤ 1 else if h.width = 16 then sz = 2 ∨ sz = 3 else sz = 4)
      ∧ ∀ k, k < maskBytes h.n + (h.n * h.width + 31) / 32 * 4 →
          (k % 16 = 0 → s.Passes .rd (H l + 16 + k) 16) ∧ (k % 4 = 0 → s.Passes .rd (H l + 16 + k) 4)) →
    Reaches (.ldPk o) s fun t => ∃ (u : State) (v : Nat → Nat), OnlyReads s u ∧ Adds u t s.lanes fun l =>
      { id := 0, iss := s.nextId, lane := l, kind := .ld, va := H l, size := 0, sz := 4, acq := mAcq o, dest := some o.d,
        done := true, val := v l })
  ∧ ∀ (o : VOps) (s : State) (pa : Nat) (r : Region),
    let w := s.warp; let va := w.reg64 o.b.toNat 0; let cs := fun l => r.corners (w.coords o.a.toNat r.d l)
    s.Plain → va % 256 = 0 → isFabric pa = false → isFabric (pa + 255) = false →
    (∀ i, i < 16 → s.reach .rd 16 .misaligned false (va + 16 * i) = .ok (pa + 16 * i)) → Region.parse (s.rdN pa 256) = some r →
    w.rangeOk o.a.toNat r.d false = true → w.rangeBad s.mask o.a.toNat r.d = false →
    (∀ l ∈ s.lanes, ∀ i, i < r.d → (dec32 (w.reg (o.a.toNat + i) l)).isNan = false) →
    (w.rangeOk o.d.toNat (r.l * r.f) false = true →
      (∀ l ∈ s.lanes, ∀ c ∈ cs l, ∀ p ∈ entryPieces (r.paddr c.2.1) (r.psize * r.f), s.Passes .rd p.1 p.2) →
      Reaches (.hgl o) s fun t => ∃ (u : State) (v : Nat → Nat), OnlyReads s u ∧ Adds u t s.lanes fun l =>
        { id := 0, iss := s.nextId, lane := l, kind := .fn, size := 0, data := r.l * r.f, dest := some o.d, done := true,
          val := v l })
    ∧ (w.rangeOk o.d.toNat (r.l * r.f) true = true → w.rangeBad s.mask o.d.toNat (r.l * r.f) = false → w.caux < 63 →
      s.mask ≠ 0#32 →
      (∀ l ∈ s.lanes, ∀ c ∈ cs l, ∀ p ∈ entryPieces (r.gbase + r.gsize * (r.f * c.2.1)) (r.gsize * r.f), s.Passes .wr p.1 p.2) →
      Reaches (.hga o) s fun t => ∃ (u : State) (y : Cmd) (os : List Op), OnlyReads s u ∧ Queues u t y os ∧ y.op = 0x66)

/-! ### Matrix and engine commands (spec/09_engine_isa.md) -/

/-- OBRES reserves the lowest run of free operand-buffer rows, or parks its split; OBSET replaces a valid tile's format and
scales; OBREL makes a tile invalid (R198 to R201). -/
def Obligations.OperandBufferTiles : Prop :=
  (∀ (o : VOps) (s : State),
    let w := s.warp; let d := o.d.toNat; let x := w.reg64 o.a.toNat 0; let rows := x % 2 ^ 11; let old := w.tile d
    let set := fun (v : BitVec 64) (t : State) => OnlyWarp s t ∧ t.warp = { w with t := t.warp.t }
      ∧ ∀ j, t.warp.tile j = if j = d then v else w.tile j
    (resCheck x rows true = none → old.getLsbD 63 = false →
      (∀ base, (s.core s.cur.core).freeRun rows = some base → Reaches (.obres o) s (set (tileMake x base rows)))
      ∧ ((s.core s.cur.core).freeRun rows = none → Reaches (.obres o) s fun t => t = { s with flow := .park .obres }))
    ∧ (resCheck x (tileRows old).2 false = none → old.getLsbD 63 = true →
        Reaches (.obset o) s (set (tileMake x (tileRows old).1 (tileRows old).2)))
    ∧ Reaches (.obrel o) s (set 0#64))
  ∧ (∀ (k : Core) (n base : Nat), 0 < n → k.freeRun n = some base →
      base + n ≤ 1024 ∧ (∀ r, base ≤ r → r < base + n → k.rowUsed r = false)
      ∧ ∀ b, b < base → ∃ r, b ≤ r ∧ r < b + n ∧ k.rowUsed r = true)
  ∧ ∀ x base rows, base < 1024 → rows ≤ 1024 →
      (tileMake x base rows).getLsbD 63 = true ∧ tileRows (tileMake x base rows) = (base, rows)
      ∧ tileFmt (tileMake x base rows) = bitsOf x 16 11 ∧ tileMx (tileMake x base rows) = bitOf x 17

/-- A matrix command takes its place in the queue of its warp's engine, and the warp's mat counter rises, while the queue has fewer
than 8 commands and the counter is below 63; ACRD is a long result; MXLOOP and MXSTEP capture the tile's record, their descriptor
and B's format, and take the weight buffer (R202 to R209, R27, R335). -/
def Obligations.MatrixCommands : Prop :=
  ∀ (o : VOps) (m : MOps) (s : State),
    let w := s.warp; let c := s.cur.core
    let room := ((s.core c).queued (s.cur.slot % 4)).length < 8 ∧ w.cmat < 63
    let cmd := fun (op acc : Nat) => ({ id := 0, slot := s.cur.slot, wg := w.wg, tenant := w.tenant, ctr := .mat, op := op,
                                        acc := acc, mask := s.mask } : Cmd)
    let va := w.ea m 128 s.lowest; let lines := if m.sz.toNat = 4 then 16 else 8
    let t0 := w.tile o.a.toNat; let desc := w.reg64 o.b.toNat 0
    let fb := match o.x with | none => tileFmt t0 | some e => e.fmt.toNat
    let mx := fun (i : Instr) (op n : Nat) (loop : Bool) => room → s.flow = .advance → loopOk loop t0 desc fb n = true →
      (s.core c).wbOwner.getD w.wg = w.wg →
      Reaches i s fun t => Queues s t { cmd op o.d.toNat with
          tile := t0, desc := BitVec.ofNat 64 desc, fmtB := fb, steps := n, wrow := bitsOf desc 28 20 } []
        ∧ (t.core c).wbOwner = some w.wg
    (room → Reaches (.acz o) s fun t => Queues s t (cmd 0x6C o.d.toNat) [])
    ∧ (room → Reaches (.acwr o) s fun t => Queues s t { cmd 0x6E o.d.toNat with
        data := s.lanes.flatMap fun l => (List.range 16).map fun j => (l * 16 + j, w.reg (o.a.toNat + j) l) } [])
    ∧ (∀ ps, room → (∀ l ∈ s.lanes, w.ea m 128 l = va) → va % 128 = 0 → s.linesOf .wr va lines = .ok ps →
        Reaches (.acst m) s fun t => Queues s t { cmd 0x6F m.d.toNat with sz := m.sz.toNat, va := va, lines := ps } [])
    ∧ Reaches (.acrd o) s (fun t => OnlyWarpIds s t ∧ t.warp = { w with ops := t.warp.ops }
        ∧ t.warp.ops.map (·.id) = w.ops.map (·.id) ++ [s.nextId]
        ∧ ∃ x ∈ t.warp.ops, x.id = s.nextId ∧ x.kind = .acrd ∧ x.mask = s.mask ∧ x.aop = o.a.toNat ∧ x.dest = some o.d
          ∧ (x.done = true → x.val = w.accVal o.a.toNat))
    ∧ mx (.mxloop o) 0x70 (vSub o) true ∧ mx (.mxstep o) 0x71 1 false
    ∧ (8 ≤ ((s.core c).queued (s.cur.slot % 4)).length ∨ w.cmat = 63 → Reaches (.acz o) s fun t => t = { s with flow := .stall })

/-- An engine command, where the split's earlier stores are ordered and its block lies in the workgroup's allocation, is aligned and
readable, takes its place with the block as memory holds it, and its class's counter rises; a query also leaves its result
outstanding, and a command whose guard is false is discarded there (R211, R212, R215, R220 to R228). GOPEN and GSET write a guard
slot, and a command held on it takes its state: it ends with DISCARDED where that is false (R121, R122), but for a packed-vector
copy whose stated count still needs a header of another unit, which waits for it (R353; notes/assumptions/9.md). -/
def Obligations.EngineCommands : Prop :=
  (∀ (o : EOps) (s : State),
    let w := s.warp; let c := s.cur.core; let va := w.reg64 (96 + o.sp.toNat) 0; let g := s.wg w.wg
    let base := flatVa + c * flatStep + g.lbase
    let h := match w.run with | none => 0#32 | some r => r.hdr
    let guard : Option Nat := if hdrCls h = 2 ∧ hdrGe h = true then some (hdrGslot h) else none
    let gst := match guard with | none => Guard.yes | some n => fget Guard.yes w.g n
    let cmd := fun (op sub block : Nat) (k : Ctr) =>
      ({ id := 0, slot := s.cur.slot, wg := w.wg, tenant := w.tenant, ctr := k, op := op, sub := sub, guard := guard, gst := gst,
         va := va, block := block, mask := s.mask, tile := if op = 0x72 then w.copyTile block else 0#64,
         local_ := g.lbase, lsize := g.lsize, dest := o.m.toNat } : Cmd)
    let engine := fun (i : Instr) (op sub n : Nat) (k : Ctr) =>
      (∀ l ∈ s.lanes, w.unregistered l s.nextId = false) → va % n = 0 → base ≤ va → va + n ≤ base + g.lsize →
      s.bad (flatBase + (va - flatVa)) n = false → s.queueFull c op = false → w.ctr k < 63 →
      let block := s.rdN (flatBase + (va - flatVa)) n
      (op = 0x76 → sub ≠ 0 → bitsOf block 31 28 = w.tenant) →
      (gst ≠ .no → Reaches i s fun t => Queues s t (cmd op sub block k) [])
      ∧ (gst = .no → Reaches i s fun t => ∃ u y, Queues s u (cmd op sub block k) []
          ∧ y.placed = ({ cmd op sub block k with id := s.nextId } : Cmd).placed
          ∧ t = if k = .clr then (u.discard c y).postAll (c / 48) else u.discard c y)
    let control := fun (i : Instr) (sub : Nat) (os : List Op) =>
      (∀ l ∈ s.lanes, w.unregistered l s.nextId = false) → va % 128 = 0 → w.cclr < 63 → gst ≠ .no →
      Reaches i s fun t => Queues s t (cmd 0x75 sub 0 .clr) os
    engine (.cpyq o) 0x72 0 64 .copy ∧ engine (.gthq o) 0x73 0 64 .aux ∧ engine (.clpost o) 0x74 0 128 .clr
    ∧ control (.clctlQuery o) 0 [{ id := s.nextId, lane := s.lowest, kind := .status, mask := s.mask, size := 0,
                                   dest := some (BitVec.ofNat 7 (96 + o.m.toNat)) }]
    ∧ control (.clctlAbort o) 1 []
    ∧ engine (.epopen o) 0x76 0 64 .aux ∧ engine (.epstep o) 0x76 1 32 .aux ∧ engine (.epclose o) 0x76 2 32 .aux
    ∧ engine (.rwsend o) 0x77 0 32 .aux ∧ engine (.lqtake o) 0x78 0 32 .aux)
  ∧ ∀ (o : VOps) (s : State),
    let n := o.d.toNat; let c := s.cur.core
    let slot := fun (x : Guard) (t : State) => ∀ j, fget Guard.yes t.warp.g j = if j = n then x else fget Guard.yes s.warp.g j
    let mine := fun (y : Cmd) => y.slot = s.cur.slot ∧ y.guard = some n ∧ y.gst = .unresolved ∧ y.ended = false
    Reaches (.gopen o) s (fun t => OnlyWarp s t ∧ t.warp = { s.warp with g := t.warp.g } ∧ slot .unresolved t)
    ∧ (s.warp.reg o.a.toNat 0 ≠ 0#32 → Reaches (.gset o) s fun t => t.warp = { s.warp with g := t.warp.g } ∧ slot .yes t
        ∧ (∀ a, rd8 t.mem a = rd8 s.mem a)
        ∧ ∀ y ∈ (s.core c).cmds, mine y → ∃ z ∈ (t.core c).cmds, z.placed = ({ y with gst := .yes } : Cmd).placed)
    ∧ ((∀ y ∈ (s.core c).cmds, ¬ mine y) → s.warp.reg o.a.toNat 0 = 0#32 →
        Reaches (.gset o) s fun t => t.warp = { s.warp with g := t.warp.g } ∧ slot .no t ∧ ∀ a, rd8 t.mem a = rd8 s.mem a)
    -- the commands held on a slot that resolves false end with DISCARDED, in issue order, a query without its word
    ∧ (s.warp.reg o.a.toNat 0 = 0#32 → Reaches (.gset o) s fun t => ∃ u : State,
        u.warp = { s.warp with g := u.warp.g } ∧ slot .no u ∧ u.mem = s.mem
        ∧ (∀ y ∈ (s.core c).cmds, mine y → ∃ z ∈ (u.core c).cmds, z.placed = ({ y with gst := .no } : Cmd).placed)
        ∧ t = (((s.core c).cmds.filter fun y => y.slot == s.cur.slot && y.guard == some n && y.gst == .unresolved && !y.ended).foldl
            (fun v y => (v.discard c y).updWarp fun w =>
              { w with ops := w.ops.filter fun x => !(x.kind == .status && x.id == y.id) }) u).postAll (c / 48))
    ∧ ∀ (u : State) (y : Cmd), let r := CopyReq.parse y.block
        (y.op = 0x72 → r.expand = true → u.expandNeed c y.tenant r ≠ none → u.discard c y = u)
        ∧ (y.op ≠ 0x72 ∨ r.expand = false ∨ u.expandNeed c y.tenant r = none → u.discard c y = u.endCmd c y.id stDiscarded)

/-! ### System instructions (spec/10_system_clearing_isa.md R233 to R248) -/

/-- CSRRD delivers a CSR and CSRWR writes its fields and leaves every other one (R236, R237); FRAGRD reads a fragment, or zeros for a
stale reference (R239, R240); FRAGRES makes its threads go on, at the recorded position or a new one, and FRAGKILL ends them
(R241, R242); SVCWAIT reports the waiting event of highest priority, which joins those that the supervisor has still to deal
with, or parks (R238, R419); PMCTL delivers the clock, a free value for the
core energy counter (notes/assumptions/5.md), or all ones (R248). A reference with W = 1 names a warp: FRAGRES clears its fault slot
where the cause lets the warp go on, and FRAGKILL ends its live threads, in and out of fragments (R241, R242; that its fault
slot is then empty is notes/assumptions/53.md). The model's choices: the list of reported events is notes/assumptions/73.md, the number of a core's
island notes/assumptions/78.md, and the clock ISLSTAT.CUR gives notes/assumptions/49.md. -/
def Obligations.SupervisorRegistersAndFragments : Prop :=
  ∀ (o : SOps) (s : State),
    let c := s.cur.core; let k := s.core c; let n := sNum o.x % 2 ^ 12
    let a := s.warp.reg o.a.toNat 0; let b := s.warp.reg o.b.toNat 0
    let entry := fun (i : Nat) => fget ({} : Frag) k.frags i
    -- the fragment loses the lanes ls, and is free once it has none
    let left := fun (i : Nat) (ls : List Nat) (u : State) =>
      let m := (entry i).mask &&& ~~~(maskOf ls)
      fget ({} : Frag) (u.core c).frags i =
        if m = 0#32 then { entry i with mask := m, valid := false, pend := false } else { entry i with mask := m }
    Computes (.csrrd o) s (inEither s o.d (s.csrValue c n))
    ∧ Reaches (.csrwr o) s (fun t => t = s.setCore c (k.setCsr n (csrWritten n (k.rawCsr n) a))
        ∧ (t.core c).rawCsr n = csrWritten n (k.rawCsr n) a ∧ ∀ j, j ≠ n → (t.core c).rawCsr j = k.rawCsr j)
    ∧ Computes (.fragrd o) s (fun d l => if s.mask.getLsbD l = true ∧ o.d.toNat ≤ d ∧ d < o.d.toNat + 4 then
        some (BitVec.ofNat 32 ((k.fragWords (k.ref a) l).getD (d - o.d.toNat) 0)) else none)
    ∧ (k.ref a = none → Reaches (.fragres o) s (fun t => t = s) ∧ Reaches (.fragkill o) s (fun t => t = s))
    ∧ (∀ i, k.ref a = some (.entry i) →
        let ls := lanesOf ((entry i).mask &&& b); let w := (entry i).slot
        let pos := if o.d = 0#7 then ((entry i).addr, (entry i).pslot) else (s.warp.reg64 o.d.toNat 0 % 2 ^ 55, 0)
        Reaches (.fragres o) s (fun t => ∃ u v : State, left i ls u ∧ u.mem = s.mem
          ∧ (∀ l, l < 32 → (u.warpAt c w).thread l = if l ∈ ls then
              { (s.warpAt c w).thread l with st := .active, cause := none, faddr := 0, findex := 0, addr := pos.1, slot := pos.2 }
            else (s.warpAt c w).thread l)
          ∧ v = u.arriveLanes c w (ls.map fun l => (l, pos.1, pos.2)) ∧ t = v.settle c w)
        ∧ Reaches (.fragkill o) s (fun t => ∃ u : State, left i ls u ∧ u.mem = s.mem ∧ u.warpAt c w = s.warpAt c w
          ∧ t = u.exitLanes c w (maskOf ls)))
    ∧ (∀ x, k.ref a = some (.warp x) →
        let cleared : Warp := { s.warpAt c x with wfault := none }
        Reaches (.fragres o) s (fun t =>
          if (s.warpAt c x).wfault = some .fragFull ∨ (s.warpAt c x).wfault = some .dataUncorrectable
              ∨ (s.warpAt c x).wfault = some .recordInvalid then
            ∃ u : State, u.mem = s.mem ∧ u.warpAt c x = cleared ∧ x ∉ (u.core c).slotEv ∧ (u.core c).frags = k.frags
              ∧ (∀ w, w ≠ x → u.warpAt c w = s.warpAt c w) ∧ t = u.settle c x
          else t = s)
        ∧ Reaches (.fragkill o) s (fun t => ∃ u : State, u.mem = s.mem ∧ u.warpAt c x = cleared ∧ x ∉ (u.core c).slotEv
          ∧ (∀ i, (entry i).valid = true → (entry i).slot = x → left i (lanesOf (s.warpAt c x).liveMask) u)
          ∧ (∀ w, w ≠ x → u.warpAt c w = s.warpAt c w) ∧ t = u.exitLanes c x (s.warpAt c x).liveMask))
    ∧ (k.nextEvent = none → Reaches (.svcwait o) s fun t => t = { s with flow := .park .svcwait })
    ∧ (∀ e, k.nextEvent = some e → Reaches (.svcwait o) s fun t => ∃ k', Results (s.setCore c k') t (inEither s o.d e)
        ∧ k' = { k with mbox := k'.mbox, slotEv := k'.slotEv, dogEv := k'.dogEv, frags := k'.frags, reported := k'.reported }
        ∧ (e.toNat / 2 ^ 24 = 3 → k' = { k with mbox := k.mbox.drop 1 })
        ∧ (e.toNat / 2 ^ 24 ≠ 3 → k'.reported = k.reported ++ [e.toNat])
        ∧ (e.toNat / 2 ^ 24 = 2 → k' = { k with slotEv := k.slotEv.erase (e.toNat % 64), reported := k'.reported })
        ∧ (e.toNat / 2 ^ 24 = 5 → k' = { k with dogEv := k.dogEv.erase (e.toNat % 64), reported := k'.reported })
        ∧ (e.toNat / 2 ^ 24 = 1 → (fget ({} : Frag) k'.frags (e.toNat % 64)) = { entry (e.toNat % 64) with pend := false }))
    ∧ (b = 0#32 → Computes (.pmctl o) s (inEither s o.d (BitVec.ofNat 32 (fget 1050 s.power.cur (islandOf c)))))
    ∧ (b = 1#32 → Reaches (.pmctl o) s fun t =>
        Results { s with fresh := s.fresh + 1 } t (inEither s o.d (Config.freeValue s.fresh)))
    ∧ (2 ≤ b.toNat → Computes (.pmctl o) s (inEither s o.d 0xFFFFFFFF#32))

/-- SAVEX delivers an item of a context to its target lanes and RESTX writes one, which SAVEX then delivers (R244, R245), in a
restore handler once its record has passed its check (R39); a restored tile takes the lowest run of free rows of its own (R231);
ERET ends a handler, whose results are written nowhere, and finishes the save or the restore, after warp 0 of a saved workgroup
has stored the area's header (R34, R247); TLBINV invalidates what its scope names in every TLB of the die and every walk (R248);
CACHEOP drops or gives up words of the core's L1 (R248), an owned word with a lasting error taking it home
(notes/assumptions/90.md). Operands that name nothing change nothing (R248; for an a field of 0, notes/assumptions/87.md). That the
machine itself checks the record is notes/assumptions/67.md, and that it makes the header's stores at the ERET
notes/assumptions/30.md. -/
def Obligations.ContextItemsAndCaches : Prop :=
  ∀ (o : SOps) (s : State),
    let c := s.cur.core; let k := s.core c; let cls := itemCls o.x; let idx := itemIdx o.x
    let row := if o.b = 0#7 then 0 else (s.warp.reg o.b.toNat 0).toNat
    let b := (s.warp.reg o.b.toNat 0).toNat; let va := s.warp.reg64 o.a.toNat 0
    let scope := b / 256 % 4; let named := o.a ≠ 0#7
    let hit := fun (e : Tlb) => match scope with
      | 0 => e.tenant == b % 256 && decide (e.vbase ≤ va ∧ va < e.vbase + e.span)
      | 1 => e.tenant == b % 256
      | _ => true
    let inval := fun (u : State) => let k := u.core c
      u.setCore c { k with copies := [], l1Bad := k.l1Bad.filter fun w => k.owned.contains w }
    let clean := fun (u : State) (p : Nat → Bool) =>
      let k := u.core c; let gone := fun (w : Nat) => p w && k.owned.contains w
      ({ u with errs := u.errs ++ (k.l1Bad.filter gone).flatMap fun w => (List.range 4).map (· + 4 * w) } : State).setCore c
        { k with owned := k.owned.filter fun w => !p w, l1Bad := k.l1Bad.filter fun w => !gone w }
    (s.target_ o.a = none → Computes (.savex o) s (inLanes s o.d fun _ => 0#32))
    ∧ (∀ slot m, s.target_ o.a = some (slot, m) → (k.warp slot).beyond cls idx = false → k.itemBad slot m cls idx row = false →
        Computes (.savex o) s (inLanes s o.d fun l =>
          if oneItem cls = true ∨ m.getLsbD l = true then BitVec.ofNat 32 (k.item (k.warp slot) cls idx row l) else 0#32))
    ∧ (s.target_ o.d = none → Reaches (.restx o) s fun t => t = s)
    ∧ (∀ slot m, s.target_ o.d = some (slot, m) → (s.warpAt c slot).beyond cls idx = false → cls ≠ 1 → cls ≠ 9 → cls < 17 →
        s.warp.refused ≠ some true → (s.warp.mode = .restore → s.warp.refused = some false) →
        Reaches (.restx o) s fun t => t = { s with cores := t.cores } ∧ (∀ j, j ≠ c → t.core j = s.core j)
          ∧ t.core c = { k with warps := (t.core c).warps } ∧ (∀ w, w ≠ slot → t.warpAt c w = s.warpAt c w)
          ∧ (oneItem cls = false → ∀ l, s.mask.getLsbD l = true → m.getLsbD l = true →
              (cls = 0 ∨ cls = 10 ∨ cls = 13 ∨ cls = 14 ∨ cls = 15 →
                (t.core c).item (t.warpAt c slot) cls idx row l = (s.warp.reg o.a.toNat l).toNat)
              ∧ (cls = 2 → ((t.warpAt c slot).thread l).preds.toNat = (s.warp.reg o.a.toNat l).toNat % 128))
          ∧ (cls = 8 → (t.warpAt c slot).kmask idx = s.warp.reg o.a.toNat s.lowest))
    ∧ (∀ slot m, s.target_ o.d = some (slot, m) → (s.warpAt c slot).beyond cls idx = false →
        s.warp.refused ≠ some true → (s.warp.mode = .restore → s.warp.refused = some false) →
        let x := s.warp.reg o.a.toNat s.lowest
        let tile := BitVec.ofNat 64 (let old := (s.warp.tile (idx / 2)).toNat
          if idx % 2 = 0 then old / 2 ^ 32 * 2 ^ 32 + x.toNat else x.toNat * 2 ^ 32 + old % 2 ^ 32)
        let reserves := idx % 2 = 1 ∧ tile.getLsbD 63 = true ∧ s.warp.mode = .restore
        -- a uniform register, once the target's run is over
        (cls = 1 → if slot ≠ s.cur.slot ∧ (s.warpAt c slot).run ≠ none then
            Reaches (.restx o) s fun t => t = { s with flow := .stall }
          else Reaches (.restx o) s fun t => t = { s with cores := t.cores } ∧ (∀ j, j ≠ c → t.core j = s.core j)
            ∧ t.core c = { k with warps := (t.core c).warps } ∧ (∀ w, w ≠ slot → t.warpAt c w = s.warpAt c w)
            ∧ ∀ j, fget 0#32 (t.warpAt c slot).s j = if j = idx then x else fget 0#32 (s.warpAt c slot).s j)
        -- a tile register
        ∧ (cls = 9 →
          (¬ reserves → Reaches (.restx o) s fun t => OnlyWarp s t ∧ t.warp = { s.warp with t := t.warp.t }
            ∧ ∀ j, t.warp.tile j = if j = idx / 2 then tile else s.warp.tile j)
          ∧ (reserves → k.freeRun (tileRows tile).2 = none → Reaches (.restx o) s fun t => t = { s with flow := .stall })
          ∧ ∀ base, reserves → k.freeRun (tileRows tile).2 = some base → Reaches (.restx o) s fun t => OnlyWarp s t
            ∧ t.warp = { s.warp with t := t.warp.t, moved := s.warp.moved ++ [((tileRows tile).1, base)] }
            ∧ ∀ j, t.warp.tile j = if j = idx / 2 then moveTile tile base else s.warp.tile j)
        -- four bytes of each lane in a buffer row
        ∧ (cls = 17 → Reaches (.restx o) s fun t => t = { s with cores := t.cores } ∧ (∀ j, j ≠ c → t.core j = s.core j)
          ∧ t.core c = { k with ob := (t.core c).ob, bufBad := (t.core c).bufBad }
          ∧ (∀ l, s.mask.getLsbD l = true → (t.core c).item s.warp 17 idx row l = (s.warp.reg o.a.toNat l).toNat)
          ∧ ∀ j, (j / 128 = row % 1024 → s.mask.getLsbD (j % 128 / 4) = false) → fget 0#8 (t.core c).ob j = fget 0#8 k.ob j)
        ∧ (cls = 18 → Reaches (.restx o) s fun t => t = { s with cores := t.cores } ∧ (∀ j, j ≠ c → t.core j = s.core j)
          ∧ t.core c = { k with wb := (t.core c).wb, bufBad := (t.core c).bufBad }
          ∧ (∀ l, s.mask.getLsbD l = true → (t.core c).item s.warp 18 idx row l = (s.warp.reg o.a.toNat l).toNat)
          ∧ ∀ j, (j / 128 = row % 512 → s.mask.getLsbD (j % 128 / 4) = false) → fget 0#8 (t.core c).wb j = fget 0#8 k.wb j))
    ∧ (∀ os : List Op, s.warp.mode ≠ .tenant →
        (s.warp.mode = .restore → s.warp.refused ≠ none ∧ s.restoreWait = none) →
        (if s.warp.mode = .save ∧ s.warp.index = 0 then
          let area := (s.tenant s.warp.tenant).area ((s.wg s.warp.wg).area.getD 0)
          os.map (fun x => (x.va, x.size, x.data)) = (s.areaStores s.warp.wg).map (fun x => (area + x.1, x.2.length, leNat x.2))
          ∧ os.map (·.id) = (List.range os.length).map (s.nextId + ·)
          ∧ ∀ x ∈ os, s.translate c s.warp.tenant x.va .wr = .ok x.pa
              ∧ x = { id := x.id, lane := 0, kind := .st, va := x.va, pa := x.pa, size := x.size, data := x.data }
         else os = []) →
        Reaches (.eret o) s fun t => t.flow = .moved ∧ ∃ u : State,
        u.warp = { s.warp with eret := true, run := none, groups := [], parked := [],
                               ops := (s.warp.ops ++ os).map fun x => if x.kind.long then { x with dest := none } else x }
        ∧ OnlyWarpIds s u
        ∧ t = { (if s.warp.mode = .save then u.finishSave s.warp.wg else u.leaveHandlers s.warp.wg) with flow := .moved })
    ∧ (b / 2 ^ 10 = 0 → scope ≠ 3 → (scope = 0 → named) → Reaches (.tlbinv o) s fun t =>
        (∀ a, rd8 t.mem a = rd8 s.mem a)
        ∧ (∀ j, (t.core j).tlb = if j / 48 = c / 48 then (s.core j).tlb.filter (fun e => !hit e) else (s.core j).tlb)
        ∧ (∀ d, (t.die d).ltlb = if d = c / 48 then (s.die d).ltlb.filter (fun e => !hit e) else (s.die d).ltlb)
        ∧ (∀ x ∈ t.walks, x.core / 48 = c / 48 → x.dead = true) ∧ t.walks.length = s.walks.length
        ∧ ∀ j w, t.warpAt j w = s.warpAt j w)
    ∧ (b / 2 ^ 10 ≠ 0 ∨ scope = 3 ∨ (scope = 0 ∧ ¬ named) → Reaches (.tlbinv o) s fun t => t = s)
    ∧ (b = 0 → Reaches (.cacheop o) s fun t => t = inval s)
    ∧ (b = 1 → Reaches (.cacheop o) s fun t => t = clean s fun _ => true)
    ∧ (∀ pa, b = 2 → named → s.access va .rd = .ok pa → Reaches (.cacheop o) s fun t => t = clean s fun w => w / 32 == pa / 128)
    ∧ (b = 3 → Reaches (.cacheop o) s fun t => t = clean (inval s) fun _ => true)
    ∧ (4 ≤ b ∨ b = 2 ∧ (¬ named ∨ ∃ e, s.access va .rd = .error e) → Reaches (.cacheop o) s fun t => t = s)

/-! ### The clearing processor (spec/10_system_clearing_isa.md R250 to R252, spec/21_collectives.md) -/

/-- The clearing instructions of a processor whose collective has not ended: registers are 64 bits, and the program counter steps by
4 or branches by 4 × IMM23; an access that fails its checks ends the collective with a status, a receive or a wait that is not
met changes nothing, and a message step whose group has lost a member ends it with LOST, one whose handle is no longer
registered with RANGE (R250 to R252, R369, R379, R383, R384). A CSEND, raw or coded, hands its message over to this device's dies
or, to a member on another device, as a request, whether or not that device is in the domain (notes/assumptions/68.md; the
packets are notes/assumptions/31.md); a receive of a raw message writes its elements, or their sums, at once; a CSWRED contributes
to its slot or, on a device without planes, waits here with it (notes/assumptions/47.md), and a rank that gets no result goes on
(notes/assumptions/54.md, as is the place of a CWAIT.fe in its granule's queue). A barrier object with a lasting error ends the
collective with DATA (R425). -/
def Obligations.ClearingInstructions : Prop :=
  ∀ (o : C1Ops) (p : C2Ops) (s : State) (x : Coll), s.clear.coll = some x → s.clear.ended = none →
    let c := s.clear; let R := c.reg; let next : Clear := { c with pc := c.pc + 4 }
    let set := fun (r : BitVec 4) (n : Nat) => ({ next with c := fset c.c r.toNat (BitVec.ofNat 64 n) } : Clear)
    let goes := fun (i : Instr) (c' : Clear) => exec i s = .next (s.setClear c')
    let jump : Clear := { c with pc := modW 64 ((c.pc : Int) + 4 * sext 23 p.imm.toNat) }
    let a := modW 64 ((R o.ra : Int) + sext 15 o.imm.toNat); let va := R o.ra; let m := R o.rb
    let k := o.imm.toNat / 8192; let chan := o.imm.toNat / 512 % 16; let role := o.imm.toNat / 32 % 16
    let map := fun (v : Nat) (need : Need) => s.hubTranslate x.tenant v need
    -- registers and branches
    goes (.cadd o) (set o.rd (R o.ra + R o.rb)) ∧ goes (.csub o) (set o.rd (R o.ra + (2 ^ 64 - R o.rb)))
    ∧ goes (.cmov o) (set o.rd (R o.ra)) ∧ goes (.cmovi p) (set p.rd (modW 64 (sext 23 p.imm.toNat)))
    ∧ goes (.cbnz p) (if R p.rd = 0 then next else jump) ∧ goes (.cbra p) jump
    -- memory
    ∧ (∀ pa, a % 8 = 0 → map a .rd = .ok pa → isFabric pa = false → s.swHeld pa 8 = false → s.bad pa 8 = false →
        exec (.cld o) s = .next ((s.countRead pa x.tenant 8).setClear (set o.rd (s.rdN pa 8))))
    ∧ (∀ pa, a % 8 = 0 → map a .wr = .ok pa → (isFabric pa = true ∨ s.swHeld pa 8 = false) →
        exec (.clearingCst o) s = .next ((s.engineWrite x.tenant a pa (leBytes 8 (R o.rb))).updClear Clear.step))
    ∧ (a % 8 ≠ 0 → exec (.cld o) s = .next (s.clearEnd stRange) ∧ exec (.clearingCst o) s = .next (s.clearEnd stRange))
    -- signals and waits
    ∧ (∀ pa, va % 4 = 0 → map va .wr = .ok pa → isFlat pa = true →
        exec (.csigFe o) s = .next ((s.engineWrite x.tenant va pa (leBytes 4 (R o.rb))).updClear Clear.step))
    ∧ (∀ pa, va % 16 = 0 → map va .wr = .ok pa → isFlat pa = true →
        exec (.csigAb o) s = .next (if s.bad pa 16 = true then s.clearEnd stData
          else (s.abDeliver x.tenant va pa (R o.rb)).wakeAb.updClear Clear.step))
    ∧ (∀ st, (c.gone = some st ∨ c.gone = none ∧ (s.group x = none ∧ st = stRange
          ∨ ∃ g, s.group x = some g ∧ g.lost = true ∧ st = stLost)) →
        exec (.cwaitFe o) s = .next (s.clearEnd st)
        ∧ exec (.csend o) s = .next (s.clearEnd st) ∧ exec (.crecv o) s = .next (s.clearEnd st)
        ∧ exec (.cred o) s = .next (s.clearEnd st) ∧ exec (.cswred o) s = .next (s.clearEnd st)
        ∧ exec (.cwaitPh o) s = .next (s.clearEnd st))
    ∧ (∀ g, s.group x = some g → g.lost = false → c.gone = none →
        (∀ pa, c.got = none → c.asked = false → va % 4 = 0 → map va .rd = .ok pa → isFlat pa = true → s.bad pa 4 = false →
          exec (.cwaitFe o) s = .next (if s.isFull (pa / 16) then
              (s.empty (pa / 16)).setClear { set o.rd (s.rdN pa 4) with got := none, asked := false }
            else { s.setClear { c with asked := true } with
                   ldfq := s.ldfq ++ [⟨pa / 16, clearKey s.cur.core s.cur.slot, pa, true⟩] }))
        ∧ (∀ pa, va % 16 = 0 → map va .rd = .ok pa → isFlat pa = true → (s.bad pa 16 = true ∨ (s.abRead pa).malformed = false) →
          exec (.cwaitPh o) s = .next (if s.bad pa 16 = true then s.clearEnd stData else if (s.abRead pa).phase = bitOf (R o.rd) 0 then s else s.setClear next))
        -- messages and reductions
        ∧ (R o.rd < c.size → x.inSrc va m = true →
            let sent := fun (data : List Byte) =>
              ({ dev := (g.members.getD (R o.rd) (0, 0)).1, die := (g.members.getD (R o.rd) (0, 0)).2, tenant := x.tenant,
                 group := x.fGroup, stream := x.fStream, seq := x.seq, src := c.rank, chan := chan, kind := k, count := m,
                 data := data } : Msg)
            (∀ es, k = 0 → s.elemRead x.tenant va x.width 0 m = .ok es →
              exec (.csend o) s = .next (((s.spaceHasRead x.tenant va (x.bytes m)).emit s.cur.core (typOf x.fDtype)
                (sent (leBytes (x.bytes m) (packElems x.width es)))).updClear Clear.step))
            ∧ ∀ u img ds, k ≠ 0 → s.code x k role va m x.fSrc = (u, .ok (img, ds)) →
              exec (.csend o) s = .next ((u.emit s.cur.core 0 (sent img)).updClear Clear.step))
        ∧ (∀ add i, (i = .crecv o ∧ add = false ∨ i = .cred o ∧ add = true ∧ redType x.fDtype = true) →
            R o.rd < c.size → x.inSrc va m = true → (k = 0 ∨ x.fDtype = 0 ∧ x.fComp = k ∧ m % x.fB = 0) →
            (s.takeMsg x (R o.rd) chan = none → exec i s = .next s)
            ∧ (∀ y u v, s.takeMsg x (R o.rd) chan = some (y, u) → u.applyMsg x y va 0 m k add = (v, none) →
                exec i s = .next (v.updClear Clear.step))
            ∧ (∀ y u v st, s.takeMsg x (R o.rd) chan = some (y, u) → u.applyMsg x y va 0 m k add = (v, some st) →
                exec i s = .next (v.clearEnd st))
            -- a raw message of whole bytes within one page: its elements, or their sums with what is there, are written
            ∧ ∀ y u pa, s.takeMsg x (R o.rd) chan = some (y, u) → k = 0 → y.kind = 0 → y.count = m → 0 < x.bytes m →
                x.width % 8 = 0 → x.bytes m ≤ 65536 - va % 65536 → map va .wr = .ok pa →
                (isFabric pa = true ∨ s.swHeld pa (x.bytes m) = false) →
                let xs := elemsOf x.width m 0 y.data
                let write := fun (v : State) (zs : List Nat) => (v.engineWrite x.tenant va pa
                  (leBytes (x.bytes m) (packElems x.width zs)) (typOf x.fDtype)).updClear Clear.step
                (add = false → exec i s = .next (write u xs))
                ∧ ∀ ys, add = true → u.elemRead x.tenant va x.width 0 m = .ok ys →
                    exec i s = .next (write (u.spaceHasRead x.tenant va (x.bytes m))
                      ((xs.zip ys).map fun z => redAdd x.fDtype z.1 z.2)))
        ∧ (redType x.fDtype = true → x.inSrc va m = true → m ≤ 256 →
            (∀ bs, c.sent.contains (R o.rd) = false → s.spaceRead x.tenant va (x.bytes m) = .ok bs →
              let root := rootOf x.fOp x.fCount c.size (R o.rd)
              let v := (s.spaceHasRead x.tenant va (x.bytes m)).setClear { c with sent := c.sent ++ [R o.rd] }
              let tag : Tag := { group := x.fGroup, stream := x.fStream, seq := tagSeq x.seq, chunk := R o.rd, who := c.rank,
                                 root := root, op := x.fOp }
              let u := if s.planes = [] then
                  { v with pushes := v.pushes ++ [{ tenant := x.tenant, group := x.fGroup, stream := x.fStream, seq := tagSeq x.seq,
                                                    chunk := R o.rd, rank := c.rank, dtype := x.fDtype, size := c.size,
                                                    op := x.fOp, root := root, data := bs }] }
                else v.request (192 + s.cur.core)
                  { tenant := x.tenant, dest := (g.members.getD root (s.dev, 0)).1, kind := 4, op := x.cmd, addr := tag.addr,
                    opn := tag.opn, bmask := tag.bmask, arg := tag.arg, typ := typOf x.fDtype, data := bs }
              exec (.cswred o) s = .next (if x.getsResult c.size c.rank (R o.rd) = true then u else u.updClear Clear.step))
            ∧ (∀ bs u v, c.sent.contains (R o.rd) = true → s.takeResult x (R o.rd) = some (bs, u) →
              u.spaceWrite x.tenant va (bs.take (x.bytes m)) (typOf x.fDtype) = (v, none) →
              exec (.cswred o) s = .next (v.setClear { next with sent := c.sent.erase (R o.rd) }))))
    ∧ (∀ es u, x.inSrc va m = true → k = 0 → s.elemRead x.tenant va x.width 0 m = .ok es →
        (s.spaceHasRead x.tenant va (x.bytes m)).spaceWrite x.tenant (R o.rd) (leBytes (x.bytes m) (packElems x.width es))
          (typOf x.fDtype) = (u, none) →
        exec (.ccomp o) s = .next (u.updClear Clear.step))
    ∧ (∀ u v img ds, x.inSrc va m = true → k ≠ 0 → s.code x k role va m x.fSrc = (u, .ok (img, ds)) →
        u.spaceWrite x.tenant (R o.rd) img 0 = (v, none) → exec (.ccomp o) s = .next (v.updClear Clear.step))
    -- where a message goes: to a die of this device, or as one request of at most 4,096 bytes
    ∧ (∀ (u : State) (d typ : Nat) (y : Msg),
        (y.dev = u.dev → u.emit d typ y = ({ u with msgs := u.msgs ++ [y] } : State).countDie d 8 y.tenant 1)
        ∧ (y.dev ≠ u.dev → y.kind ≠ 3 → (msgBytes y).length ≤ 4096 → u.emit d typ y =
            (({ u with nextId := u.nextId + 1, msgs := u.msgs ++ [{ y with req := u.nextId }] } : State).request (192 + d)
              { tenant := y.tenant, dest := y.dev, kind := 5, op := u.nextId, typ := typ, data := msgBytes y,
                arg := 1 + 2 ^ 8 * y.die }).countDie d 8 y.tenant 1))
    ∧ ∃ t, exec (.cend p) s = .next t ∧ t.mem = s.mem ∧ t.clear = { c with asked := false, ended := some (
        if p.imm.toNat % 2 ^ 16 ≤ 11 then p.imm.toNat % 2 ^ 16 else 9) }

/-! ### Events of the cores, the homes and the engines. An event names its unit and operands in State.arg. -/

/-- Waits that are met, words that arrive, loads that are served, stores and home operations that take their place in the home
order, results that return, walks, watchdogs, mailboxes, versions and scrubbing (R75, R77, R120, R172 to R183, R264, R312,
R313, R326, R327, R423, R424, R426, R427). One granule of a FEOP for each of its turns is notes/assumptions/55.md, the leaf
entered as the walk finds it notes/assumptions/15.md, and that only a released system core, in M-mode or HS-mode, writes a
mailbox notes/assumptions/61.md. -/
def Obligations.CoreAndHomeEvents : Prop :=
  ∀ s : State,
    let c := s.arg.core; let w := s.arg.slot; let id := s.arg.a; let wp := s.warpAt c w; let k := s.core c
    let lim := (k.rawCsr 6).toNat
    -- the bytes of a range are those of a number, and no other byte differs
    let stored := fun (u : State) (pa n v : Nat) => (∀ j, j < n → rd8 u.mem (pa + j) = BitVec.ofNat 8 (v / 256 ^ j))
      ∧ ∀ a, a < pa ∨ pa + n ≤ a → rd8 u.mem a = rd8 s.mem a
    let free := fun (p : Split) =>
      if p.park = .clauseWait ∧ wp.waitMet p.hdr = true then ({ p with park := .running } : Split) else p
    let fetched := fun (g : Group) =>
      if g.addr = id ∧ g.slot = s.arg.b ∧ g.ib = true ∧ g.words = .absent then { g with words := s.fetchClause c w id } else g
    exec .clauseWaitMet s = .next (s.setWarpAt c w { wp with parked := wp.parked.map free })
    ∧ exec .clauseWordsArrive s = .next (if wp.groups.any (fun g => g.addr == id && g.slot == s.arg.b && g.ib && g.words == .absent)
        then (s.fetchAsk c w (s.fetchWords c w id) id).updWarpAt c w fun u => { u with groups := u.groups.map fetched } else s)
    ∧ (∀ x o, s.findOp c id = some (x, o) → s.opFree c x o = true → o.done = false → 0 < o.size → isFabric o.pa = false →
        s.swHeld o.pa o.size = false → (o.pa + o.size - 1) / 128 = o.pa / 128 →
        s.bad o.pa o.size = false → s.discards o.pa o.size = false → k.l1Bad.any (inWords o.pa o.size) = false →
        s.imageLocked o.pa o.size = false →
        let old := s.rdN o.pa o.size; let n := o.size
        let won := fun (u : State) (v : Nat) => u.findOp c id = some (x, { o with done := true, err := false, val := v })
        (o.kind = .ld → ∃ t : State, exec .loadServe s = .next t ∧ t.mem = s.mem
            ∧ won t (extend o.sz (leNat (s.loadBytes c x o.lane id o.pa n))))
        ∧ (o.kind = .ldf → (s.ldfq.any fun y => y.core == c && y.op == id) = false →
            (s.isFull (o.pa / 16) = true → ∃ t : State, exec .loadServe s = .next t ∧ t.mem = s.mem ∧ won t (extend o.sz old)
              ∧ t.isFull (o.pa / 16) = !o.clr)
            ∧ (s.isFull (o.pa / 16) = false →
                exec .loadServe s = .next { s with ldfq := s.ldfq ++ [⟨o.pa / 16, c, id, o.clr⟩] }))
        ∧ (o.kind = .st → o.aop = 0 → ∃ u : State, exec .storeRegistration s = .next (u.endOp c x id) ∧ stored u o.pa n o.data
            ∧ ∀ i, o.pa / 4 ≤ i → i ≤ (o.pa + n - 1) / 4 → i ∈ (u.core c).owned ∧ ∀ j, j ≠ c → i ∉ (u.core j).owned)
        ∧ (o.kind = .stf → ∃ u : State, exec .homeWriteQueueApply s = .next ((u.fillRange o.pa n).endOp c x id) ∧ stored u o.pa n o.data)
        ∧ (o.kind = .atom → ∃ u : State, exec .homeWriteQueueApply s = .next (u.afterOp c x) ∧ won u old
            ∧ stored u o.pa n (atomicNew o.aop n o.sgn old o.data))
        ∧ (o.kind = .cas → ∃ u : State, exec .homeWriteQueueApply s = .next (u.afterOp c x) ∧ won u old
            ∧ (old = o.data → stored u o.pa n o.data2) ∧ (old ≠ o.data → u.mem = s.mem))
        ∧ (o.kind = .red → ∃ u : State, exec .homeWriteQueueApply s = .next (u.endOp c x id)
            ∧ stored u o.pa n (atomicNew o.aop n o.sgn old o.data)))
    -- a FEOP, one granule at a time
    ∧ (∀ x o, s.findOp c id = some (x, o) → s.opFree c x o = true → o.done = false →
        let u := s.dropCopies c o.pa o.size; let m := o.val + if s.isFull (o.pa / 16) = true then 1 else 0
        let rest := fun (v : State) => v.updOp c id fun p => { p with pa := p.pa + 16, va := p.va + 16, size := p.size - 1 }
        (o.kind = .feSet → exec .homeWriteQueueApply s =
          .next (if o.size ≤ 1 then (u.fill (o.pa / 16)).endOp c x id else rest (u.fill (o.pa / 16))))
        ∧ (o.kind = .feClear → exec .homeWriteQueueApply s =
          .next (if o.size ≤ 1 then (u.empty (o.pa / 16)).endOp c x id else rest (u.empty (o.pa / 16))))
        ∧ (o.kind = .feTest →
          (o.size ≤ 1 → ∃ v : State, exec .homeWriteQueueApply s = .next (v.afterOp c x) ∧ v.mem = s.mem
              ∧ v.findOp c id = some (x, { o with done := true, err := false, val := m }))
          ∧ (1 < o.size → ∃ v : State, exec .homeWriteQueueApply s = .next v ∧ v.mem = s.mem ∧ v.full = s.full
              ∧ v.findOp c id = some (x, { o with pa := o.pa + 16, va := o.va + 16, size := o.size - 1, val := m }))))
    ∧ (∀ x o, s.findOp c id = some (x, o) → o.kind.long = true → o.kind ≠ .status → o.kind ≠ .acrd → o.done = true →
        ∃ u : State, exec .longResultReturn s = .next (u.afterOp c x) ∧ u.mem = s.mem
          ∧ (∀ p ∈ (u.warpAt c x).ops, p.id ≠ id)
          ∧ (o.err = false → o.mask = 0#32 → o.lane < 32 → (s.warpAt c x).drained = false → (s.warpAt c x).mode = .tenant →
              ∀ d, o.dest = some d → d.toNat + o.words ≤ 96 → ∀ j, j < o.words →
                (u.warpAt c x).reg (d.toNat + j) o.lane = BitVec.ofNat 32 (o.val / 2 ^ (32 * j)))
          ∧ (o.err = true → ∀ l, l < 32 → o.covers l = true → ((s.warpAt c x).thread l).st ≠ .exited →
              ((s.warpAt c x).thread l).pend = none → ((u.warpAt c x).thread l).pend = some (.dataUncorrectable, o.va)))
    ∧ (∀ l, s.launch id = some l → (s.arg.idx, c) ∈ l.told →
        exec .cbarCompletion s = .next (((s.wgsOf id).filter fun x => x.2.core == c && l.member s.arg.idx x.2.index).foldl
          (fun s x => x.2.slots.foldl (fun s w => (s.releaseFrom c w fun wp i =>
            (wp.thread i).st == .atCbar && (wp.thread i).opnd == s.arg.idx && (wp.thread i).cdone).settle c w) s)
          (s.updLaunch id fun l => { l with told := l.told.erase (s.arg.idx, c) })))
    ∧ (∀ x, s.walks[s.arg.idx]? = some x → ∃ t : State, exec .pageWalk s = .next t ∧ t.walks = s.walks.eraseIdx s.arg.idx
        ∧ t.mem = s.mem
        ∧ (x.dead = true → t.cores = s.cores)
        ∧ ∀ e, x.dead = false → x.core < 192 → s.walk x.tenant x.va = some e →
            (e ∈ (s.core x.core).tlb ∨ (t.core x.core).tlb = (e :: (s.core x.core).tlb).take 128) ∧ e ∈ (t.core x.core).tlb
            ∧ e ∈ (t.die (x.core / 48)).ltlb)
    ∧ (w < 64 → wp.live = true → lim ≠ 0 → lim ≤ wp.wdog → ∃ t : State, exec .watchdogExpiry s = .next t
        ∧ t.warpAt c w = { wp with wdog := 0 } ∧ w ∈ (t.core c).dogEv ∧ t.mem = s.mem)
    ∧ (let h := s.arg.hart; let y := s.sysCore h
        (y.released = false → exec .mailboxMessage s = .next s)
        ∧ (y.released = true → y.mode = .vs ∨ y.mode = .u →
            exec .mailboxMessage s = .next { s with sys := fset s.sys h { y with faulted := true } })
        ∧ (y.released = true → y.mode = .m ∨ y.mode = .hs → k.released = true → exec .mailboxMessage s =
            .next (({ s with sys := fset s.sys h { y with faulted := false } } : State).setCore c { k with mbox := k.mbox ++ [id] })))
    ∧ (∃ t : State, exec .verUpdate s = .next t ∧ t.mem = s.mem
        ∧ ∀ n, fget 0#32 (t.core c).ver n = if n = s.arg.idx then (s.tenant n).epver else fget 0#32 k.ver n)
    ∧ (s.arg.idx = 1 → ∃ t : State, exec .scrub s = .next t ∧ t.log_ = s.log_ ++ [(1, id)] ∧ t.mem = s.mem ∧ t.errs = s.errs
        ∧ ∀ u, fget 0 t.errCnt u = fget 0 s.errCnt u + if u = errUnit id then 1 else 0)
    ∧ (s.arg.idx = 0 → s.bad id 1 = true → s.mapsLine w s.arg.b id = true →
        exec .scrub s = .next { s.meetsError w s.arg.b id with log_ := s.log_ ++ [(2, id)] })
    ∧ (s.arg.idx = 0 → s.bad id 1 = false ∨ s.mapsLine w s.arg.b id = false → exec .scrub s = .next s)
    ∧ (s.arg.idx = 2 → exec .scrub s = .next (if wp.bad.contains id = true then { s with log_ := s.log_ ++ [(3, id)] } else s))
    ∧ (s.arg.idx = 3 → exec .scrub s = .next (if k.bufBad.contains id = true then { s with log_ := s.log_ ++ [(4, id)] } else s))

/-- The matrix engines and the copy engine: a command starts, its steps and deliveries take effect, and it ends; an accumulator
takes zeros, the values of its ACWR, or the products a step adds to it; a command whose writes have not all reached their homes on
other devices does not end, and a step that lacks bytes of another unit asks for them (R202, R204, R208, R214, R220, R317, R323,
R334 to R343). That GTHQ lowers BARS by what was read for each full line of 128 destination bytes is notes/assumptions/16.md, and
that a command waits for other devices and switch slices in its queue notes/assumptions/9.md. -/
def Obligations.EngineEvents : Prop :=
  ∀ (s : State) (x : Cmd),
    let c := s.arg.core; let k := s.core c
    (k.head s.arg.idx = some x →
      let accs := fun (t : State) (v : Nat → Word) => t.mem = s.mem
        ∧ (∀ e, e < 512 → fget 0#32 (t.warpAt c x.slot).a (x.acc * 512 + e) = v e)
        ∧ (∀ n, n < x.acc * 512 ∨ x.acc * 512 + 512 ≤ n →
            fget 0#32 (t.warpAt c x.slot).a n = fget 0#32 (s.warpAt c x.slot).a n)
        ∧ t.warpAt c x.slot = { s.warpAt c x.slot with a := (t.warpAt c x.slot).a }
      let old := fun e => fget 0#32 (s.warpAt c x.slot).a (x.acc * 512 + e)
      let b := bStep k.wb x
      (x.started = false → x.gst ≠ .unresolved → s.drainHolds c x = false → k.olderAcc x = false →
        exec .matrixCommandStart s = .next (s.updCmd c x.id fun x => { x with started := true }))
      ∧ (s.matCanStep c x = true →
        (x.op = 0x6C → ∃ t : State, exec .matrixStep s = .next t ∧ accs t fun _ => 0#32)
        ∧ (x.op = 0x6E → (∀ y ∈ x.data, y.1 < 512) → (x.data.map (·.1)).Nodup → ∃ t : State, exec .matrixStep s = .next t
            ∧ accs t fun e => fget (old e) x.data e)
        ∧ (x.op = 0x70 ∨ x.op = 0x71 → (stepCells x b).any k.bufBad.contains = false →
            ∃ t : State, exec .matrixStep s = .next t ∧ accs t fun e => (stepAcc k.ob b x old).getD e 0#32)
        ∧ (x.op = 0x6F → k.bufBad.contains (2048 + x.slot * 16 + x.acc) = false → (∀ p ∈ x.lines, s.swHeld p 128 = false) →
            exec .matrixStep s = .next ((((x.lines.zip (accLines (s.warpAt c x.slot) x)).zip (List.range x.lines.length)).foldl
              (fun s p => s.engineWrite x.tenant (x.va + 128 * p.2) p.1.1 p.1.2 (if x.sz = 3 then 1 else 2))
              (s.acts c x.slot c x.id)).updCmd c x.id fun x => { x with units := x.units + 1 })))
      ∧ (x.started = true → x.failAt = true ∨ x.steps ≤ x.units → s.posted x.id = false → ∃ u : State,
          exec .matrixCommandEnd s = .next (((u.retire c).emptied c k).settle c x.slot)
          ∧ u = (s.updCmd c x.id fun x => { x with ended := true }).readAccs c x.slot))
    ∧ (s.copyNext c = some x →
      let v := s.acts c x.slot c x.id; let r := CopyReq.parse x.block
      let asks := if x.op = 0x72 ∧ r.expand = true then v.expandNeed c x.tenant r else none
      let bad := if x.op = 0x72 then v.copyCheck c x else x.gatherCheck
      let wb := x.op = 0x72 ∧ r.dkind = 2 ∧ bad = none
      let pk := if x.op = 0x72 ∧ r.expand = true then
          (match v.expandRead c x.tenant r with | .ok y => y.1 | .error _ => r) else r
      let done := fun (t : State) => { t with fetched := ferase t.fetched x.id, fetchBad := ferase t.fetchBad x.id }
      let u := done (v.updCmd c x.id fun y => { y with started := true, statedD := (v.stated c x).1, statedS := (v.stated c x).2,
                                                        failAt := bad.isSome, status := bad.getD stOk, head := pk.head, maskOf := pk.mask })
      -- what it reads of another unit first, whether it goes on or is discarded
      (∀ e y, asks = some e → needOf e = some y → exec .copyCommandStart s = .next (v.ask x.tenant y.1 y.2))
      ∧ (asks = none → x.gst = .no → exec .copyCommandStart s = .next (done (v.endCmd c x.id stDiscarded)))
      ∧ (asks = none → x.gst ≠ .no → (∀ e, bad = some e → e < 2 ^ 16) →
        (wb → exec .copyCommandStart s = .next (u.updCore c fun k => { k with wbOwner := some x.wg }))
        ∧ (¬ wb → exec .copyCommandStart s = .next u)))
    ∧ (s.cmdOf c s.arg.a = some x → s.copyCanGo c x = true →
      let v := s.acts c x.slot c x.id
      let job := fun (t : State) => v.jobStep t x.tenant ((t.cmdOf c x.id).map (·.status))
      (x.op = 0x72 → exec .copyDelivery s = .next (job (v.copyLine c x)))
      ∧ (x.op = 0x73 →
        let g := GatherReq.parse x.block; let row := x.units / g.rowb; let off := x.units % g.rowb; let d := g.dst + x.units
        let n := min (g.rowb - off) (128 - d % 128)
        ∀ i bs u, v.gatherIdx c x row = .ok i →
          (if g.limit ≤ i then bs = List.replicate n 0#8
            else ∃ y, v.engRead c x.tenant (g.src + i * g.stride + off) n = .ok y ∧ bs = leBytes n y) →
          v.engWrite c x.tenant d bs 0 (decide (n < 128)) = (u, none) →
          let due := (if v.copyFar c x d then 0 else 8 * n) + x.srcBits; let full := (d + n) % 128 = 0
          exec .copyDelivery s = .next (job (((u.updCmd c x.id fun y => { y with
            units := x.units + n, idx := some (row, i), srcBits := if full then 0 else due }).deliverD
              c x (if full then due / 8 else 0)).countCore c 8 x.tenant n))))
    ∧ (s.cmdOf c s.arg.a = some x → x.ended = false →
      (x.eng = 4 → x.started = true → x.failAt = true ∨ x.copyTotal ≤ x.units → s.posted x.id = false →
        exec .commandEnd s = .next (s.endCmd c s.arg.a (if x.failAt then x.status else 0)))
      ∧ (x.eng = 6 → x.started = true ∨ s.joinTurn c x = true → exec .commandEnd s = .next (s.joinCmd c x)))

/-- The episode join and scan unit: a reward is placed in its step's record or waits in escrow, an old one is dropped and counted; an
entry times out, or is scanned backwards over its records with one rounding an operation, and its release records go to its
learner queue in step order while there is room, counted there once the last is written or no more can be (R392 to R401;
the moment they are counted is the model's: notes/assumptions/75.md). -/
def Obligations.JoinUnitEvents : Prop :=
  (∀ (s : State) (m : Reward),
    (s.rewardsOut[s.arg.idx]? = some m → s.arg.data = [] → exec .rewardMessage s =
      .next ((({ s with rewardsOut := s.rewardsOut.eraseIdx s.arg.idx } : State).reward m).accepted m.at_))
    ∧ (s.arg.data ≠ [] → exec .rewardMessage s = .next ((blocksOf 24 (s.arg.data.length / 24) s.arg.data).foldl
        (fun s b => s.reward (rewardOf s.arg.slot b)) s))
    ∧ (s.escrow[s.arg.idx]? = some m → m.bad = false → (s.tenant m.tenant).epesc ≤ s.joinCycle - m.at_ →
        ∃ t : State, exec .escrowAgeExpiry s = .next t ∧ t.mem = s.mem ∧ t.escrow = s.escrow.eraseIdx s.arg.idx
          ∧ fget 0 (t.tenant m.tenant).drops 1 = (fget 0 (s.tenant m.tenant).drops 1 + 1) % 2 ^ 32)
    -- what a reward does
    ∧ ((s.tenant m.tenant).resetting = true → s.reward m = s)
    ∧ ((s.tenant m.tenant).resetting = false → m.flags < 2 →
      (s.entryOf m.tenant m.key = none → (s.tenant m.tenant).epesc ≠ 0 → s.escrow.length < 131072 →
        (s.reward m).escrow = s.escrow ++ [{ m with at_ := s.joinCycle }] ∧ (s.reward m).mem = s.mem
        ∧ (s.reward m).episodes = s.episodes)
      ∧ ∀ i r u, s.entryOf m.tenant m.key = some i →
        let e := s.episode i; let va := e.buf + 16 * m.step; let fl := blockField r 4 4
        e.bad = false → m.step < e.cap → m.step < e.nstep → (e.st = .closed → m.step < e.len) →
        s.joinRead e.tenant va 16 = .ok r → bitOf fl 1 = false → bitOf fl 2 = false →
        s.joinWrite e.tenant (va + 4) (leBytes 4 (fl ||| 4 ||| (if bitOf m.flags 0 then 1 else 0)) ++ leBytes 4 m.reward.toNat)
          = (u, none) →
        let left := (e.missing + (2 ^ 17 - 1)) % 2 ^ 17
        (e.st = .open_ ∨ e.st = .closed ∧ left ≠ 0 →
            (s.reward m).episode i = { e with missing := left } ∧ (s.reward m).mem = u.mem)
        ∧ (e.st = .closed → left = 0 → (s.reward m).mem = u.mem ∧ (s.reward m).escrow = u.escrow
            ∧ s.reward m = ((u.setEpisode i { e with missing := left }).countHub 4 e.tenant 1).reachJoined i)))
  ∧ (∀ (s : State) (i : Nat), let e := s.episode i; let t := s.tenant e.tenant; let lqn := bitsOf e.policy 4 1
    e.bad = false →
    (s.arg.idx = i → e.st = .closed → t.epjto ≠ 0 → t.epjto ≤ (s.joinCycle % 2 ^ 32 + 2 ^ 32 - e.tclose) % 2 ^ 32 →
      (bitOf e.policy 0 = true → exec .joinTimeout s = .next ((s.freeEpisode i).countDrop e.tenant 6))
      ∧ ∀ t0 v, bitOf e.policy 0 = false → s.firstMissing e 0 e.len = .ok (some (t0, v)) → t0 ≠ 0 →
        exec .joinTimeout s = .next (((s.setEpisode i { e with len := t0, vl := v, term := false, trunc := true }).countDrop
          e.tenant 7).reachJoined i))
    ∧ (∀ q, s.joinedQ = i :: q →
      (∀ rs, e.st ≠ .scan → s.stepRecs e 0 e.len = .ok rs →
        exec .episodeScan s = .next ((s.setEpisode i { e with st := .scan, outs := releaseRecs e rs }).release i))
      ∧ ∀ r rest base size head tail, e.st = .scan → e.outs = r :: rest → t.lq lqn = (base, size, head, tail) → base ≠ 0 →
        (∀ u, tail + e.hid - head < size → s.joinWrite e.tenant (base + 32 * ((tail + e.hid) % size)) r = (u, none) →
          ∃ v : State, exec .episodeScan s = .next v ∧ v.mem = u.mem
            ∧ (rest ≠ [] → v.episode i = { e with outs := rest, hid := e.hid + 1 }
                ∧ fget 0 (v.tenant e.tenant).lqTail lqn = tail)
            ∧ (rest = [] → v.episode i = { gen := e.gen } ∧ fget 0 (v.tenant e.tenant).lqTail lqn = tail + (e.hid + 1)))
        ∧ (size ≤ tail + e.hid - head → e.hid ≠ 0 →
          ∃ v : State, exec .episodeScan s = .next v ∧ v.mem = s.mem ∧ v.episode i = { e with hid := 0 }
            ∧ fget 0 (v.tenant e.tenant).lqTail lqn = tail + e.hid))
    -- an entry reaches JOINED, or is too old
    ∧ ((t.eplag : Int) < (t.epver - e.ver).toInt → s.reachJoined i = (s.freeEpisode i).countDrop e.tenant 0)
    ∧ (¬ (t.eplag : Int) < (t.epver - e.ver).toInt → (s.reachJoined i).joinedQ = s.joinedQ ++ [i]
        ∧ (s.reachJoined i).episode i = { e with st := .joined }))
  ∧ ∀ (gamma gl a0 v0 : Word) (r : StepRec) (rs : List StepRec),
    let later := scanBack gamma gl a0 v0 rs
    let mul := fun x y => ne32 (mulE (dec32 x) (dec32 y)); let add := fun x y => ne32 (addE false (dec32 x) (dec32 y))
    let m : Word := if bitOf r.flags 0 then 0#32 else 0x3F800000#32
    let d := ne32 (addE false (dec32 (add r.reward (mul (mul gamma later.2.2) m))) (dec32 r.v).flip)
    let a := add d (mul (mul gl later.2.1) m)
    scanBack gamma gl a0 v0 (r :: rs) = ((a, add a r.v) :: later.1, a, r.v)

/-- The launch unit and the clearing engines' events: TAIL is read and a bad one disables its queue (R281); dependences are read
again (R283); a record starts or ends with its failure (R287, R288); the first admitted offer is placed, or a pre-emption asked
for (R288 to R295); the save handler's entry and the end of its drain (R275, R428 to R430); a fault record's writing (R422); and
a collective's start, messages, contributions and end (R255, R369, R380, R381, R232). The model's choices: the first tenant of a
round is notes/assumptions/41.md, the layout of a contribution's packet notes/assumptions/31.md, and what of a slot and of its
root stands in this device's state, with its age, notes/assumptions/47.md. -/
def Obligations.LaunchAndCollectiveEvents : Prop :=
  (∀ s : State, let t := s.arg.idx; let n := s.arg.slot; let q := (s.tenant t).queue n
    let bad := fun v : Nat => v < q.tail ∨ 2 ^ q.log2n < v - q.head
    let fail := (s.updQueue t n fun x => { x with en := false, error := true }).countHub 8 t 1
    let took := fun v : Nat => (s.updQueue t n fun x => { x with tail := v }).rereadAll t
    let polled := fun (e : Instr) (f : State → State) => (q.en = false → exec e s = .next (f s))
      ∧ ∀ v, q.en = true → s.hubRead t q.ctla 8 = .ok v →
        (bad v → exec e s = .next (f fail)) ∧ (¬ bad v → exec e s = .next (f (took v)))
    polled .queueTailPoll id ∧ polled .queueAdvance id
    ∧ (let h := s.arg.hart; let y := s.sysCore h
        (y.released = false → exec .doorbell s = .next s)
        ∧ (y.released = true → y.mode = .vs ∨ y.mode = .u →
            exec .doorbell s = .next { s with sys := fset s.sys h { y with faulted := true } })
        ∧ (y.released = true → y.mode = .m ∨ y.mode = .hs →
            polled .doorbell fun u => { u with sys := fset s.sys h { y with faulted := false } }))
    ∧ (∀ r a b, q.en = true → q.next < q.tail → s.recordAt t n q.next = .ok r → s.depRead t (depOf r 0) = .ok a →
        s.depRead t (depOf r 1) = .ok b → exec .dependenceReread s = .next (s.updQueue t n fun x =>
          { x with met := some ((q.met.getD (false, false)).1 || a, (q.met.getD (false, false)).2 || b) })))
  ∧ (∀ (s : State) (t n r : Nat), s.startNext = some (t, n) →
      let q := (s.tenant t).queue n; let va := q.ring + 64 * (q.next % 2 ^ q.log2n)
      let u : State := { (s.updQueue t n fun x => { x with next := q.next + 1, met := none }) with rrTenant := fset s.rrTenant q.prio t }
      u.recordAt t n q.next = .ok r →
      (∀ l, u.makeLaunch t n q.next r q.met = .ok l → ∃ v : State, exec .recordStart s = .next v ∧ v.mem = s.mem ∧ v.rrTenant = fset s.rrTenant q.prio t
        ∧ v.launches = fset s.launches s.nextId l)
      ∧ ∀ e, u.makeLaunch t n q.next r q.met = .error e →
        exec .recordStart s = .next ((u.finishRecord t n q.next va (blockField r 0x38 8) e).reread t n))
  ∧ (∀ (s t : State) (n i : Nat) (l : Launch) (gs : List Nat) (rest : List Cand), s.launch n = some l →
      (s.cands = .fresh n i :: rest → s.placeNew n l i = some t → s.arg.b ≠ 1 →
        exec .workgroupPlacement s = .next (t.updLaunch n fun l => { l with next := i + 1 }))
      ∧ (s.arg.b = 1 → exec .workgroupPlacement s = .next (s.requestSaves (preemptGo s.cands s.relieved)))
      -- an offer that waits and has workgroups to pre-empt decides, else the next one; an admitted one takes its place
      ∧ preemptGo [] s = []
      ∧ (s.placeNew n l i = none → preemptGo (.fresh n i :: rest) s
          = if s.preemptFor l = [] then preemptGo rest s else s.preemptFor l)
      ∧ (s.placeNew n l i = some t → preemptGo (.fresh n i :: rest) s
          = preemptGo rest (t.updLaunch n fun l => { l with next := i + 1 }))
      ∧ (s.savable gs = false → s.requestSaves gs = s)
      ∧ (s.cands = .gang n :: rest → s.placeGang n l l.gang = some t →
        exec .gangPlacement s = .next (t.updLaunch n fun l => { l with next := skipGang l.gang l.gang.length l.next }))
      ∧ (s.cands = .restore n gs :: rest → s.placeSavedAll l gs = some t → exec .restorePlacement s = .next t))
  ∧ (∀ s : State, let c := s.arg.core; let w := s.arg.slot; let x := s.wg (s.warpAt c w).wg
    (∀ l, w < 65 → s.launch x.launch = some l → (l.told.filter (·.2 == c)) = [] → s.canSave c w = true →
      let a := (s.tenant l.tenant).area (x.area.getD 0)
      ∃ t : State, exec .saveHandlerEntry s = .next t ∧ t.mem = s.mem
        ∧ (t.warpAt c w).mode = .save ∧ (t.warpAt c w).drained = false ∧ (t.warpAt c w).groups = []
        ∧ (t.warpAt c w).parked = [] ∧ (t.warpAt c w).bound = [] ∧ (t.warpAt c w).v = (s.warpAt c w).v
        ∧ (t.warpAt c w).ss = [(28, BitVec.ofNat 32 a), (29, BitVec.ofNat 32 (a / 2 ^ 32)),
            (30, BitVec.ofNat 32 (s.warpAt c w).index), (31, BitVec.ofNat 32 x.slots.length)])
    ∧ (s.drainDone c w = true → (∀ l, s.launch x.launch = some l → (l.told.filter (·.2 == c)) = []) → exec .drainComplete s = .next (s.drained c w)
        ∧ ∀ y ∈ ((s.drained c w).core c).cmds, y.slot ≠ w)
    ∧ (s.recs = [] → exec .faultRecordWrite s = .next s)
    ∧ (∀ r rs, s.recs = r :: rs →
        let seq := ((s.tenant r.tenant).faultSeq + 1) % 2 ^ 32
        let u := ({ s with recs := rs } : State).updTenant r.tenant fun t => { t with faultSeq := seq }
        (u.ringSlot r.tenant seq = none → exec .faultRecordWrite s = .next u)
        ∧ ∀ va, u.ringSlot r.tenant seq = some va → exec .faultRecordWrite s =
            .next (((u.hubWrite r.tenant va (leBytes 0x2C r.body)).hubWrite r.tenant (va + 0x30)
              (List.replicate 16 0#8)).hubWrite r.tenant (va + 0x2C) (leBytes 4 seq))))
  ∧ ∀ s : State, let d := s.arg.core; let k := s.die d
    (k.halted = true → exec .collectiveStart s = .next s ∧ exec .collectiveEnd s = .next s ∧ exec .heldEndApply s = .next s)
    -- a die that is no member ends it, with FORMAT before RANGE (spec/03_numbers.md R42)
    ∧ (∀ p x, k.halted = false → k.freeProc = some p → k.nextColl = some x →
      (s.group x = none ∨ ∃ g, s.group x = some g ∧ (s.dev, d) ∉ g.members) → ∃ t : State, exec .collectiveStart s = .next t
        ∧ t.mem = s.mem ∧ t.proc d p = { coll := some x, ended := some (
            if WellFormed.fmtAssigned x.fDtype = true then stRange else stFormat) })
    ∧ (∀ p x g, k.halted = false → k.freeProc = some p → k.nextColl = some x → s.group x = some g →
      let n := g.members.length; let m := g.members.findIdx (· == (s.dev, d))
      m < n → ∃ t : State, exec .collectiveStart s = .next t ∧ t.mem = s.mem ∧ (t.die d).queue = k.queue.erase x
        ∧ (∀ st, s.collCheck x n = some st → t.proc d p = { coll := some x, ended := some st })
        ∧ (s.collCheck x n = none → g.lost = true → t.proc d p = { coll := some x, ended := some stLost })
        ∧ (s.collCheck x n = none → g.lost = false → (t.proc d p).coll = some x ∧ (t.proc d p).ended = none
            ∧ (t.proc d p).pc = x.fProg ∧ (t.proc d p).rank = m ∧ (t.proc d p).size = n
            ∧ ∀ i, i < 16 → fget 0#64 (t.proc d p).c i = BitVec.ofNat 64 ([x.va, m, n, x.fSrc, x.fDst, x.fCount].getD i 0)))
    ∧ (∀ m, s.arg.data = [] → s.msgs[s.arg.idx]? = some m → m.arrived = false → m.dev = s.dev →
        (s.msgLive m = true ∨ s.inbox m.die + m.data.length ≤ inboxSize) →
        exec .clearingMessageArrival s = .next { s with msgs := s.msgs.set s.arg.idx { m with arrived := true } })
    ∧ (let p := s.arg.idx; let c := s.proc d p; let u := s.setProc d p { c := c.c }
        ∀ x st, k.halted = false → c.coll = some x → c.ended = some st →
          (s.posted x.cmd = true → exec .collectiveEnd s = .next s) ∧ (s.posted x.cmd = false →
          ((u.wg x.wg).st = .resident → exec .collectiveEnd s = .next (u.endCmd (u.wg x.wg).core x.cmd st))
          ∧ ((u.wg x.wg).st = .saved → exec .collectiveEnd s = .next (u.updDie d fun k => { k with held := k.held ++
              [{ wg := x.wg, slot := x.slot, cmd := x.cmd, status := st, off := x.va - localVa x.core x.local_ 0, bar := x.fBar }] }))))
    ∧ (∀ h, k.halted = false → s.heldReady d = some h → exec .heldEndApply s = .next (s.applyHeld d h))
    ∧ (∀ p, s.arg.data = [] → s.pushes[s.arg.idx]? = some p → exec .reductionPush s =
        .next (({ s with pushes := s.pushes.eraseIdx s.arg.idx } : State).pushIn p (s.arg.b == 1) s.arg.a))
    ∧ (s.arg.data ≠ [] → exec .reductionPush s = .next (s.pushIn (s.pushOf (packetOf s.arg.data)) (s.arg.b == 1) s.arg.a))
    -- a contribution reads back from the packet that carries it
    ∧ (∀ (p : Packet) (t : Tag), t.group < 2 ^ 32 → t.stream < 2 ^ 32 → t.seq < 8 → t.chunk < 2 ^ 32 → t.who < 2 ^ 14 → t.root < 2 ^ 14 →
        t.op < 2 → p.addr = t.addr → p.opn = t.opn → p.bmask = t.bmask → p.arg = t.arg →
        let q := s.pushOf p
        q.tenant = p.tenant ∧ q.group = t.group ∧ q.stream = t.stream ∧ q.seq = t.seq ∧ q.chunk = t.chunk ∧ q.rank = t.who
          ∧ q.root = t.root ∧ q.op = t.op ∧ q.data = p.data)
    -- what is forwarded, or comes alone, adds to its root's sum once
    ∧ (∀ x y : Slot, (∃ r ∈ y.bitmap, r ∈ x.bitmap) → x.merge y = x)
    ∧ (∀ (x : Slot) (p : Push), x.bitmap.contains p.rank = true → x.add p = x)
    ∧ ∀ x, s.slots[s.arg.idx]? = some x → x.atRoot = false →
        (x.age < s.slotLimit x → exec .switchSlotTimeout s = .next s)
        ∧ (s.slotLimit x ≤ x.age → (∀ y ∈ s.slots, y.atRoot = false) →
          -- of a root on another device, which contributions have gone on to it is kept until all have
          (s.dieOf x.tenant x.group x.root = none → exec .switchSlotTimeout s = .next { s with
            slots := s.slots.erase x ++ if x.size ≤ x.bitmap.length then [] else
              [{ x with acc := [], nan := [], pinf := [], ninf := [], atRoot := true }] })
          ∧ (s.dieOf x.tenant x.group x.root ≠ none → let u : State := { s with slots := s.slots.erase x ++ [{ x with atRoot := true }] }
            (x.bitmap.length < x.size → exec .switchSlotTimeout s = .next u)
            ∧ (x.size ≤ x.bitmap.length → exec .switchSlotTimeout s = .next (u.slotDone { x with atRoot := true }))))

/-- The hub: register accesses of the system cores by offset and mode (R456, R457, R470, R472), tenant reset (R463), telemetry,
thermal shutdown and snapshots (R468, R471, R473), package reset, measured images and the release of the cores (R17, R459, R460),
and attestation (R461). The model's choices: MINTSTAT's bits are notes/assumptions/50.md, the offsets with no register
notes/assumptions/48.md, the average over the samples so far and the two events of a tenant reset notes/assumptions/49.md, the
quarters' island numbers notes/assumptions/78.md, and what of a system core is state notes/assumptions/61.md. -/
def Obligations.HubEvents : Prop :=
  (∀ s : State, let h := s.arg.hart; let y := s.sysCore h
    let access : List Instr := [.registerWrite, .qcfgWrite, .portcfgWrite, .freplayWrite, .islfreqWrite, .islbudgetWrite,
      .plimitWrite, .extend]
    let u : State := { s with sys := fset s.sys h { y with faulted := false } }
    -- a core that does not run makes no access, and one in VS-mode or U-mode faults
    (y.released = false → ∀ e ∈ access, exec e s = .next s)
    ∧ (y.released = true → y.mode = .vs ∨ y.mode = .u → ∀ e ∈ access, exec e s
        = .next { s with sys := fset s.sys h { y with faulted := true } })
    ∧ (y.released = true → y.mode = .m ∨ y.mode = .hs →
      let i := s.arg.idx; let v := s.arg.b; let k := s.die s.arg.core; let m := s.mint.measure i
      (i = 0 → s.arg.a = 0x10400 → exec .registerWrite s = .next (u.writePlimit v))
      ∧ (i = 0 → 0x100000 ≤ s.arg.a → s.arg.a < 0x200000 →
          exec .registerWrite s = .next (u.writeTenant ((s.arg.a - 0x100000) / 0x10000) (s.arg.a % 0x10000) v))
      ∧ (i = 0 → 0x2000000 ≤ s.arg.a → exec .registerWrite s
          = .next { s with sys := fset s.sys h { y with faulted := true } })
      ∧ (i < 16 → s.arg.slot < 32 → exec .qcfgWrite s = .next (u.updQueue i s.arg.slot fun q => q.writeCfg v))
      ∧ (16 ≤ i ∨ 32 ≤ s.arg.slot → exec .qcfgWrite s = .next u)
      ∧ (i < 72 → exec .portcfgWrite s = .next (u.updPort i fun x => x.writeCfg v))
      ∧ (i = 0 → exec .freplayWrite s = .next (u.updDie s.arg.core fun _ => { k with freplay := max 1 (v % 2 ^ 32) }))
      ∧ (i = 1 → exec .freplayWrite s = .next (u.updDie s.arg.core fun _ => { k with fquiet := max 1 (v % 2 ^ 32) }))
      ∧ (i = 2 → exec .freplayWrite s = .next (u.updDie s.arg.core fun _ => { k with freplays := max 1 (v % 256) }))
      ∧ (i < 16 → 400 ≤ v → v < 2048 → ∃ t : State, exec .islfreqWrite s = .next t ∧ t.mem = s.mem
          ∧ t.power.mhz i = min 1050 (v / 25 * 25))
      ∧ (16 ≤ i → i < 24 → v < 2048 → ∃ t : State, exec .islfreqWrite s = .next t ∧ t.mem = s.mem ∧ t.power.mhz i = v)
      ∧ (i < 16 → v < 256 → ∃ t : State, exec .islbudgetWrite s = .next t ∧ t.mem = s.mem ∧ t.power.budgetOf i = v
          ∧ (t.power.pwrlim = true ↔ ∃ j, j < 16 ∧ t.power.budgetOf j < t.power.swBudgetOf j)
          ∧ ∀ c, c < 192 → (t.core c).rawCsr 2 = if islandOf c = i then BitVec.ofNat 32 v else (s.core c).rawCsr 2)
      ∧ (v < 8192 → ∃ t : State, exec .plimitWrite s = .next t ∧ t.power.plimit = min 6000 (max 1000 v))
      ∧ (4 ≤ i → i < 8 → s.arg.data.length = 32 → ∃ t : State, exec .extend s = .next t
          ∧ t.mint.measure i = leBytes 32 (leNat (Sha.sha256 (m ++ s.arg.data)))
          ∧ ∀ j, j ≠ i → t.mint.measure j = s.mint.measure j)
      ∧ (i < 4 → ∃ t : State, exec .extend s = .next t ∧ t.mint.meas = s.mint.meas)))
  -- what a read gives
  ∧ (∀ (s : State) (h o : Nat), let y := s.sysCore h
    (y.released = true → y.mode = .m ∨ y.mode = .hs →
      (∀ v, s.mmioRead o = some v → ∃ t : State, s.doTurn (.sysRead h 0 o) = .next t
        ∧ t.sysCore h = { y with faulted := false, data := v } ∧ t.mem = s.mem)
      ∧ (s.mmioRead o = none → ∃ t : State, s.doTurn (.sysRead h 0 o) = .next t ∧ t.sysCore h = { y with faulted := true }
        ∧ t.mem = s.mem))
    ∧ (y.released = true → y.mode = .vs ∨ y.mode = .u → ∃ t : State, s.doTurn (.sysRead h 0 o) = .next t
        ∧ t.sysCore h = { y with faulted := true } ∧ t.mem = s.mem)
    ∧ s.mmioRead 0x10400 = some s.power.plimit
    ∧ (0x2000000 ≤ o → s.mmioRead o = none))
  ∧ (∀ s : State, let t := s.arg.idx; let y := s.sysCore s.arg.hart
      (s.arg.a = 0 → t < 16 → (s.tenant t).resetting = false → y.released = true → y.mode = .m ∨ y.mode = .hs →
        ∃ u : State, exec .tenantReset s = .next u
        ∧ (u.tenant t).active = false ∧ (u.tenant t).resetting = true ∧ (∀ q, ((u.tenant t).queue q).en = false)
        ∧ (∀ m ∈ u.escrow, m.tenant ≠ t))
      ∧ (s.arg.a ≠ 0 → (s.tenant t).resetting = true →
        ((∀ l ∈ s.launches, l.2.tenant = t → l.2.done = true) → exec .tenantReset s = .next (s.updTenant t fun x =>
          { x with resetting := false, rgen := (x.rgen + 1) % 256 }))
        ∧ ((∃ l ∈ s.launches, l.2.tenant = t ∧ l.2.done = false) → exec .tenantReset s = .next s)))
  ∧ (∀ s : State, let x := s.arg
      let n := (x.a :: s.power.samples).length
      (s.power.cycles < 4096 → exec .telemetrySample s = .next s)
      ∧ (x.data = [] → 4096 ≤ s.power.cycles → n ≤ 64 → ∃ t : State, exec .telemetrySample s = .next t ∧ t.mem = s.mem
        ∧ t.power.samples = x.a :: s.power.samples ∧ t.power.ppower = (x.a :: s.power.samples).foldl (· + ·) 0 / n
        ∧ t.power.amps = x.b % 2 ^ 16
        ∧ (t.power.pwrlim = true ↔ ∃ i, i < 16 ∧ t.power.budgetOf i < t.power.swBudgetOf i))
      ∧ (4096 ≤ s.power.cycles → (∃ j, j < 16 ∧ 115 ≤ (x.data.getD j 0#8).toNat) →
        ∃ t : State, exec .telemetrySample s = .next t ∧ t.power.down = true ∧ bitOf t.mint.stat 16 = true)
      ∧ ∃ t : State, exec .thermalShutdown s = .next t ∧ t.power.down = true ∧ bitOf t.mint.stat 16 = true ∧ t.mem = s.mem)
  ∧ (∀ s : State, (s.hubCycle < 2 ^ 20 → exec .eventSnapshot s = .next s)
      ∧ (2 ^ 20 ≤ s.hubCycle → exec .eventSnapshot s
          = .next ((List.range 16).foldl (fun s t => s.snapshot t) { s with hubCycle := s.hubCycle - 2 ^ 20 })))
  ∧ (∀ (s : State) (t : Nat), ((s.tenant t).evpage = 0 → s.snapshot t = s)
      ∧ ((s.tenant t).evpage ≠ 0 → ((s.snapshot t).tenant t).evseq = (s.tenant t).evseq + 1))
  ∧ ∀ s : State, let x := s.arg
      (∃ t : State, exec .packageReset s = .next t ∧ t.mem = [] ∧ t.cores = [] ∧ t.tenants = [] ∧ t.dies = []
        ∧ t.power = State.reset.power ∧ t.booted = false ∧ t.mint.boots = s.mint.boots + 1
        ∧ t.mint.measure 0 = leBytes 32 (leNat (Sha.sha256 (List.replicate 32 0#8 ++ Sha.sha256 x.data)))
        ∧ (x.a = 1 → t.mint.installed = [0] ∧ t.mint.stat = (if x.b = 0 then 0 else s.mint.stat)
            ∧ t.sys = [(0, { released := true })])
        ∧ (x.a ≠ 1 → t.mint.installed = [] ∧ bitOf t.mint.stat 8 = true ∧ t.mint.stopped = true ∧ t.sys = []))
      ∧ (s.mint.stopped = true ∨ s.mint.locked = true → exec .imageInstall s = .next s)
      ∧ (s.mint.stopped = false → s.mint.locked = false → 0 ∈ s.mint.installed → x.idx ∉ s.mint.installed → 1 ≤ x.idx → x.idx ≤ 3 →
        ∃ t : State, exec .imageInstall s = .next t
        ∧ t.mint.measure x.idx = leBytes 32 (leNat (Sha.sha256 (s.mint.measure x.idx ++ Sha.sha256 x.data)))
        ∧ t.mint.locked = (List.range 4).all t.mint.installed.contains
        ∧ (x.a = 1 → x.idx ∈ t.mint.installed ∧ t.mem = (if x.idx = 1 then wrBytes s.mem x.b x.data else s.mem)
            ∧ (x.idx ≠ 1 → fget [] t.mint.images x.idx = x.data))
        ∧ (x.a ≠ 1 → t.mint.installed = s.mint.installed ∧ bitOf t.mint.stat (8 + x.idx) = true ∧ t.mint.stopped = true
            ∧ t.mem = s.mem))
      ∧ (s.mint.locked = false → exec .coreRelease s = .next s)
      ∧ (s.mint.locked = true → x.idx = 0 → ∃ t : State, exec .coreRelease s = .next t ∧ t.mem = s.mem
        ∧ ∀ c, c < 192 → (t.core c).released = true)
      ∧ (s.mint.locked = true → x.idx = 1 → s.booted = false → ∃ t : State, exec .coreRelease s = .next t ∧ t.booted = true
        ∧ t.planes = (List.range 72).filter fun p => (s.port p).en && !(s.port p).ue)
      -- a request comes from the system cores' mailbox, or another way, and its answer goes back that way
      ∧ (x.b = 0 → let n := leNat (x.data.take 32); let y := s.sysCore x.hart
        let asked (u : State) : Prop :=
          (s.mint.queue.length < 8 → exec .attestationRequest s =
            .next { u with mint := { s.mint with queue := s.mint.queue ++ [(x.a, n)] } })
          ∧ (8 ≤ s.mint.queue.length → exec .attestationRequest s =
            .next { u with mint := { s.mint with busy := s.mint.busy ++ [(x.a, n)] } })
        (x.a ≠ 0 → asked s)
        ∧ (x.a = 0 → y.released = true → y.mode = .m ∨ y.mode = .hs →
            asked { s with sys := fset s.sys x.hart { y with faulted := false } })
        ∧ (x.a = 0 → y.released = true → y.mode = .vs ∨ y.mode = .u → exec .attestationRequest s =
            .next { s with sys := fset s.sys x.hart { y with faulted := true } }))
      ∧ (∀ w n q, x.b = 1 → s.mint.latched = none → s.mint.queue = (w, n) :: q → exec .attestationRequest s =
          .next { s with mint := { s.mint with queue := q, latched := some (w, n, s.mint.meas) } })
      ∧ (∀ w n m, x.b = 2 → s.mint.latched = some (w, n, m) → ∃ t : State, exec .attestationRequest s = .next t
          ∧ t.mint.latched = none ∧ t.mint.reports = s.mint.reports ++ [(w, s.report n m)])

/-- The fabric and the Ethernet ports: training and retraining, link loss (R443, R444, R361); flits accepted in sequence, held ahead
of it, discarded behind it, and the retry rules (R359, R360); packets that are discarded, requests taken in SEQ order with their
replies kept, acknowledgements, closes, which wait for kept replies, replays and their limit (R446 to R450, R452); lost dies and
devices (R383, R450); and what an endpoint of Ultra Ethernet may do (R454, R455). The model's choices: the length of a gap's wait,
and what a slice's bytes are, are free values (notes/assumptions/5.md); how flits are striped is notes/assumptions/70.md, packets'
layouts and what a retrained port sends again notes/assumptions/45.md and 31.md, when the replay limit names a device
notes/assumptions/46.md, which bytes the counters count notes/assumptions/71.md, what stands for writes that other devices
make notes/assumptions/9.md, and the completions of RMA notes/assumptions/92.md. -/
def Obligations.FabricEvents : Prop :=
  (∀ s : State, let i := s.arg.idx; let x := s.port i; let a := s.arg.a
    let again : Port := { x with st := 1, live := 0, txTab := [], rxTab := [], txSeq := 0, rxSeq := 0, retry := [], window := [],
                                 part := [], waiting := x.unacked ++ x.waiting, unacked := [], gap := false, gapAge := 0, failed := false,
                                 wantRetry := none }
    -- a Mbovas port does not train with a leaf switch of another number of planes
    let trains := a % 16 ≠ 0 ∧ ¬ (s.arg.slot = 1 ∧ s.booted = true ∧ x.ue = false)
    (x.en = true → x.st = 1 → ¬ trains → ∃ t : State, exec .portTraining s = .next t ∧ t.mem = s.mem
      ∧ t.port i = { x with fails := x.fails + 1, st := if 8 ≤ x.fails + 1 then 3 else 1 })
    ∧ (x.en = true → x.st = 1 → trains → ∃ t : State, exec .portTraining s = .next t ∧ t.mem = s.mem
      ∧ (t.port i).st = 2 ∧ (t.port i).live = a % 16 ∧ (t.port i).fails = 0 ∧ (t.port i).retrains = (x.retrains + 1) % 256
      ∧ (t.port i).slotLimit = (if x.ue = true then 0 else s.arg.b % 2 ^ 32)
      ∧ (t.port i).rxSeq = 0 ∧ (t.port i).rxTab = [] ∧ (t.port i).part = []
      ∧ (x.waiting = [] → x.unacked = [] → (t.port i).txSeq = 0 ∧ (t.port i).retry = []))
    ∧ (x.en = true → exec .portRetrain s = .next (s.updPort i fun _ => again))
    ∧ (a < 4 → bitOf x.live a = true → let live := x.live - 2 ^ a
        (live ≠ 0 → exec .linkFailure s = .next (s.updPort i fun _ => { x with live := live, retry := x.retry.map fun f =>
          if f.link = a then { f with link := stripe live f.seq } else f }))
        ∧ (live = 0 → exec .linkFailure s = .next (s.updPort i fun _ => again)))
    ∧ (x.failed = true ∨ x.gap = true ∧ Config.gapWait.toNat ≤ x.gapAge → exec .retryGapExpiry s =
        .next (s.updPort i fun _ => { x with failed := false, gapAge := 0, wantRetry := some x.rxSeq }))
    ∧ (x.failed = false → x.gap = false ∨ x.gapAge < Config.gapWait.toNat → exec .retryGapExpiry s = .next (s.updPort i fun _ => x))
    ∧ (∀ f fs, x.retry = f :: fs → let d := (a % 65536 + 65536 - f.seq) % 65536
        d ≤ x.retry.length → exec .retryRequest s = .next (((s.updPort i fun _ => { x with
          retry := x.retry.drop d, unacked := x.unacked.drop ((x.retry.take d).filter (·.last)).length }).countDie
            (i / 18) 7 16 1).pump i))
    ∧ (s.portUp i = false → exec .flitReceive s = .next s)
    ∧ (s.portUp i = true → x.ue = false →
      (s.arg.slot = 1 → exec .flitReceive s = .next (s.updPort i fun _ => { x with failed := true }))
      ∧ (s.arg.slot ≠ 1 → s.arg.core = 0 → x.rxSeq < 65536 → let d := (a % 65536 + 65536 - x.rxSeq) % 65536
        let f : Flit := { seq := a % 65536, last := s.arg.b == 1, bits := s.arg.data }; let bs := x.part ++ s.arg.data
        let y : Port := { x with rxSeq := (x.rxSeq + 1) % 65536, part := if f.last then [] else bs, window := [], gap := false,
                                 gapAge := 0, wantRetry := none }
        (d = 0 → x.window = [] → s.arg.b ≠ 1 → exec .flitReceive s = .next (s.updPort i fun _ => y))
        ∧ (d = 0 → x.window = [] → s.arg.b = 1 → exec .flitReceive s = .next ((s.updPort i fun _ => y).portPacket i bs))
        ∧ (0 < d → d < 256 → exec .flitReceive s = .next (s.updPort i fun _ =>
            { x with window := (x.window.filter (·.seq != f.seq)) ++ [f], gap := true }))
        ∧ (256 ≤ d → ∃ t : State, exec .flitReceive s = .next t ∧ t.port i = x ∧ t.mem = s.mem))))
  ∧ (∀ s : State, let bs := s.arg.data; let p := packetOf bs; let i := s.arg.idx
    (packetBad bs = true → ∀ e ∈ [Instr.fabricRequestArrival, .fabricReplyArrival, .acknowledgement, .contextClose],
      exec e s = .next (s.updPort i fun x => { x with discards := x.discards + 1 }))
    ∧ (packetBad bs = false → p.dst = s.dev →
      (∀ t, p.kind ≤ 5 → s.target? p.src p.ctx = some t → let d := (p.seq + 2 ^ 32 - t.next % 2 ^ 32) % 2 ^ 32
        let r := s.applyRequest p t.part; let reply := replyTo s.dev p r.2.1 r.2.2
        (d = 0 → t.early = [] → exec .fabricRequestArrival s = .next ((r.1.updTarget p.src p.ctx fun t =>
          { t with next := t.next + 1, replies := t.replies ++ [(p.seq, replyTo r.1.dev p r.2.1 r.2.2)],
                   part := if p.kind == 5 && bitOf p.arg 16 then t.part ++ p.data else [] }).transmit
            (replyTo r.1.dev p r.2.1 r.2.2)) ∧ reply.seq = p.seq ∧ reply.dst = p.src ∧ reply.opn = if r.2.2 then 1 else 0)
        ∧ (0 < d → d < 2 ^ 31 → t.early.any (·.seq == p.seq) = false → t.early.length < 256 →
            exec .fabricRequestArrival s = .next (s.updTarget p.src p.ctx fun t => { t with early := t.early ++ [p] }))
        ∧ (2 ^ 31 ≤ d → ∀ q, t.replies.find? (·.1 == p.seq) = some q →
            exec .fabricRequestArrival s = .next (s.transmit q.2)))
      ∧ (∀ x, p.kind = 6 → (s.ctxs.find? fun x => x.ctx == p.ctx && x.dest == p.src) = some x →
          let mark := fun r : Request => if r.seq % 2 ^ 32 = p.seq ∧ !r.replied then
            { r with replied := true, data := p.data, err := p.opn != 0 } else r
          let y := { x with reqs := x.reqs.map mark }
          -- a reply that has taken effect is acknowledged once more
          let old := x.acked ≠ 0 ∧ (x.acked - 1 + 2 ^ 32 - p.seq) % 2 ^ 32 < 2 ^ 31
          (old → exec .fabricReplyArrival s = .next
            ((s.updCtx x.core x.tenant x.dest fun y => { y with idle := 0 }).control x 7 ((x.acked - 1) % 2 ^ 32)))
          ∧ (¬ old → exec .fabricReplyArrival s = .next ((s.updCtx x.core x.tenant x.dest fun _ => y).finishReplies y)))
      ∧ (p.kind = 7 → exec .acknowledgement s = .next { s with targets := s.targets.filterMap fun t =>
          let kept := t.replies.filter fun r => !decide ((p.arg + 2 ^ 32 - r.1) % 2 ^ 32 < 2 ^ 31)
          if t.src = p.src ∧ t.ctx = p.ctx then (if t.closing ∧ kept = [] then none else some { t with replies := kept }) else some t })
      ∧ (p.kind = 8 → exec .contextClose s = .next { s with targets := s.targets.filterMap fun t =>
          if t.src = p.src ∧ t.ctx = p.ctx then (if t.replies = [] then none else some { t with closing := true }) else some t })))
  -- what a request does at its target
  ∧ (∀ (s : State) (p : Packet) (part : List Byte),
    -- one byte in the system cores' range is enough (spec/28_system.md R462)
    let k := if p.kind = 0 then p.arg % 4097 else p.data.length
    (p.kind < 4 → s.meetsSys p.addr k = true → s.applyRequest p part = (s, [], true))
    ∧ (s.meetsSys p.addr k = false →
      (p.kind = 0 → s.bad p.addr k = false →
        s.applyRequest p part = (s.countHbm p.addr 2 p.tenant k, (List.range k).map (fun i => s.homeByte (p.addr + i)), false))
      ∧ (p.kind = 0 → s.bad p.addr k = true → s.applyRequest p part = (s, [], true))
      ∧ (p.kind = 1 → (s.applyRequest p part).1 = (s.homePart p.tenant p.addr p.addr
          (mergeBytes p.bmask p.data ((List.range k).map fun i => s.homeByte (p.addr + i)))).1)
      ∧ (p.kind = 2 → bitOf p.opn 4 = false → s.bad p.addr k = false →
          let old := (List.range k).map fun i => s.homeByte (p.addr + i)
          let r := s.homePart p.tenant p.addr p.addr
            (leBytes k (atomicNew (p.opn % 16) k (bitOf p.opn 5) (leNat old) (leNat p.data)))
          s.applyRequest p part = (r.1, old, !r.2))
      ∧ (p.kind = 3 → s.applyRequest p part = (s.engineWrite p.tenant p.addr p.addr p.data, [], false)))
    ∧ (p.kind = 5 → bitOf p.arg 16 = true → s.applyRequest p part = (s, [], false))
    ∧ (p.kind = 5 → bitOf p.arg 16 = false → s.applyRequest p part = (s.messageIn p (part ++ p.data), [], false))
    -- a word that a switch slice owns is read as the slice has it
    ∧ (∀ b, s.homeByte b = if b / 4 ∈ s.swOwned then Config.farByte b s.nextId else rd8 s.mem b))
  ∧ (∀ (s : State) (x : Ctx), s.ctxs[s.arg.idx]? = some x → let d := s.die x.die; let seq := s.arg.a
    -- the source covers a lost acknowledgement before it closes, and waits for one that is still in a port
    let gone : State := { s with ctxs := s.ctxs.eraseIdx s.arg.idx }
    (x.reqs = [] → x.acked = x.next → d.fquiet ≤ x.idle → s.ackHeld x = false →
      (x.acked = 0 → exec .contextQuietExpiry s = .next (gone.control x 8 0))
      ∧ (x.acked ≠ 0 → exec .contextQuietExpiry s = .next ((gone.control x 7 ((x.acked - 1) % 2 ^ 32)).control x 8 0)))
    ∧ (x.reqs ≠ [] ∨ x.acked ≠ x.next ∨ x.idle < d.fquiet ∨ s.ackHeld x = true → exec .contextQuietExpiry s = .next s)
    ∧ ∀ r, (x.reqs.find? fun r => r.seq == seq && !r.replied) = some r →
      (r.timer < d.freplay → exec .fabricReplayTimeout s = .next s)
      ∧ (d.freplay ≤ r.timer → r.sends ≤ d.freplays → exec .fabricReplayTimeout s =
          .next ((s.updCtx x.core x.tenant x.dest fun x => { x with idle := 0, reqs := x.reqs.map fun q =>
            if q.seq = seq then { q with sends := q.sends + 1, timer := 0 } else q }).transmit r.pkt))
      ∧ (d.freplay ≤ r.timer → d.freplays < r.sends →
          let up := fun n => s.portUp n = true ∧ (s.port n).ue = false
          let y := { x with reqs := x.reqs.map fun q => if q.seq = seq then { q with replied := true, err := true } else q }
          (∀ n, s.portFor r.pkt = some n → up n → exec .fabricReplayTimeout s = .next (s.loseDevice x.dest))
          ∧ ((∀ n ∈ s.planes, ¬ up n) → exec .fabricReplayTimeout s = .next (s.loseDevice x.dest))
          -- with its own plane's port down and another's up, the request alone fails
          ∧ (∀ n, s.portFor r.pkt = some n → ¬ up n → (∃ m ∈ s.planes, up m) → exec .fabricReplayTimeout s =
              .next ((s.updCtx x.core x.tenant x.dest fun _ => y).finishReplies y))))
  ∧ ∀ s : State, let i := s.arg.idx; let x := s.arg
    exec .planeReportsUnreachable s = .next (s.loseDevice x.a)
    ∧ (s.lost.contains x.a = true → s.loseDevice x.a = s)
    ∧ (i = 0 → ∃ t : State, exec .dieStopsAnswering s = .next t ∧ (t.die x.core).answers = false ∧ t.mem = s.mem
        ∧ (x.b = 1 → (t.die x.core).halted = true)
        ∧ t.groups = s.groups.map fun g => if g.members.contains (s.dev, x.core) then { g with lost := true } else g)
    -- a die of another device, of which the fabric has told this one
    ∧ (i ≠ 0 → ∃ t : State, exec .dieStopsAnswering s = .next t ∧ t.mem = s.mem
        ∧ t.groups = s.groups.map fun g => if g.members.contains (i - 1, x.core) then { g with lost := true } else g)
    ∧ ((s.portUp i && (s.port i).ue) = false →
        ∀ e ∈ [Instr.ueRmaWrite, .ueQueueAdvance, .ueRewardSend, .ueUnsupportedRequest], exec e s = .next s)
    ∧ ((s.portUp i && (s.port i).ue) = true → let drop := s.updPort i fun x => { x with drops := x.drops + 1 }
      -- RMA, in a window of the port's memory endpoint and outside the system cores' range
      let holds := fun n => (∃ w ∈ s.ueWins, w.1 = i ∧ w.2.1 ≤ x.a ∧ x.a + n ≤ w.2.1 + w.2.2) ∧ s.meetsSys x.a n = false
      let answer := fun (u : State) e bs => ({ u with ueOut := u.ueOut ++ [(i, e, bs)] } : State)
      (∀ t, holds x.data.length → s.endpoint (144 + i) = some t →
        exec .ueRmaWrite s = .next (answer (s.engineWrite t x.a x.a x.data) false []))
      ∧ (¬ holds x.data.length ∨ s.endpoint (144 + i) = none → exec .ueRmaWrite s = .next (answer s true []))
      ∧ (∀ t n, holds n → s.endpoint (144 + i) = some t → s.bad x.a n = false → s.doTurn (.ueRead i x.a n)
          = .next (answer (s.countRead x.a t n) false ((List.range n).map fun k => s.homeByte (x.a + k))))
      ∧ (∀ n, ¬ holds n ∨ s.endpoint (144 + i) = none → s.doTurn (.ueRead i x.a n) = .next (answer s true []))
      ∧ exec .ueUnsupportedRequest s = .next (answer s true [])
      ∧ (∀ y, s.endpoint (72 + i) = some y →
          (x.data.length = 16 → leNat x.data < 32 → exec .ueQueueAdvance s = .next (s.readTail y (leNat x.data)))
          ∧ (x.data.length ≠ 16 ∨ 32 ≤ leNat x.data → exec .ueQueueAdvance s = .next drop))
      ∧ (s.endpoint (72 + i) = none → exec .ueQueueAdvance s = .next drop)
      ∧ (∀ n, x.data.length = 24 * n → 1 ≤ n → n ≤ 170 →
          (∀ y, s.endpoint i = some y → exec .ueRewardSend s = .next (s.rewardsIn y x.data))
          ∧ (s.endpoint i = none → exec .ueRewardSend s = .next drop))
      ∧ (x.data.length % 24 ≠ 0 ∨ x.data = [] ∨ 170 * 24 < x.data.length → exec .ueRewardSend s = .next drop))
end

