-- ==== Sys2Proof/Laws/Encoding.lean ====
section
/-! SUPPORT. Laws/Encoding.lean: the fields of an encoded word are the fields it was made of, one lemma for
each format of spec/04_encoding.md R83 to R91 and spec/10_system_clearing_isa.md R250. -/

namespace Sys2Proof

theorem extV_enc (e : ExtV) : Decode.extV (Encode.extV e) = e := by
  obtain ⟨a, b, c, d, e⟩ := e
  simp only [Decode.extV, Encode.extV, ExtV.mk.injEq]
  refine ⟨?_, ?_, ?_, ?_, ?_⟩ <;>
    repeat (first
    | rw [BitVec.extractLsb'_append_eq_of_le (by omega)] | rw [BitVec.extractLsb'_append_eq_of_add_le (by omega)] | simp)

theorem extM_enc (e : ExtM) : Decode.extM (Encode.extM e) = e := by
  obtain ⟨a, b, c, d, e, f, g, h, i, j, k, l⟩ := e
  simp only [Decode.extM, Encode.extM, ExtM.mk.injEq]
  refine ⟨?_, ?_, ?_, ?_, ?_, ?_, ?_, ?_, ?_, ?_, ?_, ?_⟩ <;>
    repeat (first
    | rw [BitVec.extractLsb'_append_eq_of_le (by omega)] | rw [BitVec.extractLsb'_append_eq_of_add_le (by omega)] | simp)

/-- The first word of format V. -/
def Encode.vOpsWord (op : BitVec 7) (o : VOps) : Word := op ++ Encode.xb o.x ++ o.d ++ o.a ++ o.b ++ o.pm

theorem vOps_words (op : BitVec 7) (o : VOps) :
    Encode.vOps op o = Encode.vOpsWord op o :: (o.x.map Encode.extV).toList := rfl

theorem vOps_fields (op : BitVec 7) (o : VOps) : Decode.vOps (Encode.vOpsWord op o) (o.x.map Encode.extV) = o := by
  obtain ⟨d, a, b, pm, x⟩ := o
  simp only [Decode.vOps, Encode.vOpsWord, VOps.mk.injEq]
  refine ⟨?_, ?_, ?_, ?_, ?_⟩ <;>
    repeat (first
    | rw [BitVec.extractLsb'_append_eq_of_le (by omega)] | rw [BitVec.extractLsb'_append_eq_of_add_le (by omega)] | simp)
  cases x <;> simp [extV_enc]

theorem vOps_opcode (op : BitVec 7) (o : VOps) : Decode.opcode (Encode.vOpsWord op o) = op.toNat := by
  simp only [Decode.opcode, Encode.vOpsWord]
  repeat (first
    | rw [BitVec.extractLsb'_append_eq_of_le (by omega)] | rw [BitVec.extractLsb'_append_eq_of_add_le (by omega)] | simp)

theorem vOps_xbit (op : BitVec 7) (o : VOps) : Decode.xbit (Encode.vOpsWord op o) = o.x.isSome := by
  have h : (Encode.vOpsWord op o).getLsbD 24 = (BitVec.extractLsb' 24 1 (Encode.vOpsWord op o)).getLsbD 0 := by simp
  rw [Decode.xbit, h, Encode.vOpsWord]
  rw [show BitVec.extractLsb' 24 1 (op ++ Encode.xb o.x ++ o.d ++ o.a ++ o.b ++ o.pm : Word) = Encode.xb o.x by
    repeat (first
    | rw [BitVec.extractLsb'_append_eq_of_le (by omega)] | rw [BitVec.extractLsb'_append_eq_of_add_le (by omega)] | simp)]
  cases o.x <;> simp [Encode.xb]

/-- The first word of format I. -/
def Encode.iOpsWord (op : BitVec 7) (o : IOps) : Word := op ++ Encode.xb o.x ++ o.d ++ o.a ++ o.imm

theorem iOps_words (op : BitVec 7) (o : IOps) :
    Encode.iOps op o = Encode.iOpsWord op o :: o.x.toList := rfl

theorem iOps_fields (op : BitVec 7) (o : IOps) : Decode.iOps (Encode.iOpsWord op o) o.x = o := by
  obtain ⟨d, a, imm, x⟩ := o
  simp only [Decode.iOps, Encode.iOpsWord, IOps.mk.injEq]
  refine ⟨?_, ?_, ?_, ?_⟩ <;>
    repeat (first
    | rw [BitVec.extractLsb'_append_eq_of_le (by omega)] | rw [BitVec.extractLsb'_append_eq_of_add_le (by omega)] | simp)

theorem iOps_opcode (op : BitVec 7) (o : IOps) : Decode.opcode (Encode.iOpsWord op o) = op.toNat := by
  simp only [Decode.opcode, Encode.iOpsWord]
  repeat (first
    | rw [BitVec.extractLsb'_append_eq_of_le (by omega)] | rw [BitVec.extractLsb'_append_eq_of_add_le (by omega)] | simp)

theorem iOps_xbit (op : BitVec 7) (o : IOps) : Decode.xbit (Encode.iOpsWord op o) = o.x.isSome := by
  have h : (Encode.iOpsWord op o).getLsbD 24 = (BitVec.extractLsb' 24 1 (Encode.iOpsWord op o)).getLsbD 0 := by simp
  rw [Decode.xbit, h, Encode.iOpsWord]
  rw [show BitVec.extractLsb' 24 1 (op ++ Encode.xb o.x ++ o.d ++ o.a ++ o.imm : Word) = Encode.xb o.x by
    repeat (first
    | rw [BitVec.extractLsb'_append_eq_of_le (by omega)] | rw [BitVec.extractLsb'_append_eq_of_add_le (by omega)] | simp)]
  cases o.x <;> simp [Encode.xb]

/-- The first word of format B. -/
def Encode.bOpsWord (op : BitVec 7) (o : BOps) : Word := op ++ Encode.xb o.x ++ o.c ++ o.off

theorem bOps_words (op : BitVec 7) (o : BOps) :
    Encode.bOps op o = Encode.bOpsWord op o :: o.x.toList := rfl

theorem bOps_fields (op : BitVec 7) (o : BOps) : Decode.bOps (Encode.bOpsWord op o) o.x = o := by
  obtain ⟨c, off, x⟩ := o
  simp only [Decode.bOps, Encode.bOpsWord, BOps.mk.injEq]
  refine ⟨?_, ?_, ?_⟩ <;>
    repeat (first
    | rw [BitVec.extractLsb'_append_eq_of_le (by omega)] | rw [BitVec.extractLsb'_append_eq_of_add_le (by omega)] | simp)

theorem bOps_opcode (op : BitVec 7) (o : BOps) : Decode.opcode (Encode.bOpsWord op o) = op.toNat := by
  simp only [Decode.opcode, Encode.bOpsWord]
  repeat (first
    | rw [BitVec.extractLsb'_append_eq_of_le (by omega)] | rw [BitVec.extractLsb'_append_eq_of_add_le (by omega)] | simp)

theorem bOps_xbit (op : BitVec 7) (o : BOps) : Decode.xbit (Encode.bOpsWord op o) = o.x.isSome := by
  have h : (Encode.bOpsWord op o).getLsbD 24 = (BitVec.extractLsb' 24 1 (Encode.bOpsWord op o)).getLsbD 0 := by simp
  rw [Decode.xbit, h, Encode.bOpsWord]
  rw [show BitVec.extractLsb' 24 1 (op ++ Encode.xb o.x ++ o.c ++ o.off : Word) = Encode.xb o.x by
    repeat (first
    | rw [BitVec.extractLsb'_append_eq_of_le (by omega)] | rw [BitVec.extractLsb'_append_eq_of_add_le (by omega)] | simp)]
  cases o.x <;> simp [Encode.xb]

/-- The first word of format E. -/
def Encode.eOpsWord (op : BitVec 7) (o : EOps) : Word := op ++ Encode.xb o.x ++ o.sp ++ o.sub ++ o.k ++ o.m

theorem eOps_words (op : BitVec 7) (o : EOps) :
    Encode.eOps op o = Encode.eOpsWord op o :: o.x.toList := rfl

theorem eOps_fields (op : BitVec 7) (o : EOps) : Decode.eOps (Encode.eOpsWord op o) o.x = o := by
  obtain ⟨sp, sub, k, m, x⟩ := o
  simp only [Decode.eOps, Encode.eOpsWord, EOps.mk.injEq]
  refine ⟨?_, ?_, ?_, ?_, ?_⟩ <;>
    repeat (first
    | rw [BitVec.extractLsb'_append_eq_of_le (by omega)] | rw [BitVec.extractLsb'_append_eq_of_add_le (by omega)] | simp)

theorem eOps_opcode (op : BitVec 7) (o : EOps) : Decode.opcode (Encode.eOpsWord op o) = op.toNat := by
  simp only [Decode.opcode, Encode.eOpsWord]
  repeat (first
    | rw [BitVec.extractLsb'_append_eq_of_le (by omega)] | rw [BitVec.extractLsb'_append_eq_of_add_le (by omega)] | simp)

theorem eOps_xbit (op : BitVec 7) (o : EOps) : Decode.xbit (Encode.eOpsWord op o) = o.x.isSome := by
  have h : (Encode.eOpsWord op o).getLsbD 24 = (BitVec.extractLsb' 24 1 (Encode.eOpsWord op o)).getLsbD 0 := by simp
  rw [Decode.xbit, h, Encode.eOpsWord]
  rw [show BitVec.extractLsb' 24 1 (op ++ Encode.xb o.x ++ o.sp ++ o.sub ++ o.k ++ o.m : Word) = Encode.xb o.x by
    repeat (first
    | rw [BitVec.extractLsb'_append_eq_of_le (by omega)] | rw [BitVec.extractLsb'_append_eq_of_add_le (by omega)] | simp)]
  cases o.x <;> simp [Encode.xb]

/-- The first word of format S. -/
def Encode.sOpsWord (op : BitVec 7) (o : SOps) : Word := op ++ Encode.xb o.x ++ o.sub ++ o.d ++ o.a ++ o.b

theorem sOps_words (op : BitVec 7) (o : SOps) :
    Encode.sOps op o = Encode.sOpsWord op o :: o.x.toList := rfl

theorem sOps_fields (op : BitVec 7) (o : SOps) : Decode.sOps (Encode.sOpsWord op o) o.x = o := by
  obtain ⟨sub, d, a, b, x⟩ := o
  simp only [Decode.sOps, Encode.sOpsWord, SOps.mk.injEq]
  refine ⟨?_, ?_, ?_, ?_, ?_⟩ <;>
    repeat (first
    | rw [BitVec.extractLsb'_append_eq_of_le (by omega)] | rw [BitVec.extractLsb'_append_eq_of_add_le (by omega)] | simp)

theorem sOps_opcode (op : BitVec 7) (o : SOps) : Decode.opcode (Encode.sOpsWord op o) = op.toNat := by
  simp only [Decode.opcode, Encode.sOpsWord]
  repeat (first
    | rw [BitVec.extractLsb'_append_eq_of_le (by omega)] | rw [BitVec.extractLsb'_append_eq_of_add_le (by omega)] | simp)

theorem sOps_xbit (op : BitVec 7) (o : SOps) : Decode.xbit (Encode.sOpsWord op o) = o.x.isSome := by
  have h : (Encode.sOpsWord op o).getLsbD 24 = (BitVec.extractLsb' 24 1 (Encode.sOpsWord op o)).getLsbD 0 := by simp
  rw [Decode.xbit, h, Encode.sOpsWord]
  rw [show BitVec.extractLsb' 24 1 (op ++ Encode.xb o.x ++ o.sub ++ o.d ++ o.a ++ o.b : Word) = Encode.xb o.x by
    repeat (first
    | rw [BitVec.extractLsb'_append_eq_of_le (by omega)] | rw [BitVec.extractLsb'_append_eq_of_add_le (by omega)] | simp)]
  cases o.x <;> simp [Encode.xb]

/-- The first word of format M. -/
def Encode.mOpsWord (op : BitVec 7) (o : MOps) : Word := op ++ Encode.xb o.x ++ o.d ++ o.a ++ o.sz ++ o.off

theorem mOps_words (op : BitVec 7) (o : MOps) :
    Encode.mOps op o = Encode.mOpsWord op o :: (o.x.map Encode.extM).toList := rfl

theorem mOps_fields (op : BitVec 7) (o : MOps) : Decode.mOps (Encode.mOpsWord op o) (o.x.map Encode.extM) = o := by
  obtain ⟨d, a, sz, off, x⟩ := o
  simp only [Decode.mOps, Encode.mOpsWord, MOps.mk.injEq]
  refine ⟨?_, ?_, ?_, ?_, ?_⟩ <;>
    repeat (first
    | rw [BitVec.extractLsb'_append_eq_of_le (by omega)] | rw [BitVec.extractLsb'_append_eq_of_add_le (by omega)] | simp)
  cases x <;> simp [extM_enc]

theorem mOps_opcode (op : BitVec 7) (o : MOps) : Decode.opcode (Encode.mOpsWord op o) = op.toNat := by
  simp only [Decode.opcode, Encode.mOpsWord]
  repeat (first
    | rw [BitVec.extractLsb'_append_eq_of_le (by omega)] | rw [BitVec.extractLsb'_append_eq_of_add_le (by omega)] | simp)

theorem mOps_xbit (op : BitVec 7) (o : MOps) : Decode.xbit (Encode.mOpsWord op o) = o.x.isSome := by
  have h : (Encode.mOpsWord op o).getLsbD 24 = (BitVec.extractLsb' 24 1 (Encode.mOpsWord op o)).getLsbD 0 := by simp
  rw [Decode.xbit, h, Encode.mOpsWord]
  rw [show BitVec.extractLsb' 24 1 (op ++ Encode.xb o.x ++ o.d ++ o.a ++ o.sz ++ o.off : Word) = Encode.xb o.x by
    repeat (first
    | rw [BitVec.extractLsb'_append_eq_of_le (by omega)] | rw [BitVec.extractLsb'_append_eq_of_add_le (by omega)] | simp)]
  cases o.x <;> simp [Encode.xb]

/-- The word of layout 1 of the clearing instructions. -/
def Encode.c1OpsWord (op : BitVec 5) (o : C1Ops) : Word := op ++ o.rd ++ o.ra ++ o.rb ++ o.imm

theorem c1Ops_fields (op : BitVec 5) (o : C1Ops) : Decode.c1Ops (Encode.c1OpsWord op o) = o := by
  obtain ⟨rd, ra, rb, imm⟩ := o
  simp only [Decode.c1Ops, Encode.c1OpsWord, C1Ops.mk.injEq]
  refine ⟨?_, ?_, ?_, ?_⟩ <;>
    repeat (first
    | rw [BitVec.extractLsb'_append_eq_of_le (by omega)] | rw [BitVec.extractLsb'_append_eq_of_add_le (by omega)] | simp)

theorem c1Ops_opcode (op : BitVec 5) (o : C1Ops) : (BitVec.extractLsb' 27 5 (Encode.c1OpsWord op o)).toNat = op.toNat := by
  simp only [Encode.c1OpsWord]
  repeat (first
    | rw [BitVec.extractLsb'_append_eq_of_le (by omega)] | rw [BitVec.extractLsb'_append_eq_of_add_le (by omega)] | simp)

/-- The word of layout 2 of the clearing instructions. -/
def Encode.c2OpsWord (op : BitVec 5) (o : C2Ops) : Word := op ++ o.rd ++ o.imm

theorem c2Ops_fields (op : BitVec 5) (o : C2Ops) : Decode.c2Ops (Encode.c2OpsWord op o) = o := by
  obtain ⟨rd, imm⟩ := o
  simp only [Decode.c2Ops, Encode.c2OpsWord, C2Ops.mk.injEq]
  refine ⟨?_, ?_⟩ <;>
    repeat (first
    | rw [BitVec.extractLsb'_append_eq_of_le (by omega)] | rw [BitVec.extractLsb'_append_eq_of_add_le (by omega)] | simp)

theorem c2Ops_opcode (op : BitVec 5) (o : C2Ops) : (BitVec.extractLsb' 27 5 (Encode.c2OpsWord op o)).toNat = op.toNat := by
  simp only [Encode.c2OpsWord]
  repeat (first
    | rw [BitVec.extractLsb'_append_eq_of_le (by omega)] | rw [BitVec.extractLsb'_append_eq_of_add_le (by omega)] | simp)

/-- A core instruction whose words parse to it and which is well-formed decodes to it. -/
theorem words_round {w : Word} {x : Option Word} {i : Instr} (hx : Decode.xbit w = x.isSome)
    (hp : Decode.parse w x = some i) (hw : i.wf = true) (rest : List Word) :
    Decode.words (w :: x.toList ++ rest) = .ok (i, rest) := by
  have hc : WellFormed.check i = none := by simpa [Instr.wf] using hw
  have hcore : Decode.core w x = .ok i := by simp [Decode.core, hp, hc]
  cases x <;> simp_all [Decode.words]

theorem vOps_round {op : BitVec 7} {o : VOps} {j : Instr}
    (hp : ∀ i b e s m, Decode.ofFields op.toNat o i b e s m = some j) (hw : j.wf = true) (rest : List Word) :
    Decode.words (Encode.vOps op o ++ rest) = .ok (j, rest) := by
  rw [vOps_words]
  exact words_round (by simp [vOps_xbit]) (by rw [Decode.parse, vOps_opcode, vOps_fields]; exact hp ..) hw rest

theorem iOps_round {op : BitVec 7} {o : IOps} {j : Instr}
    (hp : ∀ v b e s m, Decode.ofFields op.toNat v o b e s m = some j) (hw : j.wf = true) (rest : List Word) :
    Decode.words (Encode.iOps op o ++ rest) = .ok (j, rest) := by
  rw [iOps_words]
  exact words_round (by simp [iOps_xbit]) (by rw [Decode.parse, iOps_opcode, iOps_fields]; exact hp ..) hw rest

theorem bOps_round {op : BitVec 7} {o : BOps} {j : Instr}
    (hp : ∀ v i e s m, Decode.ofFields op.toNat v i o e s m = some j) (hw : j.wf = true) (rest : List Word) :
    Decode.words (Encode.bOps op o ++ rest) = .ok (j, rest) := by
  rw [bOps_words]
  exact words_round (by simp [bOps_xbit]) (by rw [Decode.parse, bOps_opcode, bOps_fields]; exact hp ..) hw rest

theorem eOps_round {op : BitVec 7} {o : EOps} {j : Instr}
    (hp : ∀ v i b s m, Decode.ofFields op.toNat v i b o s m = some j) (hw : j.wf = true) (rest : List Word) :
    Decode.words (Encode.eOps op o ++ rest) = .ok (j, rest) := by
  rw [eOps_words]
  exact words_round (by simp [eOps_xbit]) (by rw [Decode.parse, eOps_opcode, eOps_fields]; exact hp ..) hw rest

theorem sOps_round {op : BitVec 7} {o : SOps} {j : Instr}
    (hp : ∀ v i b e m, Decode.ofFields op.toNat v i b e o m = some j) (hw : j.wf = true) (rest : List Word) :
    Decode.words (Encode.sOps op o ++ rest) = .ok (j, rest) := by
  rw [sOps_words]
  exact words_round (by simp [sOps_xbit]) (by rw [Decode.parse, sOps_opcode, sOps_fields]; exact hp ..) hw rest

theorem mOps_round {op : BitVec 7} {o : MOps} {j : Instr}
    (hp : ∀ v i b e s, Decode.ofFields op.toNat v i b e s o = some j) (hw : j.wf = true) (rest : List Word) :
    Decode.words (Encode.mOps op o ++ rest) = .ok (j, rest) := by
  rw [mOps_words]
  exact words_round (by simp [mOps_xbit]) (by rw [Decode.parse, mOps_opcode, mOps_fields]; exact hp ..) hw rest

@[simp] theorem verdict_none (l r : Bool) : WellFormed.verdict l r = none ↔ l = true ∧ r = false := by
  cases l <;> cases r <;> simp [WellFormed.verdict]

/-- A clearing instruction whose word parses to it and which is well-formed decodes to it. -/
theorem clr_round {w : Word} {i : Instr} (hp : Decode.parseClr w = some i) (hw : i.wf = true) :
    Decode.clr w = .ok i := by
  simp_all [Decode.clr, Instr.wf]

theorem c1Ops_round {op : BitVec 5} {o : C1Ops} {j : Instr} (hp : ∀ k, Decode.ofClrFields op.toNat o k = some j)
    (hw : j.wf = true) : Decode.clr (Encode.c1OpsWord op o) = .ok j :=
  clr_round (by rw [Decode.parseClr, c1Ops_opcode, c1Ops_fields]; exact hp _) hw

theorem c2Ops_round {op : BitVec 5} {o : C2Ops} {j : Instr} (hp : ∀ c, Decode.ofClrFields op.toNat c o = some j)
    (hw : j.wf = true) : Decode.clr (Encode.c2OpsWord op o) = .ok j :=
  clr_round (by rw [Decode.parseClr, c2Ops_opcode, c2Ops_fields]; exact hp _) hw

end Sys2Proof
end

