-- ==== Sys2Proof/Laws/State.lean ====
section
/-! SUPPORT. Laws/State.lean: finite maps after an update, and what each named update of the state leaves alone: one
lemma for each field. -/

set_option Elab.async false

namespace Sys2Proof.Machine

/-! ### Finite maps -/

theorem fget_ferase_self {α : Type} (d : α) (m : FMap α) (k : Nat) : fget d (ferase m k) k = d := by
  induction m with
  | nil => rfl
  | cons x m ih =>
    obtain ⟨k', v⟩ := x
    by_cases h : k' = k <;> simp [ferase, fget, h, ih]

theorem fget_ferase_ne {α : Type} (d : α) (m : FMap α) {k j : Nat} (hj : j ≠ k) :
    fget d (ferase m k) j = fget d m j := by
  induction m with
  | nil => rfl
  | cons x m ih =>
    obtain ⟨k', v⟩ := x
    by_cases h : k' = k
    · simp [ferase, fget, h, ih, hj.symm]
    · simp only [ferase, h, if_false, fget, ih]

theorem fget_finsert_ne {α : Type} (d : α) (m : FMap α) {k j : Nat} (v : α) (hj : j ≠ k) :
    fget d (finsert k v m) j = fget d m j := by
  induction m with
  | nil => simp [finsert, fget, hj.symm]
  | cons x m ih =>
    obtain ⟨k', v'⟩ := x
    by_cases h : k < k'
    · simp only [finsert, h, if_true, fget, hj.symm, if_false]
    · simp only [finsert, h, if_false, fget, ih]

theorem fget_finsert_erased {α : Type} (d : α) (m : FMap α) (k : Nat) (v : α) :
    fget d (finsert k v (ferase m k)) k = v := by
  induction m with
  | nil => simp [finsert, fget, ferase]
  | cons x m ih =>
    obtain ⟨k', v'⟩ := x
    by_cases h : k' = k
    · simpa [ferase, h] using ih
    · by_cases h' : k < k' <;> simp [ferase, finsert, fget, h, h', ih]

@[simp] theorem fget_fset_self {α : Type} (d : α) (m : FMap α) (k : Nat) (v : α) : fget d (fset m k v) k = v :=
  fget_finsert_erased d m k v

theorem fget_fset_ne {α : Type} (d : α) (m : FMap α) {k j : Nat} (v : α) (hj : j ≠ k) :
    fget d (fset m k v) j = fget d m j := by
  rw [fset, fget_finsert_ne d _ v hj, fget_ferase_ne d m hj]

theorem fget_fset {α : Type} (d : α) (m : FMap α) (k j : Nat) (v : α) :
    fget d (fset m k v) j = if j = k then v else fget d m j := by
  split
  · subst_vars; simp
  · exact fget_fset_ne d m v ‹_›

theorem ferase_finsert_erased {α : Type} (m : FMap α) (k : Nat) (v : α) : ferase (finsert k v (ferase m k)) k = ferase m k := by
  induction m with
  | nil => simp [finsert, ferase]
  | cons x m ih =>
    obtain ⟨k', v'⟩ := x
    by_cases h : k' = k
    · simpa [ferase, h] using ih
    · have e : ferase (ferase m k) k = ferase m k := by
        clear ih
        induction m with
        | nil => rfl
        | cons y m ih => obtain ⟨j, u⟩ := y; by_cases g : j = k <;> simp [ferase, g, ih]
      by_cases h' : k < k' <;> simp [ferase, finsert, h, h', ih, e]

/-- The last of two settings of one key stands. -/
@[simp] theorem fset_fset {α : Type} (m : FMap α) (k : Nat) (v w : α) : fset (fset m k v) k w = fset m k w := by
  simp only [fset, ferase_finsert_erased]

/-! ### Parts of the state after an update -/

@[simp] theorem core_setCore (s : State) (c : Nat) (k : Core) : (s.setCore c k).core c = k := by
  simp [State.core, State.setCore]
theorem core_setCore_ne (s : State) {c e : Nat} (k : Core) (h : e ≠ c) : (s.setCore c k).core e = s.core e := by
  simp [State.core, State.setCore, fget_fset_ne, h]
@[simp] theorem core_updCore (s : State) (c : Nat) (f : Core → Core) : (s.updCore c f).core c = f (s.core c) := by
  simp [State.updCore]
@[simp] theorem warp_setWarp (k : Core) (w : Nat) (x : Warp) : (k.setWarp w x).warp w = x := by
  simp [Core.warp, Core.setWarp]
theorem warp_setWarp_ne (k : Core) {w v : Nat} (x : Warp) (h : v ≠ w) : (k.setWarp w x).warp v = k.warp v := by
  simp [Core.warp, Core.setWarp, fget_fset_ne, h]
@[simp] theorem warpAt_setWarpAt (s : State) (c w : Nat) (x : Warp) : (s.setWarpAt c w x).warpAt c w = x := by
  simp [State.warpAt, State.setWarpAt]
theorem warpAt_setWarpAt_ne (s : State) {c w e v : Nat} (x : Warp) (h : e ≠ c ∨ v ≠ w) :
    (s.setWarpAt c w x).warpAt e v = s.warpAt e v := by
  by_cases he : e = c
  · subst he
    simp [State.warpAt, State.setWarpAt, State.updCore]
    exact warp_setWarp_ne _ _ (by simpa using h)
  · simp [State.warpAt, State.setWarpAt, State.updCore, core_setCore_ne _ _ he]
@[simp] theorem warpAt_updWarpAt (s : State) (c w : Nat) (f : Warp → Warp) :
    (s.updWarpAt c w f).warpAt c w = f (s.warpAt c w) := by simp [State.updWarpAt]
@[simp] theorem cur_setWarp (s : State) (x : Warp) : (s.setWarp x).cur = s.cur := rfl
@[simp] theorem warp_setWarp' (s : State) (x : Warp) : (s.setWarp x).warp = x := by
  simp only [State.warp, cur_setWarp]
  simp [State.setWarp]
@[simp] theorem warp_updWarp (s : State) (f : Warp → Warp) : (s.updWarp f).warp = f s.warp := by simp [State.updWarp]
@[simp] theorem die_updDie (s : State) (d : Nat) (f : Die → Die) : (s.updDie d f).die d = f (s.die d) := by
  simp [State.die, State.updDie]
@[simp] theorem port_updPort (s : State) (p : Nat) (f : Port → Port) : (s.updPort p f).port p = f (s.port p) := by
  simp [State.port, State.updPort]
@[simp] theorem tenant_updTenant (s : State) (t : Nat) (f : Tenant → Tenant) :
    (s.updTenant t f).tenant t = f (s.tenant t) := by simp [State.tenant, State.updTenant]
@[simp] theorem wg_updWg (s : State) (g : Nat) (f : Wg → Wg) : (s.updWg g f).wg g = f (s.wg g) := by
  simp [State.wg, State.updWg]
@[simp] theorem thread_setThread (w : Warp) (l : Nat) (t : Thread) : (w.setThread l t).thread l = t := by
  simp [Warp.thread, Warp.setThread]
theorem thread_setThread_ne (w : Warp) {l j : Nat} (t : Thread) (h : j ≠ l) :
    (w.setThread l t).thread j = w.thread j := by simp [Warp.thread, Warp.setThread, fget_fset_ne, h]
@[simp] theorem thread_updThread (w : Warp) (l : Nat) (f : Thread → Thread) :
    (w.updThread l f).thread l = f (w.thread l) := by simp [Warp.updThread]

/-! ### Fields that an update does not name -/

@[simp] theorem setCore_agenda (s : State) (c : Nat) (k : Core) : (s.setCore c k).agenda = s.agenda := rfl
@[simp] theorem setCore_cur (s : State) (c : Nat) (k : Core) : (s.setCore c k).cur = s.cur := rfl
@[simp] theorem setCore_arg (s : State) (c : Nat) (k : Core) : (s.setCore c k).arg = s.arg := rfl
@[simp] theorem setCore_flow (s : State) (c : Nat) (k : Core) : (s.setCore c k).flow = s.flow := rfl
@[simp] theorem setCore_fresh (s : State) (c : Nat) (k : Core) : (s.setCore c k).fresh = s.fresh := rfl
@[simp] theorem setCore_nextId (s : State) (c : Nat) (k : Core) : (s.setCore c k).nextId = s.nextId := rfl
@[simp] theorem setCore_dev (s : State) (c : Nat) (k : Core) : (s.setCore c k).dev = s.dev := rfl
@[simp] theorem setCore_joined (s : State) (c : Nat) (k : Core) : (s.setCore c k).joined = s.joined := rfl
@[simp] theorem setCore_flat (s : State) (c : Nat) (k : Core) : (s.setCore c k).flat = s.flat := rfl
@[simp] theorem setCore_mem (s : State) (c : Nat) (k : Core) : (s.setCore c k).mem = s.mem := rfl
@[simp] theorem setCore_full (s : State) (c : Nat) (k : Core) : (s.setCore c k).full = s.full := rfl
@[simp] theorem setCore_ldfq (s : State) (c : Nat) (k : Core) : (s.setCore c k).ldfq = s.ldfq := rfl
@[simp] theorem setCore_errs (s : State) (c : Nat) (k : Core) : (s.setCore c k).errs = s.errs := rfl
@[simp] theorem setCore_spare (s : State) (c : Nat) (k : Core) : (s.setCore c k).spare = s.spare := rfl
@[simp] theorem setCore_dies (s : State) (c : Nat) (k : Core) : (s.setCore c k).dies = s.dies := rfl
@[simp] theorem setCore_ports (s : State) (c : Nat) (k : Core) : (s.setCore c k).ports = s.ports := rfl
@[simp] theorem setCore_planes (s : State) (c : Nat) (k : Core) : (s.setCore c k).planes = s.planes := rfl
@[simp] theorem setCore_booted (s : State) (c : Nat) (k : Core) : (s.setCore c k).booted = s.booted := rfl
@[simp] theorem setCore_walks (s : State) (c : Nat) (k : Core) : (s.setCore c k).walks = s.walks := rfl
@[simp] theorem setCore_tenants (s : State) (c : Nat) (k : Core) : (s.setCore c k).tenants = s.tenants := rfl
@[simp] theorem setCore_placed (s : State) (c : Nat) (k : Core) : (s.setCore c k).placed = s.placed := rfl
@[simp] theorem setCore_rrTenant (s : State) (c : Nat) (k : Core) : (s.setCore c k).rrTenant = s.rrTenant := rfl
@[simp] theorem setCore_launches (s : State) (c : Nat) (k : Core) : (s.setCore c k).launches = s.launches := rfl
@[simp] theorem setCore_wgs (s : State) (c : Nat) (k : Core) : (s.setCore c k).wgs = s.wgs := rfl
@[simp] theorem setCore_outCores (s : State) (c : Nat) (k : Core) : (s.setCore c k).outCores = s.outCores := rfl
@[simp] theorem setCore_episodes (s : State) (c : Nat) (k : Core) : (s.setCore c k).episodes = s.episodes := rfl
@[simp] theorem setCore_joinedQ (s : State) (c : Nat) (k : Core) : (s.setCore c k).joinedQ = s.joinedQ := rfl
@[simp] theorem setCore_escrow (s : State) (c : Nat) (k : Core) : (s.setCore c k).escrow = s.escrow := rfl
@[simp] theorem setCore_rewardsOut (s : State) (c : Nat) (k : Core) : (s.setCore c k).rewardsOut = s.rewardsOut := rfl
@[simp] theorem setCore_joinCycle (s : State) (c : Nat) (k : Core) : (s.setCore c k).joinCycle = s.joinCycle := rfl
@[simp] theorem setCore_msgs (s : State) (c : Nat) (k : Core) : (s.setCore c k).msgs = s.msgs := rfl
@[simp] theorem setCore_groups (s : State) (c : Nat) (k : Core) : (s.setCore c k).groups = s.groups := rfl
@[simp] theorem setCore_resids (s : State) (c : Nat) (k : Core) : (s.setCore c k).resids = s.resids := rfl
@[simp] theorem setCore_slots (s : State) (c : Nat) (k : Core) : (s.setCore c k).slots = s.slots := rfl
@[simp] theorem setCore_pushes (s : State) (c : Nat) (k : Core) : (s.setCore c k).pushes = s.pushes := rfl
@[simp] theorem setCore_ctxs (s : State) (c : Nat) (k : Core) : (s.setCore c k).ctxs = s.ctxs := rfl
@[simp] theorem setCore_targets (s : State) (c : Nat) (k : Core) : (s.setCore c k).targets = s.targets := rfl
@[simp] theorem setCore_lost (s : State) (c : Nat) (k : Core) : (s.setCore c k).lost = s.lost := rfl
@[simp] theorem setCore_domain (s : State) (c : Nat) (k : Core) : (s.setCore c k).domain = s.domain := rfl
@[simp] theorem setCore_recs (s : State) (c : Nat) (k : Core) : (s.setCore c k).recs = s.recs := rfl
@[simp] theorem setCore_mint (s : State) (c : Nat) (k : Core) : (s.setCore c k).mint = s.mint := rfl
@[simp] theorem setCore_power (s : State) (c : Nat) (k : Core) : (s.setCore c k).power = s.power := rfl
@[simp] theorem setCore_sysBase (s : State) (c : Nat) (k : Core) : (s.setCore c k).sysBase = s.sysBase := rfl
@[simp] theorem setCore_sysSize (s : State) (c : Nat) (k : Core) : (s.setCore c k).sysSize = s.sysSize := rfl
@[simp] theorem setCore_scrub (s : State) (c : Nat) (k : Core) : (s.setCore c k).scrub = s.scrub := rfl
@[simp] theorem setCore_log_ (s : State) (c : Nat) (k : Core) : (s.setCore c k).log_ = s.log_ := rfl
@[simp] theorem setCore_hubEv (s : State) (c : Nat) (k : Core) : (s.setCore c k).hubEv = s.hubEv := rfl
@[simp] theorem setCore_entrySvc (s : State) (c : Nat) (k : Core) : (s.setCore c k).entrySvc = s.entrySvc := rfl
@[simp] theorem setCore_entrySave (s : State) (c : Nat) (k : Core) : (s.setCore c k).entrySave = s.entrySave := rfl
@[simp] theorem setCore_entryRestore (s : State) (c : Nat) (k : Core) : (s.setCore c k).entryRestore = s.entryRestore := rfl
@[simp] theorem setCore_sys (s : State) (c : Nat) (k : Core) : (s.setCore c k).sys = s.sys := rfl
@[simp] theorem setCore_refused (s : State) (c : Nat) (k : Core) : (s.setCore c k).refused = s.refused := rfl
@[simp] theorem setCore_ueOut (s : State) (c : Nat) (k : Core) : (s.setCore c k).ueOut = s.ueOut := rfl
@[simp] theorem setCore_utfortSt (s : State) (c : Nat) (k : Core) : (s.setCore c k).utfortSt = s.utfortSt := rfl
@[simp] theorem setCore_ueWins (s : State) (c : Nat) (k : Core) : (s.setCore c k).ueWins = s.ueWins := rfl
@[simp] theorem setCore_uePorts (s : State) (c : Nat) (k : Core) : (s.setCore c k).uePorts = s.uePorts := rfl
@[simp] theorem setCore_fetched (s : State) (c : Nat) (k : Core) : (s.setCore c k).fetched = s.fetched := rfl
@[simp] theorem setCore_fetchBad (s : State) (c : Nat) (k : Core) : (s.setCore c k).fetchBad = s.fetchBad := rfl
@[simp] theorem setCore_swOwned (s : State) (c : Nat) (k : Core) : (s.setCore c k).swOwned = s.swOwned := rfl
@[simp] theorem setCore_swAsked (s : State) (c : Nat) (k : Core) : (s.setCore c k).swAsked = s.swAsked := rfl
@[simp] theorem setCore_errCnt (s : State) (c : Nat) (k : Core) : (s.setCore c k).errCnt = s.errCnt := rfl
@[simp] theorem setCore_told (s : State) (c : Nat) (k : Core) : (s.setCore c k).told = s.told := rfl
@[simp] theorem setCore_hubCycle (s : State) (c : Nat) (k : Core) : (s.setCore c k).hubCycle = s.hubCycle := rfl
@[simp] theorem updCore_agenda (s : State) (c : Nat) (f : Core → Core) : (s.updCore c f).agenda = s.agenda := rfl
@[simp] theorem updCore_cur (s : State) (c : Nat) (f : Core → Core) : (s.updCore c f).cur = s.cur := rfl
@[simp] theorem updCore_arg (s : State) (c : Nat) (f : Core → Core) : (s.updCore c f).arg = s.arg := rfl
@[simp] theorem updCore_flow (s : State) (c : Nat) (f : Core → Core) : (s.updCore c f).flow = s.flow := rfl
@[simp] theorem updCore_fresh (s : State) (c : Nat) (f : Core → Core) : (s.updCore c f).fresh = s.fresh := rfl
@[simp] theorem updCore_nextId (s : State) (c : Nat) (f : Core → Core) : (s.updCore c f).nextId = s.nextId := rfl
@[simp] theorem updCore_dev (s : State) (c : Nat) (f : Core → Core) : (s.updCore c f).dev = s.dev := rfl
@[simp] theorem updCore_joined (s : State) (c : Nat) (f : Core → Core) : (s.updCore c f).joined = s.joined := rfl
@[simp] theorem updCore_flat (s : State) (c : Nat) (f : Core → Core) : (s.updCore c f).flat = s.flat := rfl
@[simp] theorem updCore_mem (s : State) (c : Nat) (f : Core → Core) : (s.updCore c f).mem = s.mem := rfl
@[simp] theorem updCore_full (s : State) (c : Nat) (f : Core → Core) : (s.updCore c f).full = s.full := rfl
@[simp] theorem updCore_ldfq (s : State) (c : Nat) (f : Core → Core) : (s.updCore c f).ldfq = s.ldfq := rfl
@[simp] theorem updCore_errs (s : State) (c : Nat) (f : Core → Core) : (s.updCore c f).errs = s.errs := rfl
@[simp] theorem updCore_spare (s : State) (c : Nat) (f : Core → Core) : (s.updCore c f).spare = s.spare := rfl
@[simp] theorem updCore_dies (s : State) (c : Nat) (f : Core → Core) : (s.updCore c f).dies = s.dies := rfl
@[simp] theorem updCore_ports (s : State) (c : Nat) (f : Core → Core) : (s.updCore c f).ports = s.ports := rfl
@[simp] theorem updCore_planes (s : State) (c : Nat) (f : Core → Core) : (s.updCore c f).planes = s.planes := rfl
@[simp] theorem updCore_booted (s : State) (c : Nat) (f : Core → Core) : (s.updCore c f).booted = s.booted := rfl
@[simp] theorem updCore_walks (s : State) (c : Nat) (f : Core → Core) : (s.updCore c f).walks = s.walks := rfl
@[simp] theorem updCore_tenants (s : State) (c : Nat) (f : Core → Core) : (s.updCore c f).tenants = s.tenants := rfl
@[simp] theorem updCore_placed (s : State) (c : Nat) (f : Core → Core) : (s.updCore c f).placed = s.placed := rfl
@[simp] theorem updCore_rrTenant (s : State) (c : Nat) (f : Core → Core) : (s.updCore c f).rrTenant = s.rrTenant := rfl
@[simp] theorem updCore_launches (s : State) (c : Nat) (f : Core → Core) : (s.updCore c f).launches = s.launches := rfl
@[simp] theorem updCore_wgs (s : State) (c : Nat) (f : Core → Core) : (s.updCore c f).wgs = s.wgs := rfl
@[simp] theorem updCore_outCores (s : State) (c : Nat) (f : Core → Core) : (s.updCore c f).outCores = s.outCores := rfl
@[simp] theorem updCore_episodes (s : State) (c : Nat) (f : Core → Core) : (s.updCore c f).episodes = s.episodes := rfl
@[simp] theorem updCore_joinedQ (s : State) (c : Nat) (f : Core → Core) : (s.updCore c f).joinedQ = s.joinedQ := rfl
@[simp] theorem updCore_escrow (s : State) (c : Nat) (f : Core → Core) : (s.updCore c f).escrow = s.escrow := rfl
@[simp] theorem updCore_rewardsOut (s : State) (c : Nat) (f : Core → Core) : (s.updCore c f).rewardsOut = s.rewardsOut := rfl
@[simp] theorem updCore_joinCycle (s : State) (c : Nat) (f : Core → Core) : (s.updCore c f).joinCycle = s.joinCycle := rfl
@[simp] theorem updCore_msgs (s : State) (c : Nat) (f : Core → Core) : (s.updCore c f).msgs = s.msgs := rfl
@[simp] theorem updCore_groups (s : State) (c : Nat) (f : Core → Core) : (s.updCore c f).groups = s.groups := rfl
@[simp] theorem updCore_resids (s : State) (c : Nat) (f : Core → Core) : (s.updCore c f).resids = s.resids := rfl
@[simp] theorem updCore_slots (s : State) (c : Nat) (f : Core → Core) : (s.updCore c f).slots = s.slots := rfl
@[simp] theorem updCore_pushes (s : State) (c : Nat) (f : Core → Core) : (s.updCore c f).pushes = s.pushes := rfl
@[simp] theorem updCore_ctxs (s : State) (c : Nat) (f : Core → Core) : (s.updCore c f).ctxs = s.ctxs := rfl
@[simp] theorem updCore_targets (s : State) (c : Nat) (f : Core → Core) : (s.updCore c f).targets = s.targets := rfl
@[simp] theorem updCore_lost (s : State) (c : Nat) (f : Core → Core) : (s.updCore c f).lost = s.lost := rfl
@[simp] theorem updCore_domain (s : State) (c : Nat) (f : Core → Core) : (s.updCore c f).domain = s.domain := rfl
@[simp] theorem updCore_recs (s : State) (c : Nat) (f : Core → Core) : (s.updCore c f).recs = s.recs := rfl
@[simp] theorem updCore_mint (s : State) (c : Nat) (f : Core → Core) : (s.updCore c f).mint = s.mint := rfl
@[simp] theorem updCore_power (s : State) (c : Nat) (f : Core → Core) : (s.updCore c f).power = s.power := rfl
@[simp] theorem updCore_sysBase (s : State) (c : Nat) (f : Core → Core) : (s.updCore c f).sysBase = s.sysBase := rfl
@[simp] theorem updCore_sysSize (s : State) (c : Nat) (f : Core → Core) : (s.updCore c f).sysSize = s.sysSize := rfl
@[simp] theorem updCore_scrub (s : State) (c : Nat) (f : Core → Core) : (s.updCore c f).scrub = s.scrub := rfl
@[simp] theorem updCore_log_ (s : State) (c : Nat) (f : Core → Core) : (s.updCore c f).log_ = s.log_ := rfl
@[simp] theorem updCore_hubEv (s : State) (c : Nat) (f : Core → Core) : (s.updCore c f).hubEv = s.hubEv := rfl
@[simp] theorem updCore_entrySvc (s : State) (c : Nat) (f : Core → Core) : (s.updCore c f).entrySvc = s.entrySvc := rfl
@[simp] theorem updCore_entrySave (s : State) (c : Nat) (f : Core → Core) : (s.updCore c f).entrySave = s.entrySave := rfl
@[simp] theorem updCore_entryRestore (s : State) (c : Nat) (f : Core → Core) : (s.updCore c f).entryRestore = s.entryRestore := rfl
@[simp] theorem updCore_sys (s : State) (c : Nat) (f : Core → Core) : (s.updCore c f).sys = s.sys := rfl
@[simp] theorem updCore_refused (s : State) (c : Nat) (f : Core → Core) : (s.updCore c f).refused = s.refused := rfl
@[simp] theorem updCore_ueOut (s : State) (c : Nat) (f : Core → Core) : (s.updCore c f).ueOut = s.ueOut := rfl
@[simp] theorem updCore_utfortSt (s : State) (c : Nat) (f : Core → Core) : (s.updCore c f).utfortSt = s.utfortSt := rfl
@[simp] theorem updCore_ueWins (s : State) (c : Nat) (f : Core → Core) : (s.updCore c f).ueWins = s.ueWins := rfl
@[simp] theorem updCore_uePorts (s : State) (c : Nat) (f : Core → Core) : (s.updCore c f).uePorts = s.uePorts := rfl
@[simp] theorem updCore_fetched (s : State) (c : Nat) (f : Core → Core) : (s.updCore c f).fetched = s.fetched := rfl
@[simp] theorem updCore_fetchBad (s : State) (c : Nat) (f : Core → Core) : (s.updCore c f).fetchBad = s.fetchBad := rfl
@[simp] theorem updCore_swOwned (s : State) (c : Nat) (f : Core → Core) : (s.updCore c f).swOwned = s.swOwned := rfl
@[simp] theorem updCore_swAsked (s : State) (c : Nat) (f : Core → Core) : (s.updCore c f).swAsked = s.swAsked := rfl
@[simp] theorem updCore_errCnt (s : State) (c : Nat) (f : Core → Core) : (s.updCore c f).errCnt = s.errCnt := rfl
@[simp] theorem updCore_told (s : State) (c : Nat) (f : Core → Core) : (s.updCore c f).told = s.told := rfl
@[simp] theorem updCore_hubCycle (s : State) (c : Nat) (f : Core → Core) : (s.updCore c f).hubCycle = s.hubCycle := rfl
@[simp] theorem setWarpAt_agenda (s : State) (c w : Nat) (x : Warp) : (s.setWarpAt c w x).agenda = s.agenda := rfl
@[simp] theorem setWarpAt_cur (s : State) (c w : Nat) (x : Warp) : (s.setWarpAt c w x).cur = s.cur := rfl
@[simp] theorem setWarpAt_arg (s : State) (c w : Nat) (x : Warp) : (s.setWarpAt c w x).arg = s.arg := rfl
@[simp] theorem setWarpAt_flow (s : State) (c w : Nat) (x : Warp) : (s.setWarpAt c w x).flow = s.flow := rfl
@[simp] theorem setWarpAt_fresh (s : State) (c w : Nat) (x : Warp) : (s.setWarpAt c w x).fresh = s.fresh := rfl
@[simp] theorem setWarpAt_nextId (s : State) (c w : Nat) (x : Warp) : (s.setWarpAt c w x).nextId = s.nextId := rfl
@[simp] theorem setWarpAt_dev (s : State) (c w : Nat) (x : Warp) : (s.setWarpAt c w x).dev = s.dev := rfl
@[simp] theorem setWarpAt_joined (s : State) (c w : Nat) (x : Warp) : (s.setWarpAt c w x).joined = s.joined := rfl
@[simp] theorem setWarpAt_flat (s : State) (c w : Nat) (x : Warp) : (s.setWarpAt c w x).flat = s.flat := rfl
@[simp] theorem setWarpAt_mem (s : State) (c w : Nat) (x : Warp) : (s.setWarpAt c w x).mem = s.mem := rfl
@[simp] theorem setWarpAt_full (s : State) (c w : Nat) (x : Warp) : (s.setWarpAt c w x).full = s.full := rfl
@[simp] theorem setWarpAt_ldfq (s : State) (c w : Nat) (x : Warp) : (s.setWarpAt c w x).ldfq = s.ldfq := rfl
@[simp] theorem setWarpAt_errs (s : State) (c w : Nat) (x : Warp) : (s.setWarpAt c w x).errs = s.errs := rfl
@[simp] theorem setWarpAt_spare (s : State) (c w : Nat) (x : Warp) : (s.setWarpAt c w x).spare = s.spare := rfl
@[simp] theorem setWarpAt_dies (s : State) (c w : Nat) (x : Warp) : (s.setWarpAt c w x).dies = s.dies := rfl
@[simp] theorem setWarpAt_ports (s : State) (c w : Nat) (x : Warp) : (s.setWarpAt c w x).ports = s.ports := rfl
@[simp] theorem setWarpAt_planes (s : State) (c w : Nat) (x : Warp) : (s.setWarpAt c w x).planes = s.planes := rfl
@[simp] theorem setWarpAt_booted (s : State) (c w : Nat) (x : Warp) : (s.setWarpAt c w x).booted = s.booted := rfl
@[simp] theorem setWarpAt_walks (s : State) (c w : Nat) (x : Warp) : (s.setWarpAt c w x).walks = s.walks := rfl
@[simp] theorem setWarpAt_tenants (s : State) (c w : Nat) (x : Warp) : (s.setWarpAt c w x).tenants = s.tenants := rfl
@[simp] theorem setWarpAt_placed (s : State) (c w : Nat) (x : Warp) : (s.setWarpAt c w x).placed = s.placed := rfl
@[simp] theorem setWarpAt_rrTenant (s : State) (c w : Nat) (x : Warp) : (s.setWarpAt c w x).rrTenant = s.rrTenant := rfl
@[simp] theorem setWarpAt_launches (s : State) (c w : Nat) (x : Warp) : (s.setWarpAt c w x).launches = s.launches := rfl
@[simp] theorem setWarpAt_wgs (s : State) (c w : Nat) (x : Warp) : (s.setWarpAt c w x).wgs = s.wgs := rfl
@[simp] theorem setWarpAt_outCores (s : State) (c w : Nat) (x : Warp) : (s.setWarpAt c w x).outCores = s.outCores := rfl
@[simp] theorem setWarpAt_episodes (s : State) (c w : Nat) (x : Warp) : (s.setWarpAt c w x).episodes = s.episodes := rfl
@[simp] theorem setWarpAt_joinedQ (s : State) (c w : Nat) (x : Warp) : (s.setWarpAt c w x).joinedQ = s.joinedQ := rfl
@[simp] theorem setWarpAt_escrow (s : State) (c w : Nat) (x : Warp) : (s.setWarpAt c w x).escrow = s.escrow := rfl
@[simp] theorem setWarpAt_rewardsOut (s : State) (c w : Nat) (x : Warp) : (s.setWarpAt c w x).rewardsOut = s.rewardsOut := rfl
@[simp] theorem setWarpAt_joinCycle (s : State) (c w : Nat) (x : Warp) : (s.setWarpAt c w x).joinCycle = s.joinCycle := rfl
@[simp] theorem setWarpAt_msgs (s : State) (c w : Nat) (x : Warp) : (s.setWarpAt c w x).msgs = s.msgs := rfl
@[simp] theorem setWarpAt_groups (s : State) (c w : Nat) (x : Warp) : (s.setWarpAt c w x).groups = s.groups := rfl
@[simp] theorem setWarpAt_resids (s : State) (c w : Nat) (x : Warp) : (s.setWarpAt c w x).resids = s.resids := rfl
@[simp] theorem setWarpAt_slots (s : State) (c w : Nat) (x : Warp) : (s.setWarpAt c w x).slots = s.slots := rfl
@[simp] theorem setWarpAt_pushes (s : State) (c w : Nat) (x : Warp) : (s.setWarpAt c w x).pushes = s.pushes := rfl
@[simp] theorem setWarpAt_ctxs (s : State) (c w : Nat) (x : Warp) : (s.setWarpAt c w x).ctxs = s.ctxs := rfl
@[simp] theorem setWarpAt_targets (s : State) (c w : Nat) (x : Warp) : (s.setWarpAt c w x).targets = s.targets := rfl
@[simp] theorem setWarpAt_lost (s : State) (c w : Nat) (x : Warp) : (s.setWarpAt c w x).lost = s.lost := rfl
@[simp] theorem setWarpAt_domain (s : State) (c w : Nat) (x : Warp) : (s.setWarpAt c w x).domain = s.domain := rfl
@[simp] theorem setWarpAt_recs (s : State) (c w : Nat) (x : Warp) : (s.setWarpAt c w x).recs = s.recs := rfl
@[simp] theorem setWarpAt_mint (s : State) (c w : Nat) (x : Warp) : (s.setWarpAt c w x).mint = s.mint := rfl
@[simp] theorem setWarpAt_power (s : State) (c w : Nat) (x : Warp) : (s.setWarpAt c w x).power = s.power := rfl
@[simp] theorem setWarpAt_sysBase (s : State) (c w : Nat) (x : Warp) : (s.setWarpAt c w x).sysBase = s.sysBase := rfl
@[simp] theorem setWarpAt_sysSize (s : State) (c w : Nat) (x : Warp) : (s.setWarpAt c w x).sysSize = s.sysSize := rfl
@[simp] theorem setWarpAt_scrub (s : State) (c w : Nat) (x : Warp) : (s.setWarpAt c w x).scrub = s.scrub := rfl
@[simp] theorem setWarpAt_log_ (s : State) (c w : Nat) (x : Warp) : (s.setWarpAt c w x).log_ = s.log_ := rfl
@[simp] theorem setWarpAt_hubEv (s : State) (c w : Nat) (x : Warp) : (s.setWarpAt c w x).hubEv = s.hubEv := rfl
@[simp] theorem setWarpAt_entrySvc (s : State) (c w : Nat) (x : Warp) : (s.setWarpAt c w x).entrySvc = s.entrySvc := rfl
@[simp] theorem setWarpAt_entrySave (s : State) (c w : Nat) (x : Warp) : (s.setWarpAt c w x).entrySave = s.entrySave := rfl
@[simp] theorem setWarpAt_entryRestore (s : State) (c w : Nat) (x : Warp) : (s.setWarpAt c w x).entryRestore = s.entryRestore := rfl
@[simp] theorem setWarpAt_sys (s : State) (c w : Nat) (x : Warp) : (s.setWarpAt c w x).sys = s.sys := rfl
@[simp] theorem setWarpAt_refused (s : State) (c w : Nat) (x : Warp) : (s.setWarpAt c w x).refused = s.refused := rfl
@[simp] theorem setWarpAt_ueOut (s : State) (c w : Nat) (x : Warp) : (s.setWarpAt c w x).ueOut = s.ueOut := rfl
@[simp] theorem setWarpAt_utfortSt (s : State) (c w : Nat) (x : Warp) : (s.setWarpAt c w x).utfortSt = s.utfortSt := rfl
@[simp] theorem setWarpAt_ueWins (s : State) (c w : Nat) (x : Warp) : (s.setWarpAt c w x).ueWins = s.ueWins := rfl
@[simp] theorem setWarpAt_uePorts (s : State) (c w : Nat) (x : Warp) : (s.setWarpAt c w x).uePorts = s.uePorts := rfl
@[simp] theorem setWarpAt_fetched (s : State) (c w : Nat) (x : Warp) : (s.setWarpAt c w x).fetched = s.fetched := rfl
@[simp] theorem setWarpAt_fetchBad (s : State) (c w : Nat) (x : Warp) : (s.setWarpAt c w x).fetchBad = s.fetchBad := rfl
@[simp] theorem setWarpAt_swOwned (s : State) (c w : Nat) (x : Warp) : (s.setWarpAt c w x).swOwned = s.swOwned := rfl
@[simp] theorem setWarpAt_swAsked (s : State) (c w : Nat) (x : Warp) : (s.setWarpAt c w x).swAsked = s.swAsked := rfl
@[simp] theorem setWarpAt_errCnt (s : State) (c w : Nat) (x : Warp) : (s.setWarpAt c w x).errCnt = s.errCnt := rfl
@[simp] theorem setWarpAt_told (s : State) (c w : Nat) (x : Warp) : (s.setWarpAt c w x).told = s.told := rfl
@[simp] theorem setWarpAt_hubCycle (s : State) (c w : Nat) (x : Warp) : (s.setWarpAt c w x).hubCycle = s.hubCycle := rfl
@[simp] theorem updWarpAt_agenda (s : State) (c w : Nat) (f : Warp → Warp) : (s.updWarpAt c w f).agenda = s.agenda := rfl
@[simp] theorem updWarpAt_cur (s : State) (c w : Nat) (f : Warp → Warp) : (s.updWarpAt c w f).cur = s.cur := rfl
@[simp] theorem updWarpAt_arg (s : State) (c w : Nat) (f : Warp → Warp) : (s.updWarpAt c w f).arg = s.arg := rfl
@[simp] theorem updWarpAt_flow (s : State) (c w : Nat) (f : Warp → Warp) : (s.updWarpAt c w f).flow = s.flow := rfl
@[simp] theorem updWarpAt_fresh (s : State) (c w : Nat) (f : Warp → Warp) : (s.updWarpAt c w f).fresh = s.fresh := rfl
@[simp] theorem updWarpAt_nextId (s : State) (c w : Nat) (f : Warp → Warp) : (s.updWarpAt c w f).nextId = s.nextId := rfl
@[simp] theorem updWarpAt_dev (s : State) (c w : Nat) (f : Warp → Warp) : (s.updWarpAt c w f).dev = s.dev := rfl
@[simp] theorem updWarpAt_joined (s : State) (c w : Nat) (f : Warp → Warp) : (s.updWarpAt c w f).joined = s.joined := rfl
@[simp] theorem updWarpAt_flat (s : State) (c w : Nat) (f : Warp → Warp) : (s.updWarpAt c w f).flat = s.flat := rfl
@[simp] theorem updWarpAt_mem (s : State) (c w : Nat) (f : Warp → Warp) : (s.updWarpAt c w f).mem = s.mem := rfl
@[simp] theorem updWarpAt_full (s : State) (c w : Nat) (f : Warp → Warp) : (s.updWarpAt c w f).full = s.full := rfl
@[simp] theorem updWarpAt_ldfq (s : State) (c w : Nat) (f : Warp → Warp) : (s.updWarpAt c w f).ldfq = s.ldfq := rfl
@[simp] theorem updWarpAt_errs (s : State) (c w : Nat) (f : Warp → Warp) : (s.updWarpAt c w f).errs = s.errs := rfl
@[simp] theorem updWarpAt_spare (s : State) (c w : Nat) (f : Warp → Warp) : (s.updWarpAt c w f).spare = s.spare := rfl
@[simp] theorem updWarpAt_dies (s : State) (c w : Nat) (f : Warp → Warp) : (s.updWarpAt c w f).dies = s.dies := rfl
@[simp] theorem updWarpAt_ports (s : State) (c w : Nat) (f : Warp → Warp) : (s.updWarpAt c w f).ports = s.ports := rfl
@[simp] theorem updWarpAt_planes (s : State) (c w : Nat) (f : Warp → Warp) : (s.updWarpAt c w f).planes = s.planes := rfl
@[simp] theorem updWarpAt_booted (s : State) (c w : Nat) (f : Warp → Warp) : (s.updWarpAt c w f).booted = s.booted := rfl
@[simp] theorem updWarpAt_walks (s : State) (c w : Nat) (f : Warp → Warp) : (s.updWarpAt c w f).walks = s.walks := rfl
@[simp] theorem updWarpAt_tenants (s : State) (c w : Nat) (f : Warp → Warp) : (s.updWarpAt c w f).tenants = s.tenants := rfl
@[simp] theorem updWarpAt_placed (s : State) (c w : Nat) (f : Warp → Warp) : (s.updWarpAt c w f).placed = s.placed := rfl
@[simp] theorem updWarpAt_rrTenant (s : State) (c w : Nat) (f : Warp → Warp) : (s.updWarpAt c w f).rrTenant = s.rrTenant := rfl
@[simp] theorem updWarpAt_launches (s : State) (c w : Nat) (f : Warp → Warp) : (s.updWarpAt c w f).launches = s.launches := rfl
@[simp] theorem updWarpAt_wgs (s : State) (c w : Nat) (f : Warp → Warp) : (s.updWarpAt c w f).wgs = s.wgs := rfl
@[simp] theorem updWarpAt_outCores (s : State) (c w : Nat) (f : Warp → Warp) : (s.updWarpAt c w f).outCores = s.outCores := rfl
@[simp] theorem updWarpAt_episodes (s : State) (c w : Nat) (f : Warp → Warp) : (s.updWarpAt c w f).episodes = s.episodes := rfl
@[simp] theorem updWarpAt_joinedQ (s : State) (c w : Nat) (f : Warp → Warp) : (s.updWarpAt c w f).joinedQ = s.joinedQ := rfl
@[simp] theorem updWarpAt_escrow (s : State) (c w : Nat) (f : Warp → Warp) : (s.updWarpAt c w f).escrow = s.escrow := rfl
@[simp] theorem updWarpAt_rewardsOut (s : State) (c w : Nat) (f : Warp → Warp) : (s.updWarpAt c w f).rewardsOut = s.rewardsOut := rfl
@[simp] theorem updWarpAt_joinCycle (s : State) (c w : Nat) (f : Warp → Warp) : (s.updWarpAt c w f).joinCycle = s.joinCycle := rfl
@[simp] theorem updWarpAt_msgs (s : State) (c w : Nat) (f : Warp → Warp) : (s.updWarpAt c w f).msgs = s.msgs := rfl
@[simp] theorem updWarpAt_groups (s : State) (c w : Nat) (f : Warp → Warp) : (s.updWarpAt c w f).groups = s.groups := rfl
@[simp] theorem updWarpAt_resids (s : State) (c w : Nat) (f : Warp → Warp) : (s.updWarpAt c w f).resids = s.resids := rfl
@[simp] theorem updWarpAt_slots (s : State) (c w : Nat) (f : Warp → Warp) : (s.updWarpAt c w f).slots = s.slots := rfl
@[simp] theorem updWarpAt_pushes (s : State) (c w : Nat) (f : Warp → Warp) : (s.updWarpAt c w f).pushes = s.pushes := rfl
@[simp] theorem updWarpAt_ctxs (s : State) (c w : Nat) (f : Warp → Warp) : (s.updWarpAt c w f).ctxs = s.ctxs := rfl
@[simp] theorem updWarpAt_targets (s : State) (c w : Nat) (f : Warp → Warp) : (s.updWarpAt c w f).targets = s.targets := rfl
@[simp] theorem updWarpAt_lost (s : State) (c w : Nat) (f : Warp → Warp) : (s.updWarpAt c w f).lost = s.lost := rfl
@[simp] theorem updWarpAt_domain (s : State) (c w : Nat) (f : Warp → Warp) : (s.updWarpAt c w f).domain = s.domain := rfl
@[simp] theorem updWarpAt_recs (s : State) (c w : Nat) (f : Warp → Warp) : (s.updWarpAt c w f).recs = s.recs := rfl
@[simp] theorem updWarpAt_mint (s : State) (c w : Nat) (f : Warp → Warp) : (s.updWarpAt c w f).mint = s.mint := rfl
@[simp] theorem updWarpAt_power (s : State) (c w : Nat) (f : Warp → Warp) : (s.updWarpAt c w f).power = s.power := rfl
@[simp] theorem updWarpAt_sysBase (s : State) (c w : Nat) (f : Warp → Warp) : (s.updWarpAt c w f).sysBase = s.sysBase := rfl
@[simp] theorem updWarpAt_sysSize (s : State) (c w : Nat) (f : Warp → Warp) : (s.updWarpAt c w f).sysSize = s.sysSize := rfl
@[simp] theorem updWarpAt_scrub (s : State) (c w : Nat) (f : Warp → Warp) : (s.updWarpAt c w f).scrub = s.scrub := rfl
@[simp] theorem updWarpAt_log_ (s : State) (c w : Nat) (f : Warp → Warp) : (s.updWarpAt c w f).log_ = s.log_ := rfl
@[simp] theorem updWarpAt_hubEv (s : State) (c w : Nat) (f : Warp → Warp) : (s.updWarpAt c w f).hubEv = s.hubEv := rfl
@[simp] theorem updWarpAt_entrySvc (s : State) (c w : Nat) (f : Warp → Warp) : (s.updWarpAt c w f).entrySvc = s.entrySvc := rfl
@[simp] theorem updWarpAt_entrySave (s : State) (c w : Nat) (f : Warp → Warp) : (s.updWarpAt c w f).entrySave = s.entrySave := rfl
@[simp] theorem updWarpAt_entryRestore (s : State) (c w : Nat) (f : Warp → Warp) : (s.updWarpAt c w f).entryRestore = s.entryRestore := rfl
@[simp] theorem updWarpAt_sys (s : State) (c w : Nat) (f : Warp → Warp) : (s.updWarpAt c w f).sys = s.sys := rfl
@[simp] theorem updWarpAt_refused (s : State) (c w : Nat) (f : Warp → Warp) : (s.updWarpAt c w f).refused = s.refused := rfl
@[simp] theorem updWarpAt_ueOut (s : State) (c w : Nat) (f : Warp → Warp) : (s.updWarpAt c w f).ueOut = s.ueOut := rfl
@[simp] theorem updWarpAt_utfortSt (s : State) (c w : Nat) (f : Warp → Warp) : (s.updWarpAt c w f).utfortSt = s.utfortSt := rfl
@[simp] theorem updWarpAt_ueWins (s : State) (c w : Nat) (f : Warp → Warp) : (s.updWarpAt c w f).ueWins = s.ueWins := rfl
@[simp] theorem updWarpAt_uePorts (s : State) (c w : Nat) (f : Warp → Warp) : (s.updWarpAt c w f).uePorts = s.uePorts := rfl
@[simp] theorem updWarpAt_fetched (s : State) (c w : Nat) (f : Warp → Warp) : (s.updWarpAt c w f).fetched = s.fetched := rfl
@[simp] theorem updWarpAt_fetchBad (s : State) (c w : Nat) (f : Warp → Warp) : (s.updWarpAt c w f).fetchBad = s.fetchBad := rfl
@[simp] theorem updWarpAt_swOwned (s : State) (c w : Nat) (f : Warp → Warp) : (s.updWarpAt c w f).swOwned = s.swOwned := rfl
@[simp] theorem updWarpAt_swAsked (s : State) (c w : Nat) (f : Warp → Warp) : (s.updWarpAt c w f).swAsked = s.swAsked := rfl
@[simp] theorem updWarpAt_errCnt (s : State) (c w : Nat) (f : Warp → Warp) : (s.updWarpAt c w f).errCnt = s.errCnt := rfl
@[simp] theorem updWarpAt_told (s : State) (c w : Nat) (f : Warp → Warp) : (s.updWarpAt c w f).told = s.told := rfl
@[simp] theorem updWarpAt_hubCycle (s : State) (c w : Nat) (f : Warp → Warp) : (s.updWarpAt c w f).hubCycle = s.hubCycle := rfl
@[simp] theorem setWarp_agenda (s : State) (x : Warp) : (s.setWarp x).agenda = s.agenda := rfl
@[simp] theorem setWarp_arg (s : State) (x : Warp) : (s.setWarp x).arg = s.arg := rfl
@[simp] theorem setWarp_flow (s : State) (x : Warp) : (s.setWarp x).flow = s.flow := rfl
@[simp] theorem setWarp_fresh (s : State) (x : Warp) : (s.setWarp x).fresh = s.fresh := rfl
@[simp] theorem setWarp_nextId (s : State) (x : Warp) : (s.setWarp x).nextId = s.nextId := rfl
@[simp] theorem setWarp_dev (s : State) (x : Warp) : (s.setWarp x).dev = s.dev := rfl
@[simp] theorem setWarp_joined (s : State) (x : Warp) : (s.setWarp x).joined = s.joined := rfl
@[simp] theorem setWarp_flat (s : State) (x : Warp) : (s.setWarp x).flat = s.flat := rfl
@[simp] theorem setWarp_mem (s : State) (x : Warp) : (s.setWarp x).mem = s.mem := rfl
@[simp] theorem setWarp_full (s : State) (x : Warp) : (s.setWarp x).full = s.full := rfl
@[simp] theorem setWarp_ldfq (s : State) (x : Warp) : (s.setWarp x).ldfq = s.ldfq := rfl
@[simp] theorem setWarp_errs (s : State) (x : Warp) : (s.setWarp x).errs = s.errs := rfl
@[simp] theorem setWarp_spare (s : State) (x : Warp) : (s.setWarp x).spare = s.spare := rfl
@[simp] theorem setWarp_dies (s : State) (x : Warp) : (s.setWarp x).dies = s.dies := rfl
@[simp] theorem setWarp_ports (s : State) (x : Warp) : (s.setWarp x).ports = s.ports := rfl
@[simp] theorem setWarp_planes (s : State) (x : Warp) : (s.setWarp x).planes = s.planes := rfl
@[simp] theorem setWarp_booted (s : State) (x : Warp) : (s.setWarp x).booted = s.booted := rfl
@[simp] theorem setWarp_walks (s : State) (x : Warp) : (s.setWarp x).walks = s.walks := rfl
@[simp] theorem setWarp_tenants (s : State) (x : Warp) : (s.setWarp x).tenants = s.tenants := rfl
@[simp] theorem setWarp_placed (s : State) (x : Warp) : (s.setWarp x).placed = s.placed := rfl
@[simp] theorem setWarp_rrTenant (s : State) (x : Warp) : (s.setWarp x).rrTenant = s.rrTenant := rfl
@[simp] theorem setWarp_launches (s : State) (x : Warp) : (s.setWarp x).launches = s.launches := rfl
@[simp] theorem setWarp_wgs (s : State) (x : Warp) : (s.setWarp x).wgs = s.wgs := rfl
@[simp] theorem setWarp_outCores (s : State) (x : Warp) : (s.setWarp x).outCores = s.outCores := rfl
@[simp] theorem setWarp_episodes (s : State) (x : Warp) : (s.setWarp x).episodes = s.episodes := rfl
@[simp] theorem setWarp_joinedQ (s : State) (x : Warp) : (s.setWarp x).joinedQ = s.joinedQ := rfl
@[simp] theorem setWarp_escrow (s : State) (x : Warp) : (s.setWarp x).escrow = s.escrow := rfl
@[simp] theorem setWarp_rewardsOut (s : State) (x : Warp) : (s.setWarp x).rewardsOut = s.rewardsOut := rfl
@[simp] theorem setWarp_joinCycle (s : State) (x : Warp) : (s.setWarp x).joinCycle = s.joinCycle := rfl
@[simp] theorem setWarp_msgs (s : State) (x : Warp) : (s.setWarp x).msgs = s.msgs := rfl
@[simp] theorem setWarp_groups (s : State) (x : Warp) : (s.setWarp x).groups = s.groups := rfl
@[simp] theorem setWarp_resids (s : State) (x : Warp) : (s.setWarp x).resids = s.resids := rfl
@[simp] theorem setWarp_slots (s : State) (x : Warp) : (s.setWarp x).slots = s.slots := rfl
@[simp] theorem setWarp_pushes (s : State) (x : Warp) : (s.setWarp x).pushes = s.pushes := rfl
@[simp] theorem setWarp_ctxs (s : State) (x : Warp) : (s.setWarp x).ctxs = s.ctxs := rfl
@[simp] theorem setWarp_targets (s : State) (x : Warp) : (s.setWarp x).targets = s.targets := rfl
@[simp] theorem setWarp_lost (s : State) (x : Warp) : (s.setWarp x).lost = s.lost := rfl
@[simp] theorem setWarp_domain (s : State) (x : Warp) : (s.setWarp x).domain = s.domain := rfl
@[simp] theorem setWarp_recs (s : State) (x : Warp) : (s.setWarp x).recs = s.recs := rfl
@[simp] theorem setWarp_mint (s : State) (x : Warp) : (s.setWarp x).mint = s.mint := rfl
@[simp] theorem setWarp_power (s : State) (x : Warp) : (s.setWarp x).power = s.power := rfl
@[simp] theorem setWarp_sysBase (s : State) (x : Warp) : (s.setWarp x).sysBase = s.sysBase := rfl
@[simp] theorem setWarp_sysSize (s : State) (x : Warp) : (s.setWarp x).sysSize = s.sysSize := rfl
@[simp] theorem setWarp_scrub (s : State) (x : Warp) : (s.setWarp x).scrub = s.scrub := rfl
@[simp] theorem setWarp_log_ (s : State) (x : Warp) : (s.setWarp x).log_ = s.log_ := rfl
@[simp] theorem setWarp_hubEv (s : State) (x : Warp) : (s.setWarp x).hubEv = s.hubEv := rfl
@[simp] theorem setWarp_entrySvc (s : State) (x : Warp) : (s.setWarp x).entrySvc = s.entrySvc := rfl
@[simp] theorem setWarp_entrySave (s : State) (x : Warp) : (s.setWarp x).entrySave = s.entrySave := rfl
@[simp] theorem setWarp_entryRestore (s : State) (x : Warp) : (s.setWarp x).entryRestore = s.entryRestore := rfl
@[simp] theorem setWarp_sys (s : State) (x : Warp) : (s.setWarp x).sys = s.sys := rfl
@[simp] theorem setWarp_refused (s : State) (x : Warp) : (s.setWarp x).refused = s.refused := rfl
@[simp] theorem setWarp_ueOut (s : State) (x : Warp) : (s.setWarp x).ueOut = s.ueOut := rfl
@[simp] theorem setWarp_utfortSt (s : State) (x : Warp) : (s.setWarp x).utfortSt = s.utfortSt := rfl
@[simp] theorem setWarp_ueWins (s : State) (x : Warp) : (s.setWarp x).ueWins = s.ueWins := rfl
@[simp] theorem setWarp_uePorts (s : State) (x : Warp) : (s.setWarp x).uePorts = s.uePorts := rfl
@[simp] theorem setWarp_fetched (s : State) (x : Warp) : (s.setWarp x).fetched = s.fetched := rfl
@[simp] theorem setWarp_fetchBad (s : State) (x : Warp) : (s.setWarp x).fetchBad = s.fetchBad := rfl
@[simp] theorem setWarp_swOwned (s : State) (x : Warp) : (s.setWarp x).swOwned = s.swOwned := rfl
@[simp] theorem setWarp_swAsked (s : State) (x : Warp) : (s.setWarp x).swAsked = s.swAsked := rfl
@[simp] theorem setWarp_errCnt (s : State) (x : Warp) : (s.setWarp x).errCnt = s.errCnt := rfl
@[simp] theorem setWarp_told (s : State) (x : Warp) : (s.setWarp x).told = s.told := rfl
@[simp] theorem setWarp_hubCycle (s : State) (x : Warp) : (s.setWarp x).hubCycle = s.hubCycle := rfl
@[simp] theorem updWarp_agenda (s : State) (f : Warp → Warp) : (s.updWarp f).agenda = s.agenda := rfl
@[simp] theorem updWarp_cur (s : State) (f : Warp → Warp) : (s.updWarp f).cur = s.cur := rfl
@[simp] theorem updWarp_arg (s : State) (f : Warp → Warp) : (s.updWarp f).arg = s.arg := rfl
@[simp] theorem updWarp_flow (s : State) (f : Warp → Warp) : (s.updWarp f).flow = s.flow := rfl
@[simp] theorem updWarp_fresh (s : State) (f : Warp → Warp) : (s.updWarp f).fresh = s.fresh := rfl
@[simp] theorem updWarp_nextId (s : State) (f : Warp → Warp) : (s.updWarp f).nextId = s.nextId := rfl
@[simp] theorem updWarp_dev (s : State) (f : Warp → Warp) : (s.updWarp f).dev = s.dev := rfl
@[simp] theorem updWarp_joined (s : State) (f : Warp → Warp) : (s.updWarp f).joined = s.joined := rfl
@[simp] theorem updWarp_flat (s : State) (f : Warp → Warp) : (s.updWarp f).flat = s.flat := rfl
@[simp] theorem updWarp_mem (s : State) (f : Warp → Warp) : (s.updWarp f).mem = s.mem := rfl
@[simp] theorem updWarp_full (s : State) (f : Warp → Warp) : (s.updWarp f).full = s.full := rfl
@[simp] theorem updWarp_ldfq (s : State) (f : Warp → Warp) : (s.updWarp f).ldfq = s.ldfq := rfl
@[simp] theorem updWarp_errs (s : State) (f : Warp → Warp) : (s.updWarp f).errs = s.errs := rfl
@[simp] theorem updWarp_spare (s : State) (f : Warp → Warp) : (s.updWarp f).spare = s.spare := rfl
@[simp] theorem updWarp_dies (s : State) (f : Warp → Warp) : (s.updWarp f).dies = s.dies := rfl
@[simp] theorem updWarp_ports (s : State) (f : Warp → Warp) : (s.updWarp f).ports = s.ports := rfl
@[simp] theorem updWarp_planes (s : State) (f : Warp → Warp) : (s.updWarp f).planes = s.planes := rfl
@[simp] theorem updWarp_booted (s : State) (f : Warp → Warp) : (s.updWarp f).booted = s.booted := rfl
@[simp] theorem updWarp_walks (s : State) (f : Warp → Warp) : (s.updWarp f).walks = s.walks := rfl
@[simp] theorem updWarp_tenants (s : State) (f : Warp → Warp) : (s.updWarp f).tenants = s.tenants := rfl
@[simp] theorem updWarp_placed (s : State) (f : Warp → Warp) : (s.updWarp f).placed = s.placed := rfl
@[simp] theorem updWarp_rrTenant (s : State) (f : Warp → Warp) : (s.updWarp f).rrTenant = s.rrTenant := rfl
@[simp] theorem updWarp_launches (s : State) (f : Warp → Warp) : (s.updWarp f).launches = s.launches := rfl
@[simp] theorem updWarp_wgs (s : State) (f : Warp → Warp) : (s.updWarp f).wgs = s.wgs := rfl
@[simp] theorem updWarp_outCores (s : State) (f : Warp → Warp) : (s.updWarp f).outCores = s.outCores := rfl
@[simp] theorem updWarp_episodes (s : State) (f : Warp → Warp) : (s.updWarp f).episodes = s.episodes := rfl
@[simp] theorem updWarp_joinedQ (s : State) (f : Warp → Warp) : (s.updWarp f).joinedQ = s.joinedQ := rfl
@[simp] theorem updWarp_escrow (s : State) (f : Warp → Warp) : (s.updWarp f).escrow = s.escrow := rfl
@[simp] theorem updWarp_rewardsOut (s : State) (f : Warp → Warp) : (s.updWarp f).rewardsOut = s.rewardsOut := rfl
@[simp] theorem updWarp_joinCycle (s : State) (f : Warp → Warp) : (s.updWarp f).joinCycle = s.joinCycle := rfl
@[simp] theorem updWarp_msgs (s : State) (f : Warp → Warp) : (s.updWarp f).msgs = s.msgs := rfl
@[simp] theorem updWarp_groups (s : State) (f : Warp → Warp) : (s.updWarp f).groups = s.groups := rfl
@[simp] theorem updWarp_resids (s : State) (f : Warp → Warp) : (s.updWarp f).resids = s.resids := rfl
@[simp] theorem updWarp_slots (s : State) (f : Warp → Warp) : (s.updWarp f).slots = s.slots := rfl
@[simp] theorem updWarp_pushes (s : State) (f : Warp → Warp) : (s.updWarp f).pushes = s.pushes := rfl
@[simp] theorem updWarp_ctxs (s : State) (f : Warp → Warp) : (s.updWarp f).ctxs = s.ctxs := rfl
@[simp] theorem updWarp_targets (s : State) (f : Warp → Warp) : (s.updWarp f).targets = s.targets := rfl
@[simp] theorem updWarp_lost (s : State) (f : Warp → Warp) : (s.updWarp f).lost = s.lost := rfl
@[simp] theorem updWarp_domain (s : State) (f : Warp → Warp) : (s.updWarp f).domain = s.domain := rfl
@[simp] theorem updWarp_recs (s : State) (f : Warp → Warp) : (s.updWarp f).recs = s.recs := rfl
@[simp] theorem updWarp_mint (s : State) (f : Warp → Warp) : (s.updWarp f).mint = s.mint := rfl
@[simp] theorem updWarp_power (s : State) (f : Warp → Warp) : (s.updWarp f).power = s.power := rfl
@[simp] theorem updWarp_sysBase (s : State) (f : Warp → Warp) : (s.updWarp f).sysBase = s.sysBase := rfl
@[simp] theorem updWarp_sysSize (s : State) (f : Warp → Warp) : (s.updWarp f).sysSize = s.sysSize := rfl
@[simp] theorem updWarp_scrub (s : State) (f : Warp → Warp) : (s.updWarp f).scrub = s.scrub := rfl
@[simp] theorem updWarp_log_ (s : State) (f : Warp → Warp) : (s.updWarp f).log_ = s.log_ := rfl
@[simp] theorem updWarp_hubEv (s : State) (f : Warp → Warp) : (s.updWarp f).hubEv = s.hubEv := rfl
@[simp] theorem updWarp_entrySvc (s : State) (f : Warp → Warp) : (s.updWarp f).entrySvc = s.entrySvc := rfl
@[simp] theorem updWarp_entrySave (s : State) (f : Warp → Warp) : (s.updWarp f).entrySave = s.entrySave := rfl
@[simp] theorem updWarp_entryRestore (s : State) (f : Warp → Warp) : (s.updWarp f).entryRestore = s.entryRestore := rfl
@[simp] theorem updWarp_sys (s : State) (f : Warp → Warp) : (s.updWarp f).sys = s.sys := rfl
@[simp] theorem updWarp_refused (s : State) (f : Warp → Warp) : (s.updWarp f).refused = s.refused := rfl
@[simp] theorem updWarp_ueOut (s : State) (f : Warp → Warp) : (s.updWarp f).ueOut = s.ueOut := rfl
@[simp] theorem updWarp_utfortSt (s : State) (f : Warp → Warp) : (s.updWarp f).utfortSt = s.utfortSt := rfl
@[simp] theorem updWarp_ueWins (s : State) (f : Warp → Warp) : (s.updWarp f).ueWins = s.ueWins := rfl
@[simp] theorem updWarp_uePorts (s : State) (f : Warp → Warp) : (s.updWarp f).uePorts = s.uePorts := rfl
@[simp] theorem updWarp_fetched (s : State) (f : Warp → Warp) : (s.updWarp f).fetched = s.fetched := rfl
@[simp] theorem updWarp_fetchBad (s : State) (f : Warp → Warp) : (s.updWarp f).fetchBad = s.fetchBad := rfl
@[simp] theorem updWarp_swOwned (s : State) (f : Warp → Warp) : (s.updWarp f).swOwned = s.swOwned := rfl
@[simp] theorem updWarp_swAsked (s : State) (f : Warp → Warp) : (s.updWarp f).swAsked = s.swAsked := rfl
@[simp] theorem updWarp_errCnt (s : State) (f : Warp → Warp) : (s.updWarp f).errCnt = s.errCnt := rfl
@[simp] theorem updWarp_told (s : State) (f : Warp → Warp) : (s.updWarp f).told = s.told := rfl
@[simp] theorem updWarp_hubCycle (s : State) (f : Warp → Warp) : (s.updWarp f).hubCycle = s.hubCycle := rfl
@[simp] theorem updDie_agenda (s : State) (d : Nat) (f : Die → Die) : (s.updDie d f).agenda = s.agenda := rfl
@[simp] theorem updDie_cur (s : State) (d : Nat) (f : Die → Die) : (s.updDie d f).cur = s.cur := rfl
@[simp] theorem updDie_arg (s : State) (d : Nat) (f : Die → Die) : (s.updDie d f).arg = s.arg := rfl
@[simp] theorem updDie_flow (s : State) (d : Nat) (f : Die → Die) : (s.updDie d f).flow = s.flow := rfl
@[simp] theorem updDie_fresh (s : State) (d : Nat) (f : Die → Die) : (s.updDie d f).fresh = s.fresh := rfl
@[simp] theorem updDie_nextId (s : State) (d : Nat) (f : Die → Die) : (s.updDie d f).nextId = s.nextId := rfl
@[simp] theorem updDie_dev (s : State) (d : Nat) (f : Die → Die) : (s.updDie d f).dev = s.dev := rfl
@[simp] theorem updDie_joined (s : State) (d : Nat) (f : Die → Die) : (s.updDie d f).joined = s.joined := rfl
@[simp] theorem updDie_flat (s : State) (d : Nat) (f : Die → Die) : (s.updDie d f).flat = s.flat := rfl
@[simp] theorem updDie_mem (s : State) (d : Nat) (f : Die → Die) : (s.updDie d f).mem = s.mem := rfl
@[simp] theorem updDie_full (s : State) (d : Nat) (f : Die → Die) : (s.updDie d f).full = s.full := rfl
@[simp] theorem updDie_ldfq (s : State) (d : Nat) (f : Die → Die) : (s.updDie d f).ldfq = s.ldfq := rfl
@[simp] theorem updDie_errs (s : State) (d : Nat) (f : Die → Die) : (s.updDie d f).errs = s.errs := rfl
@[simp] theorem updDie_spare (s : State) (d : Nat) (f : Die → Die) : (s.updDie d f).spare = s.spare := rfl
@[simp] theorem updDie_cores (s : State) (d : Nat) (f : Die → Die) : (s.updDie d f).cores = s.cores := rfl
@[simp] theorem updDie_ports (s : State) (d : Nat) (f : Die → Die) : (s.updDie d f).ports = s.ports := rfl
@[simp] theorem updDie_planes (s : State) (d : Nat) (f : Die → Die) : (s.updDie d f).planes = s.planes := rfl
@[simp] theorem updDie_booted (s : State) (d : Nat) (f : Die → Die) : (s.updDie d f).booted = s.booted := rfl
@[simp] theorem updDie_walks (s : State) (d : Nat) (f : Die → Die) : (s.updDie d f).walks = s.walks := rfl
@[simp] theorem updDie_tenants (s : State) (d : Nat) (f : Die → Die) : (s.updDie d f).tenants = s.tenants := rfl
@[simp] theorem updDie_placed (s : State) (d : Nat) (f : Die → Die) : (s.updDie d f).placed = s.placed := rfl
@[simp] theorem updDie_rrTenant (s : State) (d : Nat) (f : Die → Die) : (s.updDie d f).rrTenant = s.rrTenant := rfl
@[simp] theorem updDie_launches (s : State) (d : Nat) (f : Die → Die) : (s.updDie d f).launches = s.launches := rfl
@[simp] theorem updDie_wgs (s : State) (d : Nat) (f : Die → Die) : (s.updDie d f).wgs = s.wgs := rfl
@[simp] theorem updDie_outCores (s : State) (d : Nat) (f : Die → Die) : (s.updDie d f).outCores = s.outCores := rfl
@[simp] theorem updDie_episodes (s : State) (d : Nat) (f : Die → Die) : (s.updDie d f).episodes = s.episodes := rfl
@[simp] theorem updDie_joinedQ (s : State) (d : Nat) (f : Die → Die) : (s.updDie d f).joinedQ = s.joinedQ := rfl
@[simp] theorem updDie_escrow (s : State) (d : Nat) (f : Die → Die) : (s.updDie d f).escrow = s.escrow := rfl
@[simp] theorem updDie_rewardsOut (s : State) (d : Nat) (f : Die → Die) : (s.updDie d f).rewardsOut = s.rewardsOut := rfl
@[simp] theorem updDie_joinCycle (s : State) (d : Nat) (f : Die → Die) : (s.updDie d f).joinCycle = s.joinCycle := rfl
@[simp] theorem updDie_msgs (s : State) (d : Nat) (f : Die → Die) : (s.updDie d f).msgs = s.msgs := rfl
@[simp] theorem updDie_groups (s : State) (d : Nat) (f : Die → Die) : (s.updDie d f).groups = s.groups := rfl
@[simp] theorem updDie_resids (s : State) (d : Nat) (f : Die → Die) : (s.updDie d f).resids = s.resids := rfl
@[simp] theorem updDie_slots (s : State) (d : Nat) (f : Die → Die) : (s.updDie d f).slots = s.slots := rfl
@[simp] theorem updDie_pushes (s : State) (d : Nat) (f : Die → Die) : (s.updDie d f).pushes = s.pushes := rfl
@[simp] theorem updDie_ctxs (s : State) (d : Nat) (f : Die → Die) : (s.updDie d f).ctxs = s.ctxs := rfl
@[simp] theorem updDie_targets (s : State) (d : Nat) (f : Die → Die) : (s.updDie d f).targets = s.targets := rfl
@[simp] theorem updDie_lost (s : State) (d : Nat) (f : Die → Die) : (s.updDie d f).lost = s.lost := rfl
@[simp] theorem updDie_domain (s : State) (d : Nat) (f : Die → Die) : (s.updDie d f).domain = s.domain := rfl
@[simp] theorem updDie_recs (s : State) (d : Nat) (f : Die → Die) : (s.updDie d f).recs = s.recs := rfl
@[simp] theorem updDie_mint (s : State) (d : Nat) (f : Die → Die) : (s.updDie d f).mint = s.mint := rfl
@[simp] theorem updDie_power (s : State) (d : Nat) (f : Die → Die) : (s.updDie d f).power = s.power := rfl
@[simp] theorem updDie_sysBase (s : State) (d : Nat) (f : Die → Die) : (s.updDie d f).sysBase = s.sysBase := rfl
@[simp] theorem updDie_sysSize (s : State) (d : Nat) (f : Die → Die) : (s.updDie d f).sysSize = s.sysSize := rfl
@[simp] theorem updDie_scrub (s : State) (d : Nat) (f : Die → Die) : (s.updDie d f).scrub = s.scrub := rfl
@[simp] theorem updDie_log_ (s : State) (d : Nat) (f : Die → Die) : (s.updDie d f).log_ = s.log_ := rfl
@[simp] theorem updDie_hubEv (s : State) (d : Nat) (f : Die → Die) : (s.updDie d f).hubEv = s.hubEv := rfl
@[simp] theorem updDie_entrySvc (s : State) (d : Nat) (f : Die → Die) : (s.updDie d f).entrySvc = s.entrySvc := rfl
@[simp] theorem updDie_entrySave (s : State) (d : Nat) (f : Die → Die) : (s.updDie d f).entrySave = s.entrySave := rfl
@[simp] theorem updDie_entryRestore (s : State) (d : Nat) (f : Die → Die) : (s.updDie d f).entryRestore = s.entryRestore := rfl
@[simp] theorem updDie_sys (s : State) (d : Nat) (f : Die → Die) : (s.updDie d f).sys = s.sys := rfl
@[simp] theorem updDie_refused (s : State) (d : Nat) (f : Die → Die) : (s.updDie d f).refused = s.refused := rfl
@[simp] theorem updDie_ueOut (s : State) (d : Nat) (f : Die → Die) : (s.updDie d f).ueOut = s.ueOut := rfl
@[simp] theorem updDie_utfortSt (s : State) (d : Nat) (f : Die → Die) : (s.updDie d f).utfortSt = s.utfortSt := rfl
@[simp] theorem updDie_ueWins (s : State) (d : Nat) (f : Die → Die) : (s.updDie d f).ueWins = s.ueWins := rfl
@[simp] theorem updDie_uePorts (s : State) (d : Nat) (f : Die → Die) : (s.updDie d f).uePorts = s.uePorts := rfl
@[simp] theorem updDie_fetched (s : State) (d : Nat) (f : Die → Die) : (s.updDie d f).fetched = s.fetched := rfl
@[simp] theorem updDie_fetchBad (s : State) (d : Nat) (f : Die → Die) : (s.updDie d f).fetchBad = s.fetchBad := rfl
@[simp] theorem updDie_swOwned (s : State) (d : Nat) (f : Die → Die) : (s.updDie d f).swOwned = s.swOwned := rfl
@[simp] theorem updDie_swAsked (s : State) (d : Nat) (f : Die → Die) : (s.updDie d f).swAsked = s.swAsked := rfl
@[simp] theorem updDie_errCnt (s : State) (d : Nat) (f : Die → Die) : (s.updDie d f).errCnt = s.errCnt := rfl
@[simp] theorem updDie_told (s : State) (d : Nat) (f : Die → Die) : (s.updDie d f).told = s.told := rfl
@[simp] theorem updDie_hubCycle (s : State) (d : Nat) (f : Die → Die) : (s.updDie d f).hubCycle = s.hubCycle := rfl
@[simp] theorem updPort_agenda (s : State) (p : Nat) (f : Port → Port) : (s.updPort p f).agenda = s.agenda := rfl
@[simp] theorem updPort_cur (s : State) (p : Nat) (f : Port → Port) : (s.updPort p f).cur = s.cur := rfl
@[simp] theorem updPort_arg (s : State) (p : Nat) (f : Port → Port) : (s.updPort p f).arg = s.arg := rfl
@[simp] theorem updPort_flow (s : State) (p : Nat) (f : Port → Port) : (s.updPort p f).flow = s.flow := rfl
@[simp] theorem updPort_fresh (s : State) (p : Nat) (f : Port → Port) : (s.updPort p f).fresh = s.fresh := rfl
@[simp] theorem updPort_nextId (s : State) (p : Nat) (f : Port → Port) : (s.updPort p f).nextId = s.nextId := rfl
@[simp] theorem updPort_dev (s : State) (p : Nat) (f : Port → Port) : (s.updPort p f).dev = s.dev := rfl
@[simp] theorem updPort_joined (s : State) (p : Nat) (f : Port → Port) : (s.updPort p f).joined = s.joined := rfl
@[simp] theorem updPort_flat (s : State) (p : Nat) (f : Port → Port) : (s.updPort p f).flat = s.flat := rfl
@[simp] theorem updPort_mem (s : State) (p : Nat) (f : Port → Port) : (s.updPort p f).mem = s.mem := rfl
@[simp] theorem updPort_full (s : State) (p : Nat) (f : Port → Port) : (s.updPort p f).full = s.full := rfl
@[simp] theorem updPort_ldfq (s : State) (p : Nat) (f : Port → Port) : (s.updPort p f).ldfq = s.ldfq := rfl
@[simp] theorem updPort_errs (s : State) (p : Nat) (f : Port → Port) : (s.updPort p f).errs = s.errs := rfl
@[simp] theorem updPort_spare (s : State) (p : Nat) (f : Port → Port) : (s.updPort p f).spare = s.spare := rfl
@[simp] theorem updPort_cores (s : State) (p : Nat) (f : Port → Port) : (s.updPort p f).cores = s.cores := rfl
@[simp] theorem updPort_dies (s : State) (p : Nat) (f : Port → Port) : (s.updPort p f).dies = s.dies := rfl
@[simp] theorem updPort_planes (s : State) (p : Nat) (f : Port → Port) : (s.updPort p f).planes = s.planes := rfl
@[simp] theorem updPort_booted (s : State) (p : Nat) (f : Port → Port) : (s.updPort p f).booted = s.booted := rfl
@[simp] theorem updPort_walks (s : State) (p : Nat) (f : Port → Port) : (s.updPort p f).walks = s.walks := rfl
@[simp] theorem updPort_tenants (s : State) (p : Nat) (f : Port → Port) : (s.updPort p f).tenants = s.tenants := rfl
@[simp] theorem updPort_placed (s : State) (p : Nat) (f : Port → Port) : (s.updPort p f).placed = s.placed := rfl
@[simp] theorem updPort_rrTenant (s : State) (p : Nat) (f : Port → Port) : (s.updPort p f).rrTenant = s.rrTenant := rfl
@[simp] theorem updPort_launches (s : State) (p : Nat) (f : Port → Port) : (s.updPort p f).launches = s.launches := rfl
@[simp] theorem updPort_wgs (s : State) (p : Nat) (f : Port → Port) : (s.updPort p f).wgs = s.wgs := rfl
@[simp] theorem updPort_outCores (s : State) (p : Nat) (f : Port → Port) : (s.updPort p f).outCores = s.outCores := rfl
@[simp] theorem updPort_episodes (s : State) (p : Nat) (f : Port → Port) : (s.updPort p f).episodes = s.episodes := rfl
@[simp] theorem updPort_joinedQ (s : State) (p : Nat) (f : Port → Port) : (s.updPort p f).joinedQ = s.joinedQ := rfl
@[simp] theorem updPort_escrow (s : State) (p : Nat) (f : Port → Port) : (s.updPort p f).escrow = s.escrow := rfl
@[simp] theorem updPort_rewardsOut (s : State) (p : Nat) (f : Port → Port) : (s.updPort p f).rewardsOut = s.rewardsOut := rfl
@[simp] theorem updPort_joinCycle (s : State) (p : Nat) (f : Port → Port) : (s.updPort p f).joinCycle = s.joinCycle := rfl
@[simp] theorem updPort_msgs (s : State) (p : Nat) (f : Port → Port) : (s.updPort p f).msgs = s.msgs := rfl
@[simp] theorem updPort_groups (s : State) (p : Nat) (f : Port → Port) : (s.updPort p f).groups = s.groups := rfl
@[simp] theorem updPort_resids (s : State) (p : Nat) (f : Port → Port) : (s.updPort p f).resids = s.resids := rfl
@[simp] theorem updPort_slots (s : State) (p : Nat) (f : Port → Port) : (s.updPort p f).slots = s.slots := rfl
@[simp] theorem updPort_pushes (s : State) (p : Nat) (f : Port → Port) : (s.updPort p f).pushes = s.pushes := rfl
@[simp] theorem updPort_ctxs (s : State) (p : Nat) (f : Port → Port) : (s.updPort p f).ctxs = s.ctxs := rfl
@[simp] theorem updPort_targets (s : State) (p : Nat) (f : Port → Port) : (s.updPort p f).targets = s.targets := rfl
@[simp] theorem updPort_lost (s : State) (p : Nat) (f : Port → Port) : (s.updPort p f).lost = s.lost := rfl
@[simp] theorem updPort_domain (s : State) (p : Nat) (f : Port → Port) : (s.updPort p f).domain = s.domain := rfl
@[simp] theorem updPort_recs (s : State) (p : Nat) (f : Port → Port) : (s.updPort p f).recs = s.recs := rfl
@[simp] theorem updPort_mint (s : State) (p : Nat) (f : Port → Port) : (s.updPort p f).mint = s.mint := rfl
@[simp] theorem updPort_power (s : State) (p : Nat) (f : Port → Port) : (s.updPort p f).power = s.power := rfl
@[simp] theorem updPort_sysBase (s : State) (p : Nat) (f : Port → Port) : (s.updPort p f).sysBase = s.sysBase := rfl
@[simp] theorem updPort_sysSize (s : State) (p : Nat) (f : Port → Port) : (s.updPort p f).sysSize = s.sysSize := rfl
@[simp] theorem updPort_scrub (s : State) (p : Nat) (f : Port → Port) : (s.updPort p f).scrub = s.scrub := rfl
@[simp] theorem updPort_log_ (s : State) (p : Nat) (f : Port → Port) : (s.updPort p f).log_ = s.log_ := rfl
@[simp] theorem updPort_hubEv (s : State) (p : Nat) (f : Port → Port) : (s.updPort p f).hubEv = s.hubEv := rfl
@[simp] theorem updPort_entrySvc (s : State) (p : Nat) (f : Port → Port) : (s.updPort p f).entrySvc = s.entrySvc := rfl
@[simp] theorem updPort_entrySave (s : State) (p : Nat) (f : Port → Port) : (s.updPort p f).entrySave = s.entrySave := rfl
@[simp] theorem updPort_entryRestore (s : State) (p : Nat) (f : Port → Port) : (s.updPort p f).entryRestore = s.entryRestore := rfl
@[simp] theorem updPort_sys (s : State) (p : Nat) (f : Port → Port) : (s.updPort p f).sys = s.sys := rfl
@[simp] theorem updPort_refused (s : State) (p : Nat) (f : Port → Port) : (s.updPort p f).refused = s.refused := rfl
@[simp] theorem updPort_ueOut (s : State) (p : Nat) (f : Port → Port) : (s.updPort p f).ueOut = s.ueOut := rfl
@[simp] theorem updPort_utfortSt (s : State) (p : Nat) (f : Port → Port) : (s.updPort p f).utfortSt = s.utfortSt := rfl
@[simp] theorem updPort_ueWins (s : State) (p : Nat) (f : Port → Port) : (s.updPort p f).ueWins = s.ueWins := rfl
@[simp] theorem updPort_uePorts (s : State) (p : Nat) (f : Port → Port) : (s.updPort p f).uePorts = s.uePorts := rfl
@[simp] theorem updPort_fetched (s : State) (p : Nat) (f : Port → Port) : (s.updPort p f).fetched = s.fetched := rfl
@[simp] theorem updPort_fetchBad (s : State) (p : Nat) (f : Port → Port) : (s.updPort p f).fetchBad = s.fetchBad := rfl
@[simp] theorem updPort_swOwned (s : State) (p : Nat) (f : Port → Port) : (s.updPort p f).swOwned = s.swOwned := rfl
@[simp] theorem updPort_swAsked (s : State) (p : Nat) (f : Port → Port) : (s.updPort p f).swAsked = s.swAsked := rfl
@[simp] theorem updPort_errCnt (s : State) (p : Nat) (f : Port → Port) : (s.updPort p f).errCnt = s.errCnt := rfl
@[simp] theorem updPort_told (s : State) (p : Nat) (f : Port → Port) : (s.updPort p f).told = s.told := rfl
@[simp] theorem updPort_hubCycle (s : State) (p : Nat) (f : Port → Port) : (s.updPort p f).hubCycle = s.hubCycle := rfl
@[simp] theorem updTenant_agenda (s : State) (t : Nat) (f : Tenant → Tenant) : (s.updTenant t f).agenda = s.agenda := rfl
@[simp] theorem updTenant_cur (s : State) (t : Nat) (f : Tenant → Tenant) : (s.updTenant t f).cur = s.cur := rfl
@[simp] theorem updTenant_arg (s : State) (t : Nat) (f : Tenant → Tenant) : (s.updTenant t f).arg = s.arg := rfl
@[simp] theorem updTenant_flow (s : State) (t : Nat) (f : Tenant → Tenant) : (s.updTenant t f).flow = s.flow := rfl
@[simp] theorem updTenant_fresh (s : State) (t : Nat) (f : Tenant → Tenant) : (s.updTenant t f).fresh = s.fresh := rfl
@[simp] theorem updTenant_nextId (s : State) (t : Nat) (f : Tenant → Tenant) : (s.updTenant t f).nextId = s.nextId := rfl
@[simp] theorem updTenant_dev (s : State) (t : Nat) (f : Tenant → Tenant) : (s.updTenant t f).dev = s.dev := rfl
@[simp] theorem updTenant_joined (s : State) (t : Nat) (f : Tenant → Tenant) : (s.updTenant t f).joined = s.joined := rfl
@[simp] theorem updTenant_flat (s : State) (t : Nat) (f : Tenant → Tenant) : (s.updTenant t f).flat = s.flat := rfl
@[simp] theorem updTenant_mem (s : State) (t : Nat) (f : Tenant → Tenant) : (s.updTenant t f).mem = s.mem := rfl
@[simp] theorem updTenant_full (s : State) (t : Nat) (f : Tenant → Tenant) : (s.updTenant t f).full = s.full := rfl
@[simp] theorem updTenant_ldfq (s : State) (t : Nat) (f : Tenant → Tenant) : (s.updTenant t f).ldfq = s.ldfq := rfl
@[simp] theorem updTenant_errs (s : State) (t : Nat) (f : Tenant → Tenant) : (s.updTenant t f).errs = s.errs := rfl
@[simp] theorem updTenant_spare (s : State) (t : Nat) (f : Tenant → Tenant) : (s.updTenant t f).spare = s.spare := rfl
@[simp] theorem updTenant_cores (s : State) (t : Nat) (f : Tenant → Tenant) : (s.updTenant t f).cores = s.cores := rfl
@[simp] theorem updTenant_dies (s : State) (t : Nat) (f : Tenant → Tenant) : (s.updTenant t f).dies = s.dies := rfl
@[simp] theorem updTenant_ports (s : State) (t : Nat) (f : Tenant → Tenant) : (s.updTenant t f).ports = s.ports := rfl
@[simp] theorem updTenant_planes (s : State) (t : Nat) (f : Tenant → Tenant) : (s.updTenant t f).planes = s.planes := rfl
@[simp] theorem updTenant_booted (s : State) (t : Nat) (f : Tenant → Tenant) : (s.updTenant t f).booted = s.booted := rfl
@[simp] theorem updTenant_walks (s : State) (t : Nat) (f : Tenant → Tenant) : (s.updTenant t f).walks = s.walks := rfl
@[simp] theorem updTenant_placed (s : State) (t : Nat) (f : Tenant → Tenant) : (s.updTenant t f).placed = s.placed := rfl
@[simp] theorem updTenant_rrTenant (s : State) (t : Nat) (f : Tenant → Tenant) : (s.updTenant t f).rrTenant = s.rrTenant := rfl
@[simp] theorem updTenant_launches (s : State) (t : Nat) (f : Tenant → Tenant) : (s.updTenant t f).launches = s.launches := rfl
@[simp] theorem updTenant_wgs (s : State) (t : Nat) (f : Tenant → Tenant) : (s.updTenant t f).wgs = s.wgs := rfl
@[simp] theorem updTenant_outCores (s : State) (t : Nat) (f : Tenant → Tenant) : (s.updTenant t f).outCores = s.outCores := rfl
@[simp] theorem updTenant_episodes (s : State) (t : Nat) (f : Tenant → Tenant) : (s.updTenant t f).episodes = s.episodes := rfl
@[simp] theorem updTenant_joinedQ (s : State) (t : Nat) (f : Tenant → Tenant) : (s.updTenant t f).joinedQ = s.joinedQ := rfl
@[simp] theorem updTenant_escrow (s : State) (t : Nat) (f : Tenant → Tenant) : (s.updTenant t f).escrow = s.escrow := rfl
@[simp] theorem updTenant_rewardsOut (s : State) (t : Nat) (f : Tenant → Tenant) : (s.updTenant t f).rewardsOut = s.rewardsOut := rfl
@[simp] theorem updTenant_joinCycle (s : State) (t : Nat) (f : Tenant → Tenant) : (s.updTenant t f).joinCycle = s.joinCycle := rfl
@[simp] theorem updTenant_msgs (s : State) (t : Nat) (f : Tenant → Tenant) : (s.updTenant t f).msgs = s.msgs := rfl
@[simp] theorem updTenant_groups (s : State) (t : Nat) (f : Tenant → Tenant) : (s.updTenant t f).groups = s.groups := rfl
@[simp] theorem updTenant_resids (s : State) (t : Nat) (f : Tenant → Tenant) : (s.updTenant t f).resids = s.resids := rfl
@[simp] theorem updTenant_slots (s : State) (t : Nat) (f : Tenant → Tenant) : (s.updTenant t f).slots = s.slots := rfl
@[simp] theorem updTenant_pushes (s : State) (t : Nat) (f : Tenant → Tenant) : (s.updTenant t f).pushes = s.pushes := rfl
@[simp] theorem updTenant_ctxs (s : State) (t : Nat) (f : Tenant → Tenant) : (s.updTenant t f).ctxs = s.ctxs := rfl
@[simp] theorem updTenant_targets (s : State) (t : Nat) (f : Tenant → Tenant) : (s.updTenant t f).targets = s.targets := rfl
@[simp] theorem updTenant_lost (s : State) (t : Nat) (f : Tenant → Tenant) : (s.updTenant t f).lost = s.lost := rfl
@[simp] theorem updTenant_domain (s : State) (t : Nat) (f : Tenant → Tenant) : (s.updTenant t f).domain = s.domain := rfl
@[simp] theorem updTenant_recs (s : State) (t : Nat) (f : Tenant → Tenant) : (s.updTenant t f).recs = s.recs := rfl
@[simp] theorem updTenant_mint (s : State) (t : Nat) (f : Tenant → Tenant) : (s.updTenant t f).mint = s.mint := rfl
@[simp] theorem updTenant_power (s : State) (t : Nat) (f : Tenant → Tenant) : (s.updTenant t f).power = s.power := rfl
@[simp] theorem updTenant_sysBase (s : State) (t : Nat) (f : Tenant → Tenant) : (s.updTenant t f).sysBase = s.sysBase := rfl
@[simp] theorem updTenant_sysSize (s : State) (t : Nat) (f : Tenant → Tenant) : (s.updTenant t f).sysSize = s.sysSize := rfl
@[simp] theorem updTenant_scrub (s : State) (t : Nat) (f : Tenant → Tenant) : (s.updTenant t f).scrub = s.scrub := rfl
@[simp] theorem updTenant_log_ (s : State) (t : Nat) (f : Tenant → Tenant) : (s.updTenant t f).log_ = s.log_ := rfl
@[simp] theorem updTenant_hubEv (s : State) (t : Nat) (f : Tenant → Tenant) : (s.updTenant t f).hubEv = s.hubEv := rfl
@[simp] theorem updTenant_entrySvc (s : State) (t : Nat) (f : Tenant → Tenant) : (s.updTenant t f).entrySvc = s.entrySvc := rfl
@[simp] theorem updTenant_entrySave (s : State) (t : Nat) (f : Tenant → Tenant) : (s.updTenant t f).entrySave = s.entrySave := rfl
@[simp] theorem updTenant_entryRestore (s : State) (t : Nat) (f : Tenant → Tenant) : (s.updTenant t f).entryRestore = s.entryRestore := rfl
@[simp] theorem updTenant_sys (s : State) (t : Nat) (f : Tenant → Tenant) : (s.updTenant t f).sys = s.sys := rfl
@[simp] theorem updTenant_refused (s : State) (t : Nat) (f : Tenant → Tenant) : (s.updTenant t f).refused = s.refused := rfl
@[simp] theorem updTenant_ueOut (s : State) (t : Nat) (f : Tenant → Tenant) : (s.updTenant t f).ueOut = s.ueOut := rfl
@[simp] theorem updTenant_utfortSt (s : State) (t : Nat) (f : Tenant → Tenant) : (s.updTenant t f).utfortSt = s.utfortSt := rfl
@[simp] theorem updTenant_ueWins (s : State) (t : Nat) (f : Tenant → Tenant) : (s.updTenant t f).ueWins = s.ueWins := rfl
@[simp] theorem updTenant_uePorts (s : State) (t : Nat) (f : Tenant → Tenant) : (s.updTenant t f).uePorts = s.uePorts := rfl
@[simp] theorem updTenant_fetched (s : State) (t : Nat) (f : Tenant → Tenant) : (s.updTenant t f).fetched = s.fetched := rfl
@[simp] theorem updTenant_fetchBad (s : State) (t : Nat) (f : Tenant → Tenant) : (s.updTenant t f).fetchBad = s.fetchBad := rfl
@[simp] theorem updTenant_swOwned (s : State) (t : Nat) (f : Tenant → Tenant) : (s.updTenant t f).swOwned = s.swOwned := rfl
@[simp] theorem updTenant_swAsked (s : State) (t : Nat) (f : Tenant → Tenant) : (s.updTenant t f).swAsked = s.swAsked := rfl
@[simp] theorem updTenant_errCnt (s : State) (t : Nat) (f : Tenant → Tenant) : (s.updTenant t f).errCnt = s.errCnt := rfl
@[simp] theorem updTenant_told (s : State) (t : Nat) (f : Tenant → Tenant) : (s.updTenant t f).told = s.told := rfl
@[simp] theorem updTenant_hubCycle (s : State) (t : Nat) (f : Tenant → Tenant) : (s.updTenant t f).hubCycle = s.hubCycle := rfl
@[simp] theorem updQueue_agenda (s : State) (t q : Nat) (f : Queue → Queue) : (s.updQueue t q f).agenda = s.agenda := rfl
@[simp] theorem updQueue_cur (s : State) (t q : Nat) (f : Queue → Queue) : (s.updQueue t q f).cur = s.cur := rfl
@[simp] theorem updQueue_arg (s : State) (t q : Nat) (f : Queue → Queue) : (s.updQueue t q f).arg = s.arg := rfl
@[simp] theorem updQueue_flow (s : State) (t q : Nat) (f : Queue → Queue) : (s.updQueue t q f).flow = s.flow := rfl
@[simp] theorem updQueue_fresh (s : State) (t q : Nat) (f : Queue → Queue) : (s.updQueue t q f).fresh = s.fresh := rfl
@[simp] theorem updQueue_nextId (s : State) (t q : Nat) (f : Queue → Queue) : (s.updQueue t q f).nextId = s.nextId := rfl
@[simp] theorem updQueue_dev (s : State) (t q : Nat) (f : Queue → Queue) : (s.updQueue t q f).dev = s.dev := rfl
@[simp] theorem updQueue_joined (s : State) (t q : Nat) (f : Queue → Queue) : (s.updQueue t q f).joined = s.joined := rfl
@[simp] theorem updQueue_flat (s : State) (t q : Nat) (f : Queue → Queue) : (s.updQueue t q f).flat = s.flat := rfl
@[simp] theorem updQueue_mem (s : State) (t q : Nat) (f : Queue → Queue) : (s.updQueue t q f).mem = s.mem := rfl
@[simp] theorem updQueue_full (s : State) (t q : Nat) (f : Queue → Queue) : (s.updQueue t q f).full = s.full := rfl
@[simp] theorem updQueue_ldfq (s : State) (t q : Nat) (f : Queue → Queue) : (s.updQueue t q f).ldfq = s.ldfq := rfl
@[simp] theorem updQueue_errs (s : State) (t q : Nat) (f : Queue → Queue) : (s.updQueue t q f).errs = s.errs := rfl
@[simp] theorem updQueue_spare (s : State) (t q : Nat) (f : Queue → Queue) : (s.updQueue t q f).spare = s.spare := rfl
@[simp] theorem updQueue_cores (s : State) (t q : Nat) (f : Queue → Queue) : (s.updQueue t q f).cores = s.cores := rfl
@[simp] theorem updQueue_dies (s : State) (t q : Nat) (f : Queue → Queue) : (s.updQueue t q f).dies = s.dies := rfl
@[simp] theorem updQueue_ports (s : State) (t q : Nat) (f : Queue → Queue) : (s.updQueue t q f).ports = s.ports := rfl
@[simp] theorem updQueue_planes (s : State) (t q : Nat) (f : Queue → Queue) : (s.updQueue t q f).planes = s.planes := rfl
@[simp] theorem updQueue_booted (s : State) (t q : Nat) (f : Queue → Queue) : (s.updQueue t q f).booted = s.booted := rfl
@[simp] theorem updQueue_walks (s : State) (t q : Nat) (f : Queue → Queue) : (s.updQueue t q f).walks = s.walks := rfl
@[simp] theorem updQueue_placed (s : State) (t q : Nat) (f : Queue → Queue) : (s.updQueue t q f).placed = s.placed := rfl
@[simp] theorem updQueue_rrTenant (s : State) (t q : Nat) (f : Queue → Queue) : (s.updQueue t q f).rrTenant = s.rrTenant := rfl
@[simp] theorem updQueue_launches (s : State) (t q : Nat) (f : Queue → Queue) : (s.updQueue t q f).launches = s.launches := rfl
@[simp] theorem updQueue_wgs (s : State) (t q : Nat) (f : Queue → Queue) : (s.updQueue t q f).wgs = s.wgs := rfl
@[simp] theorem updQueue_outCores (s : State) (t q : Nat) (f : Queue → Queue) : (s.updQueue t q f).outCores = s.outCores := rfl
@[simp] theorem updQueue_episodes (s : State) (t q : Nat) (f : Queue → Queue) : (s.updQueue t q f).episodes = s.episodes := rfl
@[simp] theorem updQueue_joinedQ (s : State) (t q : Nat) (f : Queue → Queue) : (s.updQueue t q f).joinedQ = s.joinedQ := rfl
@[simp] theorem updQueue_escrow (s : State) (t q : Nat) (f : Queue → Queue) : (s.updQueue t q f).escrow = s.escrow := rfl
@[simp] theorem updQueue_rewardsOut (s : State) (t q : Nat) (f : Queue → Queue) : (s.updQueue t q f).rewardsOut = s.rewardsOut := rfl
@[simp] theorem updQueue_joinCycle (s : State) (t q : Nat) (f : Queue → Queue) : (s.updQueue t q f).joinCycle = s.joinCycle := rfl
@[simp] theorem updQueue_msgs (s : State) (t q : Nat) (f : Queue → Queue) : (s.updQueue t q f).msgs = s.msgs := rfl
@[simp] theorem updQueue_groups (s : State) (t q : Nat) (f : Queue → Queue) : (s.updQueue t q f).groups = s.groups := rfl
@[simp] theorem updQueue_resids (s : State) (t q : Nat) (f : Queue → Queue) : (s.updQueue t q f).resids = s.resids := rfl
@[simp] theorem updQueue_slots (s : State) (t q : Nat) (f : Queue → Queue) : (s.updQueue t q f).slots = s.slots := rfl
@[simp] theorem updQueue_pushes (s : State) (t q : Nat) (f : Queue → Queue) : (s.updQueue t q f).pushes = s.pushes := rfl
@[simp] theorem updQueue_ctxs (s : State) (t q : Nat) (f : Queue → Queue) : (s.updQueue t q f).ctxs = s.ctxs := rfl
@[simp] theorem updQueue_targets (s : State) (t q : Nat) (f : Queue → Queue) : (s.updQueue t q f).targets = s.targets := rfl
@[simp] theorem updQueue_lost (s : State) (t q : Nat) (f : Queue → Queue) : (s.updQueue t q f).lost = s.lost := rfl
@[simp] theorem updQueue_domain (s : State) (t q : Nat) (f : Queue → Queue) : (s.updQueue t q f).domain = s.domain := rfl
@[simp] theorem updQueue_recs (s : State) (t q : Nat) (f : Queue → Queue) : (s.updQueue t q f).recs = s.recs := rfl
@[simp] theorem updQueue_mint (s : State) (t q : Nat) (f : Queue → Queue) : (s.updQueue t q f).mint = s.mint := rfl
@[simp] theorem updQueue_power (s : State) (t q : Nat) (f : Queue → Queue) : (s.updQueue t q f).power = s.power := rfl
@[simp] theorem updQueue_sysBase (s : State) (t q : Nat) (f : Queue → Queue) : (s.updQueue t q f).sysBase = s.sysBase := rfl
@[simp] theorem updQueue_sysSize (s : State) (t q : Nat) (f : Queue → Queue) : (s.updQueue t q f).sysSize = s.sysSize := rfl
@[simp] theorem updQueue_scrub (s : State) (t q : Nat) (f : Queue → Queue) : (s.updQueue t q f).scrub = s.scrub := rfl
@[simp] theorem updQueue_log_ (s : State) (t q : Nat) (f : Queue → Queue) : (s.updQueue t q f).log_ = s.log_ := rfl
@[simp] theorem updQueue_hubEv (s : State) (t q : Nat) (f : Queue → Queue) : (s.updQueue t q f).hubEv = s.hubEv := rfl
@[simp] theorem updQueue_entrySvc (s : State) (t q : Nat) (f : Queue → Queue) : (s.updQueue t q f).entrySvc = s.entrySvc := rfl
@[simp] theorem updQueue_entrySave (s : State) (t q : Nat) (f : Queue → Queue) : (s.updQueue t q f).entrySave = s.entrySave := rfl
@[simp] theorem updQueue_entryRestore (s : State) (t q : Nat) (f : Queue → Queue) : (s.updQueue t q f).entryRestore = s.entryRestore := rfl
@[simp] theorem updQueue_sys (s : State) (t q : Nat) (f : Queue → Queue) : (s.updQueue t q f).sys = s.sys := rfl
@[simp] theorem updQueue_refused (s : State) (t q : Nat) (f : Queue → Queue) : (s.updQueue t q f).refused = s.refused := rfl
@[simp] theorem updQueue_ueOut (s : State) (t q : Nat) (f : Queue → Queue) : (s.updQueue t q f).ueOut = s.ueOut := rfl
@[simp] theorem updQueue_utfortSt (s : State) (t q : Nat) (f : Queue → Queue) : (s.updQueue t q f).utfortSt = s.utfortSt := rfl
@[simp] theorem updQueue_ueWins (s : State) (t q : Nat) (f : Queue → Queue) : (s.updQueue t q f).ueWins = s.ueWins := rfl
@[simp] theorem updQueue_uePorts (s : State) (t q : Nat) (f : Queue → Queue) : (s.updQueue t q f).uePorts = s.uePorts := rfl
@[simp] theorem updQueue_fetched (s : State) (t q : Nat) (f : Queue → Queue) : (s.updQueue t q f).fetched = s.fetched := rfl
@[simp] theorem updQueue_fetchBad (s : State) (t q : Nat) (f : Queue → Queue) : (s.updQueue t q f).fetchBad = s.fetchBad := rfl
@[simp] theorem updQueue_swOwned (s : State) (t q : Nat) (f : Queue → Queue) : (s.updQueue t q f).swOwned = s.swOwned := rfl
@[simp] theorem updQueue_swAsked (s : State) (t q : Nat) (f : Queue → Queue) : (s.updQueue t q f).swAsked = s.swAsked := rfl
@[simp] theorem updQueue_errCnt (s : State) (t q : Nat) (f : Queue → Queue) : (s.updQueue t q f).errCnt = s.errCnt := rfl
@[simp] theorem updQueue_told (s : State) (t q : Nat) (f : Queue → Queue) : (s.updQueue t q f).told = s.told := rfl
@[simp] theorem updQueue_hubCycle (s : State) (t q : Nat) (f : Queue → Queue) : (s.updQueue t q f).hubCycle = s.hubCycle := rfl
@[simp] theorem updWg_agenda (s : State) (g : Nat) (f : Wg → Wg) : (s.updWg g f).agenda = s.agenda := rfl
@[simp] theorem updWg_cur (s : State) (g : Nat) (f : Wg → Wg) : (s.updWg g f).cur = s.cur := rfl
@[simp] theorem updWg_arg (s : State) (g : Nat) (f : Wg → Wg) : (s.updWg g f).arg = s.arg := rfl
@[simp] theorem updWg_flow (s : State) (g : Nat) (f : Wg → Wg) : (s.updWg g f).flow = s.flow := rfl
@[simp] theorem updWg_fresh (s : State) (g : Nat) (f : Wg → Wg) : (s.updWg g f).fresh = s.fresh := rfl
@[simp] theorem updWg_nextId (s : State) (g : Nat) (f : Wg → Wg) : (s.updWg g f).nextId = s.nextId := rfl
@[simp] theorem updWg_dev (s : State) (g : Nat) (f : Wg → Wg) : (s.updWg g f).dev = s.dev := rfl
@[simp] theorem updWg_joined (s : State) (g : Nat) (f : Wg → Wg) : (s.updWg g f).joined = s.joined := rfl
@[simp] theorem updWg_flat (s : State) (g : Nat) (f : Wg → Wg) : (s.updWg g f).flat = s.flat := rfl
@[simp] theorem updWg_mem (s : State) (g : Nat) (f : Wg → Wg) : (s.updWg g f).mem = s.mem := rfl
@[simp] theorem updWg_full (s : State) (g : Nat) (f : Wg → Wg) : (s.updWg g f).full = s.full := rfl
@[simp] theorem updWg_ldfq (s : State) (g : Nat) (f : Wg → Wg) : (s.updWg g f).ldfq = s.ldfq := rfl
@[simp] theorem updWg_errs (s : State) (g : Nat) (f : Wg → Wg) : (s.updWg g f).errs = s.errs := rfl
@[simp] theorem updWg_spare (s : State) (g : Nat) (f : Wg → Wg) : (s.updWg g f).spare = s.spare := rfl
@[simp] theorem updWg_cores (s : State) (g : Nat) (f : Wg → Wg) : (s.updWg g f).cores = s.cores := rfl
@[simp] theorem updWg_dies (s : State) (g : Nat) (f : Wg → Wg) : (s.updWg g f).dies = s.dies := rfl
@[simp] theorem updWg_ports (s : State) (g : Nat) (f : Wg → Wg) : (s.updWg g f).ports = s.ports := rfl
@[simp] theorem updWg_planes (s : State) (g : Nat) (f : Wg → Wg) : (s.updWg g f).planes = s.planes := rfl
@[simp] theorem updWg_booted (s : State) (g : Nat) (f : Wg → Wg) : (s.updWg g f).booted = s.booted := rfl
@[simp] theorem updWg_walks (s : State) (g : Nat) (f : Wg → Wg) : (s.updWg g f).walks = s.walks := rfl
@[simp] theorem updWg_tenants (s : State) (g : Nat) (f : Wg → Wg) : (s.updWg g f).tenants = s.tenants := rfl
@[simp] theorem updWg_placed (s : State) (g : Nat) (f : Wg → Wg) : (s.updWg g f).placed = s.placed := rfl
@[simp] theorem updWg_rrTenant (s : State) (g : Nat) (f : Wg → Wg) : (s.updWg g f).rrTenant = s.rrTenant := rfl
@[simp] theorem updWg_launches (s : State) (g : Nat) (f : Wg → Wg) : (s.updWg g f).launches = s.launches := rfl
@[simp] theorem updWg_outCores (s : State) (g : Nat) (f : Wg → Wg) : (s.updWg g f).outCores = s.outCores := rfl
@[simp] theorem updWg_episodes (s : State) (g : Nat) (f : Wg → Wg) : (s.updWg g f).episodes = s.episodes := rfl
@[simp] theorem updWg_joinedQ (s : State) (g : Nat) (f : Wg → Wg) : (s.updWg g f).joinedQ = s.joinedQ := rfl
@[simp] theorem updWg_escrow (s : State) (g : Nat) (f : Wg → Wg) : (s.updWg g f).escrow = s.escrow := rfl
@[simp] theorem updWg_rewardsOut (s : State) (g : Nat) (f : Wg → Wg) : (s.updWg g f).rewardsOut = s.rewardsOut := rfl
@[simp] theorem updWg_joinCycle (s : State) (g : Nat) (f : Wg → Wg) : (s.updWg g f).joinCycle = s.joinCycle := rfl
@[simp] theorem updWg_msgs (s : State) (g : Nat) (f : Wg → Wg) : (s.updWg g f).msgs = s.msgs := rfl
@[simp] theorem updWg_groups (s : State) (g : Nat) (f : Wg → Wg) : (s.updWg g f).groups = s.groups := rfl
@[simp] theorem updWg_resids (s : State) (g : Nat) (f : Wg → Wg) : (s.updWg g f).resids = s.resids := rfl
@[simp] theorem updWg_slots (s : State) (g : Nat) (f : Wg → Wg) : (s.updWg g f).slots = s.slots := rfl
@[simp] theorem updWg_pushes (s : State) (g : Nat) (f : Wg → Wg) : (s.updWg g f).pushes = s.pushes := rfl
@[simp] theorem updWg_ctxs (s : State) (g : Nat) (f : Wg → Wg) : (s.updWg g f).ctxs = s.ctxs := rfl
@[simp] theorem updWg_targets (s : State) (g : Nat) (f : Wg → Wg) : (s.updWg g f).targets = s.targets := rfl
@[simp] theorem updWg_lost (s : State) (g : Nat) (f : Wg → Wg) : (s.updWg g f).lost = s.lost := rfl
@[simp] theorem updWg_domain (s : State) (g : Nat) (f : Wg → Wg) : (s.updWg g f).domain = s.domain := rfl
@[simp] theorem updWg_recs (s : State) (g : Nat) (f : Wg → Wg) : (s.updWg g f).recs = s.recs := rfl
@[simp] theorem updWg_mint (s : State) (g : Nat) (f : Wg → Wg) : (s.updWg g f).mint = s.mint := rfl
@[simp] theorem updWg_power (s : State) (g : Nat) (f : Wg → Wg) : (s.updWg g f).power = s.power := rfl
@[simp] theorem updWg_sysBase (s : State) (g : Nat) (f : Wg → Wg) : (s.updWg g f).sysBase = s.sysBase := rfl
@[simp] theorem updWg_sysSize (s : State) (g : Nat) (f : Wg → Wg) : (s.updWg g f).sysSize = s.sysSize := rfl
@[simp] theorem updWg_scrub (s : State) (g : Nat) (f : Wg → Wg) : (s.updWg g f).scrub = s.scrub := rfl
@[simp] theorem updWg_log_ (s : State) (g : Nat) (f : Wg → Wg) : (s.updWg g f).log_ = s.log_ := rfl
@[simp] theorem updWg_hubEv (s : State) (g : Nat) (f : Wg → Wg) : (s.updWg g f).hubEv = s.hubEv := rfl
@[simp] theorem updWg_entrySvc (s : State) (g : Nat) (f : Wg → Wg) : (s.updWg g f).entrySvc = s.entrySvc := rfl
@[simp] theorem updWg_entrySave (s : State) (g : Nat) (f : Wg → Wg) : (s.updWg g f).entrySave = s.entrySave := rfl
@[simp] theorem updWg_entryRestore (s : State) (g : Nat) (f : Wg → Wg) : (s.updWg g f).entryRestore = s.entryRestore := rfl
@[simp] theorem updWg_sys (s : State) (g : Nat) (f : Wg → Wg) : (s.updWg g f).sys = s.sys := rfl
@[simp] theorem updWg_refused (s : State) (g : Nat) (f : Wg → Wg) : (s.updWg g f).refused = s.refused := rfl
@[simp] theorem updWg_ueOut (s : State) (g : Nat) (f : Wg → Wg) : (s.updWg g f).ueOut = s.ueOut := rfl
@[simp] theorem updWg_utfortSt (s : State) (g : Nat) (f : Wg → Wg) : (s.updWg g f).utfortSt = s.utfortSt := rfl
@[simp] theorem updWg_ueWins (s : State) (g : Nat) (f : Wg → Wg) : (s.updWg g f).ueWins = s.ueWins := rfl
@[simp] theorem updWg_uePorts (s : State) (g : Nat) (f : Wg → Wg) : (s.updWg g f).uePorts = s.uePorts := rfl
@[simp] theorem updWg_fetched (s : State) (g : Nat) (f : Wg → Wg) : (s.updWg g f).fetched = s.fetched := rfl
@[simp] theorem updWg_fetchBad (s : State) (g : Nat) (f : Wg → Wg) : (s.updWg g f).fetchBad = s.fetchBad := rfl
@[simp] theorem updWg_swOwned (s : State) (g : Nat) (f : Wg → Wg) : (s.updWg g f).swOwned = s.swOwned := rfl
@[simp] theorem updWg_swAsked (s : State) (g : Nat) (f : Wg → Wg) : (s.updWg g f).swAsked = s.swAsked := rfl
@[simp] theorem updWg_errCnt (s : State) (g : Nat) (f : Wg → Wg) : (s.updWg g f).errCnt = s.errCnt := rfl
@[simp] theorem updWg_told (s : State) (g : Nat) (f : Wg → Wg) : (s.updWg g f).told = s.told := rfl
@[simp] theorem updWg_hubCycle (s : State) (g : Nat) (f : Wg → Wg) : (s.updWg g f).hubCycle = s.hubCycle := rfl
@[simp] theorem countCore_agenda (s : State) (c e t n : Nat) : (s.countCore c e t n).agenda = s.agenda := rfl
@[simp] theorem countCore_cur (s : State) (c e t n : Nat) : (s.countCore c e t n).cur = s.cur := rfl
@[simp] theorem countCore_arg (s : State) (c e t n : Nat) : (s.countCore c e t n).arg = s.arg := rfl
@[simp] theorem countCore_flow (s : State) (c e t n : Nat) : (s.countCore c e t n).flow = s.flow := rfl
@[simp] theorem countCore_fresh (s : State) (c e t n : Nat) : (s.countCore c e t n).fresh = s.fresh := rfl
@[simp] theorem countCore_nextId (s : State) (c e t n : Nat) : (s.countCore c e t n).nextId = s.nextId := rfl
@[simp] theorem countCore_dev (s : State) (c e t n : Nat) : (s.countCore c e t n).dev = s.dev := rfl
@[simp] theorem countCore_joined (s : State) (c e t n : Nat) : (s.countCore c e t n).joined = s.joined := rfl
@[simp] theorem countCore_flat (s : State) (c e t n : Nat) : (s.countCore c e t n).flat = s.flat := rfl
@[simp] theorem countCore_mem (s : State) (c e t n : Nat) : (s.countCore c e t n).mem = s.mem := rfl
@[simp] theorem countCore_full (s : State) (c e t n : Nat) : (s.countCore c e t n).full = s.full := rfl
@[simp] theorem countCore_ldfq (s : State) (c e t n : Nat) : (s.countCore c e t n).ldfq = s.ldfq := rfl
@[simp] theorem countCore_errs (s : State) (c e t n : Nat) : (s.countCore c e t n).errs = s.errs := rfl
@[simp] theorem countCore_spare (s : State) (c e t n : Nat) : (s.countCore c e t n).spare = s.spare := rfl
@[simp] theorem countCore_dies (s : State) (c e t n : Nat) : (s.countCore c e t n).dies = s.dies := rfl
@[simp] theorem countCore_ports (s : State) (c e t n : Nat) : (s.countCore c e t n).ports = s.ports := rfl
@[simp] theorem countCore_planes (s : State) (c e t n : Nat) : (s.countCore c e t n).planes = s.planes := rfl
@[simp] theorem countCore_booted (s : State) (c e t n : Nat) : (s.countCore c e t n).booted = s.booted := rfl
@[simp] theorem countCore_walks (s : State) (c e t n : Nat) : (s.countCore c e t n).walks = s.walks := rfl
@[simp] theorem countCore_tenants (s : State) (c e t n : Nat) : (s.countCore c e t n).tenants = s.tenants := rfl
@[simp] theorem countCore_placed (s : State) (c e t n : Nat) : (s.countCore c e t n).placed = s.placed := rfl
@[simp] theorem countCore_rrTenant (s : State) (c e t n : Nat) : (s.countCore c e t n).rrTenant = s.rrTenant := rfl
@[simp] theorem countCore_launches (s : State) (c e t n : Nat) : (s.countCore c e t n).launches = s.launches := rfl
@[simp] theorem countCore_wgs (s : State) (c e t n : Nat) : (s.countCore c e t n).wgs = s.wgs := rfl
@[simp] theorem countCore_outCores (s : State) (c e t n : Nat) : (s.countCore c e t n).outCores = s.outCores := rfl
@[simp] theorem countCore_episodes (s : State) (c e t n : Nat) : (s.countCore c e t n).episodes = s.episodes := rfl
@[simp] theorem countCore_joinedQ (s : State) (c e t n : Nat) : (s.countCore c e t n).joinedQ = s.joinedQ := rfl
@[simp] theorem countCore_escrow (s : State) (c e t n : Nat) : (s.countCore c e t n).escrow = s.escrow := rfl
@[simp] theorem countCore_rewardsOut (s : State) (c e t n : Nat) : (s.countCore c e t n).rewardsOut = s.rewardsOut := rfl
@[simp] theorem countCore_joinCycle (s : State) (c e t n : Nat) : (s.countCore c e t n).joinCycle = s.joinCycle := rfl
@[simp] theorem countCore_msgs (s : State) (c e t n : Nat) : (s.countCore c e t n).msgs = s.msgs := rfl
@[simp] theorem countCore_groups (s : State) (c e t n : Nat) : (s.countCore c e t n).groups = s.groups := rfl
@[simp] theorem countCore_resids (s : State) (c e t n : Nat) : (s.countCore c e t n).resids = s.resids := rfl
@[simp] theorem countCore_slots (s : State) (c e t n : Nat) : (s.countCore c e t n).slots = s.slots := rfl
@[simp] theorem countCore_pushes (s : State) (c e t n : Nat) : (s.countCore c e t n).pushes = s.pushes := rfl
@[simp] theorem countCore_ctxs (s : State) (c e t n : Nat) : (s.countCore c e t n).ctxs = s.ctxs := rfl
@[simp] theorem countCore_targets (s : State) (c e t n : Nat) : (s.countCore c e t n).targets = s.targets := rfl
@[simp] theorem countCore_lost (s : State) (c e t n : Nat) : (s.countCore c e t n).lost = s.lost := rfl
@[simp] theorem countCore_domain (s : State) (c e t n : Nat) : (s.countCore c e t n).domain = s.domain := rfl
@[simp] theorem countCore_recs (s : State) (c e t n : Nat) : (s.countCore c e t n).recs = s.recs := rfl
@[simp] theorem countCore_mint (s : State) (c e t n : Nat) : (s.countCore c e t n).mint = s.mint := rfl
@[simp] theorem countCore_power (s : State) (c e t n : Nat) : (s.countCore c e t n).power = s.power := rfl
@[simp] theorem countCore_sysBase (s : State) (c e t n : Nat) : (s.countCore c e t n).sysBase = s.sysBase := rfl
@[simp] theorem countCore_sysSize (s : State) (c e t n : Nat) : (s.countCore c e t n).sysSize = s.sysSize := rfl
@[simp] theorem countCore_scrub (s : State) (c e t n : Nat) : (s.countCore c e t n).scrub = s.scrub := rfl
@[simp] theorem countCore_log_ (s : State) (c e t n : Nat) : (s.countCore c e t n).log_ = s.log_ := rfl
@[simp] theorem countCore_hubEv (s : State) (c e t n : Nat) : (s.countCore c e t n).hubEv = s.hubEv := rfl
@[simp] theorem countCore_entrySvc (s : State) (c e t n : Nat) : (s.countCore c e t n).entrySvc = s.entrySvc := rfl
@[simp] theorem countCore_entrySave (s : State) (c e t n : Nat) : (s.countCore c e t n).entrySave = s.entrySave := rfl
@[simp] theorem countCore_entryRestore (s : State) (c e t n : Nat) : (s.countCore c e t n).entryRestore = s.entryRestore := rfl
@[simp] theorem countCore_sys (s : State) (c e t n : Nat) : (s.countCore c e t n).sys = s.sys := rfl
@[simp] theorem countCore_refused (s : State) (c e t n : Nat) : (s.countCore c e t n).refused = s.refused := rfl
@[simp] theorem countCore_ueOut (s : State) (c e t n : Nat) : (s.countCore c e t n).ueOut = s.ueOut := rfl
@[simp] theorem countCore_utfortSt (s : State) (c e t n : Nat) : (s.countCore c e t n).utfortSt = s.utfortSt := rfl
@[simp] theorem countCore_ueWins (s : State) (c e t n : Nat) : (s.countCore c e t n).ueWins = s.ueWins := rfl
@[simp] theorem countCore_uePorts (s : State) (c e t n : Nat) : (s.countCore c e t n).uePorts = s.uePorts := rfl
@[simp] theorem countCore_fetched (s : State) (c e t n : Nat) : (s.countCore c e t n).fetched = s.fetched := rfl
@[simp] theorem countCore_fetchBad (s : State) (c e t n : Nat) : (s.countCore c e t n).fetchBad = s.fetchBad := rfl
@[simp] theorem countCore_swOwned (s : State) (c e t n : Nat) : (s.countCore c e t n).swOwned = s.swOwned := rfl
@[simp] theorem countCore_swAsked (s : State) (c e t n : Nat) : (s.countCore c e t n).swAsked = s.swAsked := rfl
@[simp] theorem countCore_errCnt (s : State) (c e t n : Nat) : (s.countCore c e t n).errCnt = s.errCnt := rfl
@[simp] theorem countCore_told (s : State) (c e t n : Nat) : (s.countCore c e t n).told = s.told := rfl
@[simp] theorem countCore_hubCycle (s : State) (c e t n : Nat) : (s.countCore c e t n).hubCycle = s.hubCycle := rfl
@[simp] theorem countHub_agenda (s : State) (e t n : Nat) : (s.countHub e t n).agenda = s.agenda := rfl
@[simp] theorem countHub_cur (s : State) (e t n : Nat) : (s.countHub e t n).cur = s.cur := rfl
@[simp] theorem countHub_arg (s : State) (e t n : Nat) : (s.countHub e t n).arg = s.arg := rfl
@[simp] theorem countHub_flow (s : State) (e t n : Nat) : (s.countHub e t n).flow = s.flow := rfl
@[simp] theorem countHub_fresh (s : State) (e t n : Nat) : (s.countHub e t n).fresh = s.fresh := rfl
@[simp] theorem countHub_nextId (s : State) (e t n : Nat) : (s.countHub e t n).nextId = s.nextId := rfl
@[simp] theorem countHub_dev (s : State) (e t n : Nat) : (s.countHub e t n).dev = s.dev := rfl
@[simp] theorem countHub_joined (s : State) (e t n : Nat) : (s.countHub e t n).joined = s.joined := rfl
@[simp] theorem countHub_flat (s : State) (e t n : Nat) : (s.countHub e t n).flat = s.flat := rfl
@[simp] theorem countHub_mem (s : State) (e t n : Nat) : (s.countHub e t n).mem = s.mem := rfl
@[simp] theorem countHub_full (s : State) (e t n : Nat) : (s.countHub e t n).full = s.full := rfl
@[simp] theorem countHub_ldfq (s : State) (e t n : Nat) : (s.countHub e t n).ldfq = s.ldfq := rfl
@[simp] theorem countHub_errs (s : State) (e t n : Nat) : (s.countHub e t n).errs = s.errs := rfl
@[simp] theorem countHub_spare (s : State) (e t n : Nat) : (s.countHub e t n).spare = s.spare := rfl
@[simp] theorem countHub_cores (s : State) (e t n : Nat) : (s.countHub e t n).cores = s.cores := rfl
@[simp] theorem countHub_dies (s : State) (e t n : Nat) : (s.countHub e t n).dies = s.dies := rfl
@[simp] theorem countHub_ports (s : State) (e t n : Nat) : (s.countHub e t n).ports = s.ports := rfl
@[simp] theorem countHub_planes (s : State) (e t n : Nat) : (s.countHub e t n).planes = s.planes := rfl
@[simp] theorem countHub_booted (s : State) (e t n : Nat) : (s.countHub e t n).booted = s.booted := rfl
@[simp] theorem countHub_walks (s : State) (e t n : Nat) : (s.countHub e t n).walks = s.walks := rfl
@[simp] theorem countHub_tenants (s : State) (e t n : Nat) : (s.countHub e t n).tenants = s.tenants := rfl
@[simp] theorem countHub_placed (s : State) (e t n : Nat) : (s.countHub e t n).placed = s.placed := rfl
@[simp] theorem countHub_rrTenant (s : State) (e t n : Nat) : (s.countHub e t n).rrTenant = s.rrTenant := rfl
@[simp] theorem countHub_launches (s : State) (e t n : Nat) : (s.countHub e t n).launches = s.launches := rfl
@[simp] theorem countHub_wgs (s : State) (e t n : Nat) : (s.countHub e t n).wgs = s.wgs := rfl
@[simp] theorem countHub_outCores (s : State) (e t n : Nat) : (s.countHub e t n).outCores = s.outCores := rfl
@[simp] theorem countHub_episodes (s : State) (e t n : Nat) : (s.countHub e t n).episodes = s.episodes := rfl
@[simp] theorem countHub_joinedQ (s : State) (e t n : Nat) : (s.countHub e t n).joinedQ = s.joinedQ := rfl
@[simp] theorem countHub_escrow (s : State) (e t n : Nat) : (s.countHub e t n).escrow = s.escrow := rfl
@[simp] theorem countHub_rewardsOut (s : State) (e t n : Nat) : (s.countHub e t n).rewardsOut = s.rewardsOut := rfl
@[simp] theorem countHub_joinCycle (s : State) (e t n : Nat) : (s.countHub e t n).joinCycle = s.joinCycle := rfl
@[simp] theorem countHub_msgs (s : State) (e t n : Nat) : (s.countHub e t n).msgs = s.msgs := rfl
@[simp] theorem countHub_groups (s : State) (e t n : Nat) : (s.countHub e t n).groups = s.groups := rfl
@[simp] theorem countHub_resids (s : State) (e t n : Nat) : (s.countHub e t n).resids = s.resids := rfl
@[simp] theorem countHub_slots (s : State) (e t n : Nat) : (s.countHub e t n).slots = s.slots := rfl
@[simp] theorem countHub_pushes (s : State) (e t n : Nat) : (s.countHub e t n).pushes = s.pushes := rfl
@[simp] theorem countHub_ctxs (s : State) (e t n : Nat) : (s.countHub e t n).ctxs = s.ctxs := rfl
@[simp] theorem countHub_targets (s : State) (e t n : Nat) : (s.countHub e t n).targets = s.targets := rfl
@[simp] theorem countHub_lost (s : State) (e t n : Nat) : (s.countHub e t n).lost = s.lost := rfl
@[simp] theorem countHub_domain (s : State) (e t n : Nat) : (s.countHub e t n).domain = s.domain := rfl
@[simp] theorem countHub_recs (s : State) (e t n : Nat) : (s.countHub e t n).recs = s.recs := rfl
@[simp] theorem countHub_mint (s : State) (e t n : Nat) : (s.countHub e t n).mint = s.mint := rfl
@[simp] theorem countHub_power (s : State) (e t n : Nat) : (s.countHub e t n).power = s.power := rfl
@[simp] theorem countHub_sysBase (s : State) (e t n : Nat) : (s.countHub e t n).sysBase = s.sysBase := rfl
@[simp] theorem countHub_sysSize (s : State) (e t n : Nat) : (s.countHub e t n).sysSize = s.sysSize := rfl
@[simp] theorem countHub_scrub (s : State) (e t n : Nat) : (s.countHub e t n).scrub = s.scrub := rfl
@[simp] theorem countHub_log_ (s : State) (e t n : Nat) : (s.countHub e t n).log_ = s.log_ := rfl
@[simp] theorem countHub_entrySvc (s : State) (e t n : Nat) : (s.countHub e t n).entrySvc = s.entrySvc := rfl
@[simp] theorem countHub_entrySave (s : State) (e t n : Nat) : (s.countHub e t n).entrySave = s.entrySave := rfl
@[simp] theorem countHub_entryRestore (s : State) (e t n : Nat) : (s.countHub e t n).entryRestore = s.entryRestore := rfl
@[simp] theorem countHub_sys (s : State) (e t n : Nat) : (s.countHub e t n).sys = s.sys := rfl
@[simp] theorem countHub_refused (s : State) (e t n : Nat) : (s.countHub e t n).refused = s.refused := rfl
@[simp] theorem countHub_ueOut (s : State) (e t n : Nat) : (s.countHub e t n).ueOut = s.ueOut := rfl
@[simp] theorem countHub_utfortSt (s : State) (e t n : Nat) : (s.countHub e t n).utfortSt = s.utfortSt := rfl
@[simp] theorem countHub_ueWins (s : State) (e t n : Nat) : (s.countHub e t n).ueWins = s.ueWins := rfl
@[simp] theorem countHub_uePorts (s : State) (e t n : Nat) : (s.countHub e t n).uePorts = s.uePorts := rfl
@[simp] theorem countHub_fetched (s : State) (e t n : Nat) : (s.countHub e t n).fetched = s.fetched := rfl
@[simp] theorem countHub_fetchBad (s : State) (e t n : Nat) : (s.countHub e t n).fetchBad = s.fetchBad := rfl
@[simp] theorem countHub_swOwned (s : State) (e t n : Nat) : (s.countHub e t n).swOwned = s.swOwned := rfl
@[simp] theorem countHub_swAsked (s : State) (e t n : Nat) : (s.countHub e t n).swAsked = s.swAsked := rfl
@[simp] theorem countHub_errCnt (s : State) (e t n : Nat) : (s.countHub e t n).errCnt = s.errCnt := rfl
@[simp] theorem countHub_told (s : State) (e t n : Nat) : (s.countHub e t n).told = s.told := rfl
@[simp] theorem countHub_hubCycle (s : State) (e t n : Nat) : (s.countHub e t n).hubCycle = s.hubCycle := rfl
@[simp] theorem updLaunch_agenda (s : State) (n : Nat) (f : Launch → Launch) : (s.updLaunch n f).agenda = s.agenda := by
  unfold State.updLaunch; split <;> rfl
@[simp] theorem updLaunch_cur (s : State) (n : Nat) (f : Launch → Launch) : (s.updLaunch n f).cur = s.cur := by
  unfold State.updLaunch; split <;> rfl
@[simp] theorem updLaunch_arg (s : State) (n : Nat) (f : Launch → Launch) : (s.updLaunch n f).arg = s.arg := by
  unfold State.updLaunch; split <;> rfl
@[simp] theorem updLaunch_flow (s : State) (n : Nat) (f : Launch → Launch) : (s.updLaunch n f).flow = s.flow := by
  unfold State.updLaunch; split <;> rfl
@[simp] theorem updLaunch_fresh (s : State) (n : Nat) (f : Launch → Launch) : (s.updLaunch n f).fresh = s.fresh := by
  unfold State.updLaunch; split <;> rfl
@[simp] theorem updLaunch_nextId (s : State) (n : Nat) (f : Launch → Launch) : (s.updLaunch n f).nextId = s.nextId := by
  unfold State.updLaunch; split <;> rfl
@[simp] theorem updLaunch_dev (s : State) (n : Nat) (f : Launch → Launch) : (s.updLaunch n f).dev = s.dev := by
  unfold State.updLaunch; split <;> rfl
@[simp] theorem updLaunch_joined (s : State) (n : Nat) (f : Launch → Launch) : (s.updLaunch n f).joined = s.joined := by
  unfold State.updLaunch; split <;> rfl
@[simp] theorem updLaunch_flat (s : State) (n : Nat) (f : Launch → Launch) : (s.updLaunch n f).flat = s.flat := by
  unfold State.updLaunch; split <;> rfl
@[simp] theorem updLaunch_mem (s : State) (n : Nat) (f : Launch → Launch) : (s.updLaunch n f).mem = s.mem := by
  unfold State.updLaunch; split <;> rfl
@[simp] theorem updLaunch_full (s : State) (n : Nat) (f : Launch → Launch) : (s.updLaunch n f).full = s.full := by
  unfold State.updLaunch; split <;> rfl
@[simp] theorem updLaunch_ldfq (s : State) (n : Nat) (f : Launch → Launch) : (s.updLaunch n f).ldfq = s.ldfq := by
  unfold State.updLaunch; split <;> rfl
@[simp] theorem updLaunch_errs (s : State) (n : Nat) (f : Launch → Launch) : (s.updLaunch n f).errs = s.errs := by
  unfold State.updLaunch; split <;> rfl
@[simp] theorem updLaunch_spare (s : State) (n : Nat) (f : Launch → Launch) : (s.updLaunch n f).spare = s.spare := by
  unfold State.updLaunch; split <;> rfl
@[simp] theorem updLaunch_cores (s : State) (n : Nat) (f : Launch → Launch) : (s.updLaunch n f).cores = s.cores := by
  unfold State.updLaunch; split <;> rfl
@[simp] theorem updLaunch_dies (s : State) (n : Nat) (f : Launch → Launch) : (s.updLaunch n f).dies = s.dies := by
  unfold State.updLaunch; split <;> rfl
@[simp] theorem updLaunch_ports (s : State) (n : Nat) (f : Launch → Launch) : (s.updLaunch n f).ports = s.ports := by
  unfold State.updLaunch; split <;> rfl
@[simp] theorem updLaunch_planes (s : State) (n : Nat) (f : Launch → Launch) : (s.updLaunch n f).planes = s.planes := by
  unfold State.updLaunch; split <;> rfl
@[simp] theorem updLaunch_booted (s : State) (n : Nat) (f : Launch → Launch) : (s.updLaunch n f).booted = s.booted := by
  unfold State.updLaunch; split <;> rfl
@[simp] theorem updLaunch_walks (s : State) (n : Nat) (f : Launch → Launch) : (s.updLaunch n f).walks = s.walks := by
  unfold State.updLaunch; split <;> rfl
@[simp] theorem updLaunch_tenants (s : State) (n : Nat) (f : Launch → Launch) : (s.updLaunch n f).tenants = s.tenants := by
  unfold State.updLaunch; split <;> rfl
@[simp] theorem updLaunch_placed (s : State) (n : Nat) (f : Launch → Launch) : (s.updLaunch n f).placed = s.placed := by
  unfold State.updLaunch; split <;> rfl
@[simp] theorem updLaunch_rrTenant (s : State) (n : Nat) (f : Launch → Launch) : (s.updLaunch n f).rrTenant = s.rrTenant := by
  unfold State.updLaunch; split <;> rfl
@[simp] theorem updLaunch_wgs (s : State) (n : Nat) (f : Launch → Launch) : (s.updLaunch n f).wgs = s.wgs := by
  unfold State.updLaunch; split <;> rfl
@[simp] theorem updLaunch_outCores (s : State) (n : Nat) (f : Launch → Launch) : (s.updLaunch n f).outCores = s.outCores := by
  unfold State.updLaunch; split <;> rfl
@[simp] theorem updLaunch_episodes (s : State) (n : Nat) (f : Launch → Launch) : (s.updLaunch n f).episodes = s.episodes := by
  unfold State.updLaunch; split <;> rfl
@[simp] theorem updLaunch_joinedQ (s : State) (n : Nat) (f : Launch → Launch) : (s.updLaunch n f).joinedQ = s.joinedQ := by
  unfold State.updLaunch; split <;> rfl
@[simp] theorem updLaunch_escrow (s : State) (n : Nat) (f : Launch → Launch) : (s.updLaunch n f).escrow = s.escrow := by
  unfold State.updLaunch; split <;> rfl
@[simp] theorem updLaunch_rewardsOut (s : State) (n : Nat) (f : Launch → Launch) : (s.updLaunch n f).rewardsOut = s.rewardsOut := by
  unfold State.updLaunch; split <;> rfl
@[simp] theorem updLaunch_joinCycle (s : State) (n : Nat) (f : Launch → Launch) : (s.updLaunch n f).joinCycle = s.joinCycle := by
  unfold State.updLaunch; split <;> rfl
@[simp] theorem updLaunch_msgs (s : State) (n : Nat) (f : Launch → Launch) : (s.updLaunch n f).msgs = s.msgs := by
  unfold State.updLaunch; split <;> rfl
@[simp] theorem updLaunch_groups (s : State) (n : Nat) (f : Launch → Launch) : (s.updLaunch n f).groups = s.groups := by
  unfold State.updLaunch; split <;> rfl
@[simp] theorem updLaunch_resids (s : State) (n : Nat) (f : Launch → Launch) : (s.updLaunch n f).resids = s.resids := by
  unfold State.updLaunch; split <;> rfl
@[simp] theorem updLaunch_slots (s : State) (n : Nat) (f : Launch → Launch) : (s.updLaunch n f).slots = s.slots := by
  unfold State.updLaunch; split <;> rfl
@[simp] theorem updLaunch_pushes (s : State) (n : Nat) (f : Launch → Launch) : (s.updLaunch n f).pushes = s.pushes := by
  unfold State.updLaunch; split <;> rfl
@[simp] theorem updLaunch_ctxs (s : State) (n : Nat) (f : Launch → Launch) : (s.updLaunch n f).ctxs = s.ctxs := by
  unfold State.updLaunch; split <;> rfl
@[simp] theorem updLaunch_targets (s : State) (n : Nat) (f : Launch → Launch) : (s.updLaunch n f).targets = s.targets := by
  unfold State.updLaunch; split <;> rfl
@[simp] theorem updLaunch_lost (s : State) (n : Nat) (f : Launch → Launch) : (s.updLaunch n f).lost = s.lost := by
  unfold State.updLaunch; split <;> rfl
@[simp] theorem updLaunch_domain (s : State) (n : Nat) (f : Launch → Launch) : (s.updLaunch n f).domain = s.domain := by
  unfold State.updLaunch; split <;> rfl
@[simp] theorem updLaunch_recs (s : State) (n : Nat) (f : Launch → Launch) : (s.updLaunch n f).recs = s.recs := by
  unfold State.updLaunch; split <;> rfl
@[simp] theorem updLaunch_mint (s : State) (n : Nat) (f : Launch → Launch) : (s.updLaunch n f).mint = s.mint := by
  unfold State.updLaunch; split <;> rfl
@[simp] theorem updLaunch_power (s : State) (n : Nat) (f : Launch → Launch) : (s.updLaunch n f).power = s.power := by
  unfold State.updLaunch; split <;> rfl
@[simp] theorem updLaunch_sysBase (s : State) (n : Nat) (f : Launch → Launch) : (s.updLaunch n f).sysBase = s.sysBase := by
  unfold State.updLaunch; split <;> rfl
@[simp] theorem updLaunch_sysSize (s : State) (n : Nat) (f : Launch → Launch) : (s.updLaunch n f).sysSize = s.sysSize := by
  unfold State.updLaunch; split <;> rfl
@[simp] theorem updLaunch_scrub (s : State) (n : Nat) (f : Launch → Launch) : (s.updLaunch n f).scrub = s.scrub := by
  unfold State.updLaunch; split <;> rfl
@[simp] theorem updLaunch_log_ (s : State) (n : Nat) (f : Launch → Launch) : (s.updLaunch n f).log_ = s.log_ := by
  unfold State.updLaunch; split <;> rfl
@[simp] theorem updLaunch_hubEv (s : State) (n : Nat) (f : Launch → Launch) : (s.updLaunch n f).hubEv = s.hubEv := by
  unfold State.updLaunch; split <;> rfl
@[simp] theorem updLaunch_entrySvc (s : State) (n : Nat) (f : Launch → Launch) : (s.updLaunch n f).entrySvc = s.entrySvc := by
  unfold State.updLaunch; split <;> rfl
@[simp] theorem updLaunch_entrySave (s : State) (n : Nat) (f : Launch → Launch) : (s.updLaunch n f).entrySave = s.entrySave := by
  unfold State.updLaunch; split <;> rfl
@[simp] theorem updLaunch_entryRestore (s : State) (n : Nat) (f : Launch → Launch) : (s.updLaunch n f).entryRestore = s.entryRestore := by
  unfold State.updLaunch; split <;> rfl
@[simp] theorem updLaunch_sys (s : State) (n : Nat) (f : Launch → Launch) : (s.updLaunch n f).sys = s.sys := by
  unfold State.updLaunch; split <;> rfl
@[simp] theorem updLaunch_refused (s : State) (n : Nat) (f : Launch → Launch) : (s.updLaunch n f).refused = s.refused := by
  unfold State.updLaunch; split <;> rfl
@[simp] theorem updLaunch_ueOut (s : State) (n : Nat) (f : Launch → Launch) : (s.updLaunch n f).ueOut = s.ueOut := by
  unfold State.updLaunch; split <;> rfl
@[simp] theorem updLaunch_utfortSt (s : State) (n : Nat) (f : Launch → Launch) : (s.updLaunch n f).utfortSt = s.utfortSt := by
  unfold State.updLaunch; split <;> rfl
@[simp] theorem updLaunch_ueWins (s : State) (n : Nat) (f : Launch → Launch) : (s.updLaunch n f).ueWins = s.ueWins := by
  unfold State.updLaunch; split <;> rfl
@[simp] theorem updLaunch_uePorts (s : State) (n : Nat) (f : Launch → Launch) : (s.updLaunch n f).uePorts = s.uePorts := by
  unfold State.updLaunch; split <;> rfl
@[simp] theorem updLaunch_fetched (s : State) (n : Nat) (f : Launch → Launch) : (s.updLaunch n f).fetched = s.fetched := by
  unfold State.updLaunch; split <;> rfl
@[simp] theorem updLaunch_fetchBad (s : State) (n : Nat) (f : Launch → Launch) : (s.updLaunch n f).fetchBad = s.fetchBad := by
  unfold State.updLaunch; split <;> rfl
@[simp] theorem updLaunch_swOwned (s : State) (n : Nat) (f : Launch → Launch) : (s.updLaunch n f).swOwned = s.swOwned := by
  unfold State.updLaunch; split <;> rfl
@[simp] theorem updLaunch_swAsked (s : State) (n : Nat) (f : Launch → Launch) : (s.updLaunch n f).swAsked = s.swAsked := by
  unfold State.updLaunch; split <;> rfl
@[simp] theorem updLaunch_errCnt (s : State) (n : Nat) (f : Launch → Launch) : (s.updLaunch n f).errCnt = s.errCnt := by
  unfold State.updLaunch; split <;> rfl
@[simp] theorem updLaunch_told (s : State) (n : Nat) (f : Launch → Launch) : (s.updLaunch n f).told = s.told := by
  unfold State.updLaunch; split <;> rfl
@[simp] theorem updLaunch_hubCycle (s : State) (n : Nat) (f : Launch → Launch) : (s.updLaunch n f).hubCycle = s.hubCycle := by
  unfold State.updLaunch; split <;> rfl
@[simp] theorem countDie_agenda (s : State) (d e t n : Nat) : (s.countDie d e t n).agenda = s.agenda := by
  unfold State.countDie; split <;> rfl
@[simp] theorem countHbm_agenda (s : State) (p e t n : Nat) : (s.countHbm p e t n).agenda = s.agenda := by
  unfold State.countHbm; split <;> simp
@[simp] theorem countDie_cur (s : State) (d e t n : Nat) : (s.countDie d e t n).cur = s.cur := by
  unfold State.countDie; split <;> rfl
@[simp] theorem countHbm_cur (s : State) (p e t n : Nat) : (s.countHbm p e t n).cur = s.cur := by
  unfold State.countHbm; split <;> simp
@[simp] theorem countDie_arg (s : State) (d e t n : Nat) : (s.countDie d e t n).arg = s.arg := by
  unfold State.countDie; split <;> rfl
@[simp] theorem countHbm_arg (s : State) (p e t n : Nat) : (s.countHbm p e t n).arg = s.arg := by
  unfold State.countHbm; split <;> simp
@[simp] theorem countDie_flow (s : State) (d e t n : Nat) : (s.countDie d e t n).flow = s.flow := by
  unfold State.countDie; split <;> rfl
@[simp] theorem countHbm_flow (s : State) (p e t n : Nat) : (s.countHbm p e t n).flow = s.flow := by
  unfold State.countHbm; split <;> simp
@[simp] theorem countDie_fresh (s : State) (d e t n : Nat) : (s.countDie d e t n).fresh = s.fresh := by
  unfold State.countDie; split <;> rfl
@[simp] theorem countHbm_fresh (s : State) (p e t n : Nat) : (s.countHbm p e t n).fresh = s.fresh := by
  unfold State.countHbm; split <;> simp
@[simp] theorem countDie_nextId (s : State) (d e t n : Nat) : (s.countDie d e t n).nextId = s.nextId := by
  unfold State.countDie; split <;> rfl
@[simp] theorem countHbm_nextId (s : State) (p e t n : Nat) : (s.countHbm p e t n).nextId = s.nextId := by
  unfold State.countHbm; split <;> simp
@[simp] theorem countDie_dev (s : State) (d e t n : Nat) : (s.countDie d e t n).dev = s.dev := by
  unfold State.countDie; split <;> rfl
@[simp] theorem countHbm_dev (s : State) (p e t n : Nat) : (s.countHbm p e t n).dev = s.dev := by
  unfold State.countHbm; split <;> simp
@[simp] theorem countDie_joined (s : State) (d e t n : Nat) : (s.countDie d e t n).joined = s.joined := by
  unfold State.countDie; split <;> rfl
@[simp] theorem countHbm_joined (s : State) (p e t n : Nat) : (s.countHbm p e t n).joined = s.joined := by
  unfold State.countHbm; split <;> simp
@[simp] theorem countDie_flat (s : State) (d e t n : Nat) : (s.countDie d e t n).flat = s.flat := by
  unfold State.countDie; split <;> rfl
@[simp] theorem countHbm_flat (s : State) (p e t n : Nat) : (s.countHbm p e t n).flat = s.flat := by
  unfold State.countHbm; split <;> simp
@[simp] theorem countDie_mem (s : State) (d e t n : Nat) : (s.countDie d e t n).mem = s.mem := by
  unfold State.countDie; split <;> rfl
@[simp] theorem countHbm_mem (s : State) (p e t n : Nat) : (s.countHbm p e t n).mem = s.mem := by
  unfold State.countHbm; split <;> simp
@[simp] theorem countDie_full (s : State) (d e t n : Nat) : (s.countDie d e t n).full = s.full := by
  unfold State.countDie; split <;> rfl
@[simp] theorem countHbm_full (s : State) (p e t n : Nat) : (s.countHbm p e t n).full = s.full := by
  unfold State.countHbm; split <;> simp
@[simp] theorem countDie_ldfq (s : State) (d e t n : Nat) : (s.countDie d e t n).ldfq = s.ldfq := by
  unfold State.countDie; split <;> rfl
@[simp] theorem countHbm_ldfq (s : State) (p e t n : Nat) : (s.countHbm p e t n).ldfq = s.ldfq := by
  unfold State.countHbm; split <;> simp
@[simp] theorem countDie_errs (s : State) (d e t n : Nat) : (s.countDie d e t n).errs = s.errs := by
  unfold State.countDie; split <;> rfl
@[simp] theorem countHbm_errs (s : State) (p e t n : Nat) : (s.countHbm p e t n).errs = s.errs := by
  unfold State.countHbm; split <;> simp
@[simp] theorem countDie_spare (s : State) (d e t n : Nat) : (s.countDie d e t n).spare = s.spare := by
  unfold State.countDie; split <;> rfl
@[simp] theorem countHbm_spare (s : State) (p e t n : Nat) : (s.countHbm p e t n).spare = s.spare := by
  unfold State.countHbm; split <;> simp
@[simp] theorem countDie_cores (s : State) (d e t n : Nat) : (s.countDie d e t n).cores = s.cores := by
  unfold State.countDie; split <;> rfl
@[simp] theorem countHbm_cores (s : State) (p e t n : Nat) : (s.countHbm p e t n).cores = s.cores := by
  unfold State.countHbm; split <;> simp
@[simp] theorem countDie_ports (s : State) (d e t n : Nat) : (s.countDie d e t n).ports = s.ports := by
  unfold State.countDie; split <;> rfl
@[simp] theorem countHbm_ports (s : State) (p e t n : Nat) : (s.countHbm p e t n).ports = s.ports := by
  unfold State.countHbm; split <;> simp
@[simp] theorem countDie_planes (s : State) (d e t n : Nat) : (s.countDie d e t n).planes = s.planes := by
  unfold State.countDie; split <;> rfl
@[simp] theorem countHbm_planes (s : State) (p e t n : Nat) : (s.countHbm p e t n).planes = s.planes := by
  unfold State.countHbm; split <;> simp
@[simp] theorem countDie_booted (s : State) (d e t n : Nat) : (s.countDie d e t n).booted = s.booted := by
  unfold State.countDie; split <;> rfl
@[simp] theorem countHbm_booted (s : State) (p e t n : Nat) : (s.countHbm p e t n).booted = s.booted := by
  unfold State.countHbm; split <;> simp
@[simp] theorem countDie_walks (s : State) (d e t n : Nat) : (s.countDie d e t n).walks = s.walks := by
  unfold State.countDie; split <;> rfl
@[simp] theorem countHbm_walks (s : State) (p e t n : Nat) : (s.countHbm p e t n).walks = s.walks := by
  unfold State.countHbm; split <;> simp
@[simp] theorem countDie_tenants (s : State) (d e t n : Nat) : (s.countDie d e t n).tenants = s.tenants := by
  unfold State.countDie; split <;> rfl
@[simp] theorem countHbm_tenants (s : State) (p e t n : Nat) : (s.countHbm p e t n).tenants = s.tenants := by
  unfold State.countHbm; split <;> simp
@[simp] theorem countDie_placed (s : State) (d e t n : Nat) : (s.countDie d e t n).placed = s.placed := by
  unfold State.countDie; split <;> rfl
@[simp] theorem countHbm_placed (s : State) (p e t n : Nat) : (s.countHbm p e t n).placed = s.placed := by
  unfold State.countHbm; split <;> simp
@[simp] theorem countDie_rrTenant (s : State) (d e t n : Nat) : (s.countDie d e t n).rrTenant = s.rrTenant := by
  unfold State.countDie; split <;> rfl
@[simp] theorem countHbm_rrTenant (s : State) (p e t n : Nat) : (s.countHbm p e t n).rrTenant = s.rrTenant := by
  unfold State.countHbm; split <;> simp
@[simp] theorem countDie_launches (s : State) (d e t n : Nat) : (s.countDie d e t n).launches = s.launches := by
  unfold State.countDie; split <;> rfl
@[simp] theorem countHbm_launches (s : State) (p e t n : Nat) : (s.countHbm p e t n).launches = s.launches := by
  unfold State.countHbm; split <;> simp
@[simp] theorem countDie_wgs (s : State) (d e t n : Nat) : (s.countDie d e t n).wgs = s.wgs := by
  unfold State.countDie; split <;> rfl
@[simp] theorem countHbm_wgs (s : State) (p e t n : Nat) : (s.countHbm p e t n).wgs = s.wgs := by
  unfold State.countHbm; split <;> simp
@[simp] theorem countDie_outCores (s : State) (d e t n : Nat) : (s.countDie d e t n).outCores = s.outCores := by
  unfold State.countDie; split <;> rfl
@[simp] theorem countHbm_outCores (s : State) (p e t n : Nat) : (s.countHbm p e t n).outCores = s.outCores := by
  unfold State.countHbm; split <;> simp
@[simp] theorem countDie_episodes (s : State) (d e t n : Nat) : (s.countDie d e t n).episodes = s.episodes := by
  unfold State.countDie; split <;> rfl
@[simp] theorem countHbm_episodes (s : State) (p e t n : Nat) : (s.countHbm p e t n).episodes = s.episodes := by
  unfold State.countHbm; split <;> simp
@[simp] theorem countDie_joinedQ (s : State) (d e t n : Nat) : (s.countDie d e t n).joinedQ = s.joinedQ := by
  unfold State.countDie; split <;> rfl
@[simp] theorem countHbm_joinedQ (s : State) (p e t n : Nat) : (s.countHbm p e t n).joinedQ = s.joinedQ := by
  unfold State.countHbm; split <;> simp
@[simp] theorem countDie_escrow (s : State) (d e t n : Nat) : (s.countDie d e t n).escrow = s.escrow := by
  unfold State.countDie; split <;> rfl
@[simp] theorem countHbm_escrow (s : State) (p e t n : Nat) : (s.countHbm p e t n).escrow = s.escrow := by
  unfold State.countHbm; split <;> simp
@[simp] theorem countDie_rewardsOut (s : State) (d e t n : Nat) : (s.countDie d e t n).rewardsOut = s.rewardsOut := by
  unfold State.countDie; split <;> rfl
@[simp] theorem countHbm_rewardsOut (s : State) (p e t n : Nat) : (s.countHbm p e t n).rewardsOut = s.rewardsOut := by
  unfold State.countHbm; split <;> simp
@[simp] theorem countDie_joinCycle (s : State) (d e t n : Nat) : (s.countDie d e t n).joinCycle = s.joinCycle := by
  unfold State.countDie; split <;> rfl
@[simp] theorem countHbm_joinCycle (s : State) (p e t n : Nat) : (s.countHbm p e t n).joinCycle = s.joinCycle := by
  unfold State.countHbm; split <;> simp
@[simp] theorem countDie_msgs (s : State) (d e t n : Nat) : (s.countDie d e t n).msgs = s.msgs := by
  unfold State.countDie; split <;> rfl
@[simp] theorem countHbm_msgs (s : State) (p e t n : Nat) : (s.countHbm p e t n).msgs = s.msgs := by
  unfold State.countHbm; split <;> simp
@[simp] theorem countDie_groups (s : State) (d e t n : Nat) : (s.countDie d e t n).groups = s.groups := by
  unfold State.countDie; split <;> rfl
@[simp] theorem countHbm_groups (s : State) (p e t n : Nat) : (s.countHbm p e t n).groups = s.groups := by
  unfold State.countHbm; split <;> simp
@[simp] theorem countDie_resids (s : State) (d e t n : Nat) : (s.countDie d e t n).resids = s.resids := by
  unfold State.countDie; split <;> rfl
@[simp] theorem countHbm_resids (s : State) (p e t n : Nat) : (s.countHbm p e t n).resids = s.resids := by
  unfold State.countHbm; split <;> simp
@[simp] theorem countDie_slots (s : State) (d e t n : Nat) : (s.countDie d e t n).slots = s.slots := by
  unfold State.countDie; split <;> rfl
@[simp] theorem countHbm_slots (s : State) (p e t n : Nat) : (s.countHbm p e t n).slots = s.slots := by
  unfold State.countHbm; split <;> simp
@[simp] theorem countDie_pushes (s : State) (d e t n : Nat) : (s.countDie d e t n).pushes = s.pushes := by
  unfold State.countDie; split <;> rfl
@[simp] theorem countHbm_pushes (s : State) (p e t n : Nat) : (s.countHbm p e t n).pushes = s.pushes := by
  unfold State.countHbm; split <;> simp
@[simp] theorem countDie_ctxs (s : State) (d e t n : Nat) : (s.countDie d e t n).ctxs = s.ctxs := by
  unfold State.countDie; split <;> rfl
@[simp] theorem countHbm_ctxs (s : State) (p e t n : Nat) : (s.countHbm p e t n).ctxs = s.ctxs := by
  unfold State.countHbm; split <;> simp
@[simp] theorem countDie_targets (s : State) (d e t n : Nat) : (s.countDie d e t n).targets = s.targets := by
  unfold State.countDie; split <;> rfl
@[simp] theorem countHbm_targets (s : State) (p e t n : Nat) : (s.countHbm p e t n).targets = s.targets := by
  unfold State.countHbm; split <;> simp
@[simp] theorem countDie_lost (s : State) (d e t n : Nat) : (s.countDie d e t n).lost = s.lost := by
  unfold State.countDie; split <;> rfl
@[simp] theorem countHbm_lost (s : State) (p e t n : Nat) : (s.countHbm p e t n).lost = s.lost := by
  unfold State.countHbm; split <;> simp
@[simp] theorem countDie_domain (s : State) (d e t n : Nat) : (s.countDie d e t n).domain = s.domain := by
  unfold State.countDie; split <;> rfl
@[simp] theorem countHbm_domain (s : State) (p e t n : Nat) : (s.countHbm p e t n).domain = s.domain := by
  unfold State.countHbm; split <;> simp
@[simp] theorem countDie_recs (s : State) (d e t n : Nat) : (s.countDie d e t n).recs = s.recs := by
  unfold State.countDie; split <;> rfl
@[simp] theorem countHbm_recs (s : State) (p e t n : Nat) : (s.countHbm p e t n).recs = s.recs := by
  unfold State.countHbm; split <;> simp
@[simp] theorem countDie_mint (s : State) (d e t n : Nat) : (s.countDie d e t n).mint = s.mint := by
  unfold State.countDie; split <;> rfl
@[simp] theorem countHbm_mint (s : State) (p e t n : Nat) : (s.countHbm p e t n).mint = s.mint := by
  unfold State.countHbm; split <;> simp
@[simp] theorem countDie_power (s : State) (d e t n : Nat) : (s.countDie d e t n).power = s.power := by
  unfold State.countDie; split <;> rfl
@[simp] theorem countHbm_power (s : State) (p e t n : Nat) : (s.countHbm p e t n).power = s.power := by
  unfold State.countHbm; split <;> simp
@[simp] theorem countDie_sysBase (s : State) (d e t n : Nat) : (s.countDie d e t n).sysBase = s.sysBase := by
  unfold State.countDie; split <;> rfl
@[simp] theorem countHbm_sysBase (s : State) (p e t n : Nat) : (s.countHbm p e t n).sysBase = s.sysBase := by
  unfold State.countHbm; split <;> simp
@[simp] theorem countDie_sysSize (s : State) (d e t n : Nat) : (s.countDie d e t n).sysSize = s.sysSize := by
  unfold State.countDie; split <;> rfl
@[simp] theorem countHbm_sysSize (s : State) (p e t n : Nat) : (s.countHbm p e t n).sysSize = s.sysSize := by
  unfold State.countHbm; split <;> simp
@[simp] theorem countDie_scrub (s : State) (d e t n : Nat) : (s.countDie d e t n).scrub = s.scrub := by
  unfold State.countDie; split <;> rfl
@[simp] theorem countHbm_scrub (s : State) (p e t n : Nat) : (s.countHbm p e t n).scrub = s.scrub := by
  unfold State.countHbm; split <;> simp
@[simp] theorem countDie_log_ (s : State) (d e t n : Nat) : (s.countDie d e t n).log_ = s.log_ := by
  unfold State.countDie; split <;> rfl
@[simp] theorem countHbm_log_ (s : State) (p e t n : Nat) : (s.countHbm p e t n).log_ = s.log_ := by
  unfold State.countHbm; split <;> simp
@[simp] theorem countDie_hubEv (s : State) (d e t n : Nat) : (s.countDie d e t n).hubEv = s.hubEv := by
  unfold State.countDie; split <;> rfl
@[simp] theorem countHbm_hubEv (s : State) (p e t n : Nat) : (s.countHbm p e t n).hubEv = s.hubEv := by
  unfold State.countHbm; split <;> simp
@[simp] theorem countDie_entrySvc (s : State) (d e t n : Nat) : (s.countDie d e t n).entrySvc = s.entrySvc := by
  unfold State.countDie; split <;> rfl
@[simp] theorem countHbm_entrySvc (s : State) (p e t n : Nat) : (s.countHbm p e t n).entrySvc = s.entrySvc := by
  unfold State.countHbm; split <;> simp
@[simp] theorem countDie_entrySave (s : State) (d e t n : Nat) : (s.countDie d e t n).entrySave = s.entrySave := by
  unfold State.countDie; split <;> rfl
@[simp] theorem countHbm_entrySave (s : State) (p e t n : Nat) : (s.countHbm p e t n).entrySave = s.entrySave := by
  unfold State.countHbm; split <;> simp
@[simp] theorem countDie_entryRestore (s : State) (d e t n : Nat) : (s.countDie d e t n).entryRestore = s.entryRestore := by
  unfold State.countDie; split <;> rfl
@[simp] theorem countHbm_entryRestore (s : State) (p e t n : Nat) : (s.countHbm p e t n).entryRestore = s.entryRestore := by
  unfold State.countHbm; split <;> simp
@[simp] theorem countDie_sys (s : State) (d e t n : Nat) : (s.countDie d e t n).sys = s.sys := by
  unfold State.countDie; split <;> rfl
@[simp] theorem countDie_refused (s : State) (d e t n : Nat) : (s.countDie d e t n).refused = s.refused := by
  unfold State.countDie; split <;> rfl
@[simp] theorem countDie_ueOut (s : State) (d e t n : Nat) : (s.countDie d e t n).ueOut = s.ueOut := by
  unfold State.countDie; split <;> rfl
@[simp] theorem countDie_utfortSt (s : State) (d e t n : Nat) : (s.countDie d e t n).utfortSt = s.utfortSt := by
  unfold State.countDie; split <;> rfl
@[simp] theorem countHbm_sys (s : State) (p e t n : Nat) : (s.countHbm p e t n).sys = s.sys := by
  unfold State.countHbm; split <;> simp
@[simp] theorem countHbm_refused (s : State) (p e t n : Nat) : (s.countHbm p e t n).refused = s.refused := by
  unfold State.countHbm; split <;> simp
@[simp] theorem countHbm_ueOut (s : State) (p e t n : Nat) : (s.countHbm p e t n).ueOut = s.ueOut := by
  unfold State.countHbm; split <;> simp
@[simp] theorem countHbm_utfortSt (s : State) (p e t n : Nat) : (s.countHbm p e t n).utfortSt = s.utfortSt := by
  unfold State.countHbm; split <;> simp
@[simp] theorem countDie_ueWins (s : State) (d e t n : Nat) : (s.countDie d e t n).ueWins = s.ueWins := by
  unfold State.countDie; split <;> rfl
@[simp] theorem countHbm_ueWins (s : State) (p e t n : Nat) : (s.countHbm p e t n).ueWins = s.ueWins := by
  unfold State.countHbm; split <;> simp
@[simp] theorem countDie_uePorts (s : State) (d e t n : Nat) : (s.countDie d e t n).uePorts = s.uePorts := by
  unfold State.countDie; split <;> rfl
@[simp] theorem countHbm_uePorts (s : State) (p e t n : Nat) : (s.countHbm p e t n).uePorts = s.uePorts := by
  unfold State.countHbm; split <;> simp
@[simp] theorem countDie_fetched (s : State) (d e t n : Nat) : (s.countDie d e t n).fetched = s.fetched := by
  unfold State.countDie; split <;> rfl
@[simp] theorem countHbm_fetched (s : State) (p e t n : Nat) : (s.countHbm p e t n).fetched = s.fetched := by
  unfold State.countHbm; split <;> simp
@[simp] theorem countDie_fetchBad (s : State) (d e t n : Nat) : (s.countDie d e t n).fetchBad = s.fetchBad := by
  unfold State.countDie; split <;> rfl
@[simp] theorem countHbm_fetchBad (s : State) (p e t n : Nat) : (s.countHbm p e t n).fetchBad = s.fetchBad := by
  unfold State.countHbm; split <;> simp
@[simp] theorem countDie_swOwned (s : State) (d e t n : Nat) : (s.countDie d e t n).swOwned = s.swOwned := by
  unfold State.countDie; split <;> rfl
@[simp] theorem countHbm_swOwned (s : State) (p e t n : Nat) : (s.countHbm p e t n).swOwned = s.swOwned := by
  unfold State.countHbm; split <;> simp
@[simp] theorem countDie_swAsked (s : State) (d e t n : Nat) : (s.countDie d e t n).swAsked = s.swAsked := by
  unfold State.countDie; split <;> rfl
@[simp] theorem countHbm_swAsked (s : State) (p e t n : Nat) : (s.countHbm p e t n).swAsked = s.swAsked := by
  unfold State.countHbm; split <;> simp
@[simp] theorem countDie_errCnt (s : State) (d e t n : Nat) : (s.countDie d e t n).errCnt = s.errCnt := by
  unfold State.countDie; split <;> rfl
@[simp] theorem countHbm_errCnt (s : State) (p e t n : Nat) : (s.countHbm p e t n).errCnt = s.errCnt := by
  unfold State.countHbm; split <;> simp
@[simp] theorem countDie_told (s : State) (d e t n : Nat) : (s.countDie d e t n).told = s.told := by
  unfold State.countDie; split <;> rfl
@[simp] theorem countDie_hubCycle (s : State) (d e t n : Nat) : (s.countDie d e t n).hubCycle = s.hubCycle := by
  unfold State.countDie; split <;> rfl
@[simp] theorem countHbm_told (s : State) (p e t n : Nat) : (s.countHbm p e t n).told = s.told := by
  unfold State.countHbm; split <;> simp
@[simp] theorem countHbm_hubCycle (s : State) (p e t n : Nat) : (s.countHbm p e t n).hubCycle = s.hubCycle := by
  unfold State.countHbm; split <;> simp

@[simp] theorem updSys_agenda (s : State) (h : Nat) (f : SysCore → SysCore) : (s.updSys h f).agenda = s.agenda := rfl
@[simp] theorem updSys_cur (s : State) (h : Nat) (f : SysCore → SysCore) : (s.updSys h f).cur = s.cur := rfl
@[simp] theorem updSys_arg (s : State) (h : Nat) (f : SysCore → SysCore) : (s.updSys h f).arg = s.arg := rfl
@[simp] theorem updSys_flow (s : State) (h : Nat) (f : SysCore → SysCore) : (s.updSys h f).flow = s.flow := rfl
@[simp] theorem updSys_fresh (s : State) (h : Nat) (f : SysCore → SysCore) : (s.updSys h f).fresh = s.fresh := rfl
@[simp] theorem updSys_nextId (s : State) (h : Nat) (f : SysCore → SysCore) : (s.updSys h f).nextId = s.nextId := rfl
@[simp] theorem updSys_dev (s : State) (h : Nat) (f : SysCore → SysCore) : (s.updSys h f).dev = s.dev := rfl
@[simp] theorem updSys_joined (s : State) (h : Nat) (f : SysCore → SysCore) : (s.updSys h f).joined = s.joined := rfl
@[simp] theorem updSys_flat (s : State) (h : Nat) (f : SysCore → SysCore) : (s.updSys h f).flat = s.flat := rfl
@[simp] theorem updSys_mem (s : State) (h : Nat) (f : SysCore → SysCore) : (s.updSys h f).mem = s.mem := rfl
@[simp] theorem updSys_full (s : State) (h : Nat) (f : SysCore → SysCore) : (s.updSys h f).full = s.full := rfl
@[simp] theorem updSys_ldfq (s : State) (h : Nat) (f : SysCore → SysCore) : (s.updSys h f).ldfq = s.ldfq := rfl
@[simp] theorem updSys_errs (s : State) (h : Nat) (f : SysCore → SysCore) : (s.updSys h f).errs = s.errs := rfl
@[simp] theorem updSys_spare (s : State) (h : Nat) (f : SysCore → SysCore) : (s.updSys h f).spare = s.spare := rfl
@[simp] theorem updSys_cores (s : State) (h : Nat) (f : SysCore → SysCore) : (s.updSys h f).cores = s.cores := rfl
@[simp] theorem updSys_dies (s : State) (h : Nat) (f : SysCore → SysCore) : (s.updSys h f).dies = s.dies := rfl
@[simp] theorem updSys_ports (s : State) (h : Nat) (f : SysCore → SysCore) : (s.updSys h f).ports = s.ports := rfl
@[simp] theorem updSys_planes (s : State) (h : Nat) (f : SysCore → SysCore) : (s.updSys h f).planes = s.planes := rfl
@[simp] theorem updSys_booted (s : State) (h : Nat) (f : SysCore → SysCore) : (s.updSys h f).booted = s.booted := rfl
@[simp] theorem updSys_walks (s : State) (h : Nat) (f : SysCore → SysCore) : (s.updSys h f).walks = s.walks := rfl
@[simp] theorem updSys_tenants (s : State) (h : Nat) (f : SysCore → SysCore) : (s.updSys h f).tenants = s.tenants := rfl
@[simp] theorem updSys_placed (s : State) (h : Nat) (f : SysCore → SysCore) : (s.updSys h f).placed = s.placed := rfl
@[simp] theorem updSys_rrTenant (s : State) (h : Nat) (f : SysCore → SysCore) : (s.updSys h f).rrTenant = s.rrTenant := rfl
@[simp] theorem updSys_refused (s : State) (h : Nat) (f : SysCore → SysCore) : (s.updSys h f).refused = s.refused := rfl
@[simp] theorem updSys_launches (s : State) (h : Nat) (f : SysCore → SysCore) : (s.updSys h f).launches = s.launches := rfl
@[simp] theorem updSys_wgs (s : State) (h : Nat) (f : SysCore → SysCore) : (s.updSys h f).wgs = s.wgs := rfl
@[simp] theorem updSys_outCores (s : State) (h : Nat) (f : SysCore → SysCore) : (s.updSys h f).outCores = s.outCores := rfl
@[simp] theorem updSys_episodes (s : State) (h : Nat) (f : SysCore → SysCore) : (s.updSys h f).episodes = s.episodes := rfl
@[simp] theorem updSys_joinedQ (s : State) (h : Nat) (f : SysCore → SysCore) : (s.updSys h f).joinedQ = s.joinedQ := rfl
@[simp] theorem updSys_escrow (s : State) (h : Nat) (f : SysCore → SysCore) : (s.updSys h f).escrow = s.escrow := rfl
@[simp] theorem updSys_rewardsOut (s : State) (h : Nat) (f : SysCore → SysCore) : (s.updSys h f).rewardsOut = s.rewardsOut := rfl
@[simp] theorem updSys_joinCycle (s : State) (h : Nat) (f : SysCore → SysCore) : (s.updSys h f).joinCycle = s.joinCycle := rfl
@[simp] theorem updSys_msgs (s : State) (h : Nat) (f : SysCore → SysCore) : (s.updSys h f).msgs = s.msgs := rfl
@[simp] theorem updSys_groups (s : State) (h : Nat) (f : SysCore → SysCore) : (s.updSys h f).groups = s.groups := rfl
@[simp] theorem updSys_resids (s : State) (h : Nat) (f : SysCore → SysCore) : (s.updSys h f).resids = s.resids := rfl
@[simp] theorem updSys_slots (s : State) (h : Nat) (f : SysCore → SysCore) : (s.updSys h f).slots = s.slots := rfl
@[simp] theorem updSys_pushes (s : State) (h : Nat) (f : SysCore → SysCore) : (s.updSys h f).pushes = s.pushes := rfl
@[simp] theorem updSys_ctxs (s : State) (h : Nat) (f : SysCore → SysCore) : (s.updSys h f).ctxs = s.ctxs := rfl
@[simp] theorem updSys_targets (s : State) (h : Nat) (f : SysCore → SysCore) : (s.updSys h f).targets = s.targets := rfl
@[simp] theorem updSys_lost (s : State) (h : Nat) (f : SysCore → SysCore) : (s.updSys h f).lost = s.lost := rfl
@[simp] theorem updSys_domain (s : State) (h : Nat) (f : SysCore → SysCore) : (s.updSys h f).domain = s.domain := rfl
@[simp] theorem updSys_recs (s : State) (h : Nat) (f : SysCore → SysCore) : (s.updSys h f).recs = s.recs := rfl
@[simp] theorem updSys_mint (s : State) (h : Nat) (f : SysCore → SysCore) : (s.updSys h f).mint = s.mint := rfl
@[simp] theorem updSys_power (s : State) (h : Nat) (f : SysCore → SysCore) : (s.updSys h f).power = s.power := rfl
@[simp] theorem updSys_sysBase (s : State) (h : Nat) (f : SysCore → SysCore) : (s.updSys h f).sysBase = s.sysBase := rfl
@[simp] theorem updSys_sysSize (s : State) (h : Nat) (f : SysCore → SysCore) : (s.updSys h f).sysSize = s.sysSize := rfl
@[simp] theorem updSys_scrub (s : State) (h : Nat) (f : SysCore → SysCore) : (s.updSys h f).scrub = s.scrub := rfl
@[simp] theorem updSys_log_ (s : State) (h : Nat) (f : SysCore → SysCore) : (s.updSys h f).log_ = s.log_ := rfl
@[simp] theorem updSys_hubEv (s : State) (h : Nat) (f : SysCore → SysCore) : (s.updSys h f).hubEv = s.hubEv := rfl
@[simp] theorem updSys_hubCycle (s : State) (h : Nat) (f : SysCore → SysCore) : (s.updSys h f).hubCycle = s.hubCycle := rfl
@[simp] theorem updSys_entrySvc (s : State) (h : Nat) (f : SysCore → SysCore) : (s.updSys h f).entrySvc = s.entrySvc := rfl
@[simp] theorem updSys_entrySave (s : State) (h : Nat) (f : SysCore → SysCore) : (s.updSys h f).entrySave = s.entrySave := rfl
@[simp] theorem updSys_entryRestore (s : State) (h : Nat) (f : SysCore → SysCore) : (s.updSys h f).entryRestore = s.entryRestore := rfl
@[simp] theorem updSys_ueWins (s : State) (h : Nat) (f : SysCore → SysCore) : (s.updSys h f).ueWins = s.ueWins := rfl
@[simp] theorem updSys_uePorts (s : State) (h : Nat) (f : SysCore → SysCore) : (s.updSys h f).uePorts = s.uePorts := rfl
@[simp] theorem updSys_ueOut (s : State) (h : Nat) (f : SysCore → SysCore) : (s.updSys h f).ueOut = s.ueOut := rfl
@[simp] theorem updSys_fetched (s : State) (h : Nat) (f : SysCore → SysCore) : (s.updSys h f).fetched = s.fetched := rfl
@[simp] theorem updSys_fetchBad (s : State) (h : Nat) (f : SysCore → SysCore) : (s.updSys h f).fetchBad = s.fetchBad := rfl
@[simp] theorem updSys_swOwned (s : State) (h : Nat) (f : SysCore → SysCore) : (s.updSys h f).swOwned = s.swOwned := rfl
@[simp] theorem updSys_swAsked (s : State) (h : Nat) (f : SysCore → SysCore) : (s.updSys h f).swAsked = s.swAsked := rfl
@[simp] theorem updSys_utfortSt (s : State) (h : Nat) (f : SysCore → SysCore) : (s.updSys h f).utfortSt = s.utfortSt := rfl
@[simp] theorem updSys_errCnt (s : State) (h : Nat) (f : SysCore → SysCore) : (s.updSys h f).errCnt = s.errCnt := rfl
@[simp] theorem updSys_told (s : State) (h : Nat) (f : SysCore → SysCore) : (s.updSys h f).told = s.told := rfl
@[simp] theorem updSys_sysCore (s : State) (h : Nat) (f : SysCore → SysCore) :
    (s.updSys h f).sysCore h = f (s.sysCore h) := by
  simp [State.updSys, State.sysCore]

end Sys2Proof.Machine
end

