-- ==== Sys2Proof/Laws/Memory.lean ====
section
/-! SUPPORT. Laws/Memory.lean: reading after writing, and that every memory operation keeps the canonical form: addresses
strictly rising, and no byte equal to what an unlisted address reads as. -/

namespace Sys2Proof.Machine

/-! ### Reading after writing -/

theorem rd8_wr8_self (m : List Host.Cell) (a : Nat) (b : Byte) : rd8 (wr8 m a b) a = b := by
  unfold rd8 wr8
  split
  · rw [fget_ferase_self]; exact (‹b = 0#8›).symm
  · simp

theorem rd8_wr8_ne (m : List Host.Cell) {a x : Nat} (b : Byte) (h : x ≠ a) : rd8 (wr8 m a b) x = rd8 m x := by
  unfold rd8 wr8
  split
  · exact fget_ferase_ne _ _ h
  · exact fget_fset_ne _ _ _ h

/-- Bytes outside a written range keep their values. -/
theorem rd8_wrBytes_out (bs : List Byte) (m : List Host.Cell) (a x : Nat) (h : x < a ∨ a + bs.length ≤ x) :
    rd8 (wrBytes m a bs) x = rd8 m x := by
  induction bs generalizing m a with
  | nil => rfl
  | cons b bs ih =>
    simp only [List.length_cons] at h
    rw [wrBytes, ih (wr8 m a b) (a + 1) (by omega), rd8_wr8_ne m b (by omega)]

/-- Each written byte reads back. -/
theorem rd8_wrBytes_in (bs : List Byte) (m : List Host.Cell) (a i : Nat) (h : i < bs.length) :
    rd8 (wrBytes m a bs) (a + i) = bs[i] := by
  induction bs generalizing m a i with
  | nil => simp at h
  | cons b bs ih =>
    cases i with
    | zero => rw [wrBytes, rd8_wrBytes_out _ _ _ _ (by omega)]; exact rd8_wr8_self m a b
    | succ i =>
      simp only [List.length_cons] at h
      have := ih (wr8 m a b) (a + 1) i (by omega)
      rw [wrBytes, show a + (i + 1) = a + 1 + i by omega, this]; rfl

/-- A string of bytes read where it was written. -/
theorem rdBytes_wrBytes (bs : List Byte) (m : List Host.Cell) (a : Nat) :
    rdBytes (wrBytes m a bs) a bs.length = bs := by
  induction bs generalizing m a with
  | nil => rfl
  | cons b bs ih =>
    rw [List.length_cons, rdBytes, wrBytes, ih, rd8_wrBytes_out _ _ _ _ (by omega), rd8_wr8_self]

@[simp] theorem leBytes_length (n v : Nat) : (leBytes n v).length = n := by
  induction n generalizing v with
  | zero => rfl
  | succ n ih => simp [leBytes, ih]

@[simp] theorem rdBytes_length (m : List Host.Cell) (a n : Nat) : (rdBytes m a n).length = n := by
  induction n generalizing a with
  | zero => rfl
  | succ n ih => simp [rdBytes, ih]

/-- The bytes of a number made of bytes are those. -/
theorem leBytes_leNat (bs : List Byte) : leBytes bs.length (leNat bs) = bs := by
  induction bs with
  | nil => rfl
  | cons b bs ih =>
    have h : (b.toNat + 256 * leNat bs) / 256 = leNat bs := by have := b.isLt; omega
    rw [List.length_cons, leBytes, leNat, h, ih]
    congr 1
    apply BitVec.eq_of_toNat_eq
    have := b.isLt
    simp
    omega

theorem leNat_leBytes (n v : Nat) : leNat (leBytes n v) = v % 256 ^ n := by
  induction n generalizing v with
  | zero => simp [leBytes, leNat, Nat.mod_one]
  | succ n ih =>
    rw [leBytes, leNat, ih, BitVec.toNat_ofNat, show 256 ^ (n + 1) = 256 * 256 ^ n by rw [Nat.pow_succ, Nat.mul_comm],
      Nat.mod_mul]

/-! ### The canonical form -/

theorem memWf_cons (a : Nat) (b : Byte) (m : List Host.Cell) :
    memWf ((a, b) :: m) = true ↔ b ≠ 0#8 ∧ (∀ x ∈ m, a < x.1) ∧ memWf m = true := by
  induction m generalizing a b with
  | nil => simp [memWf]
  | cons x m ih =>
    obtain ⟨a', b'⟩ := x
    simp only [memWf, Bool.and_eq_true, decide_eq_true_eq, bne_iff_ne, ne_eq, List.mem_cons, forall_eq_or_imp]
    constructor
    · rintro ⟨⟨h1, h2⟩, h3⟩
      refine ⟨h2, ⟨h1, fun x hx => ?_⟩, h3⟩
      have := ((ih a' b').mp h3).2.1 x hx
      omega
    · rintro ⟨h1, ⟨h2, -⟩, h3⟩
      exact ⟨⟨h2, h1⟩, h3⟩

theorem memWf_filter (p : Host.Cell → Bool) (m : List Host.Cell) (h : memWf m = true) : memWf (m.filter p) = true := by
  induction m with
  | nil => rfl
  | cons x m ih =>
    obtain ⟨a, b⟩ := x
    obtain ⟨h1, h2, h3⟩ := (memWf_cons a b m).mp h
    rw [List.filter_cons]
    split
    · exact (memWf_cons _ _ _).mpr ⟨h1, fun x hx => h2 x (List.mem_filter.mp hx).1, ih h3⟩
    · exact ih h3

theorem ferase_filter {α : Type} (m : FMap α) (k : Nat) : ferase m k = m.filter (fun x => x.1 != k) := by
  induction m with
  | nil => rfl
  | cons x m ih =>
    obtain ⟨k', v⟩ := x
    by_cases h : k' = k <;> simp [ferase, h, ih]

theorem memWf_ferase (m : List Host.Cell) (a : Nat) (h : memWf m = true) : memWf (ferase m a) = true := by
  rw [ferase_filter]; exact memWf_filter _ m h

theorem mem_finsert {m : List Host.Cell} {a : Nat} {b : Byte} {x : Host.Cell} (h : x ∈ finsert a b m) :
    x = (a, b) ∨ x ∈ m := by
  induction m with
  | nil => simpa [finsert] using h
  | cons y m ih =>
    obtain ⟨k, v⟩ := y
    simp only [finsert] at h
    split at h
    · simpa using h
    · rcases List.mem_cons.mp h with h | h
      · exact .inr (h ▸ List.mem_cons_self)
      · exact (ih h).imp id (List.mem_cons_of_mem _)

theorem memWf_finsert (m : List Host.Cell) (a : Nat) (b : Byte) (hb : b ≠ 0#8) (ha : ∀ x ∈ m, x.1 ≠ a)
    (h : memWf m = true) : memWf (finsert a b m) = true := by
  induction m with
  | nil => simpa [finsert, memWf] using hb
  | cons y m ih =>
    obtain ⟨k, v⟩ := y
    obtain ⟨h1, h2, h3⟩ := (memWf_cons k v m).mp h
    have hk : k ≠ a := ha (k, v) List.mem_cons_self
    rw [finsert]
    split
    · refine (memWf_cons _ _ _).mpr ⟨hb, fun x hx => ?_, h⟩
      rcases List.mem_cons.mp hx with hx | hx
      · simpa [hx]
      · have := h2 x hx; omega
    · refine (memWf_cons _ _ _).mpr ⟨h1, fun x hx => ?_, ih (fun x hx => ha x (List.mem_cons_of_mem _ hx)) h3⟩
      rcases mem_finsert hx with hx | hx
      · subst hx; simp; omega
      · exact h2 x hx

theorem memWf_fset (m : List Host.Cell) (a : Nat) (b : Byte) (hb : b ≠ 0#8) (h : memWf m = true) :
    memWf (fset m a b) = true := by
  refine memWf_finsert _ _ _ hb (fun x hx => ?_) (memWf_ferase m a h)
  rw [ferase_filter] at hx
  simpa using (List.mem_filter.mp hx).2

/-- Writing one byte keeps the canonical form. -/
theorem memWf_wr8 (m : List Host.Cell) (a : Nat) (b : Byte) (h : memWf m = true) : memWf (wr8 m a b) = true := by
  unfold wr8
  split
  · exact memWf_ferase m a h
  · exact memWf_fset m a b ‹_› h

/-- Writing a string of bytes keeps the canonical form. -/
theorem memWf_wrBytes (bs : List Byte) (m : List Host.Cell) (a : Nat) (h : memWf m = true) :
    memWf (wrBytes m a bs) = true := by
  induction bs generalizing m a with
  | nil => exact h
  | cons b bs ih => exact ih _ _ (memWf_wr8 m a b h)

/-- Two canonical memories that read alike are equal. -/
theorem rd8_cons_lt {a x : Nat} {b : Byte} {m : List Host.Cell} (h : x ≠ a) : rd8 ((a, b) :: m) x = rd8 m x := by
  simp [rd8, fget, h.symm]

theorem rd8_below {m : List Host.Cell} {x : Nat} (h : ∀ y ∈ m, x < y.1) : rd8 m x = 0#8 := by
  induction m with
  | nil => rfl
  | cons y m ih =>
    obtain ⟨a, b⟩ := y
    have h1 := h (a, b) List.mem_cons_self
    rw [rd8_cons_lt (by simp at h1; omega)]
    exact ih fun z hz => h z (List.mem_cons_of_mem _ hz)

theorem memWf_ext (m n : List Host.Cell) (hm : memWf m = true) (hn : memWf n = true)
    (h : ∀ x, rd8 m x = rd8 n x) : m = n := by
  induction m generalizing n with
  | nil =>
    cases n with
    | nil => rfl
    | cons y n =>
      obtain ⟨a, b⟩ := y
      have h1 := ((memWf_cons a b n).mp hn).1
      have := h a
      simp [rd8, fget] at this
      exact absurd this.symm h1
  | cons x m ih =>
    obtain ⟨a, b⟩ := x
    obtain ⟨b0, ha, hm'⟩ := (memWf_cons a b m).mp hm
    cases n with
    | nil =>
      have := h a
      simp [rd8, fget] at this
      exact absurd this b0
    | cons y n =>
      obtain ⟨a', b'⟩ := y
      obtain ⟨b0', ha', hn'⟩ := (memWf_cons a' b' n).mp hn
      have e : a = a' := by
        rcases Nat.lt_trichotomy a a' with l | l | l
        · have := h a
          rw [rd8_below (m := (a', b') :: n) (by
            intro z hz
            rcases List.mem_cons.mp hz with hz | hz
            · subst hz; exact l
            · have := ha' z hz; omega)] at this
          simp [rd8, fget] at this
          exact absurd this b0
        · exact l
        · have := h a'
          rw [rd8_below (m := (a, b) :: m) (by
            intro z hz
            rcases List.mem_cons.mp hz with hz | hz
            · subst hz; exact l
            · have := ha z hz; omega)] at this
          simp [rd8, fget] at this
          exact absurd this.symm b0'
      subst e
      have eb : b = b' := by simpa [rd8, fget] using h a
      subst eb
      refine congrArg _ (ih n hm' hn' fun x => ?_)
      by_cases hx : x = a
      · subst hx; rw [rd8_below ha, rd8_below ha']
      · have := h x
        rwa [rd8_cons_lt hx, rd8_cons_lt hx] at this

end Sys2Proof.Machine
end

