-- ==== Sys2Proof/Laws/Ops.lean ====
section
/-! SUPPORT. Laws/Ops.lean: what the shared operations of the instructions can do: the checks at issue, and the writes of
registers and predicates. -/

set_option Elab.async false

namespace Sys2Proof.Machine

/-! ### Register accesses of the system cores (spec/28_system.md R456, R460) -/

/-- A register access does nothing on a core that does not run, faults in VS-mode and U-mode, and else takes effect. -/
theorem mmio_cases (s : State) (f : State → State) :
    let k := s.sysCore s.arg.hart
    (k.released = false → s.mmio f = s)
    ∧ (k.released = true → k.mode = .vs ∨ k.mode = .u → s.mmio f = s.accessFault)
    ∧ (k.released = true → k.mode = .m ∨ k.mode = .hs →
        s.mmio f = f (s.updSys s.arg.hart fun k => { k with faulted := false })) := by
  refine ⟨fun h => ?_, fun h g => ?_, fun h g => ?_⟩
  · simp [State.mmio, h]
  · simp only [State.mmio, h, g, Bool.not_true, Bool.false_eq_true, if_false, if_true]
  · have n : ¬((s.sysCore s.arg.hart).mode = .vs ∨ (s.sysCore s.arg.hart).mode = .u) := by
      rcases g with g | g <;> simp [g]
    simp only [State.mmio, h, n, Bool.not_true, Bool.false_eq_true, if_false]

/-! ### The place of an HBM address (spec/01_machine.md R12) -/

/-- A local HBM address is named by its stack and the address within it (spec/01_machine.md R12). -/
theorem hbm_place_inj {a b : Nat} (ha : isHbm a = true) (hb : isHbm b = true) (hs : hbmStack a = hbmStack b)
    (hl : hbmLocal a = hbmLocal b) : a = b := by
  simp only [isHbm, decide_eq_true_eq] at ha hb
  simp only [hbmLocal, bitsOf] at hl
  have h16 : a / 65536 = b / 65536 := by omega
  have h1 : bitsOf a 23 20 = bitsOf b 23 20 := by
    simp only [bitsOf]
    rw [show (2 : Nat) ^ 20 = 65536 * 16 from rfl, ← Nat.div_div_eq_div_mul, ← Nat.div_div_eq_div_mul, h16]
  have h2 : bitsOf a 15 12 = bitsOf b 15 12 := by
    have := congrArg (· ^^^ bitsOf b 23 20) hs
    simpa [hbmStack, h1, Nat.xor_assoc] using this
  simp only [bitsOf] at h2
  omega
/-! ### The checks at issue -/

/-- The checks of an instruction pass exactly where it runs. -/
theorem gate_none (i : Instr) (s : State) : s.gate i = none ↔ Runs i s := by
  unfold State.gate Runs
  dsimp only
  generalize isSys i = a
  generalize svcOnly i = b
  generalize namesMask i = c
  generalize refOk (s.cur.slot == 64) i = d
  generalize s.warp.countsOk i = e
  generalize s.warp.readsBad s.mask i = g
  cases a <;> cases b <;> cases c <;> cases d <;> cases e <;> cases g <;> by_cases h : s.cur.slot = 64 <;>
    cases hm : s.warp.mode <;> simp [h]

/-- Where an instruction runs, its outcome is its effect. -/
theorem gated_runs {i : Instr} {s : State} (h : Runs i s) (f : State → State) : s.gated i f = .next (f s) := by
  unfold State.gated
  rw [(gate_none i s).mpr h]

/-- Whatever an instruction meets, it answers a next state. -/
theorem gated_next (i : Instr) (s : State) (f : State → State) : ∃ t, s.gated i f = .next t := by
  unfold State.gated
  split
  · exact ⟨_, rfl⟩
  · exact ⟨_, rfl⟩
  · exact ⟨_, rfl⟩

/-! ### Lanes -/

theorem mem_lanesOf {m : Word} {l : Nat} : l ∈ lanesOf m ↔ l < 32 ∧ m.getLsbD l = true := by
  simp [lanesOf, allLanes]

theorem lanesOf_nodup (m : Word) : (lanesOf m).Nodup := by
  unfold lanesOf allLanes
  exact List.Pairwise.filter _ List.nodup_range

theorem lanesOf_lt {m : Word} {l : Nat} (h : l ∈ lanesOf m) : l < 32 := (mem_lanesOf.mp h).1

/-! ### Registers -/

@[simp] theorem skipOps_mode (w : Warp) (c n : Nat) : (w.skipOps c n).mode = w.mode := rfl
@[simp] theorem scratch_congr (w w' : Warp) (h : w'.mode = w.mode) (c : Nat) : w'.scratch c = w.scratch c := by
  unfold Warp.scratch; rw [h]

theorem pending_skipOps (w : Warp) (c n : Nat) : (w.skipOps c n).pending = w.pending := by
  unfold Warp.pending Warp.skipOps
  rw [List.map_map]
  refine List.map_congr_left fun o _ => ?_
  simp only [Function.comp]
  split
  · split <;> rfl
  · rfl

/-- The note of a later uniform write changes a warp's pending operations alone, and no position of a pending marker. -/
theorem skipped (w : Warp) (d : Nat) (b : Bool) :
    ∃ os, (if b then w else w.skipOps d (w.ops.foldl (fun n o => max n (o.id + 1)) 0)) = { w with ops := os } ∧
      ({ w with ops := os } : Warp).pending = w.pending := by
  cases b
  · exact ⟨_, rfl, pending_skipOps w d _⟩
  · exact ⟨w.ops, rfl, rfl⟩

theorem setReg_mode (w : Warp) (c l : Nat) (x : Word) : (w.setReg c l x).mode = w.mode := by
  obtain ⟨os, e, -⟩ := skipped w c w.ops.isEmpty
  unfold Warp.setReg
  dsimp only
  rw [e]
  split <;> split <;> rfl

/-- Reading a vector register after a write. -/
theorem reg_setReg_vec (w : Warp) {c d l k : Nat} (x : Word) (hd : d < 96) (hl : l < 32) (hk : k < 32) :
    (w.setReg d k x).reg c l = if c = d ∧ l = k then x else w.reg c l := by
  have hs : ∀ c, (w.setReg d k x).scratch c = w.scratch c := fun c => scratch_congr _ _ (setReg_mode w d k x) c
  have key : c * 32 + l = d * 32 + k ↔ c = d ∧ l = k := by omega
  unfold Warp.reg
  rw [hs]
  unfold Warp.setReg
  by_cases hc : c < 96
  · by_cases hsc : w.scratch c = true <;> by_cases hsd : w.scratch d = true <;>
      simp only [hc, hd, hsc, hsd, if_true, if_false, Bool.false_eq_true, fget_fset, key]
    · rw [if_neg (by rintro ⟨rfl, -⟩; exact hsd hsc)]
    · rw [if_neg (by rintro ⟨rfl, -⟩; exact hsc hsd)]
  · have hn : ¬ (c = d ∧ l = k) := by omega
    by_cases hsc : w.scratch c = true <;> by_cases hsd : w.scratch d = true <;>
      simp only [hc, hd, hsc, hsd, hn, if_true, if_false, Bool.false_eq_true]

/-- Reading a register after a write of a uniform one. -/
theorem reg_setReg_uni (w : Warp) {c d l k : Nat} (x : Word) (hd : 96 ≤ d) :
    (w.setReg d k x).reg c l = if c = d then x else w.reg c l := by
  have hs : ∀ c, (w.setReg d k x).scratch c = w.scratch c := fun c => scratch_congr _ _ (setReg_mode w d k x) c
  have hd' : ¬ d < 96 := by omega
  obtain ⟨os, e, -⟩ := skipped w d w.ops.isEmpty
  have hw : ({ w with ops := os } : Warp).scratch d = w.scratch d := rfl
  unfold Warp.reg
  rw [hs]
  unfold Warp.setReg
  dsimp only
  rw [e, hw, if_neg hd']
  by_cases hc : c < 96
  · have hn : c ≠ d := by omega
    by_cases hsc : w.scratch c = true <;> by_cases hsd : w.scratch d = true <;>
      simp only [hc, hsc, hsd, hn, if_true, if_false, Bool.false_eq_true]
  · have key : c - 96 = d - 96 ↔ c = d := by omega
    by_cases hsc : w.scratch c = true <;> by_cases hsd : w.scratch d = true <;>
      simp only [hc, hsc, hsd, if_true, if_false, Bool.false_eq_true, fget_fset, key]
    · rw [if_neg (by rintro rfl; exact hsd hsc)]
    · rw [if_neg (by rintro rfl; exact hsc hsd)]

/-- The parts of a warp that writing registers may change. -/
def Warp.RegsOnly (w w' : Warp) : Prop :=
  w' = { w with v := w'.v, s := w'.s, sv := w'.sv, ss := w'.ss, bad := w'.bad, ops := w'.ops } ∧ w'.pending = w.pending
  ∧ ∀ x ∈ w'.bad, x ∈ w.bad

theorem Warp.RegsOnly.refl (w : Warp) : w.RegsOnly w := ⟨rfl, rfl, fun _ h => h⟩

theorem Warp.RegsOnly.trans {a b c : Warp} (h : a.RegsOnly b) (g : b.RegsOnly c) : a.RegsOnly c := by
  obtain ⟨h1, h2, h3⟩ := h
  obtain ⟨g1, g2, g3⟩ := g
  refine ⟨?_, g2.trans h2, fun x hx => h3 x (g3 x hx)⟩
  rw [g1, h1]

theorem regsOnly_setReg (w : Warp) (c l : Nat) (x : Word) : w.RegsOnly (w.setReg c l x) := by
  obtain ⟨os, e, hp⟩ := skipped w c w.ops.isEmpty
  unfold Warp.setReg
  dsimp only
  rw [e]
  split <;> split
  · exact ⟨rfl, rfl, fun _ h => h⟩
  · exact ⟨rfl, rfl, fun _ h => (List.mem_filter.mp h).1⟩
  · exact ⟨rfl, hp, fun _ h => h⟩
  · exact ⟨rfl, hp, fun _ h => (List.mem_filter.mp h).1⟩

theorem setWarp_setWarp (s : State) (a b : Warp) : (s.setWarp a).setWarp b = s.setWarp b := by
  have hf : ∀ {α : Type} (m : FMap α) (k : Nat) (v : α), ferase (fset m k v) k = ferase m k := by
    intro α m k v
    unfold fset
    induction m with
    | nil => simp [ferase, finsert]
    | cons x m ih =>
      obtain ⟨j, u⟩ := x
      by_cases h : j = k
      · simpa [ferase, h] using ih
      · by_cases h' : k < j
        · simp [ferase, finsert, h, h']
          have : ∀ m : FMap α, ferase (ferase m k) k = ferase m k := by
            intro m; rw [ferase_filter, ferase_filter]; simp
          exact this m
        · simp [ferase, finsert, h, h', ih]
  have hs : ∀ {α : Type} (m : FMap α) (k : Nat) (u v : α), fset (fset m k u) k v = fset m k v := by
    intro α m k u v
    rw [fset, hf]; rfl
  unfold State.setWarp State.setWarpAt State.updCore State.setCore State.core Core.setWarp
  simp [hs]

theorem regsOnly_setLanes (xs : List (Nat × Word)) (w : Warp) (d : Nat) : w.RegsOnly (w.setLanes d xs) := by
  unfold Warp.setLanes
  induction xs generalizing w with
  | nil => exact .refl w
  | cons x xs ih => exact (regsOnly_setReg w d x.1 x.2).trans (ih _)

/-- One value per lane, in lanes that do not repeat. -/
theorem reg_setLanes (ls : List Nat) (f : Nat → Word) (w : Warp) {c d l : Nat} (hd : d < 96) (hl : l < 32)
    (hls : ∀ k ∈ ls, k < 32) (hn : ls.Nodup) :
    (w.setLanes d (ls.map fun l => (l, f l))).reg c l = if c = d ∧ l ∈ ls then f l else w.reg c l := by
  unfold Warp.setLanes
  induction ls generalizing w with
  | nil => simp
  | cons k ls ih =>
    obtain ⟨hk, hn⟩ := List.nodup_cons.mp hn
    rw [List.map_cons, List.foldl_cons, ih _ (fun k h => hls k (List.mem_cons_of_mem _ h)) hn,
      reg_setReg_vec w _ hd hl (hls k List.mem_cons_self)]
    by_cases h1 : l = k
    · subst h1; simp [hk]
    · simp [h1]

theorem onlyWarp_setWarp (s : State) (w : Warp) : OnlyWarp s (s.setWarp w) :=
  ⟨setWarp_setWarp s w {}, fun _ => rfl⟩

theorem results_of {s : State} {w : Warp} {f : Nat → Nat → Option Word} (h : s.warp.RegsOnly w)
    (hr : ∀ c l, c < 128 → l < 32 → w.reg c l = (f c l).getD (s.warp.reg c l)) : Results s (s.setWarp w) f := by
  refine ⟨onlyWarp_setWarp s w, ?_, ?_, ?_, ?_⟩ <;> simp only [warp_setWarp']
  · exact hr
  · exact h.1
  · exact h.2.1
  · exact h.2.2

/-- A value per lane of the split in one vector register (a short result). -/
theorem results_perLane (s : State) (d : BitVec 7) (f : Warp → Nat → Word) (hd : d.toNat < 96) :
    Results s (s.perLane d f) (inLanes s d (f s.warp)) := by
  refine results_of (regsOnly_setLanes _ _ _) fun c l _ hl => ?_
  rw [reg_setLanes s.lanes _ _ hd hl (fun k h => lanesOf_lt h) (lanesOf_nodup _)]
  unfold inLanes
  simp only [State.lanes, mem_lanesOf, hl, true_and]
  split <;> rfl

/-- One value in a uniform register. -/
theorem results_uniform (s : State) (d : BitVec 7) (l : Nat) (x : Word) (hd : 96 ≤ d.toNat) :
    Results s (s.updWarp fun w => w.setReg d.toNat l x) (inUniform d x) := by
  refine results_of (regsOnly_setReg _ _ _ _) fun c l _ _ => ?_
  rw [reg_setReg_uni _ _ hd]
  unfold inUniform
  split <;> rfl

theorem results_uni (s : State) (o : VOps) (f : Word → Word → Word) (hd : 96 ≤ o.d.toNat) :
    Results s (s.uni o f) (inUniform o.d (f (s.warp.reg o.a.toNat 0) (s.warp.reg o.b.toNat 0))) := by
  refine results_of (regsOnly_setReg _ _ _ _) fun c l _ _ => ?_
  rw [reg_setReg_uni _ _ hd]
  unfold inUniform
  split <;> rfl

/-- One value in a vector or a uniform register. -/
theorem results_oneValue (s : State) (d : BitVec 7) (x : Word) : Results s (s.oneValue d x) (inEither s d x) := by
  unfold State.oneValue inEither
  split
  · exact results_uniform s d 0 x ‹_›
  · exact results_perLane s d _ (by omega)

/-! ### Register pairs -/

theorem regsOnly_setReg64 (w : Warp) (c l n : Nat) : w.RegsOnly (w.setReg64 c l n) :=
  (regsOnly_setReg _ _ _ _).trans (regsOnly_setReg _ _ _ _)

theorem pairs_fold (ls : List Nat) (v : Nat → Nat) (w : Warp) {c d l : Nat} (hd : d + 1 < 96) (hl : l < 32)
    (hls : ∀ k ∈ ls, k < 32) (hn : ls.Nodup) :
    ((ls.map fun l => (l, v l)).foldl (fun w x => w.setReg64 d x.1 x.2) w).reg c l
      = if l ∈ ls then (if c = d then BitVec.ofNat 32 (v l) else if c = d + 1 then BitVec.ofNat 32 (v l / 2 ^ 32) else w.reg c l)
        else w.reg c l := by
  induction ls generalizing w with
  | nil => simp
  | cons k ls ih =>
    obtain ⟨hk, hn⟩ := List.nodup_cons.mp hn
    have hk' := hls k List.mem_cons_self
    rw [List.map_cons, List.foldl_cons, ih _ (fun k h => hls k (List.mem_cons_of_mem _ h)) hn]
    unfold Warp.setReg64
    simp only [reg_setReg_vec _ _ hd hl hk', reg_setReg_vec _ _ (show d < 96 by omega) hl hk']
    by_cases h1 : l = k
    · subst h1
      by_cases h2 : c = d
      · subst h2; simp [hk]
      · simp [hk, h2]
    · simp [h1]

theorem regsOnly_pairs (xs : List (Nat × Nat)) (w : Warp) (d : Nat) :
    w.RegsOnly (xs.foldl (fun w x => w.setReg64 d x.1 x.2) w) := by
  induction xs generalizing w with
  | nil => exact .refl w
  | cons x xs ih => exact (regsOnly_setReg64 w d x.1 x.2).trans (ih _)

theorem results_perLane64 (s : State) (d : BitVec 7) (f : Warp → Nat → Nat) (hd : d.toNat + 1 < 96) :
    Results s (s.perLane64 d f) (inPairs s d (f s.warp)) := by
  refine results_of (regsOnly_pairs _ _ _) fun c l _ hl => ?_
  rw [pairs_fold s.lanes _ _ hd hl (fun k h => lanesOf_lt h) (lanesOf_nodup _)]
  unfold inPairs
  simp only [State.lanes, mem_lanesOf, hl, true_and]
  split
  · split
    · rfl
    · split <;> rfl
  · rfl

/-! ### Predicates -/

theorem setBit8_get (b : BitVec 8) {p q : Nat} (x : Bool) (hp : p < 8) (hq : q < 8) :
    (setBit8 b p x).getLsbD q = if q = p then x else b.getLsbD q := by
  have ht : (BitVec.ofNat 8 (2 ^ p)).getLsbD q = decide (q = p) := by
    rcases p with _ | _ | _ | _ | _ | _ | _ | _ | p <;> rcases q with _ | _ | _ | _ | _ | _ | _ | _ | q <;>
      first | rfl | omega
  unfold setBit8
  split <;> rename_i hx
  · rw [BitVec.getLsbD_or, ht]
    by_cases h : q = p <;> simp [h, hx]
  · rw [BitVec.getLsbD_and, BitVec.getLsbD_not, ht]
    by_cases h : q = p <;> simp [h, hx, hq, hp]

theorem pred_setPred (w : Warp) {p q l k : Nat} (x : Bool) (hp : p < 8) (hq : q < 8) :
    (w.setPred p k x).pred q l = if q = p ∧ p ≠ 7 ∧ l = k then x else w.pred q l := by
  unfold Warp.setPred
  by_cases h7 : p = 7
  · rw [if_pos h7, if_neg (by omega)]
  · rw [if_neg h7]
    unfold Warp.pred
    by_cases hm : w.mode = .tenant
    · simp only [hm, ne_eq, not_true_eq_false, if_false, Warp.updThread, Warp.setThread, Warp.thread, fget_fset]
      by_cases hq7 : q = 7
      · rw [if_pos hq7, if_neg (by omega), if_pos hq7]
      · rw [if_neg hq7, if_neg hq7]
        by_cases hl : l = k
        · subst hl; simp [setBit8_get _ _ hp hq, h7]
        · simp [hl]
    · simp only [hm, ne_eq, not_false_eq_true, if_true, fget_fset]
      by_cases hq7 : q = 7
      · rw [if_pos hq7, if_neg (by omega), if_pos hq7]
      · rw [if_neg hq7, if_neg hq7]
        by_cases hl : l = k
        · subst hl; simp [setBit8_get _ _ hp hq, h7]
        · simp [hl]

/-- The parts of a warp that writing predicates may change. -/
def Warp.PredsOnly (w w' : Warp) : Prop :=
  w' = { w with th := w'.th, sp := w'.sp, bad := w'.bad }
  ∧ (∀ l, { w'.thread l with preds := 0 } = { w.thread l with preds := 0 }) ∧ ∀ x ∈ w'.bad, x ∈ w.bad

theorem Warp.PredsOnly.trans {a b c : Warp} (h : a.PredsOnly b) (g : b.PredsOnly c) : a.PredsOnly c :=
  ⟨by rw [g.1, h.1], fun l => (g.2.1 l).trans (h.2.1 l), fun x hx => h.2.2 x (g.2.2 x hx)⟩

theorem predsOnly_setPred (w : Warp) (p l : Nat) (x : Bool) : w.PredsOnly (w.setPred p l x) := by
  unfold Warp.setPred
  split
  · exact ⟨rfl, fun _ => rfl, fun _ h => h⟩
  · split
    · exact ⟨rfl, fun _ => rfl, fun _ h => h⟩
    · refine ⟨rfl, fun j => ?_, fun _ h => (List.mem_filter.mp h).1⟩
      have hb : ({ w with bad := w.bad.filter (· != predCell p l) } : Warp).thread j = w.thread j := rfl
      by_cases h : j = l
      · subst h; rw [Warp.updThread, thread_setThread]; rfl
      · rw [Warp.updThread, thread_setThread_ne _ _ h, hb]

/-- One predicate per lane of the split. -/
theorem predicates_perPred (s : State) {p : Nat} (f : Warp → Nat → Bool) (hp : p < 8) :
    Predicates s (s.perPred p f) p (f s.warp) := by
  have key : ∀ (ls : List Nat) (w : Warp), ls.Nodup →
      let w' := (ls.map fun l => (l, f s.warp l)).foldl (fun v x => v.setPred p x.1 x.2) w
      w.PredsOnly w' ∧ ∀ q l, q < 8 → w'.pred q l = if q = p ∧ p ≠ 7 ∧ l ∈ ls then f s.warp l else w.pred q l := by
    intro ls
    induction ls with
    | nil => intro w _; exact ⟨⟨rfl, fun _ => rfl, fun _ h => h⟩, by simp⟩
    | cons k ls ih =>
      intro w hn
      obtain ⟨hk, hn⟩ := List.nodup_cons.mp hn
      obtain ⟨h1, h2⟩ := ih (w.setPred p k (f s.warp k)) hn
      refine ⟨(predsOnly_setPred w p k _).trans h1, fun q l hq => ?_⟩
      rw [List.map_cons, List.foldl_cons, h2 q l hq, pred_setPred w _ hp hq]
      by_cases h3 : l = k
      · subst h3; simp [hk]
      · simp [h3]
  obtain ⟨h1, h2⟩ := key s.lanes s.warp (lanesOf_nodup _)
  refine ⟨onlyWarp_setWarp s _, fun q l hq hl => ?_, fun l _ => ?_, ?_, ?_⟩ <;> simp only [State.perPred, warp_setWarp']
  · rw [h2 q l hq]
    simp only [State.lanes, mem_lanesOf, hl, true_and]
  · exact h1.2.1 l
  · exact h1.1
  · exact h1.2.2

/-! ### Long results -/

/-- A long result of the split waits, one operation for each lane. -/
theorem longResults_longLanes (s : State) (d : BitVec 7) (f : Warp → Nat → Word) :
    LongResults s (s.longLanes d f) d (f s.warp) := by
  have key : ∀ (v : Nat → Word) (ls : List Nat) (u : State),
      let t := ls.foldl (fun s' l =>
        let (id, s') := s'.newId
        s'.updWarp fun x => { x with ops := x.ops ++ [{ id := id, lane := l, kind := .fn, dest := some d, done := true, val := (v l).toNat }] }) u
      (∀ a, rd8 t.mem a = rd8 u.mem a) ∧ t.setWarp {} = { u.setWarp {} with nextId := t.nextId }
      ∧ t.warp = { u.warp with ops := t.warp.ops }
      ∧ ∃ os, t.warp.ops = u.warp.ops ++ os ∧ os.map (·.lane) = ls
        ∧ ∀ o ∈ os, o.kind = .fn ∧ o.dest = some d ∧ o.done = true ∧ o.err = false ∧ o.val = (v o.lane).toNat := by
    intro v ls
    induction ls with
    | nil => intro u; exact ⟨fun _ => rfl, rfl, rfl, [], by simp⟩
    | cons l ls ih =>
      intro u
      obtain ⟨h1, h2, h3, os, h4, h5, h6⟩ := ih (({ u with nextId := u.nextId + 1 } : State).updWarp fun x =>
        { x with ops := x.ops ++ [{ id := u.nextId, lane := l, kind := .fn, dest := some d, done := true, val := (v l).toNat }] })
      refine ⟨h1, h2.trans ?_, h3.trans ?_,
        { id := u.nextId, lane := l, kind := .fn, dest := some d, done := true, val := (v l).toNat } :: os, ?_, ?_, ?_⟩
      · rw [State.updWarp, setWarp_setWarp]; rfl
      · rw [warp_updWarp]; rfl
      · refine h4.trans ?_
        rw [warp_updWarp]
        show (u.warp.ops ++ [_]) ++ os = _
        simp
      · simp [h5]
      · intro o ho
        rcases List.mem_cons.mp ho with rfl | ho
        · exact ⟨rfl, rfl, rfl, rfl, rfl⟩
        · exact h6 o ho
  exact key (f s.warp) s.lanes s

end Sys2Proof.Machine
end

