-- ==== Sys2Proof/Laws/Elements.lean ====
section
/-! SUPPORT. Laws/Elements.lean: packed elements of registers, fitted values, and what the typed instructions of
spec/06_vector.md R129 write. -/

set_option Elab.async false

namespace Sys2Proof.Machine

open Sys2Proof

theorem packElems_get (w : Nat) (es : List Nat) (k : Nat) (h : k < es.length) (_hw : 0 < w) :
    packElems w es / 2 ^ (w * k) % 2 ^ w = es[k] % 2 ^ w := by
  induction es generalizing k with
  | nil => simp at h
  | cons e es ih =>
    rcases k with _ | k
    · simp [packElems]
    · have : 2 ^ (w * (k + 1)) = 2 ^ w * 2 ^ (w * k) := by rw [← Nat.pow_add]; congr 1; rw [Nat.mul_add]; omega
      rw [packElems, this, ← Nat.div_div_eq_div_mul, Nat.add_mul_div_left _ _ (by exact Nat.two_pow_pos w),
        Nat.div_eq_of_lt (Nat.mod_lt _ (Nat.two_pow_pos w)), Nat.zero_add]
      simpa using ih k (by simpa using h)

theorem packElems_lt (w : Nat) (es : List Nat) : packElems w es < 2 ^ (w * es.length) := by
  induction es with
  | nil => simp [packElems]
  | cons e es ih =>
    rw [packElems, List.length_cons, Nat.mul_add, Nat.mul_one, Nat.pow_add, Nat.mul_comm (2 ^ (w * es.length))]
    have := Nat.mod_lt e (Nat.two_pow_pos w)
    have h2 : packElems w es + 1 ≤ 2 ^ (w * es.length) := ih
    calc _ < 2 ^ w + 2 ^ w * packElems w es := by omega
      _ = 2 ^ w * (packElems w es + 1) := by rw [Nat.mul_add]; omega
      _ ≤ _ := Nat.mul_le_mul_left _ h2

theorem elem_of (w : Nat) (es : List Nat) (k : Nat) (h : k < es.length) (hw : 0 < w) (hl : w * es.length ≤ 32) :
    elemN w (ofElems w es) k = es[k] % 2 ^ w := by
  unfold elemN ofElems
  rw [BitVec.toNat_ofNat, Nat.mod_eq_of_lt (a := packElems w es), packElems_get w es k h hw]
  exact Nat.lt_of_lt_of_le (packElems_lt w es) (Nat.pow_le_pow_right (by decide) hl)

/-- An instruction that completes where it runs, by its effect. -/
theorem computes_of {i : Instr} {s : State} (f : State → State) {g : Nat → Nat → Option Word} (he : exec i s = s.gated i f)
    (hr : i.wf = true → Results s (f s) g) : Computes i s g :=
  fun hw hR => ⟨f s, he.trans (gated_runs hR f), hr hw⟩

theorem computesElems_of {i : Instr} {s : State} (f : State → State) {d : BitVec 7} {w : Nat} {g : Nat → Nat → Nat} (v : Nat → Word)
    (he : exec i s = s.gated i f) (hr : i.wf = true → Results s (f s) (inLanes s d v))
    (hv : i.wf = true → ∀ l k, k < 32 / w → elemN w (v l) k = g l k) : ComputesElems i s d w g :=
  fun hw hR => ⟨f s, v, he.trans (gated_runs hR f), hr hw, fun l k _ _ hk => hv hw l k hk⟩

theorem computesLong_of {i : Instr} {s : State} (f : State → State) {d : BitVec 7} {g : Nat → Word} (he : exec i s = s.gated i f)
    (hr : LongResults s (f s) d g) : ComputesLong i s d g :=
  fun _ hR => ⟨f s, he.trans (gated_runs hR f), hr⟩

theorem computesPred_of {i : Instr} {s : State} (f : State → State) {p : Nat} {g : Nat → Bool} (he : exec i s = s.gated i f)
    (hr : i.wf = true → Predicates s (f s) p g) : ComputesPred i s p g :=
  fun hw hR => ⟨f s, he.trans (gated_runs hR f), hr hw⟩

theorem tyWidth_cases (ty : Nat) : tyWidth ty = 32 ∨ tyWidth ty = 16 ∨ tyWidth ty = 8 := by unfold tyWidth; split; simp; split <;> simp
theorem mapElems_get (w : Nat) (hw : w = 32 ∨ w = 16 ∨ w = 8) (f : Nat → Nat → Nat → Nat) (x y z : Word) (k : Nat) (hk : k < 32 / w) :
    elemN w (mapElems w f x y z) k = f (elemN w x k) (elemN w y k) (elemN w z k) % 2 ^ w := by
  unfold mapElems
  rw [elem_of _ _ _ (by simpa using hk) (by omega) (by rcases hw with rfl | rfl | rfl <;> simp)]
  simp
theorem fit_lt (ty : Nat) (b : Bool) (z : Int) : fit ty b z < 2 ^ tyWidth ty := by
  unfold fit modW
  split <;> (rcases tyWidth_cases ty with h | h | h <;> rw [h] <;> simp <;> omega)
theorem modW_lt (w : Nat) (z : Int) : modW w z < 2 ^ w := by
  unfold modW
  have : (0:Int) < 2 ^ w := Int.pow_pos (by decide)
  have h1 := Int.emod_nonneg z (Int.ne_of_gt this)
  have h2 := Int.emod_lt_of_pos z this
  have h3 : (((2:Nat) ^ w : Nat) : Int) = 2 ^ w := by norm_cast
  omega
theorem tyOp_get (o : VOps) (op : Int → Int → Int → Int) (x y z : Word) (k : Nat) (hk : k < 32 / tyWidth (vTy o)) :
    elemN (tyWidth (vTy o)) (tyOp o op x y z) k = fit (vTy o) (vSat o) (op (tyVal (vTy o) (elemN (tyWidth (vTy o)) x k)) (tyVal (vTy o) (elemN (tyWidth (vTy o)) y k)) (tyVal (vTy o) (elemN (tyWidth (vTy o)) z k))) := by
  unfold tyOp
  rw [mapElems_get _ (tyWidth_cases _) _ _ _ _ _ hk]
  exact Nat.mod_eq_of_lt (fit_lt _ _ _)



theorem vec_of_and {b c r : Bool} {o : VOps} (h : (WellFormed.verdict (WellFormed.isVec o.d && b && c) r).isNone = true) : o.d.toNat < 96 := by
  rw [Option.isNone_iff_eq_none, verdict_none] at h
  simp only [Bool.and_eq_true, WellFormed.isVec, decide_eq_true_eq] at h
  exact h.1.1.1
theorem vec_int {i : Instr} {o : VOps} {sat : Bool} {m : Nat} (e : WellFormed.check i = WellFormed.intV o sat m) (h : i.wf = true) : o.d.toNat < 96 := by
  unfold Instr.wf at h; rw [e] at h; exact vec_of_and h
theorem sat_int {i : Instr} {o : VOps} {m : Nat} (e : WellFormed.check i = WellFormed.intV o false m) (h : i.wf = true) : vSat o = false := by
  unfold Instr.wf at h; rw [e, WellFormed.intV, Option.isNone_iff_eq_none, verdict_none] at h
  simp only [Bool.and_eq_true] at h
  have h := h.1.2
  unfold WellFormed.intExt at h; unfold vSat
  cases hx : o.x <;> simp_all
theorem results_intVec {s : State} {o : VOps} (f : Word → Word → Word → Word) (h : o.d.toNat < 96) :
    Results s (s.intVec o f) (inLanes s o.d fun l => f (s.warp.reg o.a.toNat l) (s.warp.regB s.mask o l) (s.warp.reg o.d.toNat l)) :=
  results_perLane s o.d (fun w l => f (w.reg o.a.toNat l) (w.regB s.mask o l) (w.reg o.d.toNat l)) h
theorem results_selVec {s : State} {o : VOps} (f : Word → Word → Word → Word) (h : o.d.toNat < 96) :
    Results s (s.selVec o f) (inLanes s o.d fun l => f (s.warp.reg o.a.toNat l) (s.warp.reg o.b.toNat l) (s.warp.reg o.d.toNat l)) :=
  results_perLane s o.d (fun w l => f (w.reg o.a.toNat l) (w.reg o.b.toNat l) (w.reg o.d.toNat l)) h

theorem elem_bound (ty : Nat) (n : Nat) (h : n < 2 ^ tyWidth ty) : (tySigned ty = true → -(2 ^ (tyWidth ty - 1)) ≤ tyVal ty n ∧ tyVal ty n < 2 ^ (tyWidth ty - 1)) ∧ (tySigned ty = false → 0 ≤ tyVal ty n ∧ tyVal ty n < 2 ^ tyWidth ty) := by
  unfold tyVal sext
  constructor <;> intro hs <;> rw [hs] <;> simp only [if_true, Bool.false_eq_true, if_false]
  · rcases tyWidth_cases ty with e | e | e <;> rw [e] at h ⊢ <;> simp at h ⊢ <;> split <;> omega
  · rcases tyWidth_cases ty with e | e | e <;> rw [e] at h ⊢ <;> simp at h ⊢ <;> omega

theorem elemN_lt (w : Nat) (x : Word) (k : Nat) : elemN w x k < 2 ^ w := Nat.mod_lt _ (Nat.two_pow_pos w)
/-- a fitted value in range needs no clamp -/
theorem fit_in {ty : Nat} {b : Bool} {z : Int} (h1 : tySigned ty = true → -(2 ^ (tyWidth ty - 1)) ≤ z ∧ z < 2 ^ (tyWidth ty - 1)) (h2 : tySigned ty = false → 0 ≤ z ∧ z < 2 ^ tyWidth ty) :
    fit ty b z = modW (tyWidth ty) z := by
  unfold fit
  cases b
  · simp
  · simp only [if_true]
    cases hs : tySigned ty
    · have := h2 hs; rcases tyWidth_cases ty with e | e | e <;> rw [e] at this ⊢ <;> simp at this ⊢ <;> congr 1 <;> omega
    · have := h1 hs; rcases tyWidth_cases ty with e | e | e <;> rw [e] at this ⊢ <;> simp at this ⊢ <;> congr 1 <;> omega


theorem computesElems_typed {i : Instr} {o : VOps} {s : State} (op : Int → Int → Int → Int) {g : Nat → Nat → Nat} {sat : Bool}
    (he : exec i s = s.gated i (·.intVec o (tyOp o op))) (hc : WellFormed.check i = WellFormed.intV o sat 5)
    (hg : i.wf = true → ∀ l k, fit (vTy o) (vSat o) (op (elA o s l k) (elB o s l k) (elD o s l k)) = g l k) :
    ComputesElems i s o.d (tyWidth (vTy o)) g := fun hw hR =>
  ⟨_, _, by rw [he]; exact gated_runs hR _, results_intVec (tyOp o op) (vec_int hc hw), fun l k _ _ hk => (tyOp_get o op _ _ _ k hk).trans (hg hw l k)⟩

theorem fit_false (ty : Nat) (z : Int) : fit ty false z = modW (tyWidth ty) z := by unfold fit; simp
theorem fit_choice (o : VOps) (s : State) (l k : Nat) (n : Nat) (h : n < 2 ^ tyWidth (vTy o)) (op : Int → Int → Int) (hop : ∀ x y, op x y = x ∨ op x y = y) :
    fit (vTy o) (vSat o) (op (elD o s l k) (tyVal (vTy o) n)) = modW (tyWidth (vTy o)) (op (elD o s l k) (tyVal (vTy o) n)) := by
  refine fit_in ?_ ?_ <;> intro hs
  · have h1 := (elem_bound (vTy o) _ (elemN_lt (tyWidth (vTy o)) (s.warp.reg o.d.toNat l) k)).1 hs
    have h2 := (elem_bound (vTy o) _ h).1 hs
    rcases hop (elD o s l k) (tyVal (vTy o) n) with e | e <;> rw [e]
    · exact h1
    · exact h2
  · have h1 := (elem_bound (vTy o) _ (elemN_lt (tyWidth (vTy o)) (s.warp.reg o.d.toNat l) k)).2 hs
    have h2 := (elem_bound (vTy o) _ h).2 hs
    rcases hop (elD o s l k) (tyVal (vTy o) n) with e | e <;> rw [e]
    · exact h1
    · exact h2

end Sys2Proof.Machine
end

