-- ==== Sys2Proof/Laws/Keep.lean ====
section
/-! SUPPORT. Laws/Keep.lean: the shared operations keep memory in its canonical form, one lemma for each function that
answers a state. -/

set_option Elab.async false

namespace Sys2Proof.Machine

/-- The memory of a state is in its canonical form. -/
def MemOk (s : State) : Prop := memWf s.mem = true
/-- An outcome's next state has canonical memory. -/
def OutOk (r : Host.Outcome State Fault Refusal) : Prop := ∀ t, r = .next t → MemOk t
/-- A state that may be absent has canonical memory. -/
def OptOk (r : Option State) : Prop := ∀ t, r = some t → MemOk t

theorem MemOk.of_mem {s t : State} (h : MemOk s) (e : t.mem = s.mem) : MemOk t := by
  unfold MemOk at *; rw [e]; exact h
theorem OutOk.next {s : State} (h : MemOk s) : OutOk (.next s) := by
  intro t e; cases e; exact h
theorem OptOk.some {s : State} (h : MemOk s) : OptOk (some s) := by
  intro t e; cases e; exact h
theorem OptOk.none : OptOk none := by intro t e; cases e
theorem MemOk.foldl {α : Type} {f : State → α → State} (l : List α) {s : State} (h : MemOk s)
    (hf : ∀ s x, MemOk s → MemOk (f s x)) : MemOk (l.foldl f s) := by
  induction l generalizing s with
  | nil => exact h
  | cons x l ih => exact ih (hf s x h)
theorem MemOk.foldl_fst {α β : Type} {f : State × β → α → State × β} (l : List α) {s : State × β} (h : MemOk s.1)
    (hf : ∀ s x, MemOk s.1 → MemOk (f s x).1) : MemOk (l.foldl f s).1 := by
  induction l generalizing s with
  | nil => exact h
  | cons x l ih => exact ih (hf s x h)
theorem MemOk.wrBytes {s t : State} (h : MemOk s) (a : Nat) (bs : List Byte) (e : t.mem = wrBytes s.mem a bs) : MemOk t := by
  unfold MemOk at *; rw [e]; exact memWf_wrBytes _ _ _ h
theorem MemOk.ite {c : Prop} [Decidable c] {s t : State} (hs : MemOk s) (ht : MemOk t) : MemOk (if c then s else t) := by
  split <;> assumption
theorem MemOk.ite_fst {α : Type} {c : Prop} [Decidable c] {s t : State × α} (hs : MemOk s.1) (ht : MemOk t.1) :
    MemOk (if c then s else t).1 := by
  split <;> assumption

theorem State.setCore_memOk (s : State) (c : Nat) (k : Core) (h : MemOk s) :
    MemOk (State.setCore s c k) := by
  unfold State.setCore
  grind [MemOk, OutOk, OptOk, memWf_wrBytes]

theorem State.updCore_memOk (s : State) (c : Nat) (f : Core → Core) (h : MemOk s) :
    MemOk (State.updCore s c f) := by
  unfold State.updCore
  grind [MemOk, OutOk, OptOk, memWf_wrBytes, State.setCore_memOk]

theorem State.setWarpAt_memOk (s : State) (c w : Nat) (x : Warp) (h : MemOk s) :
    MemOk (State.setWarpAt s c w x) := by
  unfold State.setWarpAt
  grind [MemOk, OutOk, OptOk, memWf_wrBytes, State.updCore_memOk]

theorem State.updWarpAt_memOk (s : State) (c w : Nat) (f : Warp → Warp) (h : MemOk s) :
    MemOk (State.updWarpAt s c w f) := by
  unfold State.updWarpAt
  grind [MemOk, OutOk, OptOk, memWf_wrBytes, State.setWarpAt_memOk]

theorem State.setWarp_memOk (s : State) (x : Warp) (h : MemOk s) :
    MemOk (State.setWarp s x) := by
  unfold State.setWarp
  grind [MemOk, OutOk, OptOk, memWf_wrBytes, State.setWarpAt_memOk]

theorem State.updWarp_memOk (s : State) (f : Warp → Warp) (h : MemOk s) :
    MemOk (State.updWarp s f) := by
  unfold State.updWarp
  grind [MemOk, OutOk, OptOk, memWf_wrBytes, State.setWarp_memOk]

theorem State.updDie_memOk (s : State) (d : Nat) (f : Die → Die) (h : MemOk s) :
    MemOk (State.updDie s d f) := by
  unfold State.updDie
  grind [MemOk, OutOk, OptOk, memWf_wrBytes]

theorem State.updPort_memOk (s : State) (p : Nat) (f : Port → Port) (h : MemOk s) :
    MemOk (State.updPort s p f) := by
  unfold State.updPort
  grind [MemOk, OutOk, OptOk, memWf_wrBytes]

theorem State.updTenant_memOk (s : State) (t : Nat) (f : Tenant → Tenant) (h : MemOk s) :
    MemOk (State.updTenant s t f) := by
  unfold State.updTenant
  grind [MemOk, OutOk, OptOk, memWf_wrBytes]

theorem State.updQueue_memOk (s : State) (t q : Nat) (f : Queue → Queue) (h : MemOk s) :
    MemOk (State.updQueue s t q f) := by
  unfold State.updQueue
  grind [MemOk, OutOk, OptOk, memWf_wrBytes, State.updTenant_memOk]

theorem State.updWg_memOk (s : State) (g : Nat) (f : Wg → Wg) (h : MemOk s) :
    MemOk (State.updWg s g f) := by
  unfold State.updWg
  grind [MemOk, OutOk, OptOk, memWf_wrBytes]

theorem State.updLaunch_memOk (s : State) (n : Nat) (f : Launch → Launch) (h : MemOk s) :
    MemOk (State.updLaunch s n f) := by
  unfold State.updLaunch
  grind [MemOk, OutOk, OptOk, memWf_wrBytes]

theorem State.newId_memOk (s : State) (h : MemOk s) :
    MemOk (State.newId s).2 := by
  unfold State.newId
  grind [MemOk, OutOk, OptOk, memWf_wrBytes]

theorem State.free_memOk (s : State) (h : MemOk s) :
    MemOk (State.free s).2 := by
  unfold State.free
  grind [MemOk, OutOk, OptOk, memWf_wrBytes]

theorem State.giveUp_memOk (s : State) (c : Nat) (p : Nat → Bool) (h : MemOk s) :
    MemOk (State.giveUp s c p) := by
  unfold State.giveUp
  grind [MemOk, OutOk, OptOk, memWf_wrBytes, State.updCore_memOk]

theorem State.countCore_memOk (s : State) (c code tenant n : Nat) (h : MemOk s) :
    MemOk (State.countCore s c code tenant n) := by
  unfold State.countCore
  grind [MemOk, OutOk, OptOk, memWf_wrBytes, State.updCore_memOk]

theorem State.countDie_memOk (s : State) (d code tenant n : Nat) (h : MemOk s) :
    MemOk (State.countDie s d code tenant n) := by
  unfold State.countDie
  grind [MemOk, OutOk, OptOk, memWf_wrBytes, State.updDie_memOk]

theorem State.countHbm_memOk (s : State) (pa code tenant n : Nat) (h : MemOk s) :
    MemOk (State.countHbm s pa code tenant n) := by
  unfold State.countHbm
  grind [MemOk, OutOk, OptOk, memWf_wrBytes, State.countDie_memOk]

theorem State.countRead_memOk (s : State) (pa tenant n : Nat) (h : MemOk s) :
    MemOk (State.countRead s pa tenant n) := by
  unfold State.countRead
  grind [MemOk, OutOk, OptOk, memWf_wrBytes, State.countHbm_memOk]

theorem State.countHub_memOk (s : State) (code tenant n : Nat) (h : MemOk s) :
    MemOk (State.countHub s code tenant n) := by
  unfold State.countHub
  grind [MemOk, OutOk, OptOk, memWf_wrBytes]

theorem State.updSys_memOk (s : State) (h : Nat) (f : SysCore → SysCore) (ok : MemOk s) :
    MemOk (State.updSys s h f) := by
  unfold State.updSys
  grind [MemOk, OutOk, OptOk, memWf_wrBytes]

theorem State.accessFault_memOk (s : State) (h : MemOk s) :
    MemOk (State.accessFault s) := by
  unfold State.accessFault
  grind [MemOk, OutOk, OptOk, memWf_wrBytes, State.updSys_memOk]

theorem State.mmio_memOk (s : State) (f : State → State) (h : MemOk s) (hf : ∀ (x0 : State), MemOk x0 → MemOk (f x0))
    :
    MemOk (State.mmio s f) := by
  unfold State.mmio
  grind [MemOk, OutOk, OptOk, memWf_wrBytes, State.accessFault_memOk, State.updSys_memOk]

theorem State.noteWalk_memOk (s : State) (core tenant va : Nat) (h : MemOk s) :
    MemOk (State.noteWalk s core tenant va) := by
  unfold State.noteWalk
  grind [MemOk, OutOk, OptOk, memWf_wrBytes, State.countDie_memOk]

theorem State.setWfault_memOk (s : State) (core slot : Nat) (c : Cause) (fa : Nat := 0) (h : MemOk s) :
    MemOk (State.setWfault s core slot c fa) := by
  unfold State.setWfault
  grind [MemOk, OutOk, OptOk, memWf_wrBytes, State.updCore_memOk, State.updWarpAt_memOk]

theorem State.stopService_memOk (s : State) (core : Nat) (h : MemOk s) :
    MemOk (State.stopService s core) := by
  unfold State.stopService
  grind [MemOk, OutOk, OptOk, memWf_wrBytes, State.updCore_memOk]

theorem State.fragment_memOk (s : State) (core slot addr pslot : Nat) (fs : List LaneFault) (h : MemOk s) :
    MemOk (State.fragment s core slot addr pslot fs).1 := by
  unfold State.fragment
  grind [MemOk, OutOk, OptOk, memWf_wrBytes, State.countCore_memOk, State.setCore_memOk, State.setWarp_memOk,
      State.setWfault_memOk]

theorem State.takeFaults_memOk (s : State) (addr pslot : Nat) (fs : List LaneFault) (h : MemOk s) :
    MemOk (State.takeFaults s addr pslot fs).1 := by
  unfold State.takeFaults
  grind [MemOk, OutOk, OptOk, memWf_wrBytes, State.fragment_memOk, State.setWfault_memOk, State.stopService_memOk,
      State.updWarp_memOk]

theorem State.faultSplitAt_memOk (s : State) (addr pslot : Nat) (c : Cause) (fa : Nat) (h : MemOk s) :
    MemOk (State.faultSplitAt s addr pslot c fa) := by
  unfold State.faultSplitAt
  grind [MemOk, OutOk, OptOk, memWf_wrBytes, State.takeFaults_memOk]

theorem State.faultSplit_memOk (s : State) (c : Cause) (fa : Nat) (h : MemOk s) :
    MemOk (State.faultSplit s c fa) := by
  unfold State.faultSplit
  grind [MemOk, OutOk, OptOk, memWf_wrBytes, State.faultSplitAt_memOk]

theorem State.faultOpenAt_memOk (s : State) (addr pslot : Nat) (c : Cause) (h : MemOk s) :
    MemOk (State.faultOpenAt s addr pslot c) := by
  unfold State.faultOpenAt
  grind [MemOk, OutOk, OptOk, memWf_wrBytes, State.faultSplitAt_memOk]

theorem State.faultOpen_memOk (s : State) (c : Cause) (h : MemOk s) :
    MemOk (State.faultOpen s c) := by
  unfold State.faultOpen
  grind [MemOk, OutOk, OptOk, memWf_wrBytes, State.faultOpenAt_memOk]

theorem State.withFaults_memOk (s : State) (fs : List LaneFault) (f : State → State) (h : MemOk s) (hf : ∀ (x0 :
    State), MemOk x0 → MemOk (f x0)) :
    MemOk (State.withFaults s fs f) := by
  unfold State.withFaults
  grind [MemOk, OutOk, OptOk, memWf_wrBytes, State.takeFaults_memOk]

theorem State.toSwitch_memOk (s : State) (p : Packet) (h : MemOk s) :
    MemOk (State.toSwitch s p) := by
  unfold State.toSwitch
  grind [MemOk, OutOk, OptOk, memWf_wrBytes]

theorem State.pump_memOk (s : State) (n : Nat) (h : MemOk s) :
    MemOk (State.pump s n) := by
  unfold State.pump
  (repeat' (first | apply MemOk.foldl | apply MemOk.foldl_fst | (intros; split) | (intros; assumption))) <;>
    grind [MemOk, OutOk, OptOk, memWf_wrBytes, State.countDie_memOk, State.toSwitch_memOk]

theorem State.transmit_memOk (s : State) (p : Packet) (h : MemOk s) :
    MemOk (State.transmit s p) := by
  unfold State.transmit
  grind [MemOk, OutOk, OptOk, memWf_wrBytes, State.pump_memOk, State.updPort_memOk]

theorem State.request_memOk (s : State) (src : Nat) (r : Sent) (h : MemOk s) :
    MemOk (State.request s src r) := by
  unfold State.request
  grind [MemOk, OutOk, OptOk, memWf_wrBytes, State.newId_memOk, State.transmit_memOk]

theorem State.acts_memOk (s : State) (core slot src job : Nat) (h : MemOk s) :
    MemOk (State.acts s core slot src job) := by
  unfold State.acts
  grind [MemOk, OutOk, OptOk, memWf_wrBytes]

theorem State.swRecall_memOk (s : State) (pa : Nat) (h : MemOk s) :
    MemOk (State.swRecall s pa) := by
  unfold State.swRecall
  grind [MemOk, OutOk, OptOk, memWf_wrBytes, State.transmit_memOk]

theorem State.ask_memOk (s : State) (tenant pa n : Nat) (h : MemOk s) :
    MemOk (State.ask s tenant pa n) := by
  unfold State.ask
  grind [MemOk, OutOk, OptOk, memWf_wrBytes, State.request_memOk, State.swRecall_memOk]

theorem State.jobStep_memOk (s t : State) (tenant : Nat) (st : Option Nat) (h : MemOk s) (ht : MemOk t) :
    MemOk (State.jobStep s t tenant st) := by
  unfold State.jobStep
  grind [MemOk, OutOk, OptOk, memWf_wrBytes, State.ask_memOk]

theorem State.gated_memOk (s : State) (i : Instr) (f : State → State) (h : MemOk s) (hf : ∀ (x0 : State), MemOk x0 →
    MemOk (f x0)) :
    OutOk (State.gated s i f) := by
  unfold State.gated
  grind [MemOk, OutOk, OptOk, memWf_wrBytes, State.faultOpen_memOk, State.faultOpenAt_memOk]

theorem State.perLane_memOk (s : State) (d : BitVec 7) (f : Warp → Nat → Word) (h : MemOk s) :
    MemOk (State.perLane s d f) := by
  unfold State.perLane
  grind [MemOk, OutOk, OptOk, memWf_wrBytes, State.setWarp_memOk]

theorem State.perPred_memOk (s : State) (p : Nat) (f : Warp → Nat → Bool) (h : MemOk s) :
    MemOk (State.perPred s p f) := by
  unfold State.perPred
  grind [MemOk, OutOk, OptOk, memWf_wrBytes, State.setWarp_memOk]

theorem State.oneValue_memOk (s : State) (d : BitVec 7) (x : Word) (h : MemOk s) :
    MemOk (State.oneValue s d x) := by
  unfold State.oneValue
  grind [MemOk, OutOk, OptOk, memWf_wrBytes, State.perLane_memOk, State.updWarp_memOk]

theorem State.recall_memOk (s : State) (pa n : Nat) (h : MemOk s) :
    MemOk (State.recall s pa n) := by
  unfold State.recall
  grind [MemOk, OutOk, OptOk, memWf_wrBytes]

theorem State.dropCopies_memOk (s : State) (c pa n : Nat) (h : MemOk s) :
    MemOk (State.dropCopies s c pa n) := by
  unfold State.dropCopies
  grind [MemOk, OutOk, OptOk, memWf_wrBytes, State.updCore_memOk]

theorem State.acquire_memOk (s : State) (c : Nat) (h : MemOk s) :
    MemOk (State.acquire s c) := by
  unfold State.acquire
  grind [MemOk, OutOk, OptOk, memWf_wrBytes, State.updCore_memOk]

theorem State.staleOps_memOk (s : State) (pa n : Nat) (but : Option Nat) (h : MemOk s) :
    MemOk (State.staleOps s pa n but) := by
  unfold State.staleOps
  grind [MemOk, OutOk, OptOk, memWf_wrBytes]

theorem State.asyncRec_memOk (s : State) (tenant va home : Nat) (h : MemOk s) :
    MemOk (State.asyncRec s tenant va home) := by
  unfold State.asyncRec
  grind [MemOk, OutOk, OptOk, memWf_wrBytes]

theorem State.takeSpare_memOk (s : State) (c : Nat) (h : MemOk s) :
    MemOk (State.takeSpare s c) := by
  unfold State.takeSpare
  grind [MemOk, OutOk, OptOk, memWf_wrBytes]

theorem State.remapRow_memOk (s : State) (pa : Nat) (h : MemOk s) :
    MemOk (State.remapRow s pa) := by
  unfold State.remapRow
  grind [MemOk, OutOk, OptOk, memWf_wrBytes, State.takeSpare_memOk]

theorem State.meetsError_memOk (s : State) (tenant va pa : Nat) (h : MemOk s) :
    MemOk (State.meetsError s tenant va pa) := by
  unfold State.meetsError
  grind [MemOk, OutOk, OptOk, memWf_wrBytes, State.asyncRec_memOk, State.remapRow_memOk]

theorem State.takeBack_memOk (s : State) (pa n : Nat) (h : MemOk s) :
    MemOk (State.takeBack s pa n) := by
  unfold State.takeBack
  grind [MemOk, OutOk, OptOk, memWf_wrBytes]

theorem State.homePart_memOk (s : State) (tenant va pa : Nat) (bs : List Byte) (h : MemOk s) :
    MemOk (State.homePart s tenant va pa bs).1 := by
  unfold State.homePart
  grind [MemOk, OutOk, OptOk, memWf_wrBytes, State.countDie_memOk, State.countHbm_memOk, State.meetsError_memOk,
      State.recall_memOk, State.takeBack_memOk]

theorem State.fitL1_memOk (s : State) (c line : Nat) (h : MemOk s) :
    MemOk (State.fitL1 s c line) := by
  unfold State.fitL1
  grind [MemOk, OutOk, OptOk, memWf_wrBytes, State.free_memOk, State.giveUp_memOk, State.updCore_memOk]

theorem State.register_memOk (s : State) (c tenant va pa : Nat) (bs : List Byte) (h : MemOk s) :
    MemOk (State.register s c tenant va pa bs) := by
  unfold State.register
  grind [MemOk, OutOk, OptOk, memWf_wrBytes, State.dropCopies_memOk, State.fitL1_memOk, State.homePart_memOk,
      State.updCore_memOk]

theorem State.updOp_memOk (s : State) (c id : Nat) (f : Op → Op) (h : MemOk s) :
    MemOk (State.updOp s c id f) := by
  unfold State.updOp
  grind [MemOk, OutOk, OptOk, memWf_wrBytes, State.updCore_memOk]

theorem State.farAsk_memOk (s : State) (c w lane va pa n : Nat) (h : MemOk s) :
    MemOk (State.farAsk s c w lane va pa n) := by
  unfold State.farAsk
  grind [MemOk, OutOk, OptOk, memWf_wrBytes, State.newId_memOk, State.updWarpAt_memOk]

theorem State.empty_memOk (s : State) (g : Nat) (h : MemOk s) :
    MemOk (State.empty s g) := by
  unfold State.empty
  grind [MemOk, OutOk, OptOk, memWf_wrBytes]

theorem State.serveClear_memOk (s : State) (key got : Nat) (h : MemOk s) :
    MemOk (State.serveClear s key got) := by
  unfold State.serveClear
  grind [MemOk, OutOk, OptOk, memWf_wrBytes, State.updDie_memOk]

theorem State.serveGo_memOk (g n : Nat) : ∀ s, MemOk s → MemOk (State.serveGo g n s) := by
  induction n with
  | zero => exact fun s h => h
  | succ n ih =>
    intro s h
    unfold State.serveGo
    grind [MemOk, State.serveClear_memOk, State.empty_memOk, State.updOp_memOk, State.dropCopies_memOk]

theorem State.serve_memOk (s : State) (g : Nat) (h : MemOk s) :
    MemOk (State.serve s g) := by
  exact State.serveGo_memOk _ _ _ h

theorem State.fill_memOk (s : State) (g : Nat) (h : MemOk s) :
    MemOk (State.fill s g) := by
  unfold State.fill
  grind [MemOk, OutOk, OptOk, memWf_wrBytes, State.serve_memOk]

theorem State.fillRange_memOk (s : State) (pa n : Nat) (h : MemOk s) :
    MemOk (State.fillRange s pa n) := by
  unfold State.fillRange
  (repeat' (first | apply MemOk.foldl | apply MemOk.foldl_fst | (intros; split) | (intros; assumption))) <;>
    grind [MemOk, OutOk, OptOk, memWf_wrBytes, State.fill_memOk]

theorem State.postChunks_memOk (typ tenant : Nat) (quiet : Bool) (n : Nat) :
    ∀ s pa bs, MemOk s → MemOk (State.postChunks typ tenant quiet n s pa bs) := by
  induction n with
  | zero => exact fun s _ _ h => h
  | succ n ih =>
    intro s pa bs h
    cases bs with
    | nil => exact h
    | cons b bs => exact ih _ _ _ (State.request_memOk _ _ _ h)
theorem State.engineGo_memOk (tenant n : Nat) : ∀ s va pa bs, MemOk s → MemOk (State.engineGo tenant n s va pa bs) := by
  induction n with
  | zero => exact fun s _ _ _ h => h
  | succ n ih =>
    intro s va pa bs h
    cases bs with
    | nil => exact h
    | cons b bs =>
      unfold State.engineGo
      grind [MemOk, State.homePart_memOk, State.fillRange_memOk]

theorem State.engineWrite_memOk (s : State) (tenant va pa : Nat) (bs : List Byte) (typ : Nat := 0) (quiet : Bool :=
    false) (h : MemOk s) :
    MemOk (State.engineWrite s tenant va pa bs typ quiet) := by
  exact .ite (State.postChunks_memOk _ _ _ _ _ _ _ h) (State.engineGo_memOk _ _ _ _ _ _ h)

theorem State.abWrite_memOk (s : State) (tenant va pa : Nat) (o : AbObj) (h : MemOk s) :
    MemOk (State.abWrite s tenant va pa o) := by
  unfold State.abWrite
  grind [MemOk, OutOk, OptOk, memWf_wrBytes, State.homePart_memOk]

theorem State.abDeliver_memOk (s : State) (tenant va pa n : Nat) (h : MemOk s) :
    MemOk (State.abDeliver s tenant va pa n) := by
  unfold State.abDeliver
  grind [MemOk, OutOk, OptOk, memWf_wrBytes, State.abWrite_memOk, State.meetsError_memOk]

theorem State.hubWrite_memOk (s : State) (tenant va : Nat) (bs : List Byte) (h : MemOk s) :
    MemOk (State.hubWrite s tenant va bs) := by
  unfold State.hubWrite
  grind [MemOk, OutOk, OptOk, memWf_wrBytes, State.engineWrite_memOk]

theorem State.arriveLanes_memOk (s : State) (c w : Nat) (ls : List (Nat × Nat × Nat)) (h : MemOk s) :
    MemOk (State.arriveLanes s c w ls) := by
  unfold State.arriveLanes
  grind [MemOk, OutOk, OptOk, memWf_wrBytes, State.newId_memOk, State.updWarpAt_memOk]

theorem State.goAll_memOk (s : State) (c w : Nat) (marker : Bool) (ts : List (Nat × Nat × Nat)) (h : MemOk s) :
    MemOk (State.goAll s c w marker ts) := by
  unfold State.goAll
  grind [MemOk, OutOk, OptOk, memWf_wrBytes, State.arriveLanes_memOk, State.setWarpAt_memOk]

theorem State.resume_memOk (s : State) (c w : Nat) (ls : List Nat) (h : MemOk s) :
    MemOk (State.resume s c w ls) := by
  unfold State.resume
  grind [MemOk, OutOk, OptOk, memWf_wrBytes, State.arriveLanes_memOk, State.goAll_memOk]

theorem State.wakeBound_memOk (s : State) (c w : Nat) (h : MemOk s) :
    MemOk (State.wakeBound s c w) := by
  unfold State.wakeBound
  grind [MemOk, OutOk, OptOk, memWf_wrBytes, State.arriveLanes_memOk, State.setWarpAt_memOk]

theorem State.takePendGo_memOk (c w n : Nat) : ∀ s, MemOk s → MemOk (State.takePendGo c w n s) := by
  induction n with
  | zero => exact fun s h => h
  | succ n ih =>
    intro s h
    unfold State.takePendGo
    dsimp only
    split
    · exact h
    · split
      · exact h
      · refine .ite (State.stopService_memOk _ _ h) (.ite (ih _ (State.updWarpAt_memOk _ _ _ _ h)) (.ite
          (State.setWfault_memOk _ _ _ _ _ (State.updWarpAt_memOk _ _ _ _ h)) ?_))
        split
        all_goals rename_i e; have h1 := congrArg Prod.fst e; dsimp only at h1; subst h1
        · exact ih _ (State.updWarpAt_memOk _ _ _ _ (State.fragment_memOk _ _ _ _ _ _ h))
        · exact State.fragment_memOk _ _ _ _ _ _ h

theorem State.takePend_memOk (s : State) (c w : Nat) (h : MemOk s) :
    MemOk (State.takePend s c w) := by
  exact State.takePendGo_memOk _ _ _ _ h

theorem State.settleMasks_memOk (s : State) (c w : Nat) (h : MemOk s) :
    MemOk (State.settleMasks s c w) := by
  unfold State.settleMasks
  grind [MemOk, OutOk, OptOk, memWf_wrBytes, State.newId_memOk, State.resume_memOk, State.setWarpAt_memOk,
      State.updWarpAt_memOk]

theorem State.grant_memOk (s : State) (c q : Nat) (h : MemOk s) :
    MemOk (State.grant s c q) := by
  unfold State.grant
  grind [MemOk, OutOk, OptOk, memWf_wrBytes, State.updCore_memOk, State.updWarpAt_memOk]

theorem State.grantAll_memOk (s : State) (c : Nat) (h : MemOk s) :
    MemOk (State.grantAll s c) := by
  unfold State.grantAll
  grind [MemOk, OutOk, OptOk, memWf_wrBytes, State.grant_memOk]

theorem State.keepFreed_memOk (s : State) (g n : Nat) (h : MemOk s) :
    MemOk (State.keepFreed s g n) := by
  unfold State.keepFreed
  grind [MemOk, OutOk, OptOk, memWf_wrBytes, State.updWg_memOk]

theorem State.releaseFrom_memOk (s : State) (c w : Nat) (p : Warp → Nat → Bool) (h : MemOk s) :
    MemOk (State.releaseFrom s c w p) := by
  unfold State.releaseFrom
  grind [MemOk, OutOk, OptOk, memWf_wrBytes, State.acquire_memOk, State.grant_memOk, State.resume_memOk,
      State.setWarpAt_memOk, State.settleMasks_memOk]

theorem State.settleBar_memOk (s : State) (g n : Nat) (h : MemOk s) :
    MemOk (State.settleBar s g n) := by
  unfold State.settleBar
  dsimp only
  split
  · exact MemOk.foldl _ (State.keepFreed_memOk _ _ _ (State.updWg_memOk _ _ _ h)) fun s x h => State.releaseFrom_memOk _ _ _ _ h
  · exact h

theorem State.settleBars_memOk (s : State) (g : Nat) (h : MemOk s) :
    MemOk (State.settleBars s g) := by
  unfold State.settleBars
  (repeat' (first | apply MemOk.foldl | apply MemOk.foldl_fst | (intros; split) | (intros; assumption))) <;>
    grind [MemOk, OutOk, OptOk, memWf_wrBytes, State.settleBar_memOk]

theorem State.settleCbar_memOk (s : State) (n coh : Nat) (h : MemOk s) :
    MemOk (State.settleCbar s n coh) := by
  unfold State.settleCbar
  split
  · exact h
  · dsimp only
    split
    · exact State.updLaunch_memOk _ _ _ (MemOk.foldl _ (MemOk.foldl _ h fun s x h =>
        MemOk.foldl _ h fun s x h => State.updWarpAt_memOk _ _ _ _ h) fun s x h => State.keepFreed_memOk _ _ _ h)
    · exact h

theorem State.settleCbars_memOk (s : State) (n : Nat) (h : MemOk s) :
    MemOk (State.settleCbars s n) := by
  unfold State.settleCbars
  (repeat' (first | apply MemOk.foldl | apply MemOk.foldl_fst | (intros; split) | (intros; assumption))) <;>
    grind [MemOk, OutOk, OptOk, memWf_wrBytes, State.settleCbar_memOk]

theorem State.reread_memOk (s : State) (t q : Nat) (h : MemOk s) :
    MemOk (State.reread s t q) := by
  unfold State.reread
  grind [MemOk, OutOk, OptOk, memWf_wrBytes, State.updQueue_memOk]

theorem State.rereadAll_memOk (s : State) (t : Nat) (h : MemOk s) :
    MemOk (State.rereadAll s t) := by
  exact MemOk.foldl _ h fun s x h => State.reread_memOk _ _ _ h

theorem State.addWord_memOk (s : State) (tenant va pa n : Nat) (h : MemOk s) :
    MemOk (State.addWord s tenant va pa n) := by
  unfold State.addWord
  grind [MemOk, OutOk, OptOk, memWf_wrBytes, State.homePart_memOk, State.request_memOk]

theorem State.finishRecord_memOk (s : State) (tenant q recNo recVa donea status : Nat) (h : MemOk s) :
    MemOk (State.finishRecord s tenant q recNo recVa donea status) := by
  unfold State.finishRecord
  grind [MemOk, OutOk, OptOk, memWf_wrBytes, State.addWord_memOk, State.hubWrite_memOk, State.rereadAll_memOk,
      State.updQueue_memOk]

theorem State.settleLaunch_memOk (s : State) (n : Nat) (h : MemOk s) :
    MemOk (State.settleLaunch s n) := by
  unfold State.settleLaunch
  grind [MemOk, OutOk, OptOk, memWf_wrBytes, State.finishRecord_memOk, State.updLaunch_memOk]

theorem State.updCmd_memOk (s : State) (c id : Nat) (f : Cmd → Cmd) (h : MemOk s) :
    MemOk (State.updCmd s c id f) := by
  unfold State.updCmd
  grind [MemOk, OutOk, OptOk, memWf_wrBytes, State.updCore_memOk]

theorem State.migrate_memOk (s : State) (c : Nat) (h : MemOk s) :
    MemOk (State.migrate s c) := by
  unfold State.migrate
  dsimp only
  split
  · exact h
  · refine MemOk.foldl _ h fun s x h => ?_
    grind [MemOk, State.newId_memOk, State.updCmd_memOk, State.countCore_memOk]

theorem State.emptied_memOk (s : State) (c : Nat) (k : Core) (h : MemOk s) :
    MemOk (State.emptied s c k) := by
  unfold State.emptied
  grind [MemOk, OutOk, OptOk, memWf_wrBytes, State.migrate_memOk]

theorem State.freeSlot_memOk (s : State) (g c w : Nat) (h : MemOk s) :
    MemOk (State.freeSlot s g c w) := by
  unfold State.freeSlot
  grind [MemOk, OutOk, OptOk, memWf_wrBytes, State.setWarp_memOk, State.updCore_memOk]

theorem State.vacate_memOk (s : State) (g : Nat) (st : WgState) (h : MemOk s) :
    MemOk (State.vacate s g st) := by
  unfold State.vacate
  exact State.grantAll_memOk _ _ (State.updWg_memOk _ _ _ (State.updCore_memOk _ _ _
    (MemOk.foldl _ h fun s x h => State.freeSlot_memOk _ _ _ _ h)))

theorem State.finishSave_memOk (s : State) (g : Nat) (h : MemOk s) :
    MemOk (State.finishSave s g) := by
  unfold State.finishSave
  grind [MemOk, OutOk, OptOk, memWf_wrBytes, State.updWg_memOk, State.vacate_memOk]

theorem State.freeArea_memOk (s : State) (tenant : Nat) (a : Option Nat) (h : MemOk s) :
    MemOk (State.freeArea s tenant a) := by
  unfold State.freeArea
  grind [MemOk, OutOk, OptOk, memWf_wrBytes, State.updTenant_memOk]

theorem State.settleHandler_memOk (s : State) (g : Nat) (h : MemOk s) :
    MemOk (State.settleHandler s g) := by
  unfold State.settleHandler
  grind [MemOk, OutOk, OptOk, memWf_wrBytes, State.emptied_memOk, State.freeArea_memOk, State.settleLaunch_memOk,
      State.updCore_memOk, State.updLaunch_memOk, State.updWg_memOk, State.vacate_memOk]

theorem State.settleEnd_memOk (s : State) (g : Nat) (h : MemOk s) :
    MemOk (State.settleEnd s g) := by
  unfold State.settleEnd
  grind [MemOk, OutOk, OptOk, memWf_wrBytes, State.settleLaunch_memOk, State.updLaunch_memOk, State.vacate_memOk]

theorem State.takeWpend_memOk (s : State) (c w : Nat) (h : MemOk s) :
    MemOk (State.takeWpend s c w) := by
  unfold State.takeWpend
  grind [MemOk, OutOk, OptOk, memWf_wrBytes, State.setWfault_memOk, State.updWarpAt_memOk]

theorem State.settle_memOk (s : State) (c w : Nat) (h : MemOk s) :
    MemOk (State.settle s c w) := by
  unfold State.settle
  grind [MemOk, OutOk, OptOk, memWf_wrBytes, State.finishSave_memOk, State.grant_memOk, State.settleBars_memOk,
      State.settleCbars_memOk, State.settleEnd_memOk, State.settleHandler_memOk, State.settleMasks_memOk,
          State.takePend_memOk, State.takeWpend_memOk, State.wakeBound_memOk]

theorem State.exitLanes_memOk (s : State) (c w : Nat) (m : Word) (h : MemOk s) :
    MemOk (State.exitLanes s c w m) := by
  unfold State.exitLanes
  grind [MemOk, OutOk, OptOk, memWf_wrBytes, State.settle_memOk, State.updWarpAt_memOk]

theorem State.countArrivals_memOk (s : State) (c w : Nat) (h : MemOk s) :
    MemOk (State.countArrivals s c w) := by
  unfold State.countArrivals
  (repeat' (first | apply MemOk.foldl | apply MemOk.foldl_fst | (intros; split) | (intros; assumption))) <;>
    grind [MemOk, OutOk, OptOk, memWf_wrBytes, State.updLaunch_memOk, State.updWarpAt_memOk, State.updWg_memOk]

theorem State.settleArrivals_memOk (s : State) (c w : Nat) (h : MemOk s) :
    MemOk (State.settleArrivals s c w) := by
  unfold State.settleArrivals
  grind [MemOk, OutOk, OptOk, memWf_wrBytes, State.countArrivals_memOk, State.settle_memOk]

theorem State.wakeAb_memOk (s : State) (h : MemOk s) :
    MemOk (State.wakeAb s) := by
  unfold State.wakeAb
  refine MemOk.foldl _ h fun s x h => MemOk.foldl _ h fun s y h => ?_
  dsimp only
  split
  · exact h
  · exact State.settle_memOk _ _ _ (State.resume_memOk _ _ _ _ (State.acquire_memOk _ _ (State.setWarpAt_memOk _ _ _ _ h)))

theorem State.fetchNeed_memOk (s : State) (c w va pa : Nat) (h : MemOk s) :
    MemOk (State.fetchNeed s c w va pa) := by
  unfold State.fetchNeed
  grind [MemOk, OutOk, OptOk, memWf_wrBytes, State.farAsk_memOk, State.swRecall_memOk]

theorem State.fetchAsk_memOk (s : State) (c w : Nat) (x : Except Miss (List Word)) (a : Nat) (h : MemOk s) :
    MemOk (State.fetchAsk s c w x a) := by
  unfold State.fetchAsk
  grind [MemOk, OutOk, OptOk, memWf_wrBytes, State.fetchNeed_memOk, State.updWarpAt_memOk]

theorem State.countIssue_memOk (s : State) (c tenant n : Nat) (h : MemOk s) :
    MemOk (State.countIssue s c tenant n) := by
  unfold State.countIssue
  grind [MemOk, OutOk, OptOk, memWf_wrBytes, State.countCore_memOk]

theorem State.select_memOk (s : State) (c w : Nat) (h : MemOk s) :
    MemOk (State.select s c w) := by
  unfold State.select
  grind [MemOk, OutOk, OptOk, memWf_wrBytes, State.countIssue_memOk, State.setWarpAt_memOk]

theorem State.arbitrate_go_memOk (s : State) (c q : Nat) (rs os : List Nat) (h : MemOk s) :
    MemOk (State.arbitrate.go s c q rs os).1 := by
  unfold State.arbitrate.go
  dsimp only
  split
  · split
    · exact h
    · exact State.updCore_memOk _ _ _ h
  · split
    · exact h
    · exact State.updCore_memOk _ _ _ (MemOk.foldl _ h fun s x h => State.updWarpAt_memOk _ _ _ _ h)

theorem State.arbitrate_memOk (s : State) (c q : Nat) (h : MemOk s) :
    MemOk (State.arbitrate s c q).1 := by
  unfold State.arbitrate
  grind [MemOk, State.updCore_memOk, State.arbitrate_go_memOk]

theorem State.stalled_memOk (s : State) (h : MemOk s) :
    MemOk (State.stalled s) := by
  unfold State.stalled
  grind [MemOk, OutOk, OptOk, memWf_wrBytes]

theorem State.stallSlot_memOk (s : State) (h : MemOk s) :
    MemOk (State.stallSlot s) := by
  unfold State.stallSlot
  grind [MemOk, OutOk, OptOk, memWf_wrBytes, State.updCore_memOk]

theorem State.dropRun_memOk (s : State) (h : MemOk s) :
    MemOk (State.dropRun s) := by
  unfold State.dropRun
  grind [MemOk, OutOk, OptOk, memWf_wrBytes, State.stallSlot_memOk, State.updWarp_memOk]

theorem State.endRun_memOk (s : State) (marker : Bool) (ts : List (Nat × Nat × Nat)) (h : MemOk s) :
    MemOk (State.endRun s marker ts) := by
  unfold State.endRun
  grind [MemOk, OutOk, OptOk, memWf_wrBytes, State.goAll_memOk, State.stallSlot_memOk, State.updWarp_memOk]

theorem State.transfer_memOk (s : State) (target : Nat → Nat) (h : MemOk s) :
    MemOk (State.transfer s target) := by
  unfold State.transfer
  grind [MemOk, OutOk, OptOk, memWf_wrBytes, State.endRun_memOk]

theorem State.leaveToWait_memOk (s : State) (ls : List Nat) (f : Thread → Thread) (h : MemOk s) :
    MemOk (State.leaveToWait s ls f) := by
  unfold State.leaveToWait
  grind [MemOk, OutOk, OptOk, memWf_wrBytes, State.updWarp_memOk]

theorem State.parkRun_memOk (s : State) (p : Park) (h : MemOk s) :
    MemOk (State.parkRun s p) := by
  unfold State.parkRun
  grind [MemOk, OutOk, OptOk, memWf_wrBytes, State.stallSlot_memOk, State.updWarp_memOk]

theorem State.startClause_memOk (s : State) (h : MemOk s) :
    MemOk (State.startClause s) := by
  unfold State.startClause
  grind [MemOk, OutOk, OptOk, memWf_wrBytes, State.faultOpenAt_memOk, State.faultSplitAt_memOk,
      State.fetchNeed_memOk, State.parkRun_memOk, State.updWarp_memOk]

theorem State.openClause_memOk (s : State) (h : MemOk s) :
    MemOk (State.openClause s) := by
  unfold State.openClause
  grind [MemOk, OutOk, OptOk, memWf_wrBytes, State.faultSplitAt_memOk, State.fetchAsk_memOk, State.startClause_memOk,
      State.updWarp_memOk]

theorem State.tidy_memOk (s : State) (h : MemOk s) :
    MemOk (State.tidy s) := by
  unfold State.tidy
  grind [MemOk, OutOk, OptOk, memWf_wrBytes, State.dropRun_memOk, State.parkRun_memOk]

theorem State.enterSecond_memOk (s : State) (h : MemOk s) :
    MemOk (State.enterSecond s) := by
  unfold State.enterSecond
  grind [MemOk, OutOk, OptOk, memWf_wrBytes, State.arriveLanes_memOk, State.openClause_memOk, State.setWarp_memOk,
      State.settleMasks_memOk, State.stallSlot_memOk]

theorem State.advance_memOk (s : State) (h : MemOk s) :
    MemOk (State.advance s) := by
  unfold State.advance
  grind [MemOk, OutOk, OptOk, memWf_wrBytes, State.dropRun_memOk, State.endRun_memOk, State.enterSecond_memOk,
      State.parkRun_memOk, State.updWarp_memOk]

theorem State.afterIssue_memOk (s : State) (h : MemOk s) :
    MemOk (State.afterIssue s) := by
  unfold State.afterIssue
  grind [MemOk, OutOk, OptOk, memWf_wrBytes, State.advance_memOk, State.parkRun_memOk, State.settle_memOk,
      State.tidy_memOk, State.updWarp_memOk]

theorem State.noteStalls_memOk (s : State) (c : Nat) (h : MemOk s) :
    MemOk (State.noteStalls s c) := by
  unfold State.noteStalls
  grind [MemOk, OutOk, OptOk, memWf_wrBytes, State.updCore_memOk]

theorem State.passCycles_memOk (s : State) (c n : Nat) (h : MemOk s) :
    MemOk (State.passCycles s c n) := by
  unfold State.passCycles
  grind [MemOk, OutOk, OptOk, memWf_wrBytes, State.noteStalls_memOk, State.updCore_memOk]

theorem State.beforeIssue_memOk (s : State) (h : MemOk s) :
    MemOk (State.beforeIssue s) := by
  unfold State.beforeIssue
  grind [MemOk, OutOk, OptOk, memWf_wrBytes, State.enterSecond_memOk, State.openClause_memOk, State.tidy_memOk]

theorem State.atIssue_memOk (s : State) (c w : Nat) (h : MemOk s) :
    MemOk (State.atIssue s c w) := by
  unfold State.atIssue
  grind [MemOk, OutOk, OptOk, memWf_wrBytes, State.advance_memOk]

theorem State.turnOf_memOk (s : State) (c q : Nat) (h : MemOk s) :
    MemOk (State.turnOf s c q).1 := by
  unfold State.turnOf
  grind [MemOk, OutOk, OptOk, memWf_wrBytes, State.arbitrate_memOk, State.atIssue_memOk, State.beforeIssue_memOk,
      State.parkRun_memOk, State.passCycles_memOk, State.select_memOk, State.settle_memOk]

theorem State.turnOfService_memOk (s : State) (c : Nat) (h : MemOk s) :
    MemOk (State.turnOfService s c).1 := by
  unfold State.turnOfService
  grind [MemOk, OutOk, OptOk, memWf_wrBytes, State.atIssue_memOk, State.beforeIssue_memOk, State.passCycles_memOk,
      State.select_memOk, State.settle_memOk]

end Sys2Proof.Machine
end

