-- ==== Sys2Proof/Laws/KeepWarp.lean ====
section
/-! SUPPORT. Laws/KeepWarp.lean: the instructions of warps keep memory in its canonical form, one lemma for each function that
answers a state. -/

set_option Elab.async false

namespace Sys2Proof.Machine

theorem execNop_memOk (o : VOps) (s : State) (h : MemOk s) :
    OutOk (execNop o s) := by
  unfold execNop
  grind [MemOk, OutOk, OptOk, memWf_wrBytes, State.gated_memOk]

theorem execYield_memOk (o : VOps) (s : State) (h : MemOk s) :
    OutOk (execYield o s) := by
  unfold execYield
  grind [MemOk, OutOk, OptOk, memWf_wrBytes, State.gated_memOk, State.updWarp_memOk]

theorem execBra_memOk (o : BOps) (s : State) (h : MemOk s) :
    OutOk (execBra o s) := by
  unfold execBra
  grind [MemOk, OutOk, OptOk, memWf_wrBytes, State.gated_memOk, State.transfer_memOk]

theorem execBrp_memOk (o : BOps) (s : State) (h : MemOk s) :
    OutOk (execBrp o s) := by
  unfold execBrp
  grind [MemOk, OutOk, OptOk, memWf_wrBytes, State.gated_memOk, State.transfer_memOk]

theorem execCall_memOk (o : BOps) (s : State) (h : MemOk s) :
    OutOk (execCall o s) := by
  unfold execCall
  grind [MemOk, OutOk, OptOk, memWf_wrBytes, State.gated_memOk, State.transfer_memOk, State.updWarp_memOk]

theorem execRet_memOk (o : VOps) (s : State) (h : MemOk s) :
    OutOk (execRet o s) := by
  unfold execRet
  grind [MemOk, OutOk, OptOk, memWf_wrBytes, State.gated_memOk, State.transfer_memOk, State.withFaults_memOk]

theorem State.blockMiss_memOk (s : State) (x : Miss × Nat) (h : MemOk s) :
    MemOk (State.blockMiss s x) := by
  unfold State.blockMiss
  grind [MemOk, OutOk, OptOk, memWf_wrBytes, State.farAsk_memOk, State.faultSplit_memOk, State.stalled_memOk]

theorem State.blockDone_memOk (s : State) (w0 : Nat) (h : MemOk s) :
    MemOk (State.blockDone s w0) := by
  unfold State.blockDone
  grind [MemOk, OutOk, OptOk, memWf_wrBytes, State.updWarp_memOk]

theorem State.withBlock_memOk (s : State) (f : Nat → Nat → State) (h : MemOk s) (hf : ∀ (x0 : Nat) (x1 : Nat), MemOk
    (f x0 x1)) :
    MemOk (State.withBlock s f) := by
  unfold State.withBlock
  grind [MemOk, OutOk, OptOk, memWf_wrBytes, State.blockMiss_memOk, State.faultOpen_memOk]

theorem State.indirect_memOk (s : State) (a : BitVec 7) (link : Option (BitVec 7)) (h : MemOk s) :
    MemOk (State.indirect s a link) := by
  unfold State.indirect
  (repeat' (first | apply MemOk.foldl | apply MemOk.foldl_fst | (intros; split) | (intros; assumption))) <;>
    grind [MemOk, OutOk, OptOk, memWf_wrBytes, State.blockDone_memOk, State.blockMiss_memOk, State.transfer_memOk,
        State.updWarp_memOk, State.withBlock_memOk, State.withFaults_memOk]

theorem execCallx_memOk (o : VOps) (s : State) (h : MemOk s) :
    OutOk (execCallx o s) := by
  unfold execCallx
  grind [MemOk, OutOk, OptOk, memWf_wrBytes, State.gated_memOk, State.indirect_memOk]

theorem execJmpx_memOk (o : VOps) (s : State) (h : MemOk s) :
    OutOk (execJmpx o s) := by
  unfold execJmpx
  grind [MemOk, OutOk, OptOk, memWf_wrBytes, State.gated_memOk, State.indirect_memOk]

theorem execBrt_memOk (o : VOps) (s : State) (h : MemOk s) :
    OutOk (execBrt o s) := by
  unfold execBrt
  grind [MemOk, OutOk, OptOk, memWf_wrBytes, State.blockDone_memOk, State.blockMiss_memOk, State.gated_memOk,
      State.transfer_memOk, State.withBlock_memOk, State.withFaults_memOk]

theorem execExit_memOk (o : VOps) (s : State) (h : MemOk s) :
    OutOk (execExit o s) := by
  unfold execExit
  grind [MemOk, OutOk, OptOk, memWf_wrBytes, State.exitLanes_memOk, State.gated_memOk, State.stallSlot_memOk,
      State.updWarp_memOk]

theorem execMeet_memOk (o : BOps) (s : State) (h : MemOk s) :
    OutOk (execMeet o s) := by
  unfold execMeet
  grind [MemOk, OutOk, OptOk, memWf_wrBytes, State.gated_memOk, State.updWarp_memOk]

theorem execLeave_memOk (o : VOps) (s : State) (h : MemOk s) :
    OutOk (execLeave o s) := by
  unfold execLeave
  grind [MemOk, OutOk, OptOk, memWf_wrBytes, State.gated_memOk, State.updWarp_memOk]

theorem execJoin_memOk (o : VOps) (s : State) (h : MemOk s) :
    OutOk (execJoin o s) := by
  unfold execJoin
  grind [MemOk, OutOk, OptOk, memWf_wrBytes, State.gated_memOk, State.updWarp_memOk]

theorem execWaitm_memOk (o : VOps) (s : State) (h : MemOk s) :
    OutOk (execWaitm o s) := by
  unfold execWaitm
  grind [MemOk, OutOk, OptOk, memWf_wrBytes, State.gated_memOk, State.leaveToWait_memOk]

theorem execKmov_memOk (o : VOps) (s : State) (h : MemOk s) :
    OutOk (execKmov o s) := by
  unfold execKmov
  grind [MemOk, OutOk, OptOk, memWf_wrBytes, State.gated_memOk, State.updWarp_memOk]

theorem execMeetrd_memOk (o : VOps) (s : State) (h : MemOk s) :
    OutOk (execMeetrd o s) := by
  unfold execMeetrd
  grind [MemOk, OutOk, OptOk, memWf_wrBytes, State.gated_memOk, State.updWarp_memOk]

theorem execMeetwr_memOk (o : VOps) (s : State) (h : MemOk s) :
    OutOk (execMeetwr o s) := by
  unfold execMeetwr
  grind [MemOk, OutOk, OptOk, memWf_wrBytes, State.gated_memOk, State.updWarp_memOk, State.withFaults_memOk]

theorem State.addArrivals_memOk (s : State) (k : OpKind) (n data mode : Nat) (h : MemOk s) :
    MemOk (State.addArrivals s k n data mode) := by
  unfold State.addArrivals
  (repeat' (first | apply MemOk.foldl | apply MemOk.foldl_fst | (intros; split) | (intros; assumption))) <;>
    grind [MemOk, OutOk, OptOk, memWf_wrBytes, State.newId_memOk, State.updWarp_memOk]

theorem State.bar_memOk (s : State) (o : IOps) (sync : Bool) (h : MemOk s) :
    MemOk (State.bar s o sync) := by
  unfold State.bar
  grind [MemOk, OutOk, OptOk, memWf_wrBytes, State.addArrivals_memOk, State.countArrivals_memOk,
      State.leaveToWait_memOk]

theorem execBarSync_memOk (o : IOps) (s : State) (h : MemOk s) :
    OutOk (execBarSync o s) := by
  unfold execBarSync
  grind [MemOk, OutOk, OptOk, memWf_wrBytes, State.bar_memOk, State.gated_memOk]

theorem execBarArv_memOk (o : IOps) (s : State) (h : MemOk s) :
    OutOk (execBarArv o s) := by
  unfold execBarArv
  grind [MemOk, OutOk, OptOk, memWf_wrBytes, State.bar_memOk, State.gated_memOk]

theorem State.cbar_memOk (s : State) (o : IOps) (sync : Bool) (h : MemOk s) :
    MemOk (State.cbar s o sync) := by
  unfold State.cbar
  grind [MemOk, OutOk, OptOk, memWf_wrBytes, State.addArrivals_memOk, State.countArrivals_memOk,
      State.faultSplit_memOk, State.leaveToWait_memOk]

theorem execCbarSync_memOk (o : IOps) (s : State) (h : MemOk s) :
    OutOk (execCbarSync o s) := by
  unfold execCbarSync
  grind [MemOk, OutOk, OptOk, memWf_wrBytes, State.cbar_memOk, State.gated_memOk]

theorem execCbarArv_memOk (o : IOps) (s : State) (h : MemOk s) :
    OutOk (execCbarArv o s) := by
  unfold execCbarArv
  grind [MemOk, OutOk, OptOk, memWf_wrBytes, State.cbar_memOk, State.gated_memOk]

theorem execGopen_memOk (o : VOps) (s : State) (h : MemOk s) :
    OutOk (execGopen o s) := by
  unfold execGopen
  grind [MemOk, OutOk, OptOk, memWf_wrBytes, State.gated_memOk, State.updWarp_memOk]

theorem execTrap_memOk (o : IOps) (s : State) (h : MemOk s) :
    OutOk (execTrap o s) := by
  unfold execTrap
  grind [MemOk, OutOk, OptOk, memWf_wrBytes, State.faultSplitAt_memOk, State.gated_memOk]

theorem State.intVec_memOk (s : State) (o : VOps) (f : Word → Word → Word → Word) (h : MemOk s) :
    MemOk (State.intVec s o f) := by
  unfold State.intVec
  grind [MemOk, OutOk, OptOk, memWf_wrBytes, State.perLane_memOk]

theorem State.selVec_memOk (s : State) (o : VOps) (f : Word → Word → Word → Word) (h : MemOk s) :
    MemOk (State.selVec s o f) := by
  unfold State.selVec
  grind [MemOk, OutOk, OptOk, memWf_wrBytes, State.perLane_memOk]

theorem State.longLanes_memOk (s : State) (d : BitVec 7) (f : Warp → Nat → Word) (h : MemOk s) :
    MemOk (State.longLanes s d f) := by
  unfold State.longLanes
  (repeat' (first | apply MemOk.foldl | apply MemOk.foldl_fst | (intros; split) | (intros; assumption))) <;>
    grind [MemOk, OutOk, OptOk, memWf_wrBytes, State.newId_memOk, State.updWarp_memOk]

theorem execIadd_memOk (o : VOps) (s : State) (h : MemOk s) :
    OutOk (execIadd o s) := by
  unfold execIadd
  grind [MemOk, OutOk, OptOk, memWf_wrBytes, State.gated_memOk, State.intVec_memOk]

theorem execIsub_memOk (o : VOps) (s : State) (h : MemOk s) :
    OutOk (execIsub o s) := by
  unfold execIsub
  grind [MemOk, OutOk, OptOk, memWf_wrBytes, State.gated_memOk, State.intVec_memOk]

theorem execImul_memOk (o : VOps) (s : State) (h : MemOk s) :
    OutOk (execImul o s) := by
  unfold execImul
  grind [MemOk, OutOk, OptOk, memWf_wrBytes, State.gated_memOk, State.intVec_memOk]

theorem execImulh_memOk (o : VOps) (s : State) (h : MemOk s) :
    OutOk (execImulh o s) := by
  unfold execImulh
  grind [MemOk, OutOk, OptOk, memWf_wrBytes, State.gated_memOk, State.intVec_memOk]

theorem execImac_memOk (o : VOps) (s : State) (h : MemOk s) :
    OutOk (execImac o s) := by
  unfold execImac
  grind [MemOk, OutOk, OptOk, memWf_wrBytes, State.gated_memOk, State.intVec_memOk]

theorem execIdiv_memOk (o : VOps) (s : State) (h : MemOk s) :
    OutOk (execIdiv o s) := by
  unfold execIdiv
  grind [MemOk, OutOk, OptOk, memWf_wrBytes, State.gated_memOk, State.longLanes_memOk]

theorem execIrem_memOk (o : VOps) (s : State) (h : MemOk s) :
    OutOk (execIrem o s) := by
  unfold execIrem
  grind [MemOk, OutOk, OptOk, memWf_wrBytes, State.gated_memOk, State.longLanes_memOk]

theorem execImin_memOk (o : VOps) (s : State) (h : MemOk s) :
    OutOk (execImin o s) := by
  unfold execImin
  grind [MemOk, OutOk, OptOk, memWf_wrBytes, State.gated_memOk, State.intVec_memOk]

theorem execImax_memOk (o : VOps) (s : State) (h : MemOk s) :
    OutOk (execImax o s) := by
  unfold execImax
  grind [MemOk, OutOk, OptOk, memWf_wrBytes, State.gated_memOk, State.intVec_memOk]

theorem execIabsd_memOk (o : VOps) (s : State) (h : MemOk s) :
    OutOk (execIabsd o s) := by
  unfold execIabsd
  grind [MemOk, OutOk, OptOk, memWf_wrBytes, State.gated_memOk, State.intVec_memOk]

theorem execIaddmin_memOk (o : VOps) (s : State) (h : MemOk s) :
    OutOk (execIaddmin o s) := by
  unfold execIaddmin
  grind [MemOk, OutOk, OptOk, memWf_wrBytes, State.gated_memOk, State.intVec_memOk]

theorem execIaddmax_memOk (o : VOps) (s : State) (h : MemOk s) :
    OutOk (execIaddmax o s) := by
  unfold execIaddmax
  grind [MemOk, OutOk, OptOk, memWf_wrBytes, State.gated_memOk, State.intVec_memOk]

theorem execAnd_memOk (o : VOps) (s : State) (h : MemOk s) :
    OutOk (execAnd o s) := by
  unfold execAnd
  grind [MemOk, OutOk, OptOk, memWf_wrBytes, State.gated_memOk, State.intVec_memOk]

theorem execOr_memOk (o : VOps) (s : State) (h : MemOk s) :
    OutOk (execOr o s) := by
  unfold execOr
  grind [MemOk, OutOk, OptOk, memWf_wrBytes, State.gated_memOk, State.intVec_memOk]

theorem execXor_memOk (o : VOps) (s : State) (h : MemOk s) :
    OutOk (execXor o s) := by
  unfold execXor
  grind [MemOk, OutOk, OptOk, memWf_wrBytes, State.gated_memOk, State.intVec_memOk]

theorem execAndn_memOk (o : VOps) (s : State) (h : MemOk s) :
    OutOk (execAndn o s) := by
  unfold execAndn
  grind [MemOk, OutOk, OptOk, memWf_wrBytes, State.gated_memOk, State.intVec_memOk]

theorem execMov_memOk (o : VOps) (s : State) (h : MemOk s) :
    OutOk (execMov o s) := by
  unfold execMov
  grind [MemOk, OutOk, OptOk, memWf_wrBytes, State.gated_memOk, State.intVec_memOk]

theorem execPopc_memOk (o : VOps) (s : State) (h : MemOk s) :
    OutOk (execPopc o s) := by
  unfold execPopc
  grind [MemOk, OutOk, OptOk, memWf_wrBytes, State.gated_memOk, State.intVec_memOk]

theorem execClz_memOk (o : VOps) (s : State) (h : MemOk s) :
    OutOk (execClz o s) := by
  unfold execClz
  grind [MemOk, OutOk, OptOk, memWf_wrBytes, State.gated_memOk, State.intVec_memOk]

theorem execBrev_memOk (o : VOps) (s : State) (h : MemOk s) :
    OutOk (execBrev o s) := by
  unfold execBrev
  grind [MemOk, OutOk, OptOk, memWf_wrBytes, State.gated_memOk, State.intVec_memOk]

theorem execMovi_memOk (o : IOps) (s : State) (h : MemOk s) :
    OutOk (execMovi o s) := by
  unfold execMovi
  grind [MemOk, OutOk, OptOk, memWf_wrBytes, State.gated_memOk, State.perLane_memOk]

theorem State.shiftVec_memOk (s : State) (o : VOps) (f : Nat → Nat → Nat → Nat) (h : MemOk s) :
    MemOk (State.shiftVec s o f) := by
  unfold State.shiftVec
  grind [MemOk, OutOk, OptOk, memWf_wrBytes, State.selVec_memOk]

theorem execShl_memOk (o : VOps) (s : State) (h : MemOk s) :
    OutOk (execShl o s) := by
  unfold execShl
  grind [MemOk, OutOk, OptOk, memWf_wrBytes, State.gated_memOk, State.shiftVec_memOk]

theorem execShr_memOk (o : VOps) (s : State) (h : MemOk s) :
    OutOk (execShr o s) := by
  unfold execShr
  grind [MemOk, OutOk, OptOk, memWf_wrBytes, State.gated_memOk, State.shiftVec_memOk]

theorem execSar_memOk (o : VOps) (s : State) (h : MemOk s) :
    OutOk (execSar o s) := by
  unfold execSar
  grind [MemOk, OutOk, OptOk, memWf_wrBytes, State.gated_memOk, State.shiftVec_memOk]

theorem execRol_memOk (o : VOps) (s : State) (h : MemOk s) :
    OutOk (execRol o s) := by
  unfold execRol
  grind [MemOk, OutOk, OptOk, memWf_wrBytes, State.gated_memOk, State.shiftVec_memOk]

theorem execBfx_memOk (o : VOps) (s : State) (h : MemOk s) :
    OutOk (execBfx o s) := by
  unfold execBfx
  grind [MemOk, OutOk, OptOk, memWf_wrBytes, State.gated_memOk, State.selVec_memOk]

theorem execBfi_memOk (o : VOps) (s : State) (h : MemOk s) :
    OutOk (execBfi o s) := by
  unfold execBfi
  grind [MemOk, OutOk, OptOk, memWf_wrBytes, State.gated_memOk, State.selVec_memOk]

theorem State.perLane64_memOk (s : State) (d : BitVec 7) (f : Warp → Nat → Nat) (h : MemOk s) :
    MemOk (State.perLane64 s d f) := by
  unfold State.perLane64
  grind [MemOk, OutOk, OptOk, memWf_wrBytes, State.setWarp_memOk]

theorem execLea_memOk (o : VOps) (s : State) (h : MemOk s) :
    OutOk (execLea o s) := by
  unfold execLea
  grind [MemOk, OutOk, OptOk, memWf_wrBytes, State.gated_memOk, State.perLane64_memOk]

theorem execIadd64_memOk (o : VOps) (s : State) (h : MemOk s) :
    OutOk (execIadd64 o s) := by
  unfold execIadd64
  grind [MemOk, OutOk, OptOk, memWf_wrBytes, State.gated_memOk, State.perLane64_memOk]

theorem execIcmp_memOk (o : VOps) (s : State) (h : MemOk s) :
    OutOk (execIcmp o s) := by
  unfold execIcmp
  grind [MemOk, OutOk, OptOk, memWf_wrBytes, State.gated_memOk, State.perPred_memOk]

theorem execSel_memOk (o : VOps) (s : State) (h : MemOk s) :
    OutOk (execSel o s) := by
  unfold execSel
  grind [MemOk, OutOk, OptOk, memWf_wrBytes, State.gated_memOk, State.perLane_memOk]

theorem State.uni_memOk (s : State) (o : VOps) (f : Word → Word → Word) (h : MemOk s) :
    MemOk (State.uni s o f) := by
  unfold State.uni
  grind [MemOk, OutOk, OptOk, memWf_wrBytes, State.updWarp_memOk]

theorem execSadd_memOk (o : VOps) (s : State) (h : MemOk s) :
    OutOk (execSadd o s) := by
  unfold execSadd
  grind [MemOk, OutOk, OptOk, memWf_wrBytes, State.gated_memOk, State.uni_memOk]

theorem execSsub_memOk (o : VOps) (s : State) (h : MemOk s) :
    OutOk (execSsub o s) := by
  unfold execSsub
  grind [MemOk, OutOk, OptOk, memWf_wrBytes, State.gated_memOk, State.uni_memOk]

theorem execSmul_memOk (o : VOps) (s : State) (h : MemOk s) :
    OutOk (execSmul o s) := by
  unfold execSmul
  grind [MemOk, OutOk, OptOk, memWf_wrBytes, State.gated_memOk, State.uni_memOk]

theorem execSand_memOk (o : VOps) (s : State) (h : MemOk s) :
    OutOk (execSand o s) := by
  unfold execSand
  grind [MemOk, OutOk, OptOk, memWf_wrBytes, State.gated_memOk, State.uni_memOk]

theorem execSor_memOk (o : VOps) (s : State) (h : MemOk s) :
    OutOk (execSor o s) := by
  unfold execSor
  grind [MemOk, OutOk, OptOk, memWf_wrBytes, State.gated_memOk, State.uni_memOk]

theorem execSxor_memOk (o : VOps) (s : State) (h : MemOk s) :
    OutOk (execSxor o s) := by
  unfold execSxor
  grind [MemOk, OutOk, OptOk, memWf_wrBytes, State.gated_memOk, State.uni_memOk]

theorem execSshl_memOk (o : VOps) (s : State) (h : MemOk s) :
    OutOk (execSshl o s) := by
  unfold execSshl
  grind [MemOk, OutOk, OptOk, memWf_wrBytes, State.gated_memOk, State.uni_memOk]

theorem execSshr_memOk (o : VOps) (s : State) (h : MemOk s) :
    OutOk (execSshr o s) := by
  unfold execSshr
  grind [MemOk, OutOk, OptOk, memWf_wrBytes, State.gated_memOk, State.uni_memOk]

theorem execSmin_memOk (o : VOps) (s : State) (h : MemOk s) :
    OutOk (execSmin o s) := by
  unfold execSmin
  grind [MemOk, OutOk, OptOk, memWf_wrBytes, State.gated_memOk, State.uni_memOk]

theorem execSmax_memOk (o : VOps) (s : State) (h : MemOk s) :
    OutOk (execSmax o s) := by
  unfold execSmax
  grind [MemOk, OutOk, OptOk, memWf_wrBytes, State.gated_memOk, State.uni_memOk]

theorem execSmov_memOk (o : VOps) (s : State) (h : MemOk s) :
    OutOk (execSmov o s) := by
  unfold execSmov
  grind [MemOk, OutOk, OptOk, memWf_wrBytes, State.gated_memOk, State.uni_memOk]

theorem execSmovi_memOk (o : IOps) (s : State) (h : MemOk s) :
    OutOk (execSmovi o s) := by
  unfold execSmovi
  grind [MemOk, OutOk, OptOk, memWf_wrBytes, State.gated_memOk, State.updWarp_memOk]

theorem execScmp_memOk (o : VOps) (s : State) (h : MemOk s) :
    OutOk (execScmp o s) := by
  unfold execScmp
  grind [MemOk, OutOk, OptOk, memWf_wrBytes, State.gated_memOk, State.uni_memOk]

theorem State.fltVec_memOk (s : State) (o : VOps) (dst : Nat) (ex : Warp → Nat → Nat → Ex) (h : MemOk s) :
    MemOk (State.fltVec s o dst ex) := by
  unfold State.fltVec
  grind [MemOk, OutOk, OptOk, memWf_wrBytes, State.perLane_memOk]

theorem State.flt2_memOk (s : State) (o : VOps) (f : Nat) (op : FVal → FVal → Ex) (h : MemOk s) :
    MemOk (State.flt2 s o f op) := by
  unfold State.flt2
  grind [MemOk, OutOk, OptOk, memWf_wrBytes, State.fltVec_memOk]

theorem State.flt3_memOk (s : State) (o : VOps) (f : Nat) (op : FVal → FVal → FVal → Ex) (h : MemOk s) :
    MemOk (State.flt3 s o f op) := by
  unfold State.flt3
  grind [MemOk, OutOk, OptOk, memWf_wrBytes, State.fltVec_memOk]

theorem State.fltMin_memOk (s : State) (o : VOps) (f : Nat) (mx : Bool) (h : MemOk s) :
    MemOk (State.fltMin s o f mx) := by
  unfold State.fltMin
  grind [MemOk, OutOk, OptOk, memWf_wrBytes, State.intVec_memOk]

theorem execFadd_memOk (o : VOps) (s : State) (h : MemOk s) :
    OutOk (execFadd o s) := by
  unfold execFadd
  grind [MemOk, OutOk, OptOk, memWf_wrBytes, State.flt2_memOk, State.gated_memOk]

theorem execFsub_memOk (o : VOps) (s : State) (h : MemOk s) :
    OutOk (execFsub o s) := by
  unfold execFsub
  grind [MemOk, OutOk, OptOk, memWf_wrBytes, State.flt2_memOk, State.gated_memOk]

theorem execFmul_memOk (o : VOps) (s : State) (h : MemOk s) :
    OutOk (execFmul o s) := by
  unfold execFmul
  grind [MemOk, OutOk, OptOk, memWf_wrBytes, State.flt2_memOk, State.gated_memOk]

theorem execFfma_memOk (o : VOps) (s : State) (h : MemOk s) :
    OutOk (execFfma o s) := by
  unfold execFfma
  grind [MemOk, OutOk, OptOk, memWf_wrBytes, State.flt3_memOk, State.gated_memOk]

theorem execFmin_memOk (o : VOps) (s : State) (h : MemOk s) :
    OutOk (execFmin o s) := by
  unfold execFmin
  grind [MemOk, OutOk, OptOk, memWf_wrBytes, State.fltMin_memOk, State.gated_memOk]

theorem execFmax_memOk (o : VOps) (s : State) (h : MemOk s) :
    OutOk (execFmax o s) := by
  unfold execFmax
  grind [MemOk, OutOk, OptOk, memWf_wrBytes, State.fltMin_memOk, State.gated_memOk]

theorem execFaddmin_memOk (o : VOps) (s : State) (h : MemOk s) :
    OutOk (execFaddmin o s) := by
  unfold execFaddmin
  grind [MemOk, OutOk, OptOk, memWf_wrBytes, State.gated_memOk, State.perLane_memOk]

theorem execFcmp_memOk (o : VOps) (s : State) (h : MemOk s) :
    OutOk (execFcmp o s) := by
  unfold execFcmp
  grind [MemOk, OutOk, OptOk, memWf_wrBytes, State.gated_memOk, State.perPred_memOk]

theorem execFclass_memOk (o : VOps) (s : State) (h : MemOk s) :
    OutOk (execFclass o s) := by
  unfold execFclass
  grind [MemOk, OutOk, OptOk, memWf_wrBytes, State.gated_memOk, State.intVec_memOk]

theorem State.fltLong_memOk (s : State) (o : VOps) (op : FVal → FVal → Ex) (h : MemOk s) :
    MemOk (State.fltLong s o op) := by
  unfold State.fltLong
  grind [MemOk, OutOk, OptOk, memWf_wrBytes, State.longLanes_memOk]

theorem execFdiv_memOk (o : VOps) (s : State) (h : MemOk s) :
    OutOk (execFdiv o s) := by
  unfold execFdiv
  grind [MemOk, OutOk, OptOk, memWf_wrBytes, State.fltLong_memOk, State.gated_memOk]

theorem execFrcp_memOk (o : VOps) (s : State) (h : MemOk s) :
    OutOk (execFrcp o s) := by
  unfold execFrcp
  grind [MemOk, OutOk, OptOk, memWf_wrBytes, State.fltLong_memOk, State.gated_memOk]

theorem execFrsq_memOk (o : VOps) (s : State) (h : MemOk s) :
    OutOk (execFrsq o s) := by
  unfold execFrsq
  grind [MemOk, OutOk, OptOk, memWf_wrBytes, State.fltLong_memOk, State.gated_memOk]

theorem execFsqrt_memOk (o : VOps) (s : State) (h : MemOk s) :
    OutOk (execFsqrt o s) := by
  unfold execFsqrt
  grind [MemOk, OutOk, OptOk, memWf_wrBytes, State.fltLong_memOk, State.gated_memOk]

theorem execFexp2_memOk (o : VOps) (s : State) (h : MemOk s) :
    OutOk (execFexp2 o s) := by
  unfold execFexp2
  grind [MemOk, OutOk, OptOk, memWf_wrBytes, State.fltLong_memOk, State.gated_memOk]

theorem execFlog2_memOk (o : VOps) (s : State) (h : MemOk s) :
    OutOk (execFlog2 o s) := by
  unfold execFlog2
  grind [MemOk, OutOk, OptOk, memWf_wrBytes, State.fltLong_memOk, State.gated_memOk]

theorem execFsin_memOk (o : VOps) (s : State) (h : MemOk s) :
    OutOk (execFsin o s) := by
  unfold execFsin
  grind [MemOk, OutOk, OptOk, memWf_wrBytes, State.fltLong_memOk, State.gated_memOk]

theorem execFcos_memOk (o : VOps) (s : State) (h : MemOk s) :
    OutOk (execFcos o s) := by
  unfold execFcos
  grind [MemOk, OutOk, OptOk, memWf_wrBytes, State.fltLong_memOk, State.gated_memOk]

theorem execFtanh_memOk (o : VOps) (s : State) (h : MemOk s) :
    OutOk (execFtanh o s) := by
  unfold execFtanh
  grind [MemOk, OutOk, OptOk, memWf_wrBytes, State.fltLong_memOk, State.gated_memOk]

theorem execHadd2_memOk (o : VOps) (s : State) (h : MemOk s) :
    OutOk (execHadd2 o s) := by
  unfold execHadd2
  grind [MemOk, OutOk, OptOk, memWf_wrBytes, State.flt2_memOk, State.gated_memOk]

theorem execHmul2_memOk (o : VOps) (s : State) (h : MemOk s) :
    OutOk (execHmul2 o s) := by
  unfold execHmul2
  grind [MemOk, OutOk, OptOk, memWf_wrBytes, State.flt2_memOk, State.gated_memOk]

theorem execHfma2_memOk (o : VOps) (s : State) (h : MemOk s) :
    OutOk (execHfma2 o s) := by
  unfold execHfma2
  grind [MemOk, OutOk, OptOk, memWf_wrBytes, State.flt3_memOk, State.gated_memOk]

theorem execHmin2_memOk (o : VOps) (s : State) (h : MemOk s) :
    OutOk (execHmin2 o s) := by
  unfold execHmin2
  grind [MemOk, OutOk, OptOk, memWf_wrBytes, State.fltMin_memOk, State.gated_memOk]

theorem execHmax2_memOk (o : VOps) (s : State) (h : MemOk s) :
    OutOk (execHmax2 o s) := by
  unfold execHmax2
  grind [MemOk, OutOk, OptOk, memWf_wrBytes, State.fltMin_memOk, State.gated_memOk]

theorem execDot4_memOk (o : VOps) (s : State) (h : MemOk s) :
    OutOk (execDot4 o s) := by
  unfold execDot4
  grind [MemOk, OutOk, OptOk, memWf_wrBytes, State.fltVec_memOk, State.gated_memOk]

theorem State.withUniform_memOk (s : State) (code : BitVec 7) (f : Word → State → State) (h : MemOk s) (hf : ∀ (x0 :
    Word) (x1 : State), MemOk x1 → MemOk (f x0 x1)) :
    MemOk (State.withUniform s code f) := by
  unfold State.withUniform
  grind [MemOk, OutOk, OptOk, memWf_wrBytes, State.withFaults_memOk]

theorem State.cvt_memOk (s : State) (o : VOps) (rnd seed : Nat) (h : MemOk s) :
    MemOk (State.cvt s o rnd seed) := by
  unfold State.cvt
  grind [MemOk, OutOk, OptOk, memWf_wrBytes, State.perLane_memOk]

theorem execCvt_memOk (o : VOps) (s : State) (h : MemOk s) :
    OutOk (execCvt o s) := by
  unfold execCvt
  grind [MemOk, OutOk, OptOk, memWf_wrBytes, State.cvt_memOk, State.gated_memOk]

theorem execCvtsr_memOk (o : VOps) (s : State) (h : MemOk s) :
    OutOk (execCvtsr o s) := by
  unfold execCvtsr
  grind [MemOk, OutOk, OptOk, memWf_wrBytes, State.cvt_memOk, State.gated_memOk, State.withUniform_memOk]

theorem execPack_memOk (o : VOps) (s : State) (h : MemOk s) :
    OutOk (execPack o s) := by
  unfold execPack
  grind [MemOk, OutOk, OptOk, memWf_wrBytes, State.gated_memOk, State.perLane_memOk]

theorem execUnpack_memOk (o : VOps) (s : State) (h : MemOk s) :
    OutOk (execUnpack o s) := by
  unfold execUnpack
  grind [MemOk, OutOk, OptOk, memWf_wrBytes, State.gated_memOk, State.perLane_memOk]

theorem execQscale_memOk (o : VOps) (s : State) (h : MemOk s) :
    OutOk (execQscale o s) := by
  unfold execQscale
  grind [MemOk, OutOk, OptOk, memWf_wrBytes, State.gated_memOk, State.perLane_memOk]

theorem State.codeGroup_memOk (s : State) (o : VOps) (tern : Bool) (h : MemOk s) :
    MemOk (State.codeGroup s o tern) := by
  unfold State.codeGroup
  grind [MemOk, OutOk, OptOk, memWf_wrBytes, State.perLane_memOk, State.setWarp_memOk]

theorem execSignq_memOk (o : VOps) (s : State) (h : MemOk s) :
    OutOk (execSignq o s) := by
  unfold execSignq
  grind [MemOk, OutOk, OptOk, memWf_wrBytes, State.codeGroup_memOk, State.gated_memOk]

theorem execTernq_memOk (o : VOps) (s : State) (h : MemOk s) :
    OutOk (execTernq o s) := by
  unfold execTernq
  grind [MemOk, OutOk, OptOk, memWf_wrBytes, State.codeGroup_memOk, State.gated_memOk]

theorem execLshf_memOk (o : VOps) (s : State) (h : MemOk s) :
    OutOk (execLshf o s) := by
  unfold execLshf
  grind [MemOk, OutOk, OptOk, memWf_wrBytes, State.gated_memOk, State.perLane_memOk]

theorem execLperm_memOk (o : VOps) (s : State) (h : MemOk s) :
    OutOk (execLperm o s) := by
  unfold execLperm
  grind [MemOk, OutOk, OptOk, memWf_wrBytes, State.gated_memOk, State.perLane_memOk]

theorem execLbc_memOk (o : VOps) (s : State) (h : MemOk s) :
    OutOk (execLbc o s) := by
  unfold execLbc
  grind [MemOk, OutOk, OptOk, memWf_wrBytes, State.gated_memOk, State.perLane_memOk, State.withUniform_memOk]

theorem execVoteAll_memOk (o : VOps) (s : State) (h : MemOk s) :
    OutOk (execVoteAll o s) := by
  unfold execVoteAll
  grind [MemOk, OutOk, OptOk, memWf_wrBytes, State.gated_memOk, State.perPred_memOk]

theorem execVoteAny_memOk (o : VOps) (s : State) (h : MemOk s) :
    OutOk (execVoteAny o s) := by
  unfold execVoteAny
  grind [MemOk, OutOk, OptOk, memWf_wrBytes, State.gated_memOk, State.perPred_memOk]

theorem execVoteBallot_memOk (o : VOps) (s : State) (h : MemOk s) :
    OutOk (execVoteBallot o s) := by
  unfold execVoteBallot
  grind [MemOk, OutOk, OptOk, memWf_wrBytes, State.gated_memOk, State.oneValue_memOk]

theorem execVoteCount_memOk (o : VOps) (s : State) (h : MemOk s) :
    OutOk (execVoteCount o s) := by
  unfold execVoteCount
  grind [MemOk, OutOk, OptOk, memWf_wrBytes, State.gated_memOk, State.oneValue_memOk]

theorem execLmatch_memOk (o : VOps) (s : State) (h : MemOk s) :
    OutOk (execLmatch o s) := by
  unfold execLmatch
  grind [MemOk, OutOk, OptOk, memWf_wrBytes, State.gated_memOk, State.perLane_memOk]

theorem execLred_memOk (o : VOps) (s : State) (h : MemOk s) :
    OutOk (execLred o s) := by
  unfold execLred
  grind [MemOk, OutOk, OptOk, memWf_wrBytes, State.gated_memOk, State.oneValue_memOk]

theorem execLscan_memOk (o : VOps) (s : State) (h : MemOk s) :
    OutOk (execLscan o s) := by
  unfold execLscan
  grind [MemOk, OutOk, OptOk, memWf_wrBytes, State.gated_memOk, State.perLane_memOk]

theorem execSrd_memOk (o : IOps) (s : State) (h : MemOk s) :
    OutOk (execSrd o s) := by
  unfold execSrd
  grind [MemOk, OutOk, OptOk, memWf_wrBytes, State.gated_memOk, State.perLane_memOk, State.updWarp_memOk]

theorem execSfromv_memOk (o : VOps) (s : State) (h : MemOk s) :
    OutOk (execSfromv o s) := by
  unfold execSfromv
  grind [MemOk, OutOk, OptOk, memWf_wrBytes, State.gated_memOk, State.updWarp_memOk]

theorem State.touch_memOk (s : State) (va : Nat) (h : MemOk s) :
    MemOk (State.touch s va) := by
  unfold State.touch
  grind [MemOk, OutOk, OptOk, memWf_wrBytes, State.noteWalk_memOk]

theorem State.eachLane_memOk (s : State) (va : Nat → Nat) (acc : Nat → Except Cause Nat) (f : State → Nat → Nat →
    State) (h : MemOk s) (hf : ∀ (x0 : State) (x1 : Nat) (x2 : Nat), MemOk x0 → MemOk (f x0 x1 x2)) :
    MemOk (State.eachLane s va acc f) := by
  unfold State.eachLane
  refine State.withFaults_memOk _ _ _ (MemOk.foldl _ h fun s x h => State.touch_memOk _ _ h) fun s h => ?_
  refine MemOk.foldl _ h fun s x h => ?_
  split
  · exact hf _ _ _ h
  · exact h

theorem State.addOp_memOk (s : State) (o : Op) (h : MemOk s) :
    MemOk (State.addOp s o) := by
  unfold State.addOp
  grind [MemOk, OutOk, OptOk, memWf_wrBytes, State.newId_memOk, State.updWarp_memOk]

theorem State.bring_memOk (s : State) (c line : Nat) (ws : List (Nat × Word)) (h : MemOk s) :
    MemOk (State.bring s c line ws) := by
  unfold State.bring
  grind [MemOk, OutOk, OptOk, memWf_wrBytes, State.fitL1_memOk, State.updCore_memOk]

theorem State.fillLine_memOk (s : State) (c pa : Nat) (h : MemOk s) :
    MemOk (State.fillLine s c pa) := by
  unfold State.fillLine
  grind [MemOk, OutOk, OptOk, memWf_wrBytes, State.bring_memOk]

theorem State.fillFrom_memOk (s : State) (c a : Nat) (bs : List Byte) (h : MemOk s) :
    MemOk (State.fillFrom s c a bs) := by
  unfold State.fillFrom
  grind [MemOk, OutOk, OptOk, memWf_wrBytes, State.bring_memOk]

theorem State.waitRead_memOk (s : State) (lane va pa n : Nat) (h : MemOk s) :
    MemOk (State.waitRead s lane va pa n) := by
  unfold State.waitRead
  grind [MemOk, OutOk, OptOk, memWf_wrBytes, State.farAsk_memOk, State.swRecall_memOk]

theorem State.madeRead_memOk (s : State) (va n : Nat) (l1 : Bool := true) (h : MemOk s) :
    MemOk (State.madeRead s va n l1) := by
  unfold State.madeRead
  grind [MemOk, OutOk, OptOk, memWf_wrBytes, State.countCore_memOk, State.countRead_memOk, State.dropCopies_memOk,
      State.touch_memOk]

theorem State.waitReads_memOk (s : State) (lane : Nat) (rs : List (Nat × Nat)) (h : MemOk s) :
    MemOk (State.waitReads s lane rs) := by
  refine MemOk.foldl _ h fun s x h => ?_
  split
  · exact State.waitRead_memOk _ _ _ _ _ h
  · exact h

theorem State.madeReads_memOk (s : State) (rs : List (Nat × Nat)) (h : MemOk s) :
    MemOk (State.madeReads s rs) := by
  exact MemOk.foldl _ h fun s x h => State.madeRead_memOk _ _ _ _ h

theorem execLd_memOk (o : MOps) (s : State) (h : MemOk s) :
    OutOk (execLd o s) := by
  unfold execLd
  grind [MemOk, OutOk, OptOk, memWf_wrBytes, State.addOp_memOk, State.eachLane_memOk, State.gated_memOk]

theorem execLdf_memOk (o : MOps) (s : State) (h : MemOk s) :
    OutOk (execLdf o s) := by
  unfold execLdf
  grind [MemOk, OutOk, OptOk, memWf_wrBytes, State.addOp_memOk, State.eachLane_memOk, State.gated_memOk,
      State.stalled_memOk]

theorem execSld_memOk (o : MOps) (s : State) (h : MemOk s) :
    OutOk (execSld o s) := by
  unfold execSld
  grind [MemOk, OutOk, OptOk, memWf_wrBytes, State.addOp_memOk, State.faultSplit_memOk, State.gated_memOk,
      State.touch_memOk]

theorem execSt_memOk (o : MOps) (s : State) (h : MemOk s) :
    OutOk (execSt o s) := by
  unfold execSt
  grind [MemOk, OutOk, OptOk, memWf_wrBytes, State.addOp_memOk, State.eachLane_memOk, State.gated_memOk]

theorem execStf_memOk (o : MOps) (s : State) (h : MemOk s) :
    OutOk (execStf o s) := by
  unfold execStf
  grind [MemOk, OutOk, OptOk, memWf_wrBytes, State.addOp_memOk, State.eachLane_memOk, State.empty_memOk,
      State.gated_memOk]

theorem State.feop_memOk (s : State) (o : MOps) (f : State → Nat → Nat → Nat → State) (h : MemOk s) (hf : ∀ (x0 :
    State) (x1 : Nat) (x2 : Nat) (x3 : Nat), MemOk x0 → MemOk (f x0 x1 x2 x3)) :
    MemOk (State.feop s o f) := by
  unfold State.feop
  refine State.withFaults_memOk _ _ _ (MemOk.foldl _ h fun s x h => State.touch_memOk _ _ h) fun s h => ?_
  refine MemOk.foldl _ h fun s x h => ?_
  split
  · exact hf _ _ _ _ h
  · exact h

theorem State.addFe_memOk (s : State) (k : OpKind) (o : MOps) (w : Warp) (l pa n : Nat) (h : MemOk s) :
    MemOk (State.addFe s k o w l pa n) := by
  unfold State.addFe
  grind [MemOk, OutOk, OptOk, memWf_wrBytes, State.addOp_memOk]

theorem execFeopSet_memOk (o : MOps) (s : State) (h : MemOk s) :
    OutOk (execFeopSet o s) := by
  unfold execFeopSet
  grind [MemOk, OutOk, OptOk, memWf_wrBytes, State.addFe_memOk, State.feop_memOk, State.gated_memOk]

theorem execFeopClear_memOk (o : MOps) (s : State) (h : MemOk s) :
    OutOk (execFeopClear o s) := by
  unfold execFeopClear
  grind [MemOk, OutOk, OptOk, memWf_wrBytes, State.addFe_memOk, State.feop_memOk, State.gated_memOk]

theorem execFeopTest_memOk (o : MOps) (s : State) (h : MemOk s) :
    OutOk (execFeopTest o s) := by
  unfold execFeopTest
  grind [MemOk, OutOk, OptOk, memWf_wrBytes, State.addOp_memOk, State.feop_memOk, State.gated_memOk,
      State.stalled_memOk, State.updWarp_memOk]

theorem State.atomics_memOk (s : State) (o : MOps) (k : OpKind) (dest : Bool) (data data2 : Warp → Nat → Nat) (h :
    MemOk s) :
    MemOk (State.atomics s o k dest data data2) := by
  unfold State.atomics
  grind [MemOk, OutOk, OptOk, memWf_wrBytes, State.addOp_memOk, State.eachLane_memOk]

theorem execAtom_memOk (o : MOps) (s : State) (h : MemOk s) :
    OutOk (execAtom o s) := by
  unfold execAtom
  grind [MemOk, OutOk, OptOk, memWf_wrBytes, State.atomics_memOk, State.gated_memOk]

theorem execRed_memOk (o : MOps) (s : State) (h : MemOk s) :
    OutOk (execRed o s) := by
  unfold execRed
  grind [MemOk, OutOk, OptOk, memWf_wrBytes, State.atomics_memOk, State.gated_memOk]

theorem execCas_memOk (o : MOps) (s : State) (h : MemOk s) :
    OutOk (execCas o s) := by
  unfold execCas
  grind [MemOk, OutOk, OptOk, memWf_wrBytes, State.atomics_memOk, State.gated_memOk]

theorem execFenceAcq_memOk (o : VOps) (s : State) (h : MemOk s) :
    OutOk (execFenceAcq o s) := by
  unfold execFenceAcq
  grind [MemOk, OutOk, OptOk, memWf_wrBytes, State.acquire_memOk, State.gated_memOk, State.stalled_memOk]

theorem execFenceRel_memOk (o : VOps) (s : State) (h : MemOk s) :
    OutOk (execFenceRel o s) := by
  unfold execFenceRel
  grind [MemOk, OutOk, OptOk, memWf_wrBytes, State.gated_memOk, State.stalled_memOk]

theorem execFenceAr_memOk (o : VOps) (s : State) (h : MemOk s) :
    OutOk (execFenceAr o s) := by
  unfold execFenceAr
  grind [MemOk, OutOk, OptOk, memWf_wrBytes, State.acquire_memOk, State.gated_memOk, State.stalled_memOk]

theorem State.addPieces_memOk (mask : Word) (lane iss : Nat) (ps : List (Nat × Nat × List Byte)) :
    ∀ head s, MemOk s → MemOk (State.addPieces mask lane head iss s ps) := by
  induction ps with
  | nil => exact fun _ s h => h
  | cons p ps ih => exact fun _ s h => ih _ _ (State.addOp_memOk _ _ h)

theorem execCst_memOk (o : MOps) (s : State) (h : MemOk s) :
    OutOk (execCst o s) := by
  unfold execCst
  refine State.gated_memOk _ _ _ h fun s h => ?_
  dsimp only
  split
  · exact State.stalled_memOk _ (.ite h (State.waitRead_memOk _ _ _ _ _ h))
  · split
    · exact State.withFaults_memOk _ _ _ (State.touch_memOk _ _ h) fun s h => h
    · exact State.withFaults_memOk _ _ _ (State.touch_memOk _ _ h) fun s h => State.addPieces_memOk _ _ _ _ _ _ h

theorem State.pkViews_memOk (s : State) (h : MemOk s) :
    MemOk (State.pkViews s).2 := by
  unfold State.pkViews
  grind [MemOk, OutOk, OptOk, memWf_wrBytes, State.free_memOk, State.updWarp_memOk]

theorem execLdPk_memOk (o : MOps) (s : State) (h : MemOk s) :
    OutOk (execLdPk o s) := by
  unfold execLdPk
  refine State.gated_memOk _ _ _ h fun s h => ?_
  have hv : MemOk s.pkViews.2 := by
    unfold State.pkViews
    split
    · exact h
    · exact h
  dsimp only
  refine .ite ?_ ?_
  · exact State.stalled_memOk _ (MemOk.foldl _ h fun s x h => State.waitRead_memOk _ _ _ _ _ h)
  · refine State.withFaults_memOk _ _ _ (MemOk.foldl _ hv fun s x h => MemOk.foldl _ h fun s x h =>
      State.madeRead_memOk _ _ _ _ h) fun s h => ?_
    refine MemOk.foldl _ h fun s x h => ?_
    split
    · exact State.addOp_memOk _ _ h
    · exact State.addOp_memOk _ _ h
    · exact h

theorem State.applyAb_memOk (s : State) (c w : Nat) (h : MemOk s) :
    MemOk (State.applyAb s c w) := by
  unfold State.applyAb
  (repeat' (first | apply MemOk.foldl | apply MemOk.foldl_fst | (intros; split) | (intros; assumption))) <;>
    grind [MemOk, OutOk, OptOk, memWf_wrBytes, State.abWrite_memOk, State.dropCopies_memOk, State.meetsError_memOk,
        State.updWarpAt_memOk]

theorem State.abObject_memOk (s : State) (o : VOps) (init : Bool) (f : Nat → Nat → Word → State → State) (h : MemOk
    s) (hf : ∀ (x0 : Nat) (x1 : Nat) (x2 : Word) (x3 : State), MemOk x3 → MemOk (f x0 x1 x2 x3)) :
    MemOk (State.abObject s o init f) := by
  unfold State.abObject
  grind [MemOk, OutOk, OptOk, memWf_wrBytes, State.dropCopies_memOk, State.stalled_memOk, State.touch_memOk,
      State.withFaults_memOk]

theorem execAbinit_memOk (o : VOps) (s : State) (h : MemOk s) :
    OutOk (execAbinit o s) := by
  unfold execAbinit
  grind [MemOk, OutOk, OptOk, memWf_wrBytes, State.abObject_memOk, State.abWrite_memOk, State.gated_memOk,
      State.wakeAb_memOk]

theorem execAbexp_memOk (o : VOps) (s : State) (h : MemOk s) :
    OutOk (execAbexp o s) := by
  unfold execAbexp
  grind [MemOk, OutOk, OptOk, memWf_wrBytes, State.abObject_memOk, State.abWrite_memOk, State.gated_memOk,
      State.wakeAb_memOk]

theorem execAbarr_memOk (o : VOps) (s : State) (h : MemOk s) :
    OutOk (execAbarr o s) := by
  unfold execAbarr
  grind [MemOk, OutOk, OptOk, memWf_wrBytes, State.abObject_memOk, State.addOp_memOk, State.applyAb_memOk,
      State.gated_memOk, State.wakeAb_memOk]

theorem execAbwait_memOk (o : VOps) (s : State) (h : MemOk s) :
    OutOk (execAbwait o s) := by
  unfold execAbwait
  grind [MemOk, OutOk, OptOk, memWf_wrBytes, State.abObject_memOk, State.acquire_memOk, State.gated_memOk,
      State.leaveToWait_memOk]

theorem execAbtest_memOk (o : VOps) (s : State) (h : MemOk s) :
    OutOk (execAbtest o s) := by
  unfold execAbtest
  grind [MemOk, OutOk, OptOk, memWf_wrBytes, State.abObject_memOk, State.acquire_memOk, State.gated_memOk,
      State.perPred_memOk]

theorem execWaitc_memOk (o : IOps) (s : State) (h : MemOk s) :
    OutOk (execWaitc o s) := by
  unfold execWaitc
  grind [MemOk, OutOk, OptOk, memWf_wrBytes, State.acquire_memOk, State.gated_memOk]

theorem execPref_memOk (o : MOps) (s : State) (h : MemOk s) :
    OutOk (execPref o s) := by
  unfold execPref
  refine State.gated_memOk _ _ _ h fun s h => ?_
  refine MemOk.foldl _ h fun s x h => ?_
  dsimp only
  grind [MemOk, State.touch_memOk, State.fillLine_memOk, State.addOp_memOk, State.swRecall_memOk]

theorem State.addCmd_memOk (s : State) (x : Cmd) (h : MemOk s) :
    MemOk (State.addCmd s x) := by
  unfold State.addCmd
  grind [MemOk, OutOk, OptOk, memWf_wrBytes, State.updCore_memOk, State.updWarp_memOk]

theorem State.retire_memOk (s : State) (c : Nat) (h : MemOk s) :
    MemOk (State.retire s c) := by
  unfold State.retire
  (repeat' (first | apply MemOk.foldl | apply MemOk.foldl_fst | (intros; split) | (intros; assumption))) <;>
    grind [MemOk, OutOk, OptOk, memWf_wrBytes, State.settle_memOk, State.updCore_memOk, State.updWarpAt_memOk]

theorem State.hgSetup_memOk (s : State) (o : VOps) (adj : Bool) (f : Region → State → State) (h : MemOk s) (hf : ∀
    (x0 : Region) (x1 : State), MemOk x1 → MemOk (f x0 x1)) :
    MemOk (State.hgSetup s o adj f) := by
  unfold State.hgSetup
  grind [MemOk, OutOk, OptOk, memWf_wrBytes, State.faultOpen_memOk, State.faultSplit_memOk, State.madeReads_memOk,
      State.stalled_memOk, State.waitReads_memOk]

theorem execHgl_memOk (o : VOps) (s : State) (h : MemOk s) :
    OutOk (execHgl o s) := by
  unfold execHgl
  refine State.gated_memOk _ _ _ h fun s h => State.hgSetup_memOk _ _ _ _ h fun r s h => ?_
  dsimp only
  split
  · exact State.stalled_memOk _ (MemOk.foldl _ h fun s x h => State.waitReads_memOk _ _ _ h)
  · refine State.withFaults_memOk _ _ _ (MemOk.foldl _ (State.madeReads_memOk _ _ h) fun s x h => State.madeReads_memOk _ _ h)
      fun s h => MemOk.foldl _ h fun s x h => State.addOp_memOk _ _ h

theorem execHga_memOk (o : VOps) (s : State) (h : MemOk s) :
    OutOk (execHga o s) := by
  unfold execHga
  refine State.gated_memOk _ _ _ h fun s h => ?_
  dsimp only
  split
  · exact State.stalled_memOk _ h
  · refine State.hgSetup_memOk _ _ _ _ h fun r s h => State.withFaults_memOk _ _ _ (State.madeReads_memOk _ _ h) fun s h => ?_
    split
    · exact h
    · refine MemOk.foldl _ (State.addCmd_memOk _ _ (State.newId_memOk _ h)) fun s x h => ?_
      split
      · exact h
      · exact State.addOp_memOk _ _ h

theorem execObres_memOk (o : VOps) (s : State) (h : MemOk s) :
    OutOk (execObres o s) := by
  unfold execObres
  grind [MemOk, OutOk, OptOk, memWf_wrBytes, State.faultOpen_memOk, State.gated_memOk, State.updWarp_memOk]

theorem execObrel_memOk (o : VOps) (s : State) (h : MemOk s) :
    OutOk (execObrel o s) := by
  unfold execObrel
  grind [MemOk, OutOk, OptOk, memWf_wrBytes, State.gated_memOk, State.updWarp_memOk]

theorem execObset_memOk (o : VOps) (s : State) (h : MemOk s) :
    OutOk (execObset o s) := by
  unfold execObset
  grind [MemOk, OutOk, OptOk, memWf_wrBytes, State.faultOpen_memOk, State.gated_memOk, State.updWarp_memOk]

theorem State.addMat_memOk (s : State) (x : Cmd) (h : MemOk s) :
    MemOk (State.addMat s x) := by
  unfold State.addMat
  grind [MemOk, OutOk, OptOk, memWf_wrBytes, State.addCmd_memOk, State.migrate_memOk, State.newId_memOk,
      State.stalled_memOk]

theorem execAcz_memOk (o : VOps) (s : State) (h : MemOk s) :
    OutOk (execAcz o s) := by
  unfold execAcz
  grind [MemOk, OutOk, OptOk, memWf_wrBytes, State.addMat_memOk, State.gated_memOk]

theorem execAcwr_memOk (o : VOps) (s : State) (h : MemOk s) :
    OutOk (execAcwr o s) := by
  unfold execAcwr
  grind [MemOk, OutOk, OptOk, memWf_wrBytes, State.addMat_memOk, State.gated_memOk]

theorem State.readAccs_memOk (s : State) (c w : Nat) (h : MemOk s) :
    MemOk (State.readAccs s c w) := by
  unfold State.readAccs
  grind [MemOk, OutOk, OptOk, memWf_wrBytes, State.updWarpAt_memOk]

theorem execAcrd_memOk (o : VOps) (s : State) (h : MemOk s) :
    OutOk (execAcrd o s) := by
  unfold execAcrd
  grind [MemOk, OutOk, OptOk, memWf_wrBytes, State.addOp_memOk, State.gated_memOk, State.readAccs_memOk]

theorem execAcst_memOk (o : MOps) (s : State) (h : MemOk s) :
    OutOk (execAcst o s) := by
  unfold execAcst
  grind [MemOk, OutOk, OptOk, memWf_wrBytes, State.addMat_memOk, State.gated_memOk, State.stalled_memOk,
      State.touch_memOk, State.withFaults_memOk]

theorem State.queueMx_memOk (s : State) (o : VOps) (t : BitVec 64) (desc fb steps : Nat) (loop : Bool) (h : MemOk s) :
    MemOk (State.queueMx s o t desc fb steps loop) := by
  unfold State.queueMx
  grind [MemOk, OutOk, OptOk, memWf_wrBytes, State.addMat_memOk, State.updCore_memOk]

theorem State.mx_memOk (s : State) (o : VOps) (loop : Bool) (steps : Nat) (h : MemOk s) :
    MemOk (State.mx s o loop steps) := by
  unfold State.mx
  grind [MemOk, OutOk, OptOk, memWf_wrBytes, State.faultOpen_memOk, State.queueMx_memOk]

theorem execMxloop_memOk (o : VOps) (s : State) (h : MemOk s) :
    OutOk (execMxloop o s) := by
  unfold execMxloop
  grind [MemOk, OutOk, OptOk, memWf_wrBytes, State.gated_memOk, State.mx_memOk]

theorem execMxstep_memOk (o : VOps) (s : State) (h : MemOk s) :
    OutOk (execMxstep o s) := by
  unfold execMxstep
  grind [MemOk, OutOk, OptOk, memWf_wrBytes, State.gated_memOk, State.mx_memOk]

theorem State.engHasRead_memOk (s : State) (core tenant va n : Nat) (h : MemOk s) :
    MemOk (State.engHasRead s core tenant va n) := by
  unfold State.engHasRead
  grind [MemOk, OutOk, OptOk, memWf_wrBytes, State.countRead_memOk]

theorem State.engWrite_memOk (s : State) (core tenant va : Nat) (bs : List Byte) (typ : Nat := 0) (quiet : Bool :=
    false) (h : MemOk s) :
    MemOk (State.engWrite s core tenant va bs typ quiet).1 := by
  unfold State.engWrite
  grind [MemOk, OutOk, OptOk, memWf_wrBytes, State.engineWrite_memOk]

theorem State.lower_memOk (s : State) (core tenant base off n : Nat) (h : MemOk s) :
    MemOk (State.lower s core tenant base off n) := by
  unfold State.lower
  grind [MemOk, OutOk, OptOk, memWf_wrBytes, State.abDeliver_memOk, State.wakeAb_memOk]

theorem State.lowerD_memOk (s : State) (c : Nat) (x : Cmd) (n : Nat) (h : MemOk s) :
    MemOk (State.lowerD s c x n) := by
  unfold State.lowerD
  (repeat' (first | apply MemOk.foldl | apply MemOk.foldl_fst | (intros; split) | (intros; assumption))) <;>
    grind [MemOk, OutOk, OptOk, memWf_wrBytes, State.lower_memOk]

theorem State.lowerS_memOk (s : State) (c : Nat) (x : Cmd) (n : Nat) (h : MemOk s) :
    MemOk (State.lowerS s c x n) := by
  unfold State.lowerS
  grind [MemOk, OutOk, OptOk, memWf_wrBytes, State.lower_memOk]

theorem State.endCmd_memOk (s : State) (c id status : Nat) (h : MemOk s) :
    MemOk (State.endCmd s c id status) := by
  unfold State.endCmd
  grind [MemOk, OutOk, OptOk, memWf_wrBytes, State.engineWrite_memOk, State.lowerD_memOk, State.lowerS_memOk,
      State.retire_memOk, State.updCmd_memOk]

theorem State.discard_memOk (s : State) (c : Nat) (x : Cmd) (h : MemOk s) :
    MemOk (State.discard s c x) := by
  unfold State.discard
  grind [MemOk, OutOk, OptOk, memWf_wrBytes, State.endCmd_memOk]

theorem State.post_memOk (s : State) (c : Nat) (x : Cmd) (h : MemOk s) :
    MemOk (State.post s c x) := by
  unfold State.post
  grind [MemOk, OutOk, OptOk, memWf_wrBytes, State.updCmd_memOk, State.updDie_memOk]

theorem State.postGo_memOk (l : List (Nat × Cmd)) : ∀ s, MemOk s → MemOk (State.postGo l s) := by
  induction l with
  | nil => exact fun s h => h
  | cons x l ih =>
    intro s h
    unfold State.postGo
    grind [MemOk, State.post_memOk, State.updCmd_memOk]

theorem State.postAll_memOk (s : State) (d : Nat) (h : MemOk s) :
    MemOk (State.postAll s d) := by
  exact State.postGo_memOk _ _ h

theorem State.enqueue_memOk (s : State) (op sub eng : Nat) (k : Ctr) (va block dest : Nat) (h : MemOk s) :
    MemOk (State.enqueue s op sub eng k va block dest) := by
  unfold State.enqueue
  grind [MemOk, OutOk, OptOk, memWf_wrBytes, State.addCmd_memOk, State.discard_memOk, State.newId_memOk,
      State.postAll_memOk, State.updWarp_memOk]

theorem State.eng_memOk (s : State) (o : EOps) (op sub eng : Nat) (k : Ctr) (h : MemOk s) :
    MemOk (State.eng s o op sub eng k) := by
  unfold State.eng
  grind [MemOk, OutOk, OptOk, memWf_wrBytes, State.enqueue_memOk, State.faultOpen_memOk, State.faultSplit_memOk,
      State.stalled_memOk]

theorem execCpyq_memOk (o : EOps) (s : State) (h : MemOk s) :
    OutOk (execCpyq o s) := by
  unfold execCpyq
  grind [MemOk, OutOk, OptOk, memWf_wrBytes, State.eng_memOk, State.gated_memOk]

theorem execGthq_memOk (o : EOps) (s : State) (h : MemOk s) :
    OutOk (execGthq o s) := by
  unfold execGthq
  grind [MemOk, OutOk, OptOk, memWf_wrBytes, State.eng_memOk, State.gated_memOk]

theorem execClpost_memOk (o : EOps) (s : State) (h : MemOk s) :
    OutOk (execClpost o s) := by
  unfold execClpost
  grind [MemOk, OutOk, OptOk, memWf_wrBytes, State.eng_memOk, State.gated_memOk]

theorem execClctlQuery_memOk (o : EOps) (s : State) (h : MemOk s) :
    OutOk (execClctlQuery o s) := by
  unfold execClctlQuery
  grind [MemOk, OutOk, OptOk, memWf_wrBytes, State.eng_memOk, State.gated_memOk]

theorem execClctlAbort_memOk (o : EOps) (s : State) (h : MemOk s) :
    OutOk (execClctlAbort o s) := by
  unfold execClctlAbort
  grind [MemOk, OutOk, OptOk, memWf_wrBytes, State.eng_memOk, State.gated_memOk]

theorem execEpopen_memOk (o : EOps) (s : State) (h : MemOk s) :
    OutOk (execEpopen o s) := by
  unfold execEpopen
  grind [MemOk, OutOk, OptOk, memWf_wrBytes, State.eng_memOk, State.gated_memOk]

theorem execEpstep_memOk (o : EOps) (s : State) (h : MemOk s) :
    OutOk (execEpstep o s) := by
  unfold execEpstep
  grind [MemOk, OutOk, OptOk, memWf_wrBytes, State.eng_memOk, State.gated_memOk]

theorem execEpclose_memOk (o : EOps) (s : State) (h : MemOk s) :
    OutOk (execEpclose o s) := by
  unfold execEpclose
  grind [MemOk, OutOk, OptOk, memWf_wrBytes, State.eng_memOk, State.gated_memOk]

theorem execRwsend_memOk (o : EOps) (s : State) (h : MemOk s) :
    OutOk (execRwsend o s) := by
  unfold execRwsend
  grind [MemOk, OutOk, OptOk, memWf_wrBytes, State.eng_memOk, State.gated_memOk]

theorem execLqtake_memOk (o : EOps) (s : State) (h : MemOk s) :
    OutOk (execLqtake o s) := by
  unfold execLqtake
  grind [MemOk, OutOk, OptOk, memWf_wrBytes, State.eng_memOk, State.gated_memOk]

theorem State.gset_memOk (s : State) (n : Nat) (x : Guard) (h : MemOk s) :
    MemOk (State.gset s n x) := by
  unfold State.gset
  refine State.postAll_memOk _ _ ?_
  split
  · exact MemOk.foldl _ (State.updCore_memOk _ _ _ (State.updWarp_memOk _ _ h)) fun s x h =>
      State.updWarp_memOk _ _ (State.discard_memOk _ _ _ h)
  · exact State.updCore_memOk _ _ _ (State.updWarp_memOk _ _ h)

theorem execGset_memOk (o : VOps) (s : State) (h : MemOk s) :
    OutOk (execGset o s) := by
  unfold execGset
  grind [MemOk, OutOk, OptOk, memWf_wrBytes, State.gated_memOk, State.gset_memOk]

theorem State.reenter_memOk (s : State) (c w k : Nat) (posts : List Nat) (h : MemOk s) :
    MemOk (State.reenter s c w k posts).1 := by
  unfold State.reenter
  grind [MemOk, OutOk, OptOk, memWf_wrBytes, State.eng_memOk, State.migrate_memOk, State.newId_memOk,
      State.updCore_memOk]

theorem execCsrrd_memOk (o : SOps) (s : State) (h : MemOk s) :
    OutOk (execCsrrd o s) := by
  unfold execCsrrd
  grind [MemOk, OutOk, OptOk, memWf_wrBytes, State.gated_memOk, State.oneValue_memOk]

theorem execCsrwr_memOk (o : SOps) (s : State) (h : MemOk s) :
    OutOk (execCsrwr o s) := by
  unfold execCsrwr
  grind [MemOk, OutOk, OptOk, memWf_wrBytes, State.gated_memOk, State.updCore_memOk]

theorem execFragrd_memOk (o : SOps) (s : State) (h : MemOk s) :
    OutOk (execFragrd o s) := by
  unfold execFragrd
  grind [MemOk, OutOk, OptOk, memWf_wrBytes, State.gated_memOk, State.updWarp_memOk]

theorem State.leaveFrag_memOk (s : State) (c i : Nat) (m : Word) (h : MemOk s) :
    MemOk (State.leaveFrag s c i m) := by
  unfold State.leaveFrag
  grind [MemOk, OutOk, OptOk, memWf_wrBytes, State.updCore_memOk]

theorem State.clearWfault_memOk (s : State) (c w : Nat) (h : MemOk s) :
    MemOk (State.clearWfault s c w) := by
  unfold State.clearWfault
  grind [MemOk, OutOk, OptOk, memWf_wrBytes, State.updCore_memOk, State.updWarpAt_memOk]

theorem State.resumeFrag_memOk (s : State) (c i : Nat) (m : Word) (pos : Option (Nat × Nat)) (h : MemOk s) :
    MemOk (State.resumeFrag s c i m pos) := by
  unfold State.resumeFrag
  grind [MemOk, OutOk, OptOk, memWf_wrBytes, State.arriveLanes_memOk, State.leaveFrag_memOk, State.settle_memOk,
      State.updWarpAt_memOk]

theorem State.killFrag_memOk (s : State) (c i : Nat) (m : Word) (h : MemOk s) :
    MemOk (State.killFrag s c i m) := by
  unfold State.killFrag
  grind [MemOk, OutOk, OptOk, memWf_wrBytes, State.exitLanes_memOk, State.leaveFrag_memOk]

theorem State.killWarp_memOk (s : State) (c x : Nat) (h : MemOk s) :
    MemOk (State.killWarp s c x) := by
  refine State.exitLanes_memOk _ _ _ _ (State.clearWfault_memOk _ _ _ (MemOk.foldl _ h fun s x h => ?_))
  split
  · exact State.leaveFrag_memOk _ _ _ _ h
  · exact h

theorem execFragres_memOk (o : SOps) (s : State) (h : MemOk s) :
    OutOk (execFragres o s) := by
  unfold execFragres
  grind [MemOk, OutOk, OptOk, memWf_wrBytes, State.clearWfault_memOk, State.gated_memOk, State.resumeFrag_memOk,
      State.settle_memOk]

theorem execFragkill_memOk (o : SOps) (s : State) (h : MemOk s) :
    OutOk (execFragkill o s) := by
  unfold execFragkill
  grind [MemOk, OutOk, OptOk, memWf_wrBytes, State.gated_memOk, State.killFrag_memOk, State.killWarp_memOk]

theorem execSvcwait_memOk (o : SOps) (s : State) (h : MemOk s) :
    OutOk (execSvcwait o s) := by
  unfold execSvcwait
  grind [MemOk, OutOk, OptOk, memWf_wrBytes, State.gated_memOk, State.oneValue_memOk, State.setCore_memOk]

theorem execSavex_memOk (o : SOps) (s : State) (h : MemOk s) :
    OutOk (execSavex o s) := by
  unfold execSavex
  grind [MemOk, OutOk, OptOk, memWf_wrBytes, State.faultOpen_memOk, State.free_memOk, State.gated_memOk,
      State.perLane_memOk]

theorem State.putTile_memOk (s : State) (idx : Nat) (x : Word) (h : MemOk s) :
    MemOk (State.putTile s idx x) := by
  unfold State.putTile
  grind [MemOk, OutOk, OptOk, memWf_wrBytes, State.stalled_memOk, State.updWarp_memOk]

theorem State.putRow_memOk (s : State) (wb : Bool) (row l : Nat) (x : Word) (h : MemOk s) :
    MemOk (State.putRow s wb row l x) := by
  unfold State.putRow
  grind [MemOk, OutOk, OptOk, memWf_wrBytes, State.updCore_memOk]

theorem State.checkRecord_memOk (s : State) (h : MemOk s) :
    MemOk (State.checkRecord s).1 := by
  unfold State.checkRecord
  grind [MemOk, OutOk, OptOk, memWf_wrBytes, State.faultSplit_memOk, State.updWarp_memOk]

theorem execRestx_memOk (o : SOps) (s : State) (h : MemOk s) :
    OutOk (execRestx o s) := by
  unfold execRestx
  refine State.gated_memOk _ _ _ h fun s h => ?_
  dsimp only
  split
  · exact h
  · have h1 := State.checkRecord_memOk s h
    split
    · rename_i e; rwa [e] at h1
    · rename_i e
      rw [e] at h1
      dsimp only at h1
      refine .ite h1 (.ite (State.stalled_memOk _ h1) (.ite h1 (.ite (State.putTile_memOk _ _ _ h1) (.ite (MemOk.foldl _ h1
        fun s x h => State.putRow_memOk _ _ _ _ _ h) (.ite (State.updWarpAt_memOk _ _ _ _ h1) (State.updWarpAt_memOk _ _ _ _ h1))))))

theorem State.storeHeader_memOk (s : State) (h : MemOk s) :
    MemOk (State.storeHeader s).1 := by
  unfold State.storeHeader
  dsimp only
  split
  · exact State.faultSplit_memOk _ _ _ h
  · exact State.addPieces_memOk _ _ _ _ _ _ h

theorem State.restoreFrags_memOk (s : State) (c w : Nat) (h : MemOk s) :
    MemOk (State.restoreFrags s c w) := by
  unfold State.restoreFrags
  (repeat' (first | apply MemOk.foldl | apply MemOk.foldl_fst | (intros; split) | (intros; assumption))) <;>
    grind [MemOk, OutOk, OptOk, memWf_wrBytes, State.fragment_memOk, State.newId_memOk, State.updWarpAt_memOk]

theorem State.reissueLdf_memOk (s : State) (c w l : Nat) (h : MemOk s) :
    MemOk (State.reissueLdf s c w l) := by
  unfold State.reissueLdf
  (repeat' (first | apply MemOk.foldl | apply MemOk.foldl_fst | (intros; split) | (intros; assumption))) <;>
    grind [MemOk, OutOk, OptOk, memWf_wrBytes, State.newId_memOk, State.updWarpAt_memOk]

theorem State.refusedWarp_memOk (s : State) (c w : Nat) (h : MemOk s) :
    MemOk (State.refusedWarp s c w) := by
  unfold State.refusedWarp
  grind [MemOk, OutOk, OptOk, memWf_wrBytes, State.newId_memOk, State.setWarpAt_memOk, State.setWfault_memOk]

theorem State.releaseFreed_memOk (s : State) (g c w : Nat) (h : MemOk s) :
    MemOk (State.releaseFreed s g c w) := by
  unfold State.releaseFreed
  grind [MemOk, OutOk, OptOk, memWf_wrBytes, State.releaseFrom_memOk]

theorem State.finishWarp_memOk (s : State) (c w : Nat) (h : MemOk s) :
    MemOk (State.finishWarp s c w) := by
  have hr : ∀ (n : Nat) (y : State × List Nat), MemOk y.1 →
      MemOk ((List.range n).foldl (fun (y : State × List Nat) k => y.1.reenter c w k y.2) y).1 := fun n y hy =>
    MemOk.foldl_fst _ hy fun s x h => State.reenter_memOk _ _ _ _ _ h
  unfold State.finishWarp
  dsimp only
  refine .ite (State.refusedWarp_memOk _ _ _ h) ?_
  refine State.releaseFreed_memOk _ _ _ _ (State.updWarpAt_memOk _ _ _ _ (MemOk.foldl _ (State.restoreFrags_memOk _ _ _ ?_)
    fun s x h => State.reissueLdf_memOk _ _ _ _ h))
  split
  · exact State.setWfault_memOk _ _ _ _ _ (State.updWarpAt_memOk _ _ _ _ (hr _ _ (State.setWarpAt_memOk _ _ _ _ (State.newId_memOk _ h))))
  · exact State.updWarpAt_memOk _ _ _ _ (hr _ _ (State.setWarpAt_memOk _ _ _ _ (State.newId_memOk _ h)))

theorem State.finishRestore_memOk (s : State) (g : Nat) (h : MemOk s) :
    MemOk (State.finishRestore s g) := by
  unfold State.finishRestore
  grind [MemOk, OutOk, OptOk, memWf_wrBytes, State.freeArea_memOk, State.updWg_memOk]

theorem State.leaveHandlers_memOk (s : State) (g : Nat) (h : MemOk s) :
    MemOk (State.leaveHandlers s g) := by
  unfold State.leaveHandlers
  dsimp only
  split
  · exact h
  · exact MemOk.foldl _ (State.postAll_memOk _ _ (State.finishRestore_memOk _ _ (MemOk.foldl _ h fun s x h =>
      State.finishWarp_memOk _ _ _ h))) fun s x h => State.settle_memOk _ _ _ h

theorem execEret_memOk (o : SOps) (s : State) (h : MemOk s) :
    OutOk (execEret o s) := by
  unfold execEret
  grind [MemOk, OutOk, OptOk, memWf_wrBytes, State.checkRecord_memOk, State.fetchNeed_memOk, State.finishSave_memOk,
      State.gated_memOk, State.leaveHandlers_memOk, State.stalled_memOk, State.storeHeader_memOk, State.updWarp_memOk]

theorem execTlbinv_memOk (o : SOps) (s : State) (h : MemOk s) :
    OutOk (execTlbinv o s) := by
  unfold execTlbinv
  grind [MemOk, OutOk, OptOk, memWf_wrBytes, State.gated_memOk, State.updDie_memOk]

theorem execCacheop_memOk (o : SOps) (s : State) (h : MemOk s) :
    OutOk (execCacheop o s) := by
  unfold execCacheop
  grind [MemOk, OutOk, OptOk, memWf_wrBytes, State.gated_memOk, State.giveUp_memOk, State.updCore_memOk]

theorem execPmctl_memOk (o : SOps) (s : State) (h : MemOk s) :
    OutOk (execPmctl o s) := by
  unfold execPmctl
  grind [MemOk, OutOk, OptOk, memWf_wrBytes, State.free_memOk, State.gated_memOk, State.oneValue_memOk]

end Sys2Proof.Machine
end

