-- ==== Sys2Proof/Laws/KeepEngine.lean ====
section
/-! SUPPORT. Laws/KeepEngine.lean: the engines, the clearing processors and their events keep memory in its canonical form, one lemma for each function that
answers a state. -/

set_option Elab.async false

namespace Sys2Proof.Machine

theorem State.setProc_memOk (s : State) (d p : Nat) (x : Clear) (h : MemOk s) :
    MemOk (State.setProc s d p x) := by
  unfold State.setProc
  grind [MemOk, OutOk, OptOk, memWf_wrBytes, State.updDie_memOk]

theorem State.setClear_memOk (s : State) (x : Clear) (h : MemOk s) :
    MemOk (State.setClear s x) := by
  unfold State.setClear
  grind [MemOk, OutOk, OptOk, memWf_wrBytes, State.setProc_memOk]

theorem State.updClear_memOk (s : State) (f : Clear → Clear) (h : MemOk s) :
    MemOk (State.updClear s f) := by
  unfold State.updClear
  grind [MemOk, OutOk, OptOk, memWf_wrBytes, State.setClear_memOk]

theorem State.clearEnd_memOk (s : State) (st : Nat) (h : MemOk s) :
    MemOk (State.clearEnd s st) := by
  unfold State.clearEnd
  grind [MemOk, OutOk, OptOk, memWf_wrBytes, State.updClear_memOk]

theorem State.clearing_memOk (s : State) (f : Clear → Coll → State) (h : MemOk s) (hf : ∀ (x0 : Clear) (x1 : Coll),
    MemOk (f x0 x1)) :
    OutOk (State.clearing s f) := by
  unfold State.clearing
  grind [MemOk, OutOk, OptOk, memWf_wrBytes]

theorem State.clearRegs_memOk (s : State) (f : Clear → Clear) (h : MemOk s) :
    OutOk (State.clearRegs s f) := by
  unfold State.clearRegs
  grind [MemOk, OutOk, OptOk, memWf_wrBytes, State.clearing_memOk, State.setClear_memOk]

theorem State.clearStep_memOk (s : State) (f : Clear → Coll → State) (h : MemOk s) (hf : ∀ (x0 : Clear) (x1 : Coll),
    MemOk (f x0 x1)) :
    OutOk (State.clearStep s f) := by
  unfold State.clearStep
  grind [MemOk, OutOk, OptOk, memWf_wrBytes, State.clearEnd_memOk, State.clearing_memOk]

theorem State.spaceHasRead_memOk (s : State) (tenant va n : Nat) (h : MemOk s) :
    MemOk (State.spaceHasRead s tenant va n) := by
  unfold State.spaceHasRead
  grind [MemOk, OutOk, OptOk, memWf_wrBytes, State.countRead_memOk]

theorem State.spaceWGo_memOk (typ tenant n : Nat) : ∀ s va bs, MemOk s → MemOk (State.spaceWGo typ tenant n s va bs).1 := by
  induction n with
  | zero => exact fun s _ _ h => h
  | succ n ih =>
    intro s va bs h
    unfold State.spaceWGo
    grind [MemOk, State.engineWrite_memOk]

theorem State.spaceWrite_memOk (s : State) (tenant va : Nat) (bs : List Byte) (typ : Nat := 0) (h : MemOk s) :
    MemOk (State.spaceWrite s tenant va bs typ).1 := by
  exact State.spaceWGo_memOk _ _ _ _ _ _ h

theorem State.elemWrite_memOk (s : State) (tenant base w i : Nat) (xs : List Nat) (typ : Nat := 0) (h : MemOk s) :
    MemOk (State.elemWrite s tenant base w i xs typ).1 := by
  unfold State.elemWrite
  grind [MemOk, OutOk, OptOk, memWf_wrBytes, State.spaceWrite_memOk]

theorem State.code_memOk (s : State) (x : Coll) (k role va m : Nat) (base : Nat) (h : MemOk s) :
    MemOk (State.code s x k role va m base).1 := by
  unfold State.code
  grind [MemOk, OutOk, OptOk, memWf_wrBytes, State.elemWrite_memOk, State.spaceHasRead_memOk]

theorem State.emit_memOk (s : State) (d typ : Nat) (msg : Msg) (h : MemOk s) :
    MemOk (State.emit s d typ msg) := by
  unfold State.emit
  refine State.countDie_memOk _ _ _ _ _ (.ite h (.ite (State.transmit_memOk _ _ h)
    (MemOk.foldl _ ?_ fun s x h => State.request_memOk _ _ _ h)))
  exact .of_mem (State.newId_memOk _ h) rfl

theorem State.sendMsg_memOk (s : State) (x : Coll) (rank rk chan kind count typ : Nat) (data : List Byte) (h : MemOk
    s) :
    MemOk (State.sendMsg s x rank rk chan kind count typ data) := by
  unfold State.sendMsg
  split
  · exact h
  · exact State.emit_memOk _ _ _ _ h

theorem State.takeMsg_memOk (s : State) (x : Coll) (frm chan : Nat) (h : MemOk s) :
    ∀ r, State.takeMsg s x frm chan = some r → MemOk r.2 := by
  unfold State.takeMsg
  grind [MemOk, OutOk, OptOk, memWf_wrBytes]

theorem State.sendElems_memOk (s : State) (x : Coll) (rank rk va i m k chan role base : Nat) (h : MemOk s) :
    MemOk (State.sendElems s x rank rk va i m k chan role base).1 := by
  unfold State.sendElems
  grind [MemOk, OutOk, OptOk, memWf_wrBytes, State.code_memOk, State.sendMsg_memOk, State.spaceHasRead_memOk]

theorem State.applyMsg_memOk (s : State) (x : Coll) (g : Msg) (va i m k : Nat) (add : Bool) (h : MemOk s) :
    MemOk (State.applyMsg s x g va i m k add).1 := by
  unfold State.applyMsg
  grind [MemOk, OutOk, OptOk, memWf_wrBytes, State.code_memOk, State.elemWrite_memOk, State.spaceHasRead_memOk]

theorem execCld_memOk (o : C1Ops) (s : State) (h : MemOk s) :
    OutOk (execCld o s) := by
  unfold execCld
  grind [MemOk, OutOk, OptOk, memWf_wrBytes, State.clearEnd_memOk, State.clearing_memOk, State.setClear_memOk,
      State.spaceHasRead_memOk]

theorem execClearingCst_memOk (o : C1Ops) (s : State) (h : MemOk s) :
    OutOk (execClearingCst o s) := by
  unfold execClearingCst
  grind [MemOk, OutOk, OptOk, memWf_wrBytes, State.clearEnd_memOk, State.clearing_memOk, State.spaceWrite_memOk,
      State.updClear_memOk]

theorem execCadd_memOk (o : C1Ops) (s : State) (h : MemOk s) :
    OutOk (execCadd o s) := by
  unfold execCadd
  grind [MemOk, OutOk, OptOk, memWf_wrBytes, State.clearRegs_memOk]

theorem execCsub_memOk (o : C1Ops) (s : State) (h : MemOk s) :
    OutOk (execCsub o s) := by
  unfold execCsub
  grind [MemOk, OutOk, OptOk, memWf_wrBytes, State.clearRegs_memOk]

theorem execCmov_memOk (o : C1Ops) (s : State) (h : MemOk s) :
    OutOk (execCmov o s) := by
  unfold execCmov
  grind [MemOk, OutOk, OptOk, memWf_wrBytes, State.clearRegs_memOk]

theorem execCmovi_memOk (o : C2Ops) (s : State) (h : MemOk s) :
    OutOk (execCmovi o s) := by
  unfold execCmovi
  grind [MemOk, OutOk, OptOk, memWf_wrBytes, State.clearRegs_memOk]

theorem execCbnz_memOk (o : C2Ops) (s : State) (h : MemOk s) :
    OutOk (execCbnz o s) := by
  unfold execCbnz
  grind [MemOk, OutOk, OptOk, memWf_wrBytes, State.clearRegs_memOk]

theorem execCbra_memOk (o : C2Ops) (s : State) (h : MemOk s) :
    OutOk (execCbra o s) := by
  unfold execCbra
  grind [MemOk, OutOk, OptOk, memWf_wrBytes, State.clearRegs_memOk]

theorem execCsend_memOk (o : C1Ops) (s : State) (h : MemOk s) :
    OutOk (execCsend o s) := by
  unfold execCsend
  grind [MemOk, OutOk, OptOk, memWf_wrBytes, State.clearEnd_memOk, State.clearStep_memOk, State.sendElems_memOk,
      State.updClear_memOk]

theorem State.clearRecv_memOk (s : State) (o : C1Ops) (add : Bool) (h : MemOk s) :
    OutOk (State.clearRecv s o add) := by
  unfold State.clearRecv
  refine State.clearStep_memOk _ _ h fun c x => ?_
  dsimp only
  split
  · exact State.clearEnd_memOk _ _ h
  · split
    · exact h
    · rename_i g t e
      have h1 := State.takeMsg_memOk _ _ _ _ h _ e
      split
      · rename_i e2
        exact State.clearEnd_memOk _ _ (by have := State.applyMsg_memOk t x g (c.reg o.ra) 0 (c.reg o.rb) (immK o.imm) add h1; rwa [e2] at this)
      · rename_i e2
        exact State.updClear_memOk _ _ (by have := State.applyMsg_memOk t x g (c.reg o.ra) 0 (c.reg o.rb) (immK o.imm) add h1; rwa [e2] at this)

theorem execCrecv_memOk (o : C1Ops) (s : State) (h : MemOk s) :
    OutOk (execCrecv o s) := by
  unfold execCrecv
  grind [MemOk, OutOk, OptOk, memWf_wrBytes, State.clearRecv_memOk]

theorem execCred_memOk (o : C1Ops) (s : State) (h : MemOk s) :
    OutOk (execCred o s) := by
  unfold execCred
  grind [MemOk, OutOk, OptOk, memWf_wrBytes, State.clearRecv_memOk]

theorem execCcomp_memOk (o : C1Ops) (s : State) (h : MemOk s) :
    OutOk (execCcomp o s) := by
  unfold execCcomp
  grind [MemOk, OutOk, OptOk, memWf_wrBytes, State.clearEnd_memOk, State.clearing_memOk, State.code_memOk,
      State.spaceHasRead_memOk, State.spaceWrite_memOk, State.updClear_memOk]

theorem execCsigFe_memOk (o : C1Ops) (s : State) (h : MemOk s) :
    OutOk (execCsigFe o s) := by
  unfold execCsigFe
  grind [MemOk, OutOk, OptOk, memWf_wrBytes, State.clearEnd_memOk, State.clearing_memOk, State.engineWrite_memOk,
      State.updClear_memOk]

theorem execCsigAb_memOk (o : C1Ops) (s : State) (h : MemOk s) :
    OutOk (execCsigAb o s) := by
  unfold execCsigAb
  grind [MemOk, OutOk, OptOk, memWf_wrBytes, State.abDeliver_memOk, State.clearEnd_memOk, State.clearing_memOk,
      State.updClear_memOk, State.wakeAb_memOk]

theorem execCwaitFe_memOk (o : C1Ops) (s : State) (h : MemOk s) :
    OutOk (execCwaitFe o s) := by
  unfold execCwaitFe
  grind [MemOk, OutOk, OptOk, memWf_wrBytes, State.clearEnd_memOk, State.clearStep_memOk, State.empty_memOk,
      State.setClear_memOk]

theorem execCwaitPh_memOk (o : C1Ops) (s : State) (h : MemOk s) :
    OutOk (execCwaitPh o s) := by
  unfold execCwaitPh
  grind [MemOk, OutOk, OptOk, memWf_wrBytes, State.clearEnd_memOk, State.clearStep_memOk, State.setClear_memOk]

theorem State.contribute_memOk (s : State) (x : Coll) (c : Clear) (chunk : Nat) (data : List Byte) (h : MemOk s) :
    MemOk (State.contribute s x c chunk data) := by
  unfold State.contribute
  grind [MemOk, OutOk, OptOk, memWf_wrBytes, State.request_memOk, State.updClear_memOk]

theorem State.takeResult_memOk (s : State) (x : Coll) (chunk : Nat) (h : MemOk s) :
    ∀ r, State.takeResult s x chunk = some r → MemOk r.2 := by
  unfold State.takeResult
  grind [MemOk, OutOk, OptOk, memWf_wrBytes]

theorem execCswred_memOk (o : C1Ops) (s : State) (h : MemOk s) :
    OutOk (execCswred o s) := by
  unfold execCswred
  refine State.clearStep_memOk _ _ h fun c x => ?_
  dsimp only
  split
  · exact State.clearEnd_memOk _ _ h
  · split
    · split
      · exact State.clearEnd_memOk _ _ h
      · split
        · exact State.contribute_memOk _ _ _ _ _ (State.spaceHasRead_memOk _ _ _ _ h)
        · exact State.updClear_memOk _ _ (State.contribute_memOk _ _ _ _ _ (State.spaceHasRead_memOk _ _ _ _ h))
    · split
      · exact h
      · rename_i bs t e
        have h1 : MemOk t := State.takeResult_memOk s x (c.reg o.rd) h _ e
        have h2 := State.spaceWrite_memOk t x.tenant (c.reg o.ra) (bs.take (x.bytes (c.reg o.rb))) (typOf x.fDtype) h1
        split
        · rename_i e2; rw [e2] at h2; exact State.clearEnd_memOk _ _ h2
        · rename_i e2; rw [e2] at h2; exact State.setClear_memOk _ _ h2

theorem execCend_memOk (o : C2Ops) (s : State) (h : MemOk s) :
    OutOk (execCend o s) := by
  unfold execCend
  grind [MemOk, OutOk, OptOk, memWf_wrBytes, State.clearEnd_memOk, State.clearing_memOk]

theorem State.residWGo_memOk (r : Resid) (n : Nat) : ∀ s off bs, MemOk s → MemOk (State.residWGo r n s off bs) := by
  induction n with
  | zero => exact fun s _ _ h => h
  | succ n ih =>
    intro s off bs h
    unfold State.residWGo
    grind [MemOk, State.engineWrite_memOk]

theorem State.residWrite_memOk (s : State) (r : Resid) (off : Nat) (bs : List Byte) (h : MemOk s) :
    MemOk (State.residWrite s r off bs) := by
  exact State.residWGo_memOk _ _ _ _ _ h

theorem State.castWrite_memOk (s : State) (c : Clear) (x : Coll) (h : MemOk s) :
    MemOk (State.castWrite s c x).1 := by
  have hf := State.free_memOk s h
  unfold State.castWrite
  grind [MemOk, OutOk, OptOk, memWf_wrBytes, State.spaceHasRead_memOk, State.spaceWrite_memOk, State.updClear_memOk]

theorem State.restoreWrite_memOk (s : State) (x : Coll) (h : MemOk s) :
    MemOk (State.restoreWrite s x).1 := by
  unfold State.restoreWrite
  grind [MemOk, OutOk, OptOk, memWf_wrBytes, State.residWrite_memOk, State.spaceWrite_memOk]

theorem State.withMsg_memOk (s : State) (x : Coll) (frm : Nat) (f : Msg → State → State) (h : MemOk s) (hf : ∀ (x0 :
    Msg) (x1 : State), MemOk x1 → MemOk (f x0 x1)) :
    MemOk (State.withMsg s x frm f) := by
  unfold State.withMsg
  split
  · exact h
  · rename_i e
    exact hf _ _ (State.takeMsg_memOk _ _ _ _ h _ e)

theorem State.stepDone_memOk (r : State × Option Nat) (rest : List BOp) (h : MemOk r.1) : MemOk (State.stepDone r rest) := by
  unfold State.stepDone
  grind [MemOk, State.clearEnd_memOk, State.updClear_memOk]

theorem State.builtinStep_memOk (s : State) (c : Clear) (x : Coll) (b : BOp) (rest : List BOp) (h : MemOk s) :
    MemOk (State.builtinStep s c x b rest) := by
  have hm : ∀ (o : Option Nat) (f : State), MemOk f → MemOk (match o with | some st => s.clearEnd st | none => f) := fun o f hf => by
    cases o with
    | none => exact hf
    | some st => exact State.clearEnd_memOk _ _ h
  unfold State.builtinStep
  cases b <;> dsimp only
  case copy =>
    split
    · exact State.clearEnd_memOk _ _ h
    · exact State.stepDone_memOk _ _ (State.elemWrite_memOk _ _ _ _ _ _ _ (State.spaceHasRead_memOk _ _ _ _ h))
  case send => exact hm _ _ (State.stepDone_memOk _ _ (State.sendElems_memOk _ _ _ _ _ _ _ _ _ _ _ h))
  case sendSrc => exact hm _ _ (State.stepDone_memOk _ _ (State.sendElems_memOk _ _ _ _ _ _ _ _ _ _ _ h))
  case recvAdd =>
    exact hm _ _ (State.withMsg_memOk _ _ _ _ h fun g s h => State.stepDone_memOk _ _ (State.applyMsg_memOk _ _ _ _ _ _ _ _ h))
  case recv =>
    exact hm _ _ (State.withMsg_memOk _ _ _ _ h fun g s h => State.stepDone_memOk _ _ (State.applyMsg_memOk _ _ _ _ _ _ _ _ h))
  case own =>
    grind [MemOk, State.clearEnd_memOk, State.stepDone_memOk, State.updClear_memOk, State.code_memOk, State.elemWrite_memOk,
      State.spaceHasRead_memOk]
  case fwd =>
    refine hm _ _ ?_
    split
    · exact State.stepDone_memOk _ _ h
    · exact State.stepDone_memOk _ _ (State.sendMsg_memOk _ _ _ _ _ _ _ _ _ h)
  case keep =>
    exact hm _ _ (State.withMsg_memOk _ _ _ _ h fun g s h => State.stepDone_memOk _ _ (State.applyMsg_memOk _ _ _ _ _ _ _ _
      (State.updClear_memOk _ _ h)))
  case contribute =>
    refine hm _ _ ?_
    split
    · exact State.clearEnd_memOk _ _ h
    · exact State.stepDone_memOk _ _ (State.contribute_memOk _ _ _ _ _ (State.spaceHasRead_memOk _ _ _ _ h))
  case await =>
    refine hm _ _ ?_
    split
    · exact h
    · rename_i e
      exact State.stepDone_memOk _ _ (State.spaceWrite_memOk _ _ _ _ _ (State.takeResult_memOk _ _ _ h _ e))
  case castWrite => grind [MemOk, State.castWrite_memOk, State.clearEnd_memOk, State.stepDone_memOk, State.updClear_memOk]
  case restoreCheck =>
    split
    · exact State.clearEnd_memOk _ _ h
    · exact State.stepDone_memOk _ _ (State.updClear_memOk _ _ (State.spaceHasRead_memOk _ _ _ _ h))
  case agree => exact hm _ _ (State.stepDone_memOk _ _ (State.sendMsg_memOk _ _ _ _ _ _ _ _ _ h))
  case agreeFrom =>
    exact hm _ _ (State.withMsg_memOk _ _ _ _ h fun g s h => State.stepDone_memOk _ _ (State.updClear_memOk _ _ h))
  case restoreWrite =>
    split
    · exact State.clearEnd_memOk _ _ h
    · exact State.stepDone_memOk _ _ (State.restoreWrite_memOk _ _ h)

theorem State.clearActs_memOk (s : State) (d p : Nat) (h : MemOk s) :
    MemOk (State.clearActs s d p) := by
  unfold State.clearActs
  grind [MemOk, OutOk, OptOk, memWf_wrBytes]

theorem State.clearOut_memOk (s t : State) (d p : Nat) (h : MemOk s) (ht : MemOk t) :
    MemOk (State.clearOut s t d p) := by
  unfold State.clearOut
  grind [MemOk, OutOk, OptOk, memWf_wrBytes, State.clearActs_memOk, State.jobStep_memOk]

theorem State.clearTurn_memOk (s : State) (d p : Nat) (h : MemOk s) :
    MemOk (State.clearTurn s d p).1 := by
  have h1 := State.clearActs_memOk s d p h
  rw [State.clearTurn]
  generalize s.clearActs d p = t at h1
  split
  · exact h1
  · refine .ite_fst h1 (.ite_fst (State.clearEnd_memOk _ _ h1) (.ite_fst ?_ ?_))
    · split
      · exact State.clearEnd_memOk _ _ h1
      · exact State.builtinStep_memOk _ _ _ _ _ h1
    · split
      · exact State.clearEnd_memOk _ _ h1
      · split
        · exact State.clearEnd_memOk _ _ h1
        · split
          · exact State.clearEnd_memOk _ _ h1
          · exact h1

theorem State.collectiveStart_memOk (s : State) (d : Nat) (h : MemOk s) :
    MemOk (State.collectiveStart s d) := by
  unfold State.collectiveStart
  grind [MemOk, OutOk, OptOk, memWf_wrBytes, State.acts_memOk, State.setClear_memOk]

theorem execCollectiveStart_memOk (s : State) (h : MemOk s) :
    OutOk (execCollectiveStart s) := by
  unfold execCollectiveStart
  grind [MemOk, OutOk, OptOk, memWf_wrBytes, State.collectiveStart_memOk]

theorem State.collectiveEnd_memOk (s : State) (d p : Nat) (h : MemOk s) :
    MemOk (State.collectiveEnd s d p) := by
  unfold State.collectiveEnd
  grind [MemOk, OutOk, OptOk, memWf_wrBytes, State.bar_memOk, State.endCmd_memOk, State.setProc_memOk,
      State.updDie_memOk]

theorem execCollectiveEnd_memOk (s : State) (h : MemOk s) :
    OutOk (execCollectiveEnd s) := by
  unfold execCollectiveEnd
  grind [MemOk, OutOk, OptOk, memWf_wrBytes, State.collectiveEnd_memOk]

theorem State.applyHeld_memOk (s : State) (d : Nat) (h : Held) (ok : MemOk s) :
    MemOk (State.applyHeld s d h) := by
  unfold State.applyHeld
  grind [MemOk, OutOk, OptOk, memWf_wrBytes, State.bar_memOk, State.engineWrite_memOk, State.leaveHandlers_memOk,
      State.lower_memOk, State.retire_memOk, State.updCmd_memOk, State.updDie_memOk, State.updWarpAt_memOk]

theorem execHeldEndApply_memOk (s : State) (h : MemOk s) :
    OutOk (execHeldEndApply s) := by
  unfold execHeldEndApply
  grind [MemOk, OutOk, OptOk, memWf_wrBytes, State.applyHeld_memOk]

theorem execClearingMessageArrival_memOk (s : State) (h : MemOk s) :
    OutOk (execClearingMessageArrival s) := by
  unfold execClearingMessageArrival
  grind [MemOk, OutOk, OptOk, memWf_wrBytes]

theorem State.slotDone_memOk (s : State) (x : Slot) (h : MemOk s) :
    MemOk (State.slotDone s x) := by
  unfold State.slotDone
  refine .ite h ?_
  dsimp only
  split
  · exact h
  · split
    · exact h
    · exact MemOk.foldl _ (.of_mem h rfl) fun s x h => State.emit_memOk _ _ _ _ h

theorem State.rootTake_memOk (s : State) (x : Slot) (h : MemOk s) :
    MemOk (State.rootTake s x) := by
  unfold State.rootTake
  grind [MemOk, OutOk, OptOk, memWf_wrBytes, State.slotDone_memOk]

theorem State.slotForward_memOk (s : State) (x : Slot) (h : MemOk s) :
    MemOk (State.slotForward s x) := by
  unfold State.slotForward
  grind [MemOk, OutOk, OptOk, memWf_wrBytes, State.rootTake_memOk]

theorem State.pushIn_memOk (s : State) (p : Push) (noSlot : Bool) (victim : Nat := 0) (h : MemOk s) :
    MemOk (State.pushIn s p noSlot victim) := by
  unfold State.pushIn
  grind [MemOk, OutOk, OptOk, memWf_wrBytes, State.rootTake_memOk, State.slotDone_memOk, State.slotForward_memOk]

theorem execReductionPush_memOk (s : State) (h : MemOk s) :
    OutOk (execReductionPush s) := by
  unfold execReductionPush
  grind [MemOk, OutOk, OptOk, memWf_wrBytes, State.pushIn_memOk]

theorem State.passSwitch_memOk (s : State) (k n : Nat) (h : MemOk s) :
    MemOk (State.passSwitch s k n) := by
  unfold State.passSwitch
  grind [MemOk, OutOk, OptOk, memWf_wrBytes]

theorem execSwitchSlotTimeout_memOk (s : State) (h : MemOk s) :
    OutOk (execSwitchSlotTimeout s) := by
  unfold execSwitchSlotTimeout
  grind [MemOk, OutOk, OptOk, memWf_wrBytes, State.slotForward_memOk]

theorem State.mark_memOk (s : State) (st : Nat) (p : Coll → Bool) (h : MemOk s) :
    MemOk (State.mark s st p) := by
  unfold State.mark
  grind [MemOk, OutOk, OptOk, memWf_wrBytes]

theorem State.revoke_memOk (s : State) (t handle : Nat) (h : MemOk s) :
    MemOk (State.revoke s t handle) := by
  unfold State.revoke
  grind [MemOk, OutOk, OptOk, memWf_wrBytes, State.mark_memOk]

theorem State.loseMembers_memOk (s : State) (p : Nat × Nat → Bool) (h : MemOk s) :
    MemOk (State.loseMembers s p) := by
  unfold State.loseMembers
  grind [MemOk, OutOk, OptOk, memWf_wrBytes, State.mark_memOk]

theorem execClauseWaitMet_memOk (s : State) (h : MemOk s) :
    OutOk (execClauseWaitMet s) := by
  unfold execClauseWaitMet
  grind [MemOk, OutOk, OptOk, memWf_wrBytes, State.updWarpAt_memOk]

theorem State.wordsArrive_memOk (s : State) (c w a p : Nat) (h : MemOk s) :
    MemOk (State.wordsArrive s c w a p) := by
  unfold State.wordsArrive
  grind [MemOk, OutOk, OptOk, memWf_wrBytes, State.fetchAsk_memOk, State.updWarpAt_memOk]

theorem execClauseWordsArrive_memOk (s : State) (h : MemOk s) :
    OutOk (execClauseWordsArrive s) := by
  unfold execClauseWordsArrive
  grind [MemOk, OutOk, OptOk, memWf_wrBytes, State.wordsArrive_memOk]

theorem State.afterOp_memOk (s : State) (c w : Nat) (h : MemOk s) :
    MemOk (State.afterOp s c w) := by
  unfold State.afterOp
  grind [MemOk, OutOk, OptOk, memWf_wrBytes, State.applyAb_memOk, State.countArrivals_memOk, State.settle_memOk,
      State.settleCbars_memOk, State.settleLaunch_memOk, State.updCore_memOk, State.wakeAb_memOk]

theorem State.endOp_memOk (s : State) (c w id : Nat) (h : MemOk s) :
    MemOk (State.endOp s c w id) := by
  unfold State.endOp
  grind [MemOk, OutOk, OptOk, memWf_wrBytes, State.afterOp_memOk, State.updWarpAt_memOk]

theorem State.sendOp_memOk (s : State) (c w : Nat) (o : Op) (h : MemOk s) :
    MemOk (State.sendOp s c w o) := by
  unfold State.sendOp
  grind [MemOk, OutOk, OptOk, memWf_wrBytes, State.countCore_memOk, State.request_memOk, State.updOp_memOk]

theorem State.opDone_memOk (s : State) (c : Nat) (o : Op) (v : Nat) (e : Bool) (h : MemOk s) :
    MemOk (State.opDone s c o v e) := by
  unfold State.opDone
  grind [MemOk, OutOk, OptOk, memWf_wrBytes, State.updOp_memOk]

theorem State.serveLoad_memOk (s : State) (c w : Nat) (o : Op) (h : MemOk s) :
    MemOk (State.serveLoad s c w o) := by
  unfold State.serveLoad
  grind [MemOk, OutOk, OptOk, memWf_wrBytes, State.countCore_memOk, State.countHbm_memOk, State.fillLine_memOk,
      State.opDone_memOk]

theorem State.farLoad_memOk (s : State) (c w : Nat) (o : Op) (bs : List Byte) (h : MemOk s) :
    MemOk (State.farLoad s c w o bs) := by
  unfold State.farLoad
  grind [MemOk, OutOk, OptOk, memWf_wrBytes, State.endOp_memOk, State.fillFrom_memOk, State.opDone_memOk]

theorem State.serveLdf_memOk (s : State) (c : Nat) (o : Op) (h : MemOk s) :
    MemOk (State.serveLdf s c o) := by
  unfold State.serveLdf
  grind [MemOk, OutOk, OptOk, memWf_wrBytes, State.dropCopies_memOk, State.empty_memOk, State.updOp_memOk]

theorem State.emuEnd_memOk (s : State) (c w : Nat) (o : Op) (e : Option Cause) (h : MemOk s) :
    MemOk (State.emuEnd s c w o e) := by
  unfold State.emuEnd
  grind [MemOk, OutOk, OptOk, memWf_wrBytes, State.acquire_memOk, State.resumeFrag_memOk, State.updWarpAt_memOk]

theorem State.emuByte_memOk (s : State) (c w : Nat) (o : Op) (h : MemOk s) :
    MemOk (State.emuByte s c w o) := by
  unfold State.emuByte
  grind [MemOk, OutOk, OptOk, memWf_wrBytes, State.emuEnd_memOk, State.madeRead_memOk, State.updOp_memOk,
      State.updWarpAt_memOk, State.waitRead_memOk]

theorem State.loadServe_memOk (s : State) (c id : Nat) (h : MemOk s) :
    MemOk (State.loadServe s c id) := by
  unfold State.loadServe
  grind [MemOk, OutOk, OptOk, memWf_wrBytes, State.emuByte_memOk, State.sendOp_memOk, State.serveLdf_memOk,
      State.serveLoad_memOk, State.swRecall_memOk]

theorem execLoadServe_memOk (s : State) (h : MemOk s) :
    OutOk (execLoadServe s) := by
  unfold execLoadServe
  grind [MemOk, OutOk, OptOk, memWf_wrBytes, State.loadServe_memOk]

theorem State.registerOp_memOk (s : State) (c w : Nat) (o : Op) (h : MemOk s) :
    MemOk (State.registerOp s c w o) := by
  unfold State.registerOp
  grind [MemOk, OutOk, OptOk, memWf_wrBytes, State.dropCopies_memOk, State.endOp_memOk, State.recall_memOk,
      State.register_memOk, State.staleOps_memOk]

theorem State.storeRegister_memOk (s : State) (c id : Nat) (h : MemOk s) :
    MemOk (State.storeRegister s c id) := by
  unfold State.storeRegister
  split
  · exact h
  · dsimp only
    refine .ite h (.ite (State.sendOp_memOk _ _ _ _ h) ?_)
    split
    · exact State.swRecall_memOk _ _ h
    · exact MemOk.foldl _ h fun s x h => State.registerOp_memOk _ _ _ _ h

theorem execStoreRegistration_memOk (s : State) (h : MemOk s) :
    OutOk (execStoreRegistration s) := by
  unfold execStoreRegistration
  grind [MemOk, OutOk, OptOk, memWf_wrBytes, State.storeRegister_memOk]

theorem State.hgaAccepted_memOk (s : State) (c cmd : Nat) (h : MemOk s) :
    MemOk (State.hgaAccepted s c cmd) := by
  unfold State.hgaAccepted
  grind [MemOk, OutOk, OptOk, memWf_wrBytes, State.retire_memOk, State.updCmd_memOk]

theorem State.atomicDone_memOk (s : State) (c w : Nat) (o : Op) (old : Nat) (e : Bool) (h : MemOk s) :
    MemOk (State.atomicDone s c w o old e) := by
  unfold State.atomicDone
  grind [MemOk, OutOk, OptOk, memWf_wrBytes, State.afterOp_memOk, State.endOp_memOk, State.hgaAccepted_memOk,
      State.opDone_memOk]

theorem State.atomicOp_memOk (s : State) (c w : Nat) (o : Op) (h : MemOk s) :
    MemOk (State.atomicOp s c w o) := by
  unfold State.atomicOp
  grind [MemOk, OutOk, OptOk, memWf_wrBytes, State.atomicDone_memOk, State.countRead_memOk, State.homePart_memOk,
      State.meetsError_memOk]

theorem State.homeOp_memOk (s : State) (c w : Nat) (o : Op) (h : MemOk s) :
    MemOk (State.homeOp s c w o) := by
  unfold State.homeOp
  grind [MemOk, OutOk, OptOk, memWf_wrBytes, State.afterOp_memOk, State.atomicOp_memOk, State.dropCopies_memOk,
      State.empty_memOk, State.endOp_memOk, State.fill_memOk, State.fillRange_memOk, State.homePart_memOk,
          State.opDone_memOk, State.updOp_memOk]

theorem State.farAtomic_memOk (s : State) (c w : Nat) (o : Op) (bs : List Byte) (h : MemOk s) :
    MemOk (State.farAtomic s c w o bs) := by
  unfold State.farAtomic
  grind [MemOk, OutOk, OptOk, memWf_wrBytes, State.atomicDone_memOk, State.dropCopies_memOk, State.recall_memOk,
      State.staleOps_memOk]

theorem State.homeApply_memOk (s : State) (c id : Nat) (h : MemOk s) :
    MemOk (State.homeApply s c id) := by
  unfold State.homeApply
  grind [MemOk, OutOk, OptOk, memWf_wrBytes, State.homeOp_memOk, State.sendOp_memOk, State.swRecall_memOk]

theorem execHomeWriteQueueApply_memOk (s : State) (h : MemOk s) :
    OutOk (execHomeWriteQueueApply s) := by
  unfold execHomeWriteQueueApply
  grind [MemOk, OutOk, OptOk, memWf_wrBytes, State.homeApply_memOk]

theorem State.resultReturn_memOk (s : State) (c id only : Nat) (h : MemOk s) :
    MemOk (State.resultReturn s c id only) := by
  unfold State.resultReturn
  grind [MemOk, OutOk, OptOk, memWf_wrBytes, State.acquire_memOk, State.afterOp_memOk, State.endCmd_memOk,
      State.updWarpAt_memOk]

theorem execLongResultReturn_memOk (s : State) (h : MemOk s) :
    OutOk (execLongResultReturn s) := by
  unfold execLongResultReturn
  grind [MemOk, OutOk, OptOk, memWf_wrBytes, State.resultReturn_memOk]

theorem State.cbarTold_memOk (s : State) (c n coh : Nat) (h : MemOk s) :
    MemOk (State.cbarTold s c n coh) := by
  unfold State.cbarTold
  split
  · exact h
  · split
    · exact h
    · exact MemOk.foldl _ (State.updLaunch_memOk _ _ _ h) fun s x h => MemOk.foldl _ h fun s w h =>
        State.settle_memOk _ _ _ (State.releaseFrom_memOk _ _ _ _ h)

theorem execCbarCompletion_memOk (s : State) (h : MemOk s) :
    OutOk (execCbarCompletion s) := by
  unfold execCbarCompletion
  grind [MemOk, OutOk, OptOk, memWf_wrBytes, State.cbarTold_memOk]

theorem State.pageWalk_memOk (s : State) (i : Nat) (h : MemOk s) :
    MemOk (State.pageWalk s i) := by
  unfold State.pageWalk
  grind [MemOk, OutOk, OptOk, memWf_wrBytes, State.updCore_memOk, State.updDie_memOk]

theorem execPageWalk_memOk (s : State) (h : MemOk s) :
    OutOk (execPageWalk s) := by
  unfold execPageWalk
  grind [MemOk, OutOk, OptOk, memWf_wrBytes, State.pageWalk_memOk]

theorem execWatchdogExpiry_memOk (s : State) (h : MemOk s) :
    OutOk (execWatchdogExpiry s) := by
  unfold execWatchdogExpiry
  grind [MemOk, OutOk, OptOk, memWf_wrBytes, State.updCore_memOk, State.updWarpAt_memOk]

theorem execMailboxMessage_memOk (s : State) (h : MemOk s) :
    OutOk (execMailboxMessage s) := by
  unfold execMailboxMessage
  grind [MemOk, OutOk, OptOk, memWf_wrBytes, State.mmio_memOk, State.updCore_memOk]

theorem execVerUpdate_memOk (s : State) (h : MemOk s) :
    OutOk (execVerUpdate s) := by
  unfold execVerUpdate
  grind [MemOk, OutOk, OptOk, memWf_wrBytes, State.updCore_memOk]

theorem State.matStart_memOk (s : State) (c e : Nat) (h : MemOk s) :
    MemOk (State.matStart s c e) := by
  unfold State.matStart
  grind [MemOk, OutOk, OptOk, memWf_wrBytes, State.updCmd_memOk]

theorem execMatrixCommandStart_memOk (s : State) (h : MemOk s) :
    OutOk (execMatrixCommandStart s) := by
  unfold execMatrixCommandStart
  grind [MemOk, OutOk, OptOk, memWf_wrBytes, State.matStart_memOk]

theorem State.matBad_memOk (s : State) (c : Nat) (x : Cmd) (h : MemOk s) :
    MemOk (State.matBad s c x) := by
  unfold State.matBad
  grind [MemOk, OutOk, OptOk, memWf_wrBytes, State.updCmd_memOk, State.updWarpAt_memOk]

theorem State.matRun_memOk (s : State) (c : Nat) (x : Cmd) (h : MemOk s) :
    MemOk (State.matRun s c x) := by
  unfold State.matRun
  dsimp only
  split
  · exact State.updCmd_memOk _ _ _ _ (State.updCore_memOk _ _ _ (State.updWarpAt_memOk _ _ _ _ h))
  · exact State.updCmd_memOk _ _ _ _ (State.updWarpAt_memOk _ _ _ _ h)
  · split
    · exact State.matBad_memOk _ _ _ h
    · split
      · exact State.swRecall_memOk _ _ h
      · exact State.updCmd_memOk _ _ _ _ (MemOk.foldl _ h fun s x h => State.engineWrite_memOk _ _ _ _ _ _ _ h)
  · split
    · exact State.matBad_memOk _ _ _ h
    · exact State.countCore_memOk _ _ _ _ _ (State.updCmd_memOk _ _ _ _ (State.updCmd_memOk _ _ _ _ (State.updWarpAt_memOk _ _ _ _ h)))

theorem execMatrixStep_memOk (s : State) (h : MemOk s) :
    OutOk (execMatrixStep s) := by
  unfold execMatrixStep
  grind [MemOk, OutOk, OptOk, memWf_wrBytes, State.acts_memOk, State.matRun_memOk]

theorem State.matEnd_memOk (s : State) (c : Nat) (x : Cmd) (h : MemOk s) :
    MemOk (State.matEnd s c x) := by
  unfold State.matEnd
  grind [MemOk, OutOk, OptOk, memWf_wrBytes, State.emptied_memOk, State.readAccs_memOk, State.retire_memOk,
      State.settle_memOk, State.updCmd_memOk]

theorem execMatrixCommandEnd_memOk (s : State) (h : MemOk s) :
    OutOk (execMatrixCommandEnd s) := by
  unfold execMatrixCommandEnd
  grind [MemOk, OutOk, OptOk, memWf_wrBytes, State.matEnd_memOk]

theorem State.copyStart_memOk (s : State) (c : Nat) (h : MemOk s) :
    MemOk (State.copyStart s c) := by
  unfold State.copyStart
  grind [MemOk, OutOk, OptOk, memWf_wrBytes, State.endCmd_memOk, State.updCmd_memOk, State.updCore_memOk]

theorem State.copyJob_memOk (s : State) (c : Nat) (x : Cmd) (f : State → State) (h : MemOk s) (hf : ∀ (x0 : State),
    MemOk x0 → MemOk (f x0)) :
    MemOk (State.copyJob s c x f) := by
  unfold State.copyJob
  grind [MemOk, OutOk, OptOk, memWf_wrBytes, State.acts_memOk, State.jobStep_memOk]

theorem execCopyCommandStart_memOk (s : State) (h : MemOk s) :
    OutOk (execCopyCommandStart s) := by
  unfold execCopyCommandStart
  grind [MemOk, OutOk, OptOk, memWf_wrBytes, State.copyJob_memOk, State.copyStart_memOk]

theorem State.hasRead_memOk (s : State) (c tenant : Nat) (rs : List (Nat × Nat)) (h : MemOk s) :
    MemOk (State.hasRead s c tenant rs) := by
  unfold State.hasRead
  exact .ite h (MemOk.foldl _ h fun s x h => State.engHasRead_memOk _ _ _ _ _ h)

theorem State.copyPut_memOk (s : State) (c : Nat) (x : Cmd) (r : CopyReq) (off : Nat) (bs : List Byte) (quiet : Bool
    := false) (h : MemOk s) :
    MemOk (State.copyPut s c x r off bs quiet).1 := by
  unfold State.copyPut
  (repeat' (first | apply MemOk.foldl | apply MemOk.foldl_fst | (intros; split) | (intros; assumption))) <;>
    grind [MemOk, OutOk, OptOk, memWf_wrBytes, State.engWrite_memOk, State.updCore_memOk]

theorem State.deliverD_memOk (s : State) (c : Nat) (x : Cmd) (n : Nat) (h : MemOk s) :
    MemOk (State.deliverD s c x n) := by
  unfold State.deliverD
  grind [MemOk, OutOk, OptOk, memWf_wrBytes, State.lowerD_memOk, State.updCmd_memOk]

theorem State.deliverS_memOk (s : State) (c : Nat) (x : Cmd) (n : Nat) (h : MemOk s) :
    MemOk (State.deliverS s c x n) := by
  unfold State.deliverS
  grind [MemOk, OutOk, OptOk, memWf_wrBytes, State.lowerS_memOk, State.updCmd_memOk]

theorem State.copyLine_memOk (s : State) (c : Nat) (x : Cmd) (h : MemOk s) :
    MemOk (State.copyLine s c x) := by
  unfold State.copyLine
  grind [MemOk, OutOk, OptOk, memWf_wrBytes, State.copyPut_memOk, State.countCore_memOk, State.deliverD_memOk,
      State.deliverS_memOk, State.hasRead_memOk, State.updCmd_memOk]

theorem State.gatherLine_memOk (s : State) (c : Nat) (x : Cmd) (h : MemOk s) :
    MemOk (State.gatherLine s c x) := by
  unfold State.gatherLine
  grind [MemOk, OutOk, OptOk, memWf_wrBytes, State.countCore_memOk, State.deliverD_memOk, State.engHasRead_memOk,
      State.engWrite_memOk, State.updCmd_memOk]

theorem execCopyDelivery_memOk (s : State) (h : MemOk s) :
    OutOk (execCopyDelivery s) := by
  unfold execCopyDelivery
  grind [MemOk, OutOk, OptOk, memWf_wrBytes, State.copyJob_memOk, State.copyLine_memOk, State.gatherLine_memOk]

theorem State.countDrop_memOk (s : State) (tenant i : Nat) (h : MemOk s) :
    MemOk (State.countDrop s tenant i) := by
  unfold State.countDrop
  grind [MemOk, OutOk, OptOk, memWf_wrBytes, State.updTenant_memOk]

theorem State.unreached_memOk (s : State) (tenant va status : Nat) (h : MemOk s) :
    MemOk (State.unreached s tenant va status) := by
  unfold State.unreached
  grind [MemOk, OutOk, OptOk, memWf_wrBytes, State.countDrop_memOk]

theorem State.hubRecord_memOk (s : State) (tenant : Nat) (h : MemOk s) :
    MemOk (State.hubRecord s tenant) := by
  unfold State.hubRecord
  grind [MemOk, OutOk, OptOk, memWf_wrBytes]

theorem State.joinWrite_memOk (s : State) (tenant va : Nat) (bs : List Byte) (h : MemOk s) :
    MemOk (State.joinWrite s tenant va bs).1 := by
  unfold State.joinWrite
  grind [MemOk, OutOk, OptOk, memWf_wrBytes, State.engineWrite_memOk]

theorem State.setEpisode_memOk (s : State) (i : Nat) (e : Episode) (h : MemOk s) :
    MemOk (State.setEpisode s i e) := by
  unfold State.setEpisode
  grind [MemOk, OutOk, OptOk, memWf_wrBytes]

theorem State.updEpisode_memOk (s : State) (i : Nat) (f : Episode → Episode) (h : MemOk s) :
    MemOk (State.updEpisode s i f) := by
  unfold State.updEpisode
  grind [MemOk, OutOk, OptOk, memWf_wrBytes, State.setEpisode_memOk]

theorem State.freeEpisode_memOk (s : State) (i : Nat) (h : MemOk s) :
    MemOk (State.freeEpisode s i) := by
  unfold State.freeEpisode
  grind [MemOk, OutOk, OptOk, memWf_wrBytes, State.updEpisode_memOk]

theorem State.dropEntry_memOk (s : State) (i : Nat) (h : MemOk s) :
    MemOk (State.dropEntry s i) := by
  unfold State.dropEntry
  grind [MemOk, OutOk, OptOk, memWf_wrBytes, State.free_memOk, State.freeEpisode_memOk, State.hubRecord_memOk,
      State.takeSpare_memOk, State.updEpisode_memOk]

theorem State.soundEntry_memOk (s : State) (o : Option Nat) (h : MemOk s) :
    MemOk (State.soundEntry s o) := by
  unfold State.soundEntry
  grind [MemOk, OutOk, OptOk, memWf_wrBytes, State.dropEntry_memOk]

theorem State.dropEscrowed_memOk (s : State) (m : Reward) (h : MemOk s) :
    MemOk (State.dropEscrowed s m) := by
  unfold State.dropEscrowed
  grind [MemOk, OutOk, OptOk, memWf_wrBytes, State.hubRecord_memOk, State.takeSpare_memOk]

theorem State.damageHub_memOk (s : State) (n : Nat) (h : MemOk s) :
    MemOk (State.damageHub s n) := by
  unfold State.damageHub
  grind [MemOk, OutOk, OptOk, memWf_wrBytes, State.updEpisode_memOk]

theorem State.reachJoined_memOk (s : State) (i : Nat) (h : MemOk s) :
    MemOk (State.reachJoined s i) := by
  unfold State.reachJoined
  grind [MemOk, OutOk, OptOk, memWf_wrBytes, State.countDrop_memOk, State.freeEpisode_memOk, State.setEpisode_memOk]

theorem State.toEscrow_memOk (s : State) (m : Reward) (h : MemOk s) :
    MemOk (State.toEscrow s m) := by
  unfold State.toEscrow
  grind [MemOk, OutOk, OptOk, memWf_wrBytes, State.countDrop_memOk, State.countHub_memOk]

theorem State.placeReward_memOk (s : State) (i : Nat) (e : Episode) (m : Reward) (h : MemOk s) :
    MemOk (State.placeReward s i e m) := by
  unfold State.placeReward
  grind [MemOk, OutOk, OptOk, memWf_wrBytes, State.countDrop_memOk, State.countHub_memOk, State.joinWrite_memOk,
      State.reachJoined_memOk, State.setEpisode_memOk, State.unreached_memOk]

theorem State.reward_memOk (s : State) (m : Reward) (h : MemOk s) :
    MemOk (State.reward s m) := by
  unfold State.reward
  grind [MemOk, OutOk, OptOk, memWf_wrBytes, State.countDrop_memOk, State.placeReward_memOk, State.soundEntry_memOk,
      State.toEscrow_memOk]

theorem State.accepted_memOk (s : State) (id : Nat) (h : MemOk s) :
    MemOk (State.accepted s id) := by
  unfold State.accepted
  grind [MemOk, OutOk, OptOk, memWf_wrBytes, State.updCmd_memOk]

theorem State.rewardsIn_memOk (s : State) (tenant : Nat) (bs : List Byte) (h : MemOk s) :
    MemOk (State.rewardsIn s tenant bs) := by
  unfold State.rewardsIn
  (repeat' (first | apply MemOk.foldl | apply MemOk.foldl_fst | (intros; split) | (intros; assumption))) <;>
    grind [MemOk, OutOk, OptOk, memWf_wrBytes, State.reward_memOk]

theorem execRewardMessage_memOk (s : State) (h : MemOk s) :
    OutOk (execRewardMessage s) := by
  unfold execRewardMessage
  grind [MemOk, OutOk, OptOk, memWf_wrBytes, State.accepted_memOk, State.reward_memOk, State.rewardsIn_memOk]

theorem execEscrowAgeExpiry_memOk (s : State) (h : MemOk s) :
    OutOk (execEscrowAgeExpiry s) := by
  unfold execEscrowAgeExpiry
  grind [MemOk, OutOk, OptOk, memWf_wrBytes, State.countDrop_memOk, State.dropEscrowed_memOk]

theorem State.timeout_memOk (s : State) (i : Nat) (h : MemOk s) :
    MemOk (State.timeout s i) := by
  unfold State.timeout
  grind [MemOk, OutOk, OptOk, memWf_wrBytes, State.countDrop_memOk, State.freeEpisode_memOk, State.reachJoined_memOk,
      State.setEpisode_memOk, State.unreached_memOk]

theorem execJoinTimeout_memOk (s : State) (h : MemOk s) :
    OutOk (execJoinTimeout s) := by
  unfold execJoinTimeout
  grind [MemOk, OutOk, OptOk, memWf_wrBytes, State.soundEntry_memOk, State.timeout_memOk]

theorem State.showRecords_memOk (s : State) (tenant q n : Nat) (h : MemOk s) :
    MemOk (State.showRecords s tenant q n) := by
  unfold State.showRecords
  grind [MemOk, OutOk, OptOk, memWf_wrBytes, State.updTenant_memOk]

theorem State.release_memOk (s : State) (i : Nat) (h : MemOk s) :
    MemOk (State.release s i) := by
  unfold State.release
  grind [MemOk, OutOk, OptOk, memWf_wrBytes, State.countHub_memOk, State.freeEpisode_memOk, State.joinWrite_memOk,
      State.setEpisode_memOk, State.showRecords_memOk, State.unreached_memOk]

theorem State.scan_memOk (s : State) (h : MemOk s) :
    MemOk (State.scan s) := by
  unfold State.scan
  grind [MemOk, OutOk, OptOk, memWf_wrBytes, State.dropEntry_memOk, State.freeEpisode_memOk, State.release_memOk,
      State.setEpisode_memOk, State.unreached_memOk]

theorem execEpisodeScan_memOk (s : State) (h : MemOk s) :
    OutOk (execEpisodeScan s) := by
  unfold execEpisodeScan
  grind [MemOk, OutOk, OptOk, memWf_wrBytes, State.scan_memOk]

theorem State.blockWrite_memOk (s : State) (c : Nat) (x : Cmd) (off : Nat) (bs : List Byte) (h : MemOk s) :
    MemOk (State.blockWrite s c x off bs) := by
  unfold State.blockWrite
  grind [MemOk, OutOk, OptOk, memWf_wrBytes, State.engineWrite_memOk]

theorem State.epOpen_memOk (s : State) (c : Nat) (x : Cmd) (h : MemOk s) :
    MemOk (State.epOpen s c x).1 := by
  unfold State.epOpen
  grind [MemOk, OutOk, OptOk, memWf_wrBytes, State.blockWrite_memOk, State.setEpisode_memOk, State.soundEntry_memOk]

theorem State.takeWaiting_memOk (s : State) (i : Nat) (e : Episode) (t : Nat) (h : MemOk s) :
    MemOk (State.takeWaiting s i e t) := by
  rw [State.takeWaiting]
  split
  · exact h
  · exact .ite (State.dropEscrowed_memOk _ _ h) (State.placeReward_memOk _ _ _ _ (.of_mem h rfl))

theorem State.epStepped_memOk (s : State) (c : Nat) (x : Cmd) (i : Nat) (e : Episode) (fl : Nat) (h : MemOk s) :
    MemOk (State.epStepped s c x i e fl).1 := by
  exact State.takeWaiting_memOk _ _ _ _ (State.blockWrite_memOk _ _ _ _ _ (State.setEpisode_memOk _ _ _ h))

theorem onWritten_memOk (r : State × Option Nat) (f : State → State × Nat) (h : MemOk r.1) (hf : ∀ s, MemOk s → MemOk (f s).1) :
    MemOk (onWritten r f).1 := by
  unfold onWritten
  split
  · exact h
  · exact hf _ h

theorem State.epStep_memOk (s : State) (c : Nat) (x : Cmd) (h : MemOk s) :
    MemOk (State.epStep s c x).1 := by
  have h1 := State.soundEntry_memOk s (some x.entry) h
  rw [State.epStep]
  generalize s.soundEntry (some x.entry) = s at h1
  dsimp only
  cases s.handle x with
  | none => exact h1
  | some i =>
    exact MemOk.ite_fst h1 (MemOk.ite_fst h1 (onWritten_memOk _ _ (State.joinWrite_memOk _ _ _ _ h1) fun s h =>
      State.epStepped_memOk _ _ _ _ _ _ h))

theorem State.epClose_memOk (s : State) (c : Nat) (x : Cmd) (h : MemOk s) :
    MemOk (State.epClose s c x).1 := by
  unfold State.epClose
  grind [MemOk, OutOk, OptOk, memWf_wrBytes, State.blockWrite_memOk, State.reachJoined_memOk, State.setEpisode_memOk,
      State.soundEntry_memOk]

theorem State.rwSend_memOk (s : State) (c : Nat) (x : Cmd) (h : MemOk s) :
    MemOk (State.rwSend s c x).1 := by
  unfold State.rwSend
  dsimp only
  split
  · exact h
  · split
    · exact h
    · split
      · exact h
      · exact State.request_memOk _ _ _ h

theorem State.lqTake_memOk (s : State) (c : Nat) (x : Cmd) (h : MemOk s) :
    MemOk (State.lqTake s c x).1 := by
  unfold State.lqTake
  grind [MemOk, OutOk, OptOk, memWf_wrBytes, State.bar_memOk, State.blockWrite_memOk, State.engineWrite_memOk,
      State.mx_memOk, State.updTenant_memOk]

theorem State.joinCmd_memOk (s : State) (c : Nat) (x : Cmd) (h : MemOk s) :
    MemOk (State.joinCmd s c x) := by
  unfold State.joinCmd
  grind [MemOk, OutOk, OptOk, memWf_wrBytes, State.endCmd_memOk, State.epClose_memOk, State.epOpen_memOk,
      State.epStep_memOk, State.lqTake_memOk, State.newId_memOk, State.rwSend_memOk, State.updCmd_memOk]

theorem State.abortCmd_memOk (s : State) (c : Nat) (x : Cmd) (h : MemOk s) :
    MemOk (State.abortCmd s c x) := by
  unfold State.abortCmd
  grind [MemOk, OutOk, OptOk, memWf_wrBytes, State.endCmd_memOk]

theorem State.commandEnd_memOk (s : State) (c id : Nat) (h : MemOk s) :
    MemOk (State.commandEnd s c id) := by
  unfold State.commandEnd
  grind [MemOk, OutOk, OptOk, memWf_wrBytes, State.abortCmd_memOk, State.endCmd_memOk, State.eng_memOk,
      State.joinCmd_memOk]

theorem execCommandEnd_memOk (s : State) (h : MemOk s) :
    OutOk (execCommandEnd s) := by
  unfold execCommandEnd
  grind [MemOk, OutOk, OptOk, memWf_wrBytes, State.commandEnd_memOk]

theorem State.transient_memOk (s : State) (unit where_ : Nat) (h : MemOk s) :
    MemOk (State.transient s unit where_) := by
  unfold State.transient
  grind [MemOk, OutOk, OptOk, memWf_wrBytes]

theorem State.scrubHub_memOk (s : State) (n : Nat) (h : MemOk s) :
    MemOk (State.scrubHub s n) := by
  unfold State.scrubHub
  grind [MemOk, OutOk, OptOk, memWf_wrBytes, State.dropEscrowed_memOk, State.soundEntry_memOk]

theorem State.scrubL1_memOk (s : State) (c tenant va w : Nat) (h : MemOk s) :
    MemOk (State.scrubL1 s c tenant va w) := by
  unfold State.scrubL1
  grind [MemOk, OutOk, OptOk, memWf_wrBytes, State.asyncRec_memOk, State.updCore_memOk]

theorem State.scrubAt_memOk (s : State) (tenant va pa kind : Nat) (h : MemOk s) :
    MemOk (State.scrubAt s tenant va pa kind) := by
  unfold State.scrubAt
  grind [MemOk, OutOk, OptOk, memWf_wrBytes, State.countDie_memOk, State.meetsError_memOk, State.scrubHub_memOk,
      State.scrubL1_memOk, State.transient_memOk]

theorem execScrub_memOk (s : State) (h : MemOk s) :
    OutOk (execScrub s) := by
  unfold execScrub
  grind [MemOk, OutOk, OptOk, memWf_wrBytes, State.scrubAt_memOk]

end Sys2Proof.Machine
end

