-- ==== Sys2Proof/Laws/KeepHub.lean ====
section
/-! SUPPORT. Laws/KeepHub.lean: the hub, the fabric, and exec keep memory in its canonical form, one lemma for each function that
answers a state. -/

set_option Elab.async false

namespace Sys2Proof.Machine

theorem State.queueError_memOk (s : State) (t q : Nat) (h : MemOk s) :
    MemOk (State.queueError s t q) := by
  unfold State.queueError
  grind [MemOk, OutOk, OptOk, memWf_wrBytes, State.countHub_memOk, State.updQueue_memOk]

theorem State.readTail_memOk (s : State) (t q : Nat) (h : MemOk s) :
    MemOk (State.readTail s t q) := by
  unfold State.readTail
  grind [MemOk, OutOk, OptOk, memWf_wrBytes, State.queueError_memOk, State.rereadAll_memOk, State.updQueue_memOk]

theorem execQueueTailPoll_memOk (s : State) (h : MemOk s) :
    OutOk (execQueueTailPoll s) := by
  unfold execQueueTailPoll
  grind [MemOk, OutOk, OptOk, memWf_wrBytes, State.readTail_memOk]

theorem execQueueAdvance_memOk (s : State) (h : MemOk s) :
    OutOk (execQueueAdvance s) := by
  unfold execQueueAdvance
  grind [MemOk, OutOk, OptOk, memWf_wrBytes, State.readTail_memOk]

theorem execDoorbell_memOk (s : State) (h : MemOk s) :
    OutOk (execDoorbell s) := by
  unfold execDoorbell
  grind [MemOk, OutOk, OptOk, memWf_wrBytes, State.mmio_memOk, State.readTail_memOk]

theorem execDependenceReread_memOk (s : State) (h : MemOk s) :
    OutOk (execDependenceReread s) := by
  unfold execDependenceReread
  grind [MemOk, OutOk, OptOk, memWf_wrBytes, State.reread_memOk]

theorem State.recordStart_memOk (s : State) (h : MemOk s) :
    MemOk (State.recordStart s) := by
  unfold State.recordStart
  grind [MemOk, OutOk, OptOk, memWf_wrBytes, State.countHub_memOk, State.finishRecord_memOk, State.newId_memOk,
      State.reread_memOk, State.updQueue_memOk]

theorem execRecordStart_memOk (s : State) (h : MemOk s) :
    OutOk (execRecordStart s) := by
  unfold execRecordStart
  grind [MemOk, OutOk, OptOk, memWf_wrBytes, State.recordStart_memOk]

theorem State.switchTenant_memOk (s : State) (c t : Nat) (h : MemOk s) :
    MemOk (State.switchTenant s c t) := by
  unfold State.switchTenant
  exact State.updCore_memOk _ _ _ (memWf_filter _ _ (State.recall_memOk _ _ _ h))

theorem State.placeOn_memOk (s : State) (n : Nat) (l : Launch) (i c : Nat) (slots : List Nat) (base : Nat) (h : MemOk
    s) :
    MemOk (State.placeOn s n l i c slots base) := by
  unfold State.placeOn
  refine State.grantAll_memOk _ _ (State.countHub_memOk _ _ _ _ (State.acquire_memOk _ _ (MemOk.foldl _ ?_ fun s x h =>
    State.setWarpAt_memOk _ _ _ _ h)))
  refine State.newId_memOk _ ?_
  split
  · exact h
  · split
    · exact .of_mem h rfl
    · exact State.switchTenant_memOk s c l.tenant h

theorem State.noteLow_memOk (s : State) (n tenant : Nat) (low : List Nat) (h : MemOk s) :
    MemOk (State.noteLow s n tenant low) := by
  unfold State.noteLow
  exact MemOk.foldl _ h fun s c h => MemOk.of_mem (s := s.countCore c 0x0A tenant 1) (State.countCore_memOk _ _ _ _ _ h) rfl

theorem State.endLow_memOk (s : State) (n : Nat) (h : MemOk s) :
    MemOk (State.endLow s n) := by
  unfold State.endLow
  grind [MemOk, OutOk, OptOk, memWf_wrBytes]

theorem State.placeNew_memOk (s : State) (n : Nat) (l : Launch) (i : Nat) (h : MemOk s) :
    OptOk (State.placeNew s n l i) := by
  unfold State.placeNew
  split
  · exact .none
  · exact .some (State.placeOn_memOk _ _ _ _ _ _ _ (State.endLow_memOk _ _ (State.noteLow_memOk _ _ _ _ h)))

theorem State.placeSaved_memOk (s : State) (l : Launch) (g : Nat) (h : MemOk s) :
    OptOk (State.placeSaved s l g) := by
  unfold State.placeSaved
  dsimp only
  split
  · exact .none
  · have h1 := fun n low => State.endLow_memOk _ n (State.noteLow_memOk s n l.tenant low h)
    refine .some (State.grantAll_memOk _ _ (State.acquire_memOk _ _ (MemOk.foldl _ ?_ fun s x h =>
      State.setWarpAt_memOk _ _ _ _ h)))
    refine State.updCore_memOk _ _ _ (State.newId_memOk _ ?_)
    split
    · exact h1 _ _
    · split
      · exact .of_mem (h1 _ _) rfl
      · exact State.switchTenant_memOk _ _ l.tenant (h1 _ _)

theorem State.placeGang_memOk (n : Nat) (l : Launch) (is : List Nat) :
    ∀ s, MemOk s → OptOk (State.placeGang s n l is) := by
  induction is with
  | nil => exact fun s h => .some h
  | cons i is ih =>
    intro s h
    unfold State.placeGang
    split
    · exact .none
    · rename_i e
      exact ih _ (State.placeNew_memOk _ _ _ _ h _ e)

theorem State.placeSavedAll_memOk (l : Launch) (gs : List Nat) :
    ∀ s, MemOk s → OptOk (State.placeSavedAll s l gs) := by
  induction gs with
  | nil => exact fun s h => .some h
  | cons g gs ih =>
    intro s h
    unfold State.placeSavedAll
    split
    · exact .none
    · rename_i e
      exact ih _ (State.placeSaved_memOk _ _ _ h _ e)

theorem OptOk.map {r : Option State} {f : State → State} (h : OptOk r) (hf : ∀ s, MemOk s → MemOk (f s)) : OptOk (r.map f) := by
  intro t e
  obtain ⟨s, hs, rfl⟩ := Option.map_eq_some_iff.mp e
  exact hf s (h s hs)

theorem State.tryCand_memOk (s : State) (x : Cand) (h : MemOk s) :
    OptOk (State.tryCand s x) := by
  unfold State.tryCand
  split
  · split
    · exact .none
    · exact State.placeSavedAll_memOk _ _ _ h
  · split
    · exact .none
    · exact (State.placeGang_memOk _ _ _ _ h).map fun s h => State.updLaunch_memOk _ _ _ h
  · split
    · exact .none
    · exact (State.placeNew_memOk _ _ _ _ h).map fun s h => State.updLaunch_memOk _ _ _ h

theorem State.placeNext_memOk (s : State) (h : MemOk s) :
    ∀ r, State.placeNext s = some r → MemOk r.2 := by
  intro r e
  unfold State.placeNext at e
  obtain ⟨x, -, hx⟩ := List.exists_of_findSome?_eq_some e
  obtain ⟨t, ht, rfl⟩ := Option.map_eq_some_iff.mp hx
  exact State.tryCand_memOk _ _ h t ht

theorem State.requestSave_memOk (s : State) (g : Nat) (h : MemOk s) :
    MemOk (State.requestSave s g) := by
  unfold State.requestSave
  dsimp only
  split
  · exact h
  · split
    · exact h
    · exact MemOk.foldl _ (State.updWg_memOk _ _ _ (State.updTenant_memOk _ _ _ h)) fun s x h => State.updWarpAt_memOk _ _ _ _ h

theorem State.requestSaves_memOk (s : State) (gs : List Nat) (h : MemOk s) :
    MemOk (State.requestSaves s gs) := by
  exact .ite (MemOk.foldl _ h fun s x h => State.requestSave_memOk _ _ h) h

theorem State.relieved_memOk (s : State) (h : MemOk s) :
    MemOk (State.relieved s) := by
  exact MemOk.foldl _ h fun s x h => State.vacate_memOk _ _ _ h

theorem State.noteStuck_memOk (s : State) (h : MemOk s) :
    MemOk (State.noteStuck s) := by
  unfold State.noteStuck
  refine .ite h (MemOk.foldl _ h fun s x h => ?_)
  split
  · exact h
  · exact State.noteLow_memOk _ _ _ _ h

theorem State.preempt_memOk (s : State) (h : MemOk s) :
    MemOk (State.preempt s) := by
  unfold State.preempt
  grind [MemOk, OutOk, OptOk, memWf_wrBytes, State.relieved_memOk, State.requestSaves_memOk]

theorem execWorkgroupPlacement_memOk (s : State) (h : MemOk s) :
    OutOk (execWorkgroupPlacement s) := by
  unfold execWorkgroupPlacement
  refine .next ?_
  split
  · exact State.preempt_memOk _ h
  · split
    · rename_i e; exact State.placeNext_memOk _ h _ e
    · exact h
    · exact State.noteStuck_memOk _ h

theorem execGangPlacement_memOk (s : State) (h : MemOk s) :
    OutOk (execGangPlacement s) := by
  unfold execGangPlacement
  refine .next ?_
  split
  · rename_i e; exact State.placeNext_memOk _ h _ e
  · exact h

theorem execRestorePlacement_memOk (s : State) (h : MemOk s) :
    OutOk (execRestorePlacement s) := by
  unfold execRestorePlacement
  refine .next ?_
  split
  · rename_i e; exact State.placeNext_memOk _ h _ e
  · exact h

theorem State.tellCore_memOk (s : State) (c w : Nat) (h : MemOk s) :
    MemOk (State.tellCore s c w) := by
  unfold State.tellCore
  dsimp only
  split
  · exact h
  · exact MemOk.foldl _ h fun s x h => State.cbarTold_memOk _ _ _ _ h

theorem State.enterSave_memOk (s : State) (c w : Nat) (h : MemOk s) :
    MemOk (State.enterSave s c w) := by
  have h1 := State.tellCore_memOk s c w h
  rw [State.enterSave]
  generalize s.tellCore c w = t at h1
  refine .ite h1 (State.updCore_memOk _ _ _ (State.setWarpAt_memOk _ _ _ _ ?_))
  refine MemOk.foldl _ ?_ fun s x h => State.updWg_memOk _ _ _ h
  split
  · exact h1
  · exact State.updWg_memOk _ _ _ h1

theorem execSaveHandlerEntry_memOk (s : State) (h : MemOk s) :
    OutOk (execSaveHandlerEntry s) := by
  unfold execSaveHandlerEntry
  grind [MemOk, OutOk, OptOk, memWf_wrBytes, State.enterSave_memOk]

theorem State.cancelLdfs_memOk (s : State) (c w : Nat) (h : MemOk s) :
    MemOk (State.cancelLdfs s c w) := by
  unfold State.cancelLdfs
  grind [MemOk, OutOk, OptOk, memWf_wrBytes, State.updWarpAt_memOk]

theorem State.lowerDone_memOk (s : State) (c : Nat) (x : Cmd) (h : MemOk s) :
    MemOk (State.lowerDone s c x) := by
  unfold State.lowerDone
  grind [MemOk, OutOk, OptOk, memWf_wrBytes, State.eng_memOk, State.lowerD_memOk, State.lowerS_memOk]

theorem State.drained_memOk (s : State) (c w : Nat) (h : MemOk s) :
    MemOk (State.drained s c w) := by
  have h1 : MemOk (if (s.warpAt c w).mode = .save then s.tellCore c w else s) := .ite (State.tellCore_memOk _ _ _ h) h
  rw [State.drained]
  generalize (if (s.warpAt c w).mode = .save then s.tellCore c w else s) = t at h1
  exact .ite h1 (State.grant_memOk _ _ _ (State.postAll_memOk _ _ (State.setWarpAt_memOk _ _ _ _ (State.emptied_memOk _ _ _
    (State.updCore_memOk _ _ _ (State.newId_memOk _ (MemOk.foldl _ (State.cancelLdfs_memOk _ _ _ h1) fun s x h =>
      State.lowerDone_memOk _ _ _ h)))))))

theorem execDrainComplete_memOk (s : State) (h : MemOk s) :
    OutOk (execDrainComplete s) := by
  unfold execDrainComplete
  grind [MemOk, OutOk, OptOk, memWf_wrBytes, State.drained_memOk]

theorem State.writeRecord_memOk (s : State) (r : FaultRec) (h : MemOk s) :
    MemOk (State.writeRecord s r) := by
  unfold State.writeRecord
  grind [MemOk, OutOk, OptOk, memWf_wrBytes, State.hubWrite_memOk, State.updTenant_memOk]

theorem State.faultRecordWrite_memOk (s : State) (h : MemOk s) :
    MemOk (State.faultRecordWrite s) := by
  unfold State.faultRecordWrite
  grind [MemOk, OutOk, OptOk, memWf_wrBytes, State.writeRecord_memOk]

theorem execFaultRecordWrite_memOk (s : State) (h : MemOk s) :
    OutOk (execFaultRecordWrite s) := by
  unfold execFaultRecordWrite
  grind [MemOk, OutOk, OptOk, memWf_wrBytes, State.faultRecordWrite_memOk]

theorem State.abortWarp_memOk (s : State) (c w : Nat) (h : MemOk s) :
    MemOk (State.abortWarp s c w) := by
  unfold State.abortWarp
  grind [MemOk, OutOk, OptOk, memWf_wrBytes, State.updCore_memOk, State.updWarpAt_memOk]

theorem State.abortColls_memOk (s : State) (t : Nat) (gs : List Nat) (h : MemOk s) :
    MemOk (State.abortColls s t gs) := by
  unfold State.abortColls
  grind [MemOk, OutOk, OptOk, memWf_wrBytes]

theorem State.abortWg_memOk (s : State) (t g : Nat) (h : MemOk s) :
    MemOk (State.abortWg s t g) := by
  unfold State.abortWg
  grind [MemOk, OutOk, OptOk, memWf_wrBytes, State.freeArea_memOk, State.updWg_memOk, State.vacate_memOk]

theorem State.abortLaunch_memOk (s : State) (n : Nat) (h : MemOk s) :
    MemOk (State.abortLaunch s n) := by
  unfold State.abortLaunch
  grind [MemOk, OutOk, OptOk, memWf_wrBytes, State.settleLaunch_memOk, State.updLaunch_memOk]

theorem State.startReset_memOk (s : State) (t : Nat) (h : MemOk s) :
    MemOk (State.startReset s t) := by
  unfold State.startReset
  split
  · exact h
  · dsimp only
    refine MemOk.foldl _ (State.updTenant_memOk _ _ _ ?_) fun s x h => State.abortLaunch_memOk _ _ h
    refine MemOk.of_mem (s := _) ?_ rfl
    refine MemOk.foldl _ (MemOk.foldl _ (State.abortColls_memOk _ _ _ (MemOk.foldl _ (MemOk.foldl _ (MemOk.foldl _
      (State.updTenant_memOk _ _ _ h) ?_) ?_) ?_)) ?_) ?_
    · exact fun s x h => State.updLaunch_memOk _ _ _ h
    · exact fun s x h => MemOk.foldl _ h fun s x h => State.abortWarp_memOk _ _ _ h
    · exact fun s x h => State.endCmd_memOk _ _ _ _ h
    · exact fun s x h => State.abortWg_memOk _ _ _ h
    · exact fun s x h => State.freeEpisode_memOk _ _ h

theorem State.endReset_memOk (s : State) (t : Nat) (h : MemOk s) :
    MemOk (State.endReset s t) := by
  unfold State.endReset
  grind [MemOk, OutOk, OptOk, memWf_wrBytes, State.updTenant_memOk]

theorem execTenantReset_memOk (s : State) (h : MemOk s) :
    OutOk (execTenantReset s) := by
  unfold execTenantReset
  grind [MemOk, OutOk, OptOk, memWf_wrBytes, State.endReset_memOk, State.mmio_memOk, State.startReset_memOk]

theorem execQcfgWrite_memOk (s : State) (h : MemOk s) :
    OutOk (execQcfgWrite s) := by
  unfold execQcfgWrite
  grind [MemOk, OutOk, OptOk, memWf_wrBytes, State.mmio_memOk, State.updQueue_memOk]

theorem State.writeTenctl_memOk (s : State) (t v : Nat) (h : MemOk s) :
    MemOk (State.writeTenctl s t v) := by
  unfold State.writeTenctl
  grind [MemOk, OutOk, OptOk, memWf_wrBytes, State.startReset_memOk, State.updTenant_memOk]

theorem State.writeTenant_memOk (s : State) (t o v : Nat) (h : MemOk s) :
    MemOk (State.writeTenant s t o v) := by
  unfold State.writeTenant
  extract_lets upd
  have hu : ∀ f, MemOk (upd f) := fun f => State.updTenant_memOk _ _ _ h
  refine .ite (State.writeTenctl_memOk _ _ _ h) (.ite (hu _) (.ite (hu _) (.ite (hu _) (.ite (hu _) (.ite (hu _) (.ite (hu _)
    (.ite (hu _) (.ite (hu _) (.ite ?_ (.ite (hu _) (.ite (hu _) (.ite (hu _) (.ite (hu _) (.ite (hu _) (.ite (hu _) h)))))))))))))))
  extract_lets q go
  split
  · exact State.updQueue_memOk _ _ _ _ h
  · exact State.updQueue_memOk _ _ _ _ h
  · exact State.updQueue_memOk _ _ _ _ h
  · exact State.readTail_memOk _ _ _ h
  · exact h

theorem execPortcfgWrite_memOk (s : State) (h : MemOk s) :
    OutOk (execPortcfgWrite s) := by
  unfold execPortcfgWrite
  grind [MemOk, OutOk, OptOk, memWf_wrBytes, State.mmio_memOk, State.updPort_memOk]

theorem State.writeTiming_memOk (s : State) (d r v : Nat) (h : MemOk s) :
    MemOk (State.writeTiming s d r v) := by
  unfold State.writeTiming
  grind [MemOk, OutOk, OptOk, memWf_wrBytes, State.updDie_memOk]

theorem execFreplayWrite_memOk (s : State) (h : MemOk s) :
    OutOk (execFreplayWrite s) := by
  unfold execFreplayWrite
  grind [MemOk, OutOk, OptOk, memWf_wrBytes, State.mmio_memOk, State.writeTiming_memOk]

theorem State.writeFreq_memOk (s : State) (i v : Nat) (h : MemOk s) :
    MemOk (State.writeFreq s i v) := by
  unfold State.writeFreq
  grind [MemOk, OutOk, OptOk, memWf_wrBytes, State.free_memOk]

theorem execIslfreqWrite_memOk (s : State) (h : MemOk s) :
    OutOk (execIslfreqWrite s) := by
  unfold execIslfreqWrite
  grind [MemOk, OutOk, OptOk, memWf_wrBytes, State.mmio_memOk, State.writeFreq_memOk]

theorem State.setBudget_memOk (s : State) (i n : Nat) (h : MemOk s) :
    MemOk (State.setBudget s i n) := by
  unfold State.setBudget
  (repeat' (first | apply MemOk.foldl | apply MemOk.foldl_fst | (intros; split) | (intros; assumption))) <;>
    grind [MemOk, OutOk, OptOk, memWf_wrBytes, State.updCore_memOk]

theorem State.writeBudget_memOk (s : State) (i v : Nat) (h : MemOk s) :
    MemOk (State.writeBudget s i v) := by
  unfold State.writeBudget
  grind [MemOk, OutOk, OptOk, memWf_wrBytes, State.setBudget_memOk]

theorem execIslbudgetWrite_memOk (s : State) (h : MemOk s) :
    OutOk (execIslbudgetWrite s) := by
  unfold execIslbudgetWrite
  grind [MemOk, OutOk, OptOk, memWf_wrBytes, State.mmio_memOk, State.writeBudget_memOk]

theorem State.writePlimit_memOk (s : State) (v : Nat) (h : MemOk s) :
    MemOk (State.writePlimit s v) := by
  unfold State.writePlimit
  grind [MemOk, OutOk, OptOk, memWf_wrBytes]

theorem execPlimitWrite_memOk (s : State) (h : MemOk s) :
    OutOk (execPlimitWrite s) := by
  unfold execPlimitWrite
  grind [MemOk, OutOk, OptOk, memWf_wrBytes, State.mmio_memOk, State.writePlimit_memOk]

theorem State.samplePower_memOk (s : State) (mw : Nat) (h : MemOk s) :
    MemOk (State.samplePower s mw) := by
  unfold State.samplePower
  (repeat' (first | apply MemOk.foldl | apply MemOk.foldl_fst | (intros; split) | (intros; assumption))) <;>
    grind [MemOk, OutOk, OptOk, memWf_wrBytes, State.setBudget_memOk]

theorem State.updMint_memOk (s : State) (f : Mint → Mint) (h : MemOk s) :
    MemOk (State.updMint s f) := by
  unfold State.updMint
  grind [MemOk, OutOk, OptOk, memWf_wrBytes]

theorem State.shutdown_memOk (s : State) (h : MemOk s) :
    MemOk (State.shutdown s) := by
  unfold State.shutdown
  grind [MemOk, OutOk, OptOk, memWf_wrBytes, State.updMint_memOk]

theorem execThermalShutdown_memOk (s : State) (h : MemOk s) :
    OutOk (execThermalShutdown s) := by
  unfold execThermalShutdown
  grind [MemOk, OutOk, OptOk, memWf_wrBytes, State.shutdown_memOk]

theorem State.sample_memOk (s : State) (watts amps steps : Nat) (data : List Byte) (h : MemOk s) :
    MemOk (State.sample s watts amps steps data) := by
  unfold State.sample
  grind [MemOk, OutOk, OptOk, memWf_wrBytes, State.samplePower_memOk, State.shutdown_memOk]

theorem execTelemetrySample_memOk (s : State) (h : MemOk s) :
    OutOk (execTelemetrySample s) := by
  unfold execTelemetrySample
  grind [MemOk, OutOk, OptOk, memWf_wrBytes, State.sample_memOk]

theorem State.snapshot_memOk (s : State) (t : Nat) (h : MemOk s) :
    MemOk (State.snapshot s t) := by
  unfold State.snapshot
  dsimp only
  split
  · exact h
  · exact State.updTenant_memOk _ _ _ (State.hubWrite_memOk _ _ _ _ (MemOk.foldl _ h fun s x h => State.hubWrite_memOk _ _ _ _ h))

theorem execEventSnapshot_memOk (s : State) (h : MemOk s) :
    OutOk (execEventSnapshot s) := by
  refine .next (.ite h (MemOk.foldl _ ?_ fun s x h => State.snapshot_memOk _ _ h))
  exact .of_mem h rfl

theorem execPackageReset_memOk (s : State) (h : MemOk s) :
    OutOk (execPackageReset s) := by
  exact .next rfl

theorem State.sysRelease_memOk (s : State) (h : Nat) (ok : MemOk s) :
    MemOk (State.sysRelease s h) := by
  unfold State.sysRelease
  grind [MemOk, OutOk, OptOk, memWf_wrBytes, State.updSys_memOk]

theorem State.setSysMode_memOk (s : State) (h : Nat) (m : SysMode) (ok : MemOk s) :
    MemOk (State.setSysMode s h m) := by
  unfold State.setSysMode
  grind [MemOk, OutOk, OptOk, memWf_wrBytes, State.updSys_memOk]

theorem State.installEntries_memOk (s : State) (img : List Byte) (h : MemOk s) :
    MemOk (State.installEntries s img) := by
  unfold State.installEntries
  grind [MemOk, OutOk, OptOk, memWf_wrBytes]

theorem State.installImage_memOk (s : State) (i : Nat) (img : List Byte) (good : Bool) (base : Nat) (h : MemOk s) :
    MemOk (State.installImage s i img good base) := by
  unfold State.installImage
  grind [MemOk, OutOk, OptOk, memWf_wrBytes, State.installEntries_memOk, State.updMint_memOk]

theorem execImageInstall_memOk (s : State) (h : MemOk s) :
    OutOk (execImageInstall s) := by
  unfold execImageInstall
  grind [MemOk, OutOk, OptOk, memWf_wrBytes, State.installImage_memOk]

theorem State.releaseCore_memOk (s : State) (c : Nat) (h : MemOk s) :
    MemOk (State.releaseCore s c) := by
  unfold State.releaseCore
  grind [MemOk, OutOk, OptOk, memWf_wrBytes, State.grant_memOk, State.newId_memOk, State.setWarp_memOk,
      State.updCore_memOk]

theorem State.recoverCore_memOk (s : State) (c : Nat) (h : MemOk s) :
    MemOk (State.recoverCore s c) := by
  unfold State.recoverCore
  grind [MemOk, OutOk, OptOk, memWf_wrBytes, State.releaseCore_memOk, State.setCore_memOk, State.switchTenant_memOk]

theorem State.endBoot_memOk (s : State) (h : MemOk s) :
    MemOk (State.endBoot s) := by
  unfold State.endBoot
  grind [MemOk, OutOk, OptOk, memWf_wrBytes]

theorem State.coreRelease_memOk (s : State) (h : MemOk s) :
    MemOk (State.coreRelease s) := by
  unfold State.coreRelease
  (repeat' (first | apply MemOk.foldl | apply MemOk.foldl_fst | (intros; split) | (intros; assumption))) <;>
    grind [MemOk, OutOk, OptOk, memWf_wrBytes, State.endBoot_memOk, State.recoverCore_memOk, State.releaseCore_memOk]

theorem execCoreRelease_memOk (s : State) (h : MemOk s) :
    OutOk (execCoreRelease s) := by
  unfold execCoreRelease
  grind [MemOk, OutOk, OptOk, memWf_wrBytes, State.coreRelease_memOk]

theorem State.writeExtend_memOk (s : State) (i : Nat) (d : List Byte) (h : MemOk s) :
    MemOk (State.writeExtend s i d) := by
  unfold State.writeExtend
  grind [MemOk, OutOk, OptOk, memWf_wrBytes, State.updMint_memOk]

theorem execExtend_memOk (s : State) (h : MemOk s) :
    OutOk (execExtend s) := by
  unfold execExtend
  grind [MemOk, OutOk, OptOk, memWf_wrBytes, State.mmio_memOk, State.writeExtend_memOk]

theorem State.sign_memOk (s : State) (h : MemOk s) :
    MemOk (State.sign s) := by
  unfold State.sign
  grind [MemOk, OutOk, OptOk, memWf_wrBytes, State.countHub_memOk, State.updMint_memOk]

theorem execAttestationRequest_memOk (s : State) (h : MemOk s) :
    OutOk (execAttestationRequest s) := by
  unfold execAttestationRequest
  grind [MemOk, OutOk, OptOk, memWf_wrBytes, State.ask_memOk, State.mmio_memOk, State.sign_memOk, State.updMint_memOk]

theorem State.mmioWrite_memOk (s : State) (o v : Nat) (h : MemOk s) :
    MemOk (State.mmioWrite s o v) := by
  unfold State.mmioWrite
  refine MemOk.ite ?_ ?_
  · split
    · exact State.writeFreq_memOk _ _ _ h
    · exact State.writeBudget_memOk _ _ _ h
    · exact h
    · exact h
  · refine .ite (State.writePlimit_memOk _ _ h) (.ite h (.ite (State.updDie_memOk _ _ _ h) (.ite (.of_mem h rfl)
      (.ite (State.updPort_memOk _ _ _ h) (.ite h (.ite (State.writeTiming_memOk _ _ _ _ h) (.ite
      (State.writeTenant_memOk _ _ _ _ h) (.ite (memWf_wrBytes _ _ _ h) h))))))))

theorem State.outsideWrite_memOk (s : State) (pa : Nat) (bs : List Byte) (h : MemOk s) :
    MemOk (State.outsideWrite s pa bs) := by
  unfold State.outsideWrite
  grind [MemOk, OutOk, OptOk, memWf_wrBytes, State.fillRange_memOk, State.recall_memOk]

theorem State.utfort_memOk (s : State) (h : MemOk s) :
    MemOk (State.utfort s) := by
  unfold State.utfort
  dsimp only
  split
  · exact h
  · exact MemOk.foldl _ (.of_mem h rfl) fun s x h => State.outsideWrite_memOk _ _ _ h

theorem State.named_memOk (s : State) (h : MemOk s) :
    MemOk (State.named s) := by
  unfold State.named
  dsimp only
  repeat' split
  all_goals first
    | exact h | exact State.updTenant_memOk _ _ _ h | exact State.updLaunch_memOk _ _ _ h | exact State.asyncRec_memOk _ _ _ _ h
    | exact State.revoke_memOk _ _ _ h | exact State.utfort_memOk _ h
    | exact MemOk.foldl _ h fun s x h => .ite (State.requestSaves_memOk _ _ h) h

theorem State.sysRead_memOk (s : State) (h i o : Nat) (ok : MemOk s) :
    MemOk (State.sysRead s h i o) := by
  unfold State.sysRead
  grind [MemOk, OutOk, OptOk, memWf_wrBytes, State.accessFault_memOk, State.mmio_memOk, State.updSys_memOk]

theorem execRegisterWrite_memOk (s : State) (h : MemOk s) :
    OutOk (execRegisterWrite s) := by
  unfold execRegisterWrite
  grind [MemOk, OutOk, OptOk, memWf_wrBytes, State.mmio_memOk, State.mmioWrite_memOk, State.named_memOk]

theorem State.emuBytes_memOk (o : MOps) (l : Nat) (bs : List Byte) : ∀ s va, MemOk s → MemOk (State.emuBytes o l s va bs).1 := by
  induction bs with
  | nil => exact fun s _ h => h
  | cons b bs ih =>
    intro s va h
    unfold State.emuBytes
    split
    · exact h
    · exact ih _ _ (State.addOp_memOk _ _ (State.touch_memOk _ _ h))

theorem State.emuStore_memOk (s : State) (c i : Nat) (m : Word) (o : MOps) (next : Nat × Nat) (h : MemOk s) :
    MemOk (State.emuStore s c i m o next) := by
  unfold State.emuStore
  dsimp only
  refine State.resumeFrag_memOk _ _ _ _ _ ?_
  change MemOk (List.foldl _ _ _)
  refine MemOk.foldl _ (.of_mem h rfl) fun s x h => ?_
  have h1 := State.emuBytes_memOk o x (leBytes (szBytes o.sz.toNat) (s.warp.datum o.d o.sz.toNat x)) s (s.warp.thread x).faddr h
  split
  · rename_i e; rwa [e] at h1
  · rename_i e; rw [e] at h1; exact State.updWarp_memOk _ _ h1

theorem State.emuLoad_memOk (s : State) (c i : Nat) (m : Word) (o : MOps) (once : Bool) (next : Nat × Nat) (h : MemOk
    s) :
    MemOk (State.emuLoad s c i m o once next) := by
  unfold State.emuLoad
  dsimp only
  change MemOk (List.foldl _ _ _)
  exact MemOk.foldl _ (.of_mem h rfl) fun s x h => State.addOp_memOk _ _ h

theorem State.policyFrag_memOk (s : State) (c i code : Nat) (m : Word) (h : MemOk s) :
    MemOk (State.policyFrag s c i code m) := by
  unfold State.policyFrag
  grind [MemOk, OutOk, OptOk, memWf_wrBytes, State.code_memOk, State.killFrag_memOk, State.resumeFrag_memOk,
      State.updCore_memOk, State.writeRecord_memOk]

theorem State.policyWarp_memOk (s : State) (c w : Nat) (e : Cause) (h : MemOk s) :
    MemOk (State.policyWarp s c w e) := by
  unfold State.policyWarp
  grind [MemOk, OutOk, OptOk, memWf_wrBytes, State.code_memOk, State.killWarp_memOk, State.updCore_memOk,
      State.updWarpAt_memOk, State.writeRecord_memOk]

theorem State.treatGroup_memOk (s : State) (c i code : Nat) (mapped : Bool) (h : MemOk s) :
    MemOk (State.treatGroup s c i code mapped) := by
  unfold State.treatGroup
  grind [MemOk, OutOk, OptOk, memWf_wrBytes, State.code_memOk, State.emuLoad_memOk, State.emuStore_memOk,
      State.fetchNeed_memOk, State.policyFrag_memOk, State.resumeFrag_memOk, State.updCore_memOk]

theorem State.supervise_memOk (s : State) (c : Nat) (mapped : Bool) (h : MemOk s) :
    MemOk (State.supervise s c mapped) := by
  unfold State.supervise
  grind [MemOk, OutOk, OptOk, memWf_wrBytes, State.clearWfault_memOk, State.code_memOk, State.policyWarp_memOk,
      State.setCore_memOk, State.settle_memOk, State.treatGroup_memOk, State.updCore_memOk]

theorem State.askHeld_memOk (s : State) (c e : Nat) (kill : Bool) (m : Word) (h : MemOk s) :
    MemOk (State.askHeld s c e kill m) := by
  unfold State.askHeld
  grind [MemOk, OutOk, OptOk, memWf_wrBytes, State.clearWfault_memOk, State.killFrag_memOk, State.killWarp_memOk,
      State.resumeFrag_memOk, State.settle_memOk, State.updCore_memOk]

theorem State.passEdge_memOk (s : State) (d n : Nat) (h : MemOk s) :
    MemOk (State.passEdge s d n) := by
  unfold State.passEdge
  grind [MemOk, OutOk, OptOk, memWf_wrBytes, State.countDie_memOk]

theorem State.passPort_memOk (s : State) (p n : Nat) (h : MemOk s) :
    MemOk (State.passPort s p n) := by
  unfold State.passPort
  grind [MemOk, OutOk, OptOk, memWf_wrBytes, State.updPort_memOk]

theorem State.credit_memOk (s : State) (p vc : Nat) (full : Bool) (h : MemOk s) :
    MemOk (State.credit s p vc full) := by
  unfold State.credit
  grind [MemOk, OutOk, OptOk, memWf_wrBytes, State.pump_memOk, State.updPort_memOk]

theorem State.dropAt_memOk (s : State) (n : Nat) (h : MemOk s) :
    MemOk (State.dropAt s n) := by
  unfold State.dropAt
  grind [MemOk, OutOk, OptOk, memWf_wrBytes, State.updPort_memOk]

theorem State.queueAdvance_memOk (s : State) (port tenant : Nat) (bs : List Byte) (h : MemOk s) :
    MemOk (State.queueAdvance s port tenant bs) := by
  unfold State.queueAdvance
  grind [MemOk, OutOk, OptOk, memWf_wrBytes, State.dropAt_memOk, State.readTail_memOk]

theorem State.messageIn_memOk (s : State) (p : Packet) (whole : List Byte) (h : MemOk s) :
    MemOk (State.messageIn s p whole) := by
  unfold State.messageIn
  grind [MemOk, OutOk, OptOk, memWf_wrBytes, State.dropAt_memOk, State.queueAdvance_memOk, State.rewardsIn_memOk]

theorem State.applyRequest_memOk (s : State) (p : Packet) (part : List Byte) (h : MemOk s) :
    MemOk (State.applyRequest s p part).1 := by
  unfold State.applyRequest
  grind [MemOk, OutOk, OptOk, memWf_wrBytes, State.countHbm_memOk, State.engineWrite_memOk, State.homePart_memOk,
      State.meetsError_memOk, State.messageIn_memOk, State.rootTake_memOk]

theorem State.updTarget_memOk (s : State) (src ctx : Nat) (f : Target → Target) (h : MemOk s) :
    MemOk (State.updTarget s src ctx f) := by
  unfold State.updTarget
  grind [MemOk, OutOk, OptOk, memWf_wrBytes]

theorem State.takeRequest_memOk (s : State) (p : Packet) (h : MemOk s) :
    MemOk (State.takeRequest s p) := by
  unfold State.takeRequest
  grind [MemOk, OutOk, OptOk, memWf_wrBytes, State.applyRequest_memOk, State.transmit_memOk, State.updTarget_memOk]

theorem State.takeEarly_memOk (src ctx n : Nat) : ∀ s, MemOk s → MemOk (State.takeEarly src ctx n s) := by
  induction n with
  | zero => exact fun s h => h
  | succ n ih =>
    intro s h
    unfold State.takeEarly
    split
    · exact h
    · split
      · exact h
      · exact ih _ (State.takeRequest_memOk _ _ (State.updTarget_memOk _ _ _ _ h))

theorem State.requestIn_memOk (s : State) (p : Packet) (h : MemOk s) :
    MemOk (State.requestIn s p) := by
  unfold State.requestIn
  have h1 : MemOk (if (s.target? p.src p.ctx).isSome then s
      else { s with targets := s.targets ++ [{ src := p.src, ctx := p.ctx }] }) := MemOk.ite h h
  generalize (if (s.target? p.src p.ctx).isSome then s
      else { s with targets := s.targets ++ [{ src := p.src, ctx := p.ctx }] }) = t at *
  dsimp only
  split
  · exact h1
  · refine MemOk.ite (State.takeEarly_memOk _ _ _ _ (State.takeRequest_memOk _ _ h1)) (MemOk.ite (MemOk.ite h1
      (State.updTarget_memOk _ _ _ _ h1)) ?_)
    split
    · exact h1
    · exact State.transmit_memOk _ _ h1

theorem State.ackIn_memOk (s : State) (p : Packet) (h : MemOk s) :
    MemOk (State.ackIn s p) := by
  unfold State.ackIn
  grind [MemOk, OutOk, OptOk, memWf_wrBytes, State.updTarget_memOk]

theorem State.closeIn_memOk (s : State) (p : Packet) (h : MemOk s) :
    MemOk (State.closeIn s p) := by
  unfold State.closeIn
  grind [MemOk, OutOk, OptOk, memWf_wrBytes, State.updTarget_memOk]

theorem State.failOp_memOk (s : State) (c w : Nat) (o : Op) (h : MemOk s) :
    MemOk (State.failOp s c w o) := by
  unfold State.failOp
  grind [MemOk, OutOk, OptOk, memWf_wrBytes, State.afterOp_memOk, State.endOp_memOk, State.hgaAccepted_memOk,
      State.opDone_memOk]

theorem State.fetchIn_memOk (s : State) (r : Request) (h : MemOk s) :
    MemOk (State.fetchIn s r) := by
  unfold State.fetchIn
  grind [MemOk, OutOk, OptOk, memWf_wrBytes]

theorem State.chunkIn_memOk (s : State) (r : Request) (h : MemOk s) :
    MemOk (State.chunkIn s r) := by
  unfold State.chunkIn
  grind [MemOk, OutOk, OptOk, memWf_wrBytes, State.deliverD_memOk, State.eng_memOk, State.matBad_memOk,
      State.setProc_memOk, State.updCmd_memOk]

theorem State.msgFailed_memOk (s : State) (r : Request) (h : MemOk s) :
    MemOk (State.msgFailed s r) := by
  unfold State.msgFailed
  grind [MemOk, OutOk, OptOk, memWf_wrBytes, State.setProc_memOk]

theorem State.settleRequest_memOk (s : State) (r : Request) (h : MemOk s) :
    MemOk (State.settleRequest s r) := by
  unfold State.settleRequest
  grind [MemOk, OutOk, OptOk, memWf_wrBytes, State.accepted_memOk, State.chunkIn_memOk, State.failOp_memOk,
      State.farAtomic_memOk, State.farLoad_memOk, State.fetchIn_memOk, State.msgFailed_memOk, State.registerOp_memOk,
          State.updCmd_memOk]

theorem State.updCtx_memOk (s : State) (core tenant dest : Nat) (f : Ctx → Ctx) (h : MemOk s) :
    MemOk (State.updCtx s core tenant dest f) := by
  unfold State.updCtx
  grind [MemOk, OutOk, OptOk, memWf_wrBytes]

theorem State.control_memOk (s : State) (x : Ctx) (kind arg : Nat) (h : MemOk s) :
    MemOk (State.control s x kind arg) := by
  unfold State.control
  grind [MemOk, OutOk, OptOk, memWf_wrBytes, State.transmit_memOk]

theorem State.drainReplies_memOk (core tenant dest n : Nat) : ∀ s, MemOk s → MemOk (State.drainReplies core tenant dest n s) := by
  induction n with
  | zero => exact fun s h => h
  | succ n ih =>
    intro s h
    unfold State.drainReplies
    split
    · exact h
    · split
      · exact h
      · split
        · exact h
        · exact ih _ (State.settleRequest_memOk _ _ (State.updCtx_memOk _ _ _ _ _ h))

theorem State.finishReplies_memOk (s : State) (x : Ctx) (h : MemOk s) :
    MemOk (State.finishReplies s x) := by
  unfold State.finishReplies
  dsimp only
  have h1 := State.drainReplies_memOk x.core x.tenant x.dest x.reqs.length s h
  split
  · exact h1
  · split
    · exact h1
    · exact State.control_memOk _ _ _ _ (State.updCtx_memOk _ _ _ _ _ h1)

theorem State.replyIn_memOk (s : State) (p : Packet) (h : MemOk s) :
    MemOk (State.replyIn s p) := by
  unfold State.replyIn
  grind [MemOk, OutOk, OptOk, memWf_wrBytes, State.control_memOk, State.finishReplies_memOk, State.mark_memOk,
      State.updCtx_memOk]

theorem State.recallIn_memOk (s : State) (p : Packet) (h : MemOk s) :
    MemOk (State.recallIn s p) := by
  unfold State.recallIn
  grind [MemOk, OutOk, OptOk, memWf_wrBytes, State.recall_memOk, State.staleOps_memOk]

theorem State.sliceOwns_memOk (s : State) (p : Packet) (h : MemOk s) :
    MemOk (State.sliceOwns s p) := by
  unfold State.sliceOwns
  grind [MemOk, OutOk, OptOk, memWf_wrBytes, State.recall_memOk, State.transmit_memOk]

theorem State.sliceWords_memOk (s : State) (p : Packet) (a : Nat) (h : MemOk s) :
    MemOk (State.sliceWords s p a) := by
  exact MemOk.foldl _ h fun s x h => .ite (State.homePart_memOk _ _ _ _ _ h) h

theorem State.sliceForward_memOk (s : State) (p : Packet) (h : MemOk s) :
    MemOk (State.sliceForward s p) := by
  unfold State.sliceForward
  grind [MemOk, OutOk, OptOk, memWf_wrBytes, State.sliceWords_memOk]

theorem State.coherenceIn_memOk (s : State) (p : Packet) (h : MemOk s) :
    MemOk (State.coherenceIn s p) := by
  unfold State.coherenceIn
  grind [MemOk, OutOk, OptOk, memWf_wrBytes, State.recallIn_memOk, State.sliceForward_memOk, State.sliceOwns_memOk]

theorem State.resultIn_memOk (s : State) (p : Packet) (h : MemOk s) :
    MemOk (State.resultIn s p) := by
  unfold State.resultIn
  grind [MemOk, OutOk, OptOk, memWf_wrBytes]

theorem State.deliver_memOk (s : State) (p : Packet) (h : MemOk s) :
    MemOk (State.deliver s p) := by
  unfold State.deliver
  grind [MemOk, OutOk, OptOk, memWf_wrBytes, State.ackIn_memOk, State.closeIn_memOk, State.coherenceIn_memOk,
      State.replyIn_memOk, State.requestIn_memOk, State.resultIn_memOk]

theorem State.packetIn_memOk (s : State) (bs : List Byte) (kinds : Nat → Bool) (h : MemOk s) :
    MemOk (State.packetIn s bs kinds) := by
  unfold State.packetIn
  grind [MemOk, OutOk, OptOk, memWf_wrBytes, State.deliver_memOk, State.updPort_memOk]

theorem execFabricRequestArrival_memOk (s : State) (h : MemOk s) :
    OutOk (execFabricRequestArrival s) := by
  unfold execFabricRequestArrival
  grind [MemOk, OutOk, OptOk, memWf_wrBytes, State.packetIn_memOk]

theorem execFabricReplyArrival_memOk (s : State) (h : MemOk s) :
    OutOk (execFabricReplyArrival s) := by
  unfold execFabricReplyArrival
  grind [MemOk, OutOk, OptOk, memWf_wrBytes, State.packetIn_memOk]

theorem execAcknowledgement_memOk (s : State) (h : MemOk s) :
    OutOk (execAcknowledgement s) := by
  unfold execAcknowledgement
  grind [MemOk, OutOk, OptOk, memWf_wrBytes, State.packetIn_memOk]

theorem execContextClose_memOk (s : State) (h : MemOk s) :
    OutOk (execContextClose s) := by
  unfold execContextClose
  grind [MemOk, OutOk, OptOk, memWf_wrBytes, State.packetIn_memOk]

theorem State.loseDevice_memOk (s : State) (d : Nat) (h : MemOk s) :
    MemOk (State.loseDevice s d) := by
  unfold State.loseDevice
  (repeat' (first | apply MemOk.foldl | apply MemOk.foldl_fst | (intros; split) | (intros; assumption))) <;>
    grind [MemOk, OutOk, OptOk, memWf_wrBytes, State.failOp_memOk, State.loseMembers_memOk, State.settleRequest_memOk]

theorem State.replayTimeout_memOk (s : State) (i seq : Nat) (h : MemOk s) :
    MemOk (State.replayTimeout s i seq) := by
  unfold State.replayTimeout
  grind [MemOk, OutOk, OptOk, memWf_wrBytes, State.finishReplies_memOk, State.loseDevice_memOk, State.transmit_memOk,
      State.updCtx_memOk]

theorem execFabricReplayTimeout_memOk (s : State) (h : MemOk s) :
    OutOk (execFabricReplayTimeout s) := by
  unfold execFabricReplayTimeout
  grind [MemOk, OutOk, OptOk, memWf_wrBytes, State.replayTimeout_memOk]

theorem State.quietExpiry_memOk (s : State) (i : Nat) (h : MemOk s) :
    MemOk (State.quietExpiry s i) := by
  unfold State.quietExpiry
  grind [MemOk, OutOk, OptOk, memWf_wrBytes, State.control_memOk]

theorem execContextQuietExpiry_memOk (s : State) (h : MemOk s) :
    OutOk (execContextQuietExpiry s) := by
  unfold execContextQuietExpiry
  grind [MemOk, OutOk, OptOk, memWf_wrBytes, State.quietExpiry_memOk]

theorem execPlaneReportsUnreachable_memOk (s : State) (h : MemOk s) :
    OutOk (execPlaneReportsUnreachable s) := by
  unfold execPlaneReportsUnreachable
  grind [MemOk, OutOk, OptOk, memWf_wrBytes, State.loseDevice_memOk]

theorem State.dieStops_memOk (s : State) (d : Nat) (halt : Bool) (h : MemOk s) :
    MemOk (State.dieStops s d halt) := by
  unfold State.dieStops
  grind [MemOk, OutOk, OptOk, memWf_wrBytes, State.loseMembers_memOk, State.updDie_memOk]

theorem execDieStopsAnswering_memOk (s : State) (h : MemOk s) :
    OutOk (execDieStopsAnswering s) := by
  unfold execDieStopsAnswering
  grind [MemOk, OutOk, OptOk, memWf_wrBytes, State.dieStops_memOk, State.loseMembers_memOk]

theorem State.portPacket_memOk (s : State) (n : Nat) (bs : List Byte) (h : MemOk s) :
    MemOk (State.portPacket s n bs) := by
  unfold State.portPacket
  grind [MemOk, OutOk, OptOk, memWf_wrBytes, State.deliver_memOk, State.discard_memOk, State.updPort_memOk]

theorem State.flitIn_memOk (s : State) (h : MemOk s) :
    MemOk (State.flitIn s) := by
  unfold State.flitIn
  dsimp only
  split
  · exact h
  · split
    · exact State.updPort_memOk _ _ _ h
    · refine MemOk.foldl _ ?_ fun s x h => State.portPacket_memOk _ _ _ h
      refine MemOk.of_mem (s := _) ?_ rfl
      split
      · exact h
      · exact State.pump_memOk _ _ (State.updPort_memOk _ _ _ h)

theorem execFlitReceive_memOk (s : State) (h : MemOk s) :
    OutOk (execFlitReceive s) := by
  unfold execFlitReceive
  grind [MemOk, OutOk, OptOk, memWf_wrBytes, State.flitIn_memOk]

theorem execRetryGapExpiry_memOk (s : State) (h : MemOk s) :
    OutOk (execRetryGapExpiry s) := by
  unfold execRetryGapExpiry
  grind [MemOk, OutOk, OptOk, memWf_wrBytes, State.updPort_memOk]

theorem execRetryRequest_memOk (s : State) (h : MemOk s) :
    OutOk (execRetryRequest s) := by
  unfold execRetryRequest
  grind [MemOk, OutOk, OptOk, memWf_wrBytes, State.countDie_memOk, State.pump_memOk, State.updPort_memOk]

theorem execLinkFailure_memOk (s : State) (h : MemOk s) :
    OutOk (execLinkFailure s) := by
  unfold execLinkFailure
  grind [MemOk, OutOk, OptOk, memWf_wrBytes, State.updPort_memOk]

theorem execPortRetrain_memOk (s : State) (h : MemOk s) :
    OutOk (execPortRetrain s) := by
  unfold execPortRetrain
  grind [MemOk, OutOk, OptOk, memWf_wrBytes, State.updPort_memOk]

theorem execPortTraining_memOk (s : State) (h : MemOk s) :
    OutOk (execPortTraining s) := by
  unfold execPortTraining
  grind [MemOk, OutOk, OptOk, memWf_wrBytes, State.pump_memOk, State.updPort_memOk]

theorem State.complete_memOk (s : State) (port : Nat) (err : Bool) (bs : List Byte) (h : MemOk s) :
    MemOk (State.complete s port err bs) := by
  unfold State.complete
  grind [MemOk, OutOk, OptOk, memWf_wrBytes]

theorem execUeRmaWrite_memOk (s : State) (h : MemOk s) :
    OutOk (execUeRmaWrite s) := by
  unfold execUeRmaWrite
  grind [MemOk, OutOk, OptOk, memWf_wrBytes, State.complete_memOk, State.engineWrite_memOk]

theorem State.ueRead_memOk (s : State) (port pa n : Nat) (h : MemOk s) :
    MemOk (State.ueRead s port pa n) := by
  unfold State.ueRead
  grind [MemOk, OutOk, OptOk, memWf_wrBytes, State.complete_memOk, State.countRead_memOk]

theorem execUeQueueAdvance_memOk (s : State) (h : MemOk s) :
    OutOk (execUeQueueAdvance s) := by
  unfold execUeQueueAdvance
  grind [MemOk, OutOk, OptOk, memWf_wrBytes, State.dropAt_memOk, State.queueAdvance_memOk]

theorem execUeRewardSend_memOk (s : State) (h : MemOk s) :
    OutOk (execUeRewardSend s) := by
  unfold execUeRewardSend
  grind [MemOk, OutOk, OptOk, memWf_wrBytes, State.dropAt_memOk, State.rewardsIn_memOk]

theorem execUeUnsupportedRequest_memOk (s : State) (h : MemOk s) :
    OutOk (execUeUnsupportedRequest s) := by
  unfold execUeUnsupportedRequest
  grind [MemOk, OutOk, OptOk, memWf_wrBytes, State.complete_memOk]

theorem exec_memOk (i : Instr) (s : State) (h : MemOk s) :
    OutOk (exec i s) := by
  unfold exec
  grind [MemOk, OutOk, OptOk, memWf_wrBytes, State.collectiveEnd_memOk, State.collectiveStart_memOk,
      State.commandEnd_memOk, State.coreRelease_memOk, State.cvt_memOk, State.faultRecordWrite_memOk,
          State.gset_memOk, State.loadServe_memOk, State.pageWalk_memOk, State.queueAdvance_memOk,
              State.recordStart_memOk, execAbarr_memOk, execAbexp_memOk, execAbinit_memOk, execAbtest_memOk,
                  execAbwait_memOk, execAcknowledgement_memOk, execAcrd_memOk, execAcst_memOk, execAcwr_memOk,
                      execAcz_memOk, execAnd_memOk, execAndn_memOk, execAtom_memOk, execAttestationRequest_memOk,
                          execBarArv_memOk, execBarSync_memOk, execBfi_memOk, execBfx_memOk, execBra_memOk,
                              execBrev_memOk, execBrp_memOk, execBrt_memOk, execCacheop_memOk, execCadd_memOk,
                                  execCall_memOk, execCallx_memOk, execCas_memOk, execCbarArv_memOk,
                                      execCbarCompletion_memOk, execCbarSync_memOk, execCbnz_memOk, execCbra_memOk,
                                          execCcomp_memOk, execCend_memOk, execClauseWaitMet_memOk,
                                              execClauseWordsArrive_memOk, execClctlAbort_memOk,
                                                  execClctlQuery_memOk, execCld_memOk, execClearingCst_memOk,
                                                      execClearingMessageArrival_memOk, execClpost_memOk,
                                                          execClz_memOk, execCmov_memOk, execCmovi_memOk,
                                                              execCollectiveEnd_memOk, execCollectiveStart_memOk,
                                                                  execCommandEnd_memOk, execContextClose_memOk,
                                                                      execContextQuietExpiry_memOk,
                                                                          execCopyCommandStart_memOk,
                                                                              execCopyDelivery_memOk,
                                                                                  execCoreRelease_memOk,
                                                                                      execCpyq_memOk,
                                                                                          execCrecv_memOk,
                                                                                              execCred_memOk,
                                                                                                  execCsend_memOk,
                                                                                                      execCsigAb_memOk, execCsigFe_memOk, execCsrrd_memOk, execCsrwr_memOk, execCst_memOk, execCsub_memOk, execCswred_memOk, execCvt_memOk, execCvtsr_memOk, execCwaitFe_memOk, execCwaitPh_memOk, execDependenceReread_memOk, execDieStopsAnswering_memOk, execDoorbell_memOk, execDot4_memOk, execDrainComplete_memOk, execEpclose_memOk, execEpisodeScan_memOk, execEpopen_memOk, execEpstep_memOk, execEret_memOk, execEscrowAgeExpiry_memOk, execEventSnapshot_memOk, execExit_memOk, execExtend_memOk, execFabricReplayTimeout_memOk, execFabricReplyArrival_memOk, execFabricRequestArrival_memOk, execFadd_memOk, execFaddmin_memOk, execFaultRecordWrite_memOk, execFclass_memOk, execFcmp_memOk, execFcos_memOk, execFdiv_memOk, execFenceAcq_memOk, execFenceAr_memOk, execFenceRel_memOk, execFeopClear_memOk, execFeopSet_memOk, execFeopTest_memOk, execFexp2_memOk, execFfma_memOk, execFlitReceive_memOk, execFlog2_memOk, execFmax_memOk, execFmin_memOk, execFmul_memOk, execFragkill_memOk, execFragrd_memOk, execFragres_memOk, execFrcp_memOk, execFreplayWrite_memOk, execFrsq_memOk, execFsin_memOk, execFsqrt_memOk, execFsub_memOk, execFtanh_memOk, execGangPlacement_memOk, execGopen_memOk, execGset_memOk, execGthq_memOk, execHadd2_memOk, execHeldEndApply_memOk, execHfma2_memOk, execHga_memOk, execHgl_memOk, execHmax2_memOk, execHmin2_memOk, execHmul2_memOk, execHomeWriteQueueApply_memOk, execIabsd_memOk, execIadd_memOk, execIadd64_memOk, execIaddmax_memOk, execIaddmin_memOk, execIcmp_memOk, execIdiv_memOk, execImac_memOk, execImageInstall_memOk, execImax_memOk, execImin_memOk, execImul_memOk, execImulh_memOk, execIrem_memOk, execIslbudgetWrite_memOk, execIslfreqWrite_memOk, execIsub_memOk, execJmpx_memOk, execJoin_memOk, execJoinTimeout_memOk, execKmov_memOk, execLbc_memOk, execLd_memOk, execLdPk_memOk, execLdf_memOk, execLea_memOk, execLeave_memOk, execLinkFailure_memOk, execLmatch_memOk, execLoadServe_memOk, execLongResultReturn_memOk, execLperm_memOk, execLqtake_memOk, execLred_memOk, execLscan_memOk, execLshf_memOk, execMailboxMessage_memOk, execMatrixCommandEnd_memOk, execMatrixCommandStart_memOk, execMatrixStep_memOk, execMeet_memOk, execMeetrd_memOk, execMeetwr_memOk, execMov_memOk, execMovi_memOk, execMxloop_memOk, execMxstep_memOk, execNop_memOk, execObrel_memOk, execObres_memOk, execObset_memOk, execOr_memOk, execPack_memOk, execPackageReset_memOk, execPageWalk_memOk, execPlaneReportsUnreachable_memOk, execPlimitWrite_memOk, execPmctl_memOk, execPopc_memOk, execPortRetrain_memOk, execPortTraining_memOk, execPortcfgWrite_memOk, execPref_memOk, execQcfgWrite_memOk, execQscale_memOk, execQueueAdvance_memOk, execQueueTailPoll_memOk, execRecordStart_memOk, execRed_memOk, execReductionPush_memOk, execRegisterWrite_memOk, execRestorePlacement_memOk, execRestx_memOk, execRet_memOk, execRetryGapExpiry_memOk, execRetryRequest_memOk, execRewardMessage_memOk, execRol_memOk, execRwsend_memOk, execSadd_memOk, execSand_memOk, execSar_memOk, execSaveHandlerEntry_memOk, execSavex_memOk, execScmp_memOk, execScrub_memOk, execSel_memOk, execSfromv_memOk, execShl_memOk, execShr_memOk, execSignq_memOk, execSld_memOk, execSmax_memOk, execSmin_memOk, execSmov_memOk, execSmovi_memOk, execSmul_memOk, execSor_memOk, execSrd_memOk, execSshl_memOk, execSshr_memOk, execSsub_memOk, execSt_memOk, execStf_memOk, execStoreRegistration_memOk, execSvcwait_memOk, execSwitchSlotTimeout_memOk, execSxor_memOk, execTelemetrySample_memOk, execTenantReset_memOk, execTernq_memOk, execThermalShutdown_memOk, execTlbinv_memOk, execTrap_memOk, execUeQueueAdvance_memOk, execUeRewardSend_memOk, execUeRmaWrite_memOk, execUeUnsupportedRequest_memOk, execUnpack_memOk, execVerUpdate_memOk, execVoteAll_memOk, execVoteAny_memOk, execVoteBallot_memOk, execVoteCount_memOk, execWaitc_memOk, execWaitm_memOk, execWatchdogExpiry_memOk, execWorkgroupPlacement_memOk, execXor_memOk, execYield_memOk]

theorem State.issuing_memOk (s : State) (h : MemOk s) :
    MemOk (State.issuing s) := by
  unfold State.issuing
  grind [MemOk, OutOk, OptOk, memWf_wrBytes, State.updWarp_memOk]

theorem State.plain_memOk (s : State) (h : MemOk s) :
    MemOk (State.plain s) := by
  unfold State.plain
  grind [MemOk, OutOk, OptOk, memWf_wrBytes, State.advance_memOk]

end Sys2Proof.Machine
end

