-- ==== Sys2Proof/Laws/PerInstr.lean ====
section
/-! SUPPORT. Laws/PerInstr.lean: for each constructor of Instr, the words of a well-formed instruction decode to it,
with every operand (spec/04_encoding.md R81 to R94, spec/10_system_clearing_isa.md R250). -/

set_option Elab.async false

namespace Sys2Proof.Laws.RoundTrip

open Sys2Proof WellFormed

/-- An event has no words; a clearing instruction is one word that the clearing decoder reads back; a core instruction's
words, with any words after them, decode to it and leave those. -/
def Statement (i : Instr) : Prop :=
  i.wf = true →
    match formOf i with
    | .event => encode i = []
    | .clearing => ∃ w, encode i = [w] ∧ Decode.clr w = .ok i
    | .core => ∀ rest, Decode.words (encode i ++ rest) = .ok (i, rest)

theorem nop (o : VOps) : Statement (.nop o) := by
  intro hw rest
  refine vOps_round ?_ hw rest
  have hp : o.pm = 0#3 := BitVec.eq_of_toNat_eq (by simp [Instr.wf, check, plainV] at hw; simp [hw])
  obtain ⟨_, _, _, _, _⟩ := o
  subst hp
  intros; rfl
theorem yield (o : VOps) : Statement (.yield o) := by
  intro hw rest
  refine vOps_round ?_ hw rest
  have hp : o.pm = 1#3 := BitVec.eq_of_toNat_eq (by simp [Instr.wf, check, plainV] at hw; simp [hw])
  obtain ⟨_, _, _, _, _⟩ := o
  subst hp
  intros; rfl
theorem bra (o : BOps) : Statement (.bra o) := by
  intro hw rest
  exact bOps_round (fun _ _ _ _ _ => rfl) hw rest
theorem brp (o : BOps) : Statement (.brp o) := by
  intro hw rest
  exact bOps_round (fun _ _ _ _ _ => rfl) hw rest
theorem call (o : BOps) : Statement (.call o) := by
  intro hw rest
  exact bOps_round (fun _ _ _ _ _ => rfl) hw rest
theorem ret (o : VOps) : Statement (.ret o) := by
  intro hw rest
  exact vOps_round (fun _ _ _ _ _ => rfl) hw rest
theorem callx (o : VOps) : Statement (.callx o) := by
  intro hw rest
  exact vOps_round (fun _ _ _ _ _ => rfl) hw rest
theorem jmpx (o : VOps) : Statement (.jmpx o) := by
  intro hw rest
  exact vOps_round (fun _ _ _ _ _ => rfl) hw rest
theorem brt (o : VOps) : Statement (.brt o) := by
  intro hw rest
  exact vOps_round (fun _ _ _ _ _ => rfl) hw rest
theorem exit (o : VOps) : Statement (.exit o) := by
  intro hw rest
  exact vOps_round (fun _ _ _ _ _ => rfl) hw rest
theorem meet (o : BOps) : Statement (.meet o) := by
  intro hw rest
  exact bOps_round (fun _ _ _ _ _ => rfl) hw rest
theorem leave (o : VOps) : Statement (.leave o) := by
  intro hw rest
  refine vOps_round ?_ hw rest
  have hp : o.pm = 0#3 := BitVec.eq_of_toNat_eq (by simp [Instr.wf, check, plainV] at hw; simp [hw])
  obtain ⟨_, _, _, _, _⟩ := o
  subst hp
  intros; rfl
theorem join (o : VOps) : Statement (.join o) := by
  intro hw rest
  refine vOps_round ?_ hw rest
  have hp : o.pm = 1#3 := BitVec.eq_of_toNat_eq (by simp [Instr.wf, check, plainV] at hw; simp [hw])
  obtain ⟨_, _, _, _, _⟩ := o
  subst hp
  intros; rfl
theorem waitm (o : VOps) : Statement (.waitm o) := by
  intro hw rest
  refine vOps_round ?_ hw rest
  have hp : o.pm = 2#3 := BitVec.eq_of_toNat_eq (by simp [Instr.wf, check, plainV] at hw; simp [hw])
  obtain ⟨_, _, _, _, _⟩ := o
  subst hp
  intros; rfl
theorem kmov (o : VOps) : Statement (.kmov o) := by
  intro hw rest
  refine vOps_round ?_ hw rest
  have hp : o.pm = 0#3 := BitVec.eq_of_toNat_eq (by simp [Instr.wf, check, plainV] at hw; simp [hw])
  obtain ⟨_, _, _, _, _⟩ := o
  subst hp
  intros; rfl
theorem meetrd (o : VOps) : Statement (.meetrd o) := by
  intro hw rest
  refine vOps_round ?_ hw rest
  have hp : o.pm = 1#3 := BitVec.eq_of_toNat_eq (by simp [Instr.wf, check, plainV] at hw; simp [hw])
  obtain ⟨_, _, _, _, _⟩ := o
  subst hp
  intros; rfl
theorem meetwr (o : VOps) : Statement (.meetwr o) := by
  intro hw rest
  refine vOps_round ?_ hw rest
  have hp : o.pm = 2#3 := BitVec.eq_of_toNat_eq (by simp [Instr.wf, check, plainV] at hw; simp [hw])
  obtain ⟨_, _, _, _, _⟩ := o
  subst hp
  intros; rfl
theorem barSync (o : IOps) : Statement (.barSync o) := by
  intro hw rest
  refine iOps_round ?_ hw rest
  have hi : o.imm.getLsbD 4 = false := by
    simp [Instr.wf, check] at hw
    simp only [BitVec.getLsbD, Nat.testBit_eq_decide_div_mod_eq]
    simp
    omega
  intros
  exact congrArg some (if_neg (by simpa using hi))
theorem barArv (o : IOps) : Statement (.barArv o) := by
  intro hw rest
  refine iOps_round ?_ hw rest
  have hi : o.imm.getLsbD 4 = true := by
    simp [Instr.wf, check] at hw
    simp only [BitVec.getLsbD, Nat.testBit_eq_decide_div_mod_eq]
    simp
    omega
  intros
  exact congrArg some (if_pos hi)
theorem cbarSync (o : IOps) : Statement (.cbarSync o) := by
  intro hw rest
  refine iOps_round ?_ hw rest
  have hi : o.imm.getLsbD 8 = false := by
    simp [Instr.wf, check] at hw
    simp only [BitVec.getLsbD, Nat.testBit_eq_decide_div_mod_eq]
    simp
    omega
  intros
  exact congrArg some (if_neg (by simpa using hi))
theorem cbarArv (o : IOps) : Statement (.cbarArv o) := by
  intro hw rest
  refine iOps_round ?_ hw rest
  have hi : o.imm.getLsbD 8 = true := by
    simp [Instr.wf, check] at hw
    simp only [BitVec.getLsbD, Nat.testBit_eq_decide_div_mod_eq]
    simp
    omega
  intros
  exact congrArg some (if_pos hi)
theorem gopen (o : VOps) : Statement (.gopen o) := by
  intro hw rest
  refine vOps_round ?_ hw rest
  have hp : o.pm = 0#3 := BitVec.eq_of_toNat_eq (by simp [Instr.wf, check, plainV] at hw; simp [hw])
  obtain ⟨_, _, _, _, _⟩ := o
  subst hp
  intros; rfl
theorem gset (o : VOps) : Statement (.gset o) := by
  intro hw rest
  refine vOps_round ?_ hw rest
  have hp : o.pm = 1#3 := BitVec.eq_of_toNat_eq (by simp [Instr.wf, check, plainV] at hw; simp [hw])
  obtain ⟨_, _, _, _, _⟩ := o
  subst hp
  intros; rfl
theorem trap (o : IOps) : Statement (.trap o) := by
  intro hw rest
  exact iOps_round (fun _ _ _ _ _ => rfl) hw rest
theorem iadd (o : VOps) : Statement (.iadd o) := by
  intro hw rest
  exact vOps_round (fun _ _ _ _ _ => rfl) hw rest
theorem isub (o : VOps) : Statement (.isub o) := by
  intro hw rest
  exact vOps_round (fun _ _ _ _ _ => rfl) hw rest
theorem imul (o : VOps) : Statement (.imul o) := by
  intro hw rest
  exact vOps_round (fun _ _ _ _ _ => rfl) hw rest
theorem imulh (o : VOps) : Statement (.imulh o) := by
  intro hw rest
  exact vOps_round (fun _ _ _ _ _ => rfl) hw rest
theorem imac (o : VOps) : Statement (.imac o) := by
  intro hw rest
  exact vOps_round (fun _ _ _ _ _ => rfl) hw rest
theorem idiv (o : VOps) : Statement (.idiv o) := by
  intro hw rest
  exact vOps_round (fun _ _ _ _ _ => rfl) hw rest
theorem irem (o : VOps) : Statement (.irem o) := by
  intro hw rest
  exact vOps_round (fun _ _ _ _ _ => rfl) hw rest
theorem imin (o : VOps) : Statement (.imin o) := by
  intro hw rest
  exact vOps_round (fun _ _ _ _ _ => rfl) hw rest
theorem imax (o : VOps) : Statement (.imax o) := by
  intro hw rest
  exact vOps_round (fun _ _ _ _ _ => rfl) hw rest
theorem iabsd (o : VOps) : Statement (.iabsd o) := by
  intro hw rest
  exact vOps_round (fun _ _ _ _ _ => rfl) hw rest
theorem iaddmin (o : VOps) : Statement (.iaddmin o) := by
  intro hw rest
  exact vOps_round (fun _ _ _ _ _ => rfl) hw rest
theorem iaddmax (o : VOps) : Statement (.iaddmax o) := by
  intro hw rest
  exact vOps_round (fun _ _ _ _ _ => rfl) hw rest
theorem and (o : VOps) : Statement (.and o) := by
  intro hw rest
  exact vOps_round (fun _ _ _ _ _ => rfl) hw rest
theorem or (o : VOps) : Statement (.or o) := by
  intro hw rest
  exact vOps_round (fun _ _ _ _ _ => rfl) hw rest
theorem xor (o : VOps) : Statement (.xor o) := by
  intro hw rest
  exact vOps_round (fun _ _ _ _ _ => rfl) hw rest
theorem andn (o : VOps) : Statement (.andn o) := by
  intro hw rest
  exact vOps_round (fun _ _ _ _ _ => rfl) hw rest
theorem mov (o : VOps) : Statement (.mov o) := by
  intro hw rest
  refine vOps_round ?_ hw rest
  have hp : o.a = 0#7 := BitVec.eq_of_toNat_eq (by simp [Instr.wf, check, z7] at hw; simp [hw])
  obtain ⟨_, _, _, _, _⟩ := o
  subst hp
  intros; rfl
theorem popc (o : VOps) : Statement (.popc o) := by
  intro hw rest
  refine vOps_round ?_ hw rest
  have hp : o.a = 1#7 := BitVec.eq_of_toNat_eq (by simp [Instr.wf, check] at hw; simp [hw])
  obtain ⟨_, _, _, _, _⟩ := o
  subst hp
  intros; rfl
theorem clz (o : VOps) : Statement (.clz o) := by
  intro hw rest
  refine vOps_round ?_ hw rest
  have hp : o.a = 2#7 := BitVec.eq_of_toNat_eq (by simp [Instr.wf, check] at hw; simp [hw])
  obtain ⟨_, _, _, _, _⟩ := o
  subst hp
  intros; rfl
theorem brev (o : VOps) : Statement (.brev o) := by
  intro hw rest
  refine vOps_round ?_ hw rest
  have hp : o.a = 3#7 := BitVec.eq_of_toNat_eq (by simp [Instr.wf, check] at hw; simp [hw])
  obtain ⟨_, _, _, _, _⟩ := o
  subst hp
  intros; rfl
theorem movi (o : IOps) : Statement (.movi o) := by
  intro hw rest
  exact iOps_round (fun _ _ _ _ _ => rfl) hw rest
theorem shl (o : VOps) : Statement (.shl o) := by
  intro hw rest
  refine vOps_round ?_ hw rest
  have hp : o.pm = 0#3 := BitVec.eq_of_toNat_eq (by simp [Instr.wf, check, selOk] at hw; simp [hw])
  obtain ⟨_, _, _, _, _⟩ := o
  subst hp
  intros; rfl
theorem shr (o : VOps) : Statement (.shr o) := by
  intro hw rest
  refine vOps_round ?_ hw rest
  have hp : o.pm = 1#3 := BitVec.eq_of_toNat_eq (by simp [Instr.wf, check, selOk] at hw; simp [hw])
  obtain ⟨_, _, _, _, _⟩ := o
  subst hp
  intros; rfl
theorem sar (o : VOps) : Statement (.sar o) := by
  intro hw rest
  refine vOps_round ?_ hw rest
  have hp : o.pm = 2#3 := BitVec.eq_of_toNat_eq (by simp [Instr.wf, check, selOk] at hw; simp [hw])
  obtain ⟨_, _, _, _, _⟩ := o
  subst hp
  intros; rfl
theorem rol (o : VOps) : Statement (.rol o) := by
  intro hw rest
  refine vOps_round ?_ hw rest
  have hp : o.pm = 3#3 := BitVec.eq_of_toNat_eq (by simp [Instr.wf, check, selOk] at hw; simp [hw])
  obtain ⟨_, _, _, _, _⟩ := o
  subst hp
  intros; rfl
theorem bfx (o : VOps) : Statement (.bfx o) := by
  intro hw rest
  refine vOps_round ?_ hw rest
  have hp : o.pm = 0#3 := BitVec.eq_of_toNat_eq (by simp [Instr.wf, check, selOk] at hw; simp [hw])
  obtain ⟨_, _, _, _, _⟩ := o
  subst hp
  intros; rfl
theorem bfi (o : VOps) : Statement (.bfi o) := by
  intro hw rest
  refine vOps_round ?_ hw rest
  have hp : o.pm = 1#3 := BitVec.eq_of_toNat_eq (by simp [Instr.wf, check, selOk] at hw; simp [hw])
  obtain ⟨_, _, _, _, _⟩ := o
  subst hp
  intros; rfl
theorem lea (o : VOps) : Statement (.lea o) := by
  intro hw rest
  refine vOps_round ?_ hw rest
  have hp : o.pm = 2#3 := BitVec.eq_of_toNat_eq (by simp [Instr.wf, check, selOk] at hw; simp [hw])
  obtain ⟨_, _, _, _, _⟩ := o
  subst hp
  intros; rfl
theorem iadd64 (o : VOps) : Statement (.iadd64 o) := by
  intro hw rest
  refine vOps_round ?_ hw rest
  have hp : o.pm = 3#3 := BitVec.eq_of_toNat_eq (by simp [Instr.wf, check, selOk] at hw; simp [hw])
  obtain ⟨_, _, _, _, _⟩ := o
  subst hp
  intros; rfl
theorem icmp (o : VOps) : Statement (.icmp o) := by
  intro hw rest
  exact vOps_round (fun _ _ _ _ _ => rfl) hw rest
theorem sel (o : VOps) : Statement (.sel o) := by
  intro hw rest
  exact vOps_round (fun _ _ _ _ _ => rfl) hw rest
theorem fadd (o : VOps) : Statement (.fadd o) := by
  intro hw rest
  exact vOps_round (fun _ _ _ _ _ => rfl) hw rest
theorem fsub (o : VOps) : Statement (.fsub o) := by
  intro hw rest
  exact vOps_round (fun _ _ _ _ _ => rfl) hw rest
theorem fmul (o : VOps) : Statement (.fmul o) := by
  intro hw rest
  exact vOps_round (fun _ _ _ _ _ => rfl) hw rest
theorem ffma (o : VOps) : Statement (.ffma o) := by
  intro hw rest
  exact vOps_round (fun _ _ _ _ _ => rfl) hw rest
theorem fmin (o : VOps) : Statement (.fmin o) := by
  intro hw rest
  exact vOps_round (fun _ _ _ _ _ => rfl) hw rest
theorem fmax (o : VOps) : Statement (.fmax o) := by
  intro hw rest
  exact vOps_round (fun _ _ _ _ _ => rfl) hw rest
theorem faddmin (o : VOps) : Statement (.faddmin o) := by
  intro hw rest
  exact vOps_round (fun _ _ _ _ _ => rfl) hw rest
theorem fcmp (o : VOps) : Statement (.fcmp o) := by
  intro hw rest
  exact vOps_round (fun _ _ _ _ _ => rfl) hw rest
theorem fclass (o : VOps) : Statement (.fclass o) := by
  intro hw rest
  exact vOps_round (fun _ _ _ _ _ => rfl) hw rest
theorem fdiv (o : VOps) : Statement (.fdiv o) := by
  intro hw rest
  exact vOps_round (fun _ _ _ _ _ => rfl) hw rest
theorem frcp (o : VOps) : Statement (.frcp o) := by
  intro hw rest
  refine vOps_round ?_ hw rest
  have hp : o.a = 0#7 := BitVec.eq_of_toNat_eq (by simp [Instr.wf, check, fnV] at hw; simp [hw])
  obtain ⟨_, _, _, _, _⟩ := o
  subst hp
  intros; rfl
theorem frsq (o : VOps) : Statement (.frsq o) := by
  intro hw rest
  refine vOps_round ?_ hw rest
  have hp : o.a = 1#7 := BitVec.eq_of_toNat_eq (by simp [Instr.wf, check, fnV] at hw; simp [hw])
  obtain ⟨_, _, _, _, _⟩ := o
  subst hp
  intros; rfl
theorem fsqrt (o : VOps) : Statement (.fsqrt o) := by
  intro hw rest
  refine vOps_round ?_ hw rest
  have hp : o.a = 2#7 := BitVec.eq_of_toNat_eq (by simp [Instr.wf, check, fnV] at hw; simp [hw])
  obtain ⟨_, _, _, _, _⟩ := o
  subst hp
  intros; rfl
theorem fexp2 (o : VOps) : Statement (.fexp2 o) := by
  intro hw rest
  refine vOps_round ?_ hw rest
  have hp : o.a = 3#7 := BitVec.eq_of_toNat_eq (by simp [Instr.wf, check, fnV] at hw; simp [hw])
  obtain ⟨_, _, _, _, _⟩ := o
  subst hp
  intros; rfl
theorem flog2 (o : VOps) : Statement (.flog2 o) := by
  intro hw rest
  refine vOps_round ?_ hw rest
  have hp : o.a = 4#7 := BitVec.eq_of_toNat_eq (by simp [Instr.wf, check, fnV] at hw; simp [hw])
  obtain ⟨_, _, _, _, _⟩ := o
  subst hp
  intros; rfl
theorem fsin (o : VOps) : Statement (.fsin o) := by
  intro hw rest
  refine vOps_round ?_ hw rest
  have hp : o.a = 5#7 := BitVec.eq_of_toNat_eq (by simp [Instr.wf, check, fnV] at hw; simp [hw])
  obtain ⟨_, _, _, _, _⟩ := o
  subst hp
  intros; rfl
theorem fcos (o : VOps) : Statement (.fcos o) := by
  intro hw rest
  refine vOps_round ?_ hw rest
  have hp : o.a = 6#7 := BitVec.eq_of_toNat_eq (by simp [Instr.wf, check, fnV] at hw; simp [hw])
  obtain ⟨_, _, _, _, _⟩ := o
  subst hp
  intros; rfl
theorem ftanh (o : VOps) : Statement (.ftanh o) := by
  intro hw rest
  refine vOps_round ?_ hw rest
  have hp : o.a = 7#7 := BitVec.eq_of_toNat_eq (by simp [Instr.wf, check, fnV] at hw; simp [hw])
  obtain ⟨_, _, _, _, _⟩ := o
  subst hp
  intros; rfl
theorem hadd2 (o : VOps) : Statement (.hadd2 o) := by
  intro hw rest
  exact vOps_round (fun _ _ _ _ _ => rfl) hw rest
theorem hmul2 (o : VOps) : Statement (.hmul2 o) := by
  intro hw rest
  exact vOps_round (fun _ _ _ _ _ => rfl) hw rest
theorem hfma2 (o : VOps) : Statement (.hfma2 o) := by
  intro hw rest
  exact vOps_round (fun _ _ _ _ _ => rfl) hw rest
theorem hmin2 (o : VOps) : Statement (.hmin2 o) := by
  intro hw rest
  exact vOps_round (fun _ _ _ _ _ => rfl) hw rest
theorem hmax2 (o : VOps) : Statement (.hmax2 o) := by
  intro hw rest
  exact vOps_round (fun _ _ _ _ _ => rfl) hw rest
theorem dot4 (o : VOps) : Statement (.dot4 o) := by
  intro hw rest
  exact vOps_round (fun _ _ _ _ _ => rfl) hw rest
theorem cvt (o : VOps) : Statement (.cvt o) := by
  intro hw rest
  exact vOps_round (fun _ _ _ _ _ => rfl) hw rest
theorem cvtsr (o : VOps) : Statement (.cvtsr o) := by
  intro hw rest
  exact vOps_round (fun _ _ _ _ _ => rfl) hw rest
theorem pack (o : VOps) : Statement (.pack o) := by
  intro hw rest
  exact vOps_round (fun _ _ _ _ _ => rfl) hw rest
theorem unpack (o : VOps) : Statement (.unpack o) := by
  intro hw rest
  exact vOps_round (fun _ _ _ _ _ => rfl) hw rest
theorem qscale (o : VOps) : Statement (.qscale o) := by
  intro hw rest
  exact vOps_round (fun _ _ _ _ _ => rfl) hw rest
theorem signq (o : VOps) : Statement (.signq o) := by
  intro hw rest
  exact vOps_round (fun _ _ _ _ _ => rfl) hw rest
theorem ternq (o : VOps) : Statement (.ternq o) := by
  intro hw rest
  exact vOps_round (fun _ _ _ _ _ => rfl) hw rest
theorem lshf (o : VOps) : Statement (.lshf o) := by
  intro hw rest
  exact vOps_round (fun _ _ _ _ _ => rfl) hw rest
theorem lperm (o : VOps) : Statement (.lperm o) := by
  intro hw rest
  exact vOps_round (fun _ _ _ _ _ => rfl) hw rest
theorem lbc (o : VOps) : Statement (.lbc o) := by
  intro hw rest
  exact vOps_round (fun _ _ _ _ _ => rfl) hw rest
theorem voteAll (o : VOps) : Statement (.voteAll o) := by
  intro hw rest
  refine vOps_round ?_ hw rest
  have hp : o.pm = 0#3 := BitVec.eq_of_toNat_eq (by simp [Instr.wf, check, plainV] at hw; simp [hw])
  obtain ⟨_, _, _, _, _⟩ := o
  subst hp
  intros; rfl
theorem voteAny (o : VOps) : Statement (.voteAny o) := by
  intro hw rest
  refine vOps_round ?_ hw rest
  have hp : o.pm = 1#3 := BitVec.eq_of_toNat_eq (by simp [Instr.wf, check, plainV] at hw; simp [hw])
  obtain ⟨_, _, _, _, _⟩ := o
  subst hp
  intros; rfl
theorem voteBallot (o : VOps) : Statement (.voteBallot o) := by
  intro hw rest
  refine vOps_round ?_ hw rest
  have hp : o.pm = 2#3 := BitVec.eq_of_toNat_eq (by simp [Instr.wf, check, plainV] at hw; simp [hw])
  obtain ⟨_, _, _, _, _⟩ := o
  subst hp
  intros; rfl
theorem voteCount (o : VOps) : Statement (.voteCount o) := by
  intro hw rest
  refine vOps_round ?_ hw rest
  have hp : o.pm = 3#3 := BitVec.eq_of_toNat_eq (by simp [Instr.wf, check, plainV] at hw; simp [hw])
  obtain ⟨_, _, _, _, _⟩ := o
  subst hp
  intros; rfl
theorem lred (o : VOps) : Statement (.lred o) := by
  intro hw rest
  exact vOps_round (fun _ _ _ _ _ => rfl) hw rest
theorem lscan (o : VOps) : Statement (.lscan o) := by
  intro hw rest
  exact vOps_round (fun _ _ _ _ _ => rfl) hw rest
theorem lmatch (o : VOps) : Statement (.lmatch o) := by
  intro hw rest
  exact vOps_round (fun _ _ _ _ _ => rfl) hw rest
theorem sadd (o : VOps) : Statement (.sadd o) := by
  intro hw rest
  exact vOps_round (fun _ _ _ _ _ => rfl) hw rest
theorem ssub (o : VOps) : Statement (.ssub o) := by
  intro hw rest
  exact vOps_round (fun _ _ _ _ _ => rfl) hw rest
theorem smul (o : VOps) : Statement (.smul o) := by
  intro hw rest
  exact vOps_round (fun _ _ _ _ _ => rfl) hw rest
theorem sand (o : VOps) : Statement (.sand o) := by
  intro hw rest
  exact vOps_round (fun _ _ _ _ _ => rfl) hw rest
theorem sor (o : VOps) : Statement (.sor o) := by
  intro hw rest
  exact vOps_round (fun _ _ _ _ _ => rfl) hw rest
theorem sxor (o : VOps) : Statement (.sxor o) := by
  intro hw rest
  exact vOps_round (fun _ _ _ _ _ => rfl) hw rest
theorem sshl (o : VOps) : Statement (.sshl o) := by
  intro hw rest
  refine vOps_round ?_ hw rest
  have hp : o.pm = 0#3 := BitVec.eq_of_toNat_eq (by simp [Instr.wf, check, uniV, selOk] at hw; simp [hw])
  obtain ⟨_, _, _, _, _⟩ := o
  subst hp
  intros; rfl
theorem sshr (o : VOps) : Statement (.sshr o) := by
  intro hw rest
  refine vOps_round ?_ hw rest
  have hp : o.pm = 1#3 := BitVec.eq_of_toNat_eq (by simp [Instr.wf, check, uniV, selOk] at hw; simp [hw])
  obtain ⟨_, _, _, _, _⟩ := o
  subst hp
  intros; rfl
theorem smin (o : VOps) : Statement (.smin o) := by
  intro hw rest
  refine vOps_round ?_ hw rest
  have hp : o.pm = 0#3 := BitVec.eq_of_toNat_eq (by simp [Instr.wf, check, uniV, selOk] at hw; simp [hw])
  obtain ⟨_, _, _, _, _⟩ := o
  subst hp
  intros; rfl
theorem smax (o : VOps) : Statement (.smax o) := by
  intro hw rest
  refine vOps_round ?_ hw rest
  have hp : o.pm = 1#3 := BitVec.eq_of_toNat_eq (by simp [Instr.wf, check, uniV, selOk] at hw; simp [hw])
  obtain ⟨_, _, _, _, _⟩ := o
  subst hp
  intros; rfl
theorem smov (o : VOps) : Statement (.smov o) := by
  intro hw rest
  exact vOps_round (fun _ _ _ _ _ => rfl) hw rest
theorem smovi (o : IOps) : Statement (.smovi o) := by
  intro hw rest
  exact iOps_round (fun _ _ _ _ _ => rfl) hw rest
theorem scmp (o : VOps) : Statement (.scmp o) := by
  intro hw rest
  exact vOps_round (fun _ _ _ _ _ => rfl) hw rest
theorem sld (o : MOps) : Statement (.sld o) := by
  intro hw rest
  exact mOps_round (fun _ _ _ _ _ => rfl) hw rest
theorem srd (o : IOps) : Statement (.srd o) := by
  intro hw rest
  exact iOps_round (fun _ _ _ _ _ => rfl) hw rest
theorem sfromv (o : VOps) : Statement (.sfromv o) := by
  intro hw rest
  exact vOps_round (fun _ _ _ _ _ => rfl) hw rest
theorem ld (o : MOps) : Statement (.ld o) := by
  intro hw rest
  refine mOps_round ?_ hw rest
  simp only [Instr.wf, check, verdict, qualOk, extMOk] at hw
  obtain ⟨d, a, sz, off, x⟩ := o
  cases x <;> simp_all [Decode.ofFields]
theorem ldf (o : MOps) : Statement (.ldf o) := by
  intro hw rest
  refine mOps_round ?_ hw rest
  simp only [Instr.wf, check, verdict, extMOk] at hw
  obtain ⟨d, a, sz, off, x⟩ := o
  cases x <;> simp_all [Decode.ofFields]
theorem ldPk (o : MOps) : Statement (.ldPk o) := by
  intro hw rest
  refine mOps_round ?_ hw rest
  simp only [Instr.wf, check, verdict, extMOk] at hw
  obtain ⟨d, a, sz, off, x⟩ := o
  cases x <;> simp_all [Decode.ofFields]
theorem st (o : MOps) : Statement (.st o) := by
  intro hw rest
  refine mOps_round ?_ hw rest
  simp only [Instr.wf, check, verdict, qualOk, extMOk] at hw
  obtain ⟨d, a, sz, off, x⟩ := o
  cases x <;> simp_all [Decode.ofFields]
theorem stf (o : MOps) : Statement (.stf o) := by
  intro hw rest
  refine mOps_round ?_ hw rest
  simp only [Instr.wf, check, verdict, extMOk] at hw
  obtain ⟨d, a, sz, off, x⟩ := o
  cases x <;> simp_all [Decode.ofFields]
theorem feopSet (o : MOps) : Statement (.feopSet o) := by
  intro hw rest
  refine mOps_round ?_ hw rest
  simp only [Instr.wf, check, verdict, extMOk] at hw
  obtain ⟨d, a, sz, off, x⟩ := o
  cases x <;> simp_all [Decode.ofFields]
theorem feopClear (o : MOps) : Statement (.feopClear o) := by
  intro hw rest
  refine mOps_round ?_ hw rest
  simp only [Instr.wf, check, verdict, extMOk] at hw
  obtain ⟨d, a, sz, off, x⟩ := o
  cases x <;> simp_all [Decode.ofFields]
theorem feopTest (o : MOps) : Statement (.feopTest o) := by
  intro hw rest
  refine mOps_round ?_ hw rest
  simp only [Instr.wf, check, verdict, extMOk] at hw
  obtain ⟨d, a, sz, off, x⟩ := o
  cases x <;> simp_all [Decode.ofFields]
theorem atom (o : MOps) : Statement (.atom o) := by
  intro hw rest
  exact mOps_round (fun _ _ _ _ _ => rfl) hw rest
theorem cas (o : MOps) : Statement (.cas o) := by
  intro hw rest
  exact mOps_round (fun _ _ _ _ _ => rfl) hw rest
theorem red (o : MOps) : Statement (.red o) := by
  intro hw rest
  exact mOps_round (fun _ _ _ _ _ => rfl) hw rest
theorem fenceAcq (o : VOps) : Statement (.fenceAcq o) := by
  intro hw rest
  refine vOps_round ?_ hw rest
  have hp : o.pm = 0#3 := BitVec.eq_of_toNat_eq (by simp [Instr.wf, check, plainV] at hw; simp [hw])
  obtain ⟨_, _, _, _, _⟩ := o
  subst hp
  intros; rfl
theorem fenceRel (o : VOps) : Statement (.fenceRel o) := by
  intro hw rest
  refine vOps_round ?_ hw rest
  have hp : o.pm = 1#3 := BitVec.eq_of_toNat_eq (by simp [Instr.wf, check, plainV] at hw; simp [hw])
  obtain ⟨_, _, _, _, _⟩ := o
  subst hp
  intros; rfl
theorem fenceAr (o : VOps) : Statement (.fenceAr o) := by
  intro hw rest
  refine vOps_round ?_ hw rest
  have hp : o.pm = 2#3 := BitVec.eq_of_toNat_eq (by simp [Instr.wf, check, plainV] at hw; simp [hw])
  obtain ⟨_, _, _, _, _⟩ := o
  subst hp
  intros; rfl
theorem cst (o : MOps) : Statement (.cst o) := by
  intro hw rest
  exact mOps_round (fun _ _ _ _ _ => rfl) hw rest
theorem abinit (o : VOps) : Statement (.abinit o) := by
  intro hw rest
  refine vOps_round ?_ hw rest
  have hp : o.pm = 0#3 := BitVec.eq_of_toNat_eq (by simp [Instr.wf, check, plainV] at hw; simp [hw])
  obtain ⟨_, _, _, _, _⟩ := o
  subst hp
  intros; rfl
theorem abexp (o : VOps) : Statement (.abexp o) := by
  intro hw rest
  refine vOps_round ?_ hw rest
  have hp : o.pm = 1#3 := BitVec.eq_of_toNat_eq (by simp [Instr.wf, check, plainV] at hw; simp [hw])
  obtain ⟨_, _, _, _, _⟩ := o
  subst hp
  intros; rfl
theorem abarr (o : VOps) : Statement (.abarr o) := by
  intro hw rest
  refine vOps_round ?_ hw rest
  have hp : o.pm = 2#3 := BitVec.eq_of_toNat_eq (by simp [Instr.wf, check, plainV] at hw; simp [hw])
  obtain ⟨_, _, _, _, _⟩ := o
  subst hp
  intros; rfl
theorem abwait (o : VOps) : Statement (.abwait o) := by
  intro hw rest
  refine vOps_round ?_ hw rest
  have hp : o.pm = 3#3 := BitVec.eq_of_toNat_eq (by simp [Instr.wf, check, plainV] at hw; simp [hw])
  obtain ⟨_, _, _, _, _⟩ := o
  subst hp
  intros; rfl
theorem abtest (o : VOps) : Statement (.abtest o) := by
  intro hw rest
  refine vOps_round ?_ hw rest
  have hp : o.pm = 4#3 := BitVec.eq_of_toNat_eq (by simp [Instr.wf, check, plainV] at hw; simp [hw])
  obtain ⟨_, _, _, _, _⟩ := o
  subst hp
  intros; rfl
theorem waitc (o : IOps) : Statement (.waitc o) := by
  intro hw rest
  exact iOps_round (fun _ _ _ _ _ => rfl) hw rest
theorem pref (o : MOps) : Statement (.pref o) := by
  intro hw rest
  exact mOps_round (fun _ _ _ _ _ => rfl) hw rest
theorem hgl (o : VOps) : Statement (.hgl o) := by
  intro hw rest
  exact vOps_round (fun _ _ _ _ _ => rfl) hw rest
theorem hga (o : VOps) : Statement (.hga o) := by
  intro hw rest
  exact vOps_round (fun _ _ _ _ _ => rfl) hw rest
theorem obres (o : VOps) : Statement (.obres o) := by
  intro hw rest
  exact vOps_round (fun _ _ _ _ _ => rfl) hw rest
theorem obrel (o : VOps) : Statement (.obrel o) := by
  intro hw rest
  refine vOps_round ?_ hw rest
  have hp : o.pm = 0#3 := BitVec.eq_of_toNat_eq (by simp [Instr.wf, check, plainV] at hw; simp [hw])
  obtain ⟨_, _, _, _, _⟩ := o
  subst hp
  intros; rfl
theorem obset (o : VOps) : Statement (.obset o) := by
  intro hw rest
  refine vOps_round ?_ hw rest
  have hp : o.pm = 1#3 := BitVec.eq_of_toNat_eq (by simp [Instr.wf, check, plainV] at hw; simp [hw])
  obtain ⟨_, _, _, _, _⟩ := o
  subst hp
  intros; rfl
theorem acz (o : VOps) : Statement (.acz o) := by
  intro hw rest
  exact vOps_round (fun _ _ _ _ _ => rfl) hw rest
theorem acrd (o : VOps) : Statement (.acrd o) := by
  intro hw rest
  exact vOps_round (fun _ _ _ _ _ => rfl) hw rest
theorem acwr (o : VOps) : Statement (.acwr o) := by
  intro hw rest
  exact vOps_round (fun _ _ _ _ _ => rfl) hw rest
theorem acst (o : MOps) : Statement (.acst o) := by
  intro hw rest
  exact mOps_round (fun _ _ _ _ _ => rfl) hw rest
theorem mxloop (o : VOps) : Statement (.mxloop o) := by
  intro hw rest
  exact vOps_round (fun _ _ _ _ _ => rfl) hw rest
theorem mxstep (o : VOps) : Statement (.mxstep o) := by
  intro hw rest
  exact vOps_round (fun _ _ _ _ _ => rfl) hw rest
theorem cpyq (o : EOps) : Statement (.cpyq o) := by
  intro hw rest
  exact eOps_round (fun _ _ _ _ _ => rfl) hw rest
theorem gthq (o : EOps) : Statement (.gthq o) := by
  intro hw rest
  exact eOps_round (fun _ _ _ _ _ => rfl) hw rest
theorem clpost (o : EOps) : Statement (.clpost o) := by
  intro hw rest
  exact eOps_round (fun _ _ _ _ _ => rfl) hw rest
theorem clctlQuery (o : EOps) : Statement (.clctlQuery o) := by
  intro hw rest
  refine eOps_round ?_ hw rest
  have hp : o.sub = 0#3 := BitVec.eq_of_toNat_eq (by simp [Instr.wf, check, eOk] at hw; simp [hw])
  obtain ⟨_, _, _, _, _⟩ := o
  subst hp
  intros; rfl
theorem clctlAbort (o : EOps) : Statement (.clctlAbort o) := by
  intro hw rest
  refine eOps_round ?_ hw rest
  have hp : o.sub = 1#3 := BitVec.eq_of_toNat_eq (by simp [Instr.wf, check, eOk] at hw; simp [hw])
  obtain ⟨_, _, _, _, _⟩ := o
  subst hp
  intros; rfl
theorem epopen (o : EOps) : Statement (.epopen o) := by
  intro hw rest
  refine eOps_round ?_ hw rest
  have hp : o.sub = 0#3 := BitVec.eq_of_toNat_eq (by simp [Instr.wf, check, eOk] at hw; simp [hw])
  obtain ⟨_, _, _, _, _⟩ := o
  subst hp
  intros; rfl
theorem epstep (o : EOps) : Statement (.epstep o) := by
  intro hw rest
  refine eOps_round ?_ hw rest
  have hp : o.sub = 1#3 := BitVec.eq_of_toNat_eq (by simp [Instr.wf, check, eOk] at hw; simp [hw])
  obtain ⟨_, _, _, _, _⟩ := o
  subst hp
  intros; rfl
theorem epclose (o : EOps) : Statement (.epclose o) := by
  intro hw rest
  refine eOps_round ?_ hw rest
  have hp : o.sub = 2#3 := BitVec.eq_of_toNat_eq (by simp [Instr.wf, check, eOk] at hw; simp [hw])
  obtain ⟨_, _, _, _, _⟩ := o
  subst hp
  intros; rfl
theorem rwsend (o : EOps) : Statement (.rwsend o) := by
  intro hw rest
  exact eOps_round (fun _ _ _ _ _ => rfl) hw rest
theorem lqtake (o : EOps) : Statement (.lqtake o) := by
  intro hw rest
  exact eOps_round (fun _ _ _ _ _ => rfl) hw rest
theorem csrrd (o : SOps) : Statement (.csrrd o) := by
  intro hw rest
  refine sOps_round ?_ hw rest
  have hp : o.sub = 0#3 := by
    cases hx : o.x <;> simp [Instr.wf, check, hx] at hw
    simp [hw]
  obtain ⟨_, _, _, _, _⟩ := o
  subst hp
  intros; rfl
theorem csrwr (o : SOps) : Statement (.csrwr o) := by
  intro hw rest
  refine sOps_round ?_ hw rest
  have hp : o.sub = 1#3 := by
    cases hx : o.x <;> simp [Instr.wf, check, hx] at hw
    simp [hw]
  obtain ⟨_, _, _, _, _⟩ := o
  subst hp
  intros; rfl
theorem fragrd (o : SOps) : Statement (.fragrd o) := by
  intro hw rest
  refine sOps_round ?_ hw rest
  have hp : o.sub = 0#3 := BitVec.eq_of_toNat_eq (by simp [Instr.wf, check] at hw; simp [hw])
  obtain ⟨_, _, _, _, _⟩ := o
  subst hp
  intros; rfl
theorem fragres (o : SOps) : Statement (.fragres o) := by
  intro hw rest
  refine sOps_round ?_ hw rest
  have hp : o.sub = 1#3 := BitVec.eq_of_toNat_eq (by simp [Instr.wf, check] at hw; simp [hw])
  obtain ⟨_, _, _, _, _⟩ := o
  subst hp
  intros; rfl
theorem fragkill (o : SOps) : Statement (.fragkill o) := by
  intro hw rest
  refine sOps_round ?_ hw rest
  have hp : o.sub = 2#3 := BitVec.eq_of_toNat_eq (by simp [Instr.wf, check] at hw; simp [hw])
  obtain ⟨_, _, _, _, _⟩ := o
  subst hp
  intros; rfl
theorem eret (o : SOps) : Statement (.eret o) := by
  intro hw rest
  refine sOps_round ?_ hw rest
  have hp : o.sub = 0#3 := BitVec.eq_of_toNat_eq (by simp [Instr.wf, check] at hw; simp [hw])
  obtain ⟨_, _, _, _, _⟩ := o
  subst hp
  intros; rfl
theorem svcwait (o : SOps) : Statement (.svcwait o) := by
  intro hw rest
  refine sOps_round ?_ hw rest
  have hp : o.sub = 1#3 := BitVec.eq_of_toNat_eq (by simp [Instr.wf, check] at hw; simp [hw])
  obtain ⟨_, _, _, _, _⟩ := o
  subst hp
  intros; rfl
theorem tlbinv (o : SOps) : Statement (.tlbinv o) := by
  intro hw rest
  refine sOps_round ?_ hw rest
  have hp : o.sub = 0#3 := BitVec.eq_of_toNat_eq (by simp [Instr.wf, check] at hw; simp [hw])
  obtain ⟨_, _, _, _, _⟩ := o
  subst hp
  intros; rfl
theorem cacheop (o : SOps) : Statement (.cacheop o) := by
  intro hw rest
  refine sOps_round ?_ hw rest
  have hp : o.sub = 1#3 := BitVec.eq_of_toNat_eq (by simp [Instr.wf, check] at hw; simp [hw])
  obtain ⟨_, _, _, _, _⟩ := o
  subst hp
  intros; rfl
theorem pmctl (o : SOps) : Statement (.pmctl o) := by
  intro hw rest
  refine sOps_round ?_ hw rest
  have hp : o.sub = 2#3 := BitVec.eq_of_toNat_eq (by simp [Instr.wf, check] at hw; simp [hw])
  obtain ⟨_, _, _, _, _⟩ := o
  subst hp
  intros; rfl
theorem savex (o : SOps) : Statement (.savex o) := by
  intro hw rest
  refine sOps_round ?_ hw rest
  have hp : o.sub = 0#3 := BitVec.eq_of_toNat_eq (by simp [Instr.wf, check] at hw; simp [hw])
  obtain ⟨_, _, _, _, _⟩ := o
  subst hp
  intros; rfl
theorem restx (o : SOps) : Statement (.restx o) := by
  intro hw rest
  refine sOps_round ?_ hw rest
  have hp : o.sub = 1#3 := BitVec.eq_of_toNat_eq (by simp [Instr.wf, check] at hw; simp [hw])
  obtain ⟨_, _, _, _, _⟩ := o
  subst hp
  intros; rfl
theorem cld (o : C1Ops) : Statement (.cld o) :=
  fun hw => ⟨_, rfl, c1Ops_round (fun _ => rfl) hw⟩
theorem clearingCst (o : C1Ops) : Statement (.clearingCst o) :=
  fun hw => ⟨_, rfl, c1Ops_round (fun _ => rfl) hw⟩
theorem cadd (o : C1Ops) : Statement (.cadd o) :=
  fun hw => ⟨_, rfl, c1Ops_round (fun _ => rfl) hw⟩
theorem csub (o : C1Ops) : Statement (.csub o) :=
  fun hw => ⟨_, rfl, c1Ops_round (fun _ => rfl) hw⟩
theorem cmov (o : C1Ops) : Statement (.cmov o) :=
  fun hw => ⟨_, rfl, c1Ops_round (fun _ => rfl) hw⟩
theorem cmovi (o : C2Ops) : Statement (.cmovi o) :=
  fun hw => ⟨_, rfl, c2Ops_round (fun _ => rfl) hw⟩
theorem cbnz (o : C2Ops) : Statement (.cbnz o) :=
  fun hw => ⟨_, rfl, c2Ops_round (fun _ => rfl) hw⟩
theorem cbra (o : C2Ops) : Statement (.cbra o) :=
  fun hw => ⟨_, rfl, c2Ops_round (fun _ => rfl) hw⟩
theorem csend (o : C1Ops) : Statement (.csend o) :=
  fun hw => ⟨_, rfl, c1Ops_round (fun _ => rfl) hw⟩
theorem crecv (o : C1Ops) : Statement (.crecv o) :=
  fun hw => ⟨_, rfl, c1Ops_round (fun _ => rfl) hw⟩
theorem cred (o : C1Ops) : Statement (.cred o) :=
  fun hw => ⟨_, rfl, c1Ops_round (fun _ => rfl) hw⟩
theorem ccomp (o : C1Ops) : Statement (.ccomp o) :=
  fun hw => ⟨_, rfl, c1Ops_round (fun _ => rfl) hw⟩
theorem csigFe (o : C1Ops) : Statement (.csigFe o) := by
  intro hw
  refine ⟨_, rfl, c1Ops_round ?_ hw⟩
  have hp : o.imm = 0#15 := by simp [Instr.wf, check] at hw; simp [hw]
  obtain ⟨_, _, _, _⟩ := o
  subst hp
  intros; rfl
theorem csigAb (o : C1Ops) : Statement (.csigAb o) := by
  intro hw
  refine ⟨_, rfl, c1Ops_round ?_ hw⟩
  have hp : o.imm = 1#15 := by simp [Instr.wf, check] at hw; simp [hw]
  obtain ⟨_, _, _, _⟩ := o
  subst hp
  intros; rfl
theorem cwaitFe (o : C1Ops) : Statement (.cwaitFe o) := by
  intro hw
  refine ⟨_, rfl, c1Ops_round ?_ hw⟩
  have hp : o.imm = 0#15 := by simp [Instr.wf, check] at hw; simp [hw]
  obtain ⟨_, _, _, _⟩ := o
  subst hp
  intros; rfl
theorem cwaitPh (o : C1Ops) : Statement (.cwaitPh o) := by
  intro hw
  refine ⟨_, rfl, c1Ops_round ?_ hw⟩
  have hp : o.imm = 1#15 := by simp [Instr.wf, check] at hw; simp [hw]
  obtain ⟨_, _, _, _⟩ := o
  subst hp
  intros; rfl
theorem cswred (o : C1Ops) : Statement (.cswred o) :=
  fun hw => ⟨_, rfl, c1Ops_round (fun _ => rfl) hw⟩
theorem cend (o : C2Ops) : Statement (.cend o) :=
  fun hw => ⟨_, rfl, c2Ops_round (fun _ => rfl) hw⟩
theorem clauseWaitMet : Statement .clauseWaitMet := fun _ => rfl
theorem clauseWordsArrive : Statement .clauseWordsArrive := fun _ => rfl
theorem longResultReturn : Statement .longResultReturn := fun _ => rfl
theorem cbarCompletion : Statement .cbarCompletion := fun _ => rfl
theorem pageWalk : Statement .pageWalk := fun _ => rfl
theorem storeRegistration : Statement .storeRegistration := fun _ => rfl
theorem homeWriteQueueApply : Statement .homeWriteQueueApply := fun _ => rfl
theorem loadServe : Statement .loadServe := fun _ => rfl
theorem matrixCommandStart : Statement .matrixCommandStart := fun _ => rfl
theorem matrixStep : Statement .matrixStep := fun _ => rfl
theorem matrixCommandEnd : Statement .matrixCommandEnd := fun _ => rfl
theorem copyCommandStart : Statement .copyCommandStart := fun _ => rfl
theorem copyDelivery : Statement .copyDelivery := fun _ => rfl
theorem commandEnd : Statement .commandEnd := fun _ => rfl
theorem collectiveStart : Statement .collectiveStart := fun _ => rfl
theorem clearingMessageArrival : Statement .clearingMessageArrival := fun _ => rfl
theorem collectiveEnd : Statement .collectiveEnd := fun _ => rfl
theorem switchSlotTimeout : Statement .switchSlotTimeout := fun _ => rfl
theorem reductionPush : Statement .reductionPush := fun _ => rfl
theorem heldEndApply : Statement .heldEndApply := fun _ => rfl
theorem rewardMessage : Statement .rewardMessage := fun _ => rfl
theorem escrowAgeExpiry : Statement .escrowAgeExpiry := fun _ => rfl
theorem joinTimeout : Statement .joinTimeout := fun _ => rfl
theorem episodeScan : Statement .episodeScan := fun _ => rfl
theorem queueTailPoll : Statement .queueTailPoll := fun _ => rfl
theorem queueAdvance : Statement .queueAdvance := fun _ => rfl
theorem doorbell : Statement .doorbell := fun _ => rfl
theorem dependenceReread : Statement .dependenceReread := fun _ => rfl
theorem recordStart : Statement .recordStart := fun _ => rfl
theorem workgroupPlacement : Statement .workgroupPlacement := fun _ => rfl
theorem gangPlacement : Statement .gangPlacement := fun _ => rfl
theorem saveHandlerEntry : Statement .saveHandlerEntry := fun _ => rfl
theorem drainComplete : Statement .drainComplete := fun _ => rfl
theorem restorePlacement : Statement .restorePlacement := fun _ => rfl
theorem verUpdate : Statement .verUpdate := fun _ => rfl
theorem watchdogExpiry : Statement .watchdogExpiry := fun _ => rfl
theorem mailboxMessage : Statement .mailboxMessage := fun _ => rfl
theorem faultRecordWrite : Statement .faultRecordWrite := fun _ => rfl
theorem scrub : Statement .scrub := fun _ => rfl
theorem tenantReset : Statement .tenantReset := fun _ => rfl
theorem registerWrite : Statement .registerWrite := fun _ => rfl
theorem qcfgWrite : Statement .qcfgWrite := fun _ => rfl
theorem portcfgWrite : Statement .portcfgWrite := fun _ => rfl
theorem portTraining : Statement .portTraining := fun _ => rfl
theorem freplayWrite : Statement .freplayWrite := fun _ => rfl
theorem islfreqWrite : Statement .islfreqWrite := fun _ => rfl
theorem islbudgetWrite : Statement .islbudgetWrite := fun _ => rfl
theorem plimitWrite : Statement .plimitWrite := fun _ => rfl
theorem telemetrySample : Statement .telemetrySample := fun _ => rfl
theorem thermalShutdown : Statement .thermalShutdown := fun _ => rfl
theorem eventSnapshot : Statement .eventSnapshot := fun _ => rfl
theorem packageReset : Statement .packageReset := fun _ => rfl
theorem imageInstall : Statement .imageInstall := fun _ => rfl
theorem coreRelease : Statement .coreRelease := fun _ => rfl
theorem extend : Statement .extend := fun _ => rfl
theorem attestationRequest : Statement .attestationRequest := fun _ => rfl
theorem fabricRequestArrival : Statement .fabricRequestArrival := fun _ => rfl
theorem fabricReplyArrival : Statement .fabricReplyArrival := fun _ => rfl
theorem acknowledgement : Statement .acknowledgement := fun _ => rfl
theorem fabricReplayTimeout : Statement .fabricReplayTimeout := fun _ => rfl
theorem contextQuietExpiry : Statement .contextQuietExpiry := fun _ => rfl
theorem contextClose : Statement .contextClose := fun _ => rfl
theorem flitReceive : Statement .flitReceive := fun _ => rfl
theorem retryGapExpiry : Statement .retryGapExpiry := fun _ => rfl
theorem retryRequest : Statement .retryRequest := fun _ => rfl
theorem linkFailure : Statement .linkFailure := fun _ => rfl
theorem portRetrain : Statement .portRetrain := fun _ => rfl
theorem ueRmaWrite : Statement .ueRmaWrite := fun _ => rfl
theorem ueQueueAdvance : Statement .ueQueueAdvance := fun _ => rfl
theorem ueRewardSend : Statement .ueRewardSend := fun _ => rfl
theorem ueUnsupportedRequest : Statement .ueUnsupportedRequest := fun _ => rfl
theorem dieStopsAnswering : Statement .dieStopsAnswering := fun _ => rfl
theorem planeReportsUnreachable : Statement .planeReportsUnreachable := fun _ => rfl

end Sys2Proof.Laws.RoundTrip
end

