-- ==== Sys2Proof/Tests/Slice0.lean ====
section
/-! SUPPORT. Tests/Slice0.lean: ill-formed terms that the checks refuse, words written out from the spec's encodings,
single steps on a small state with results worked out by hand from the spec, and for each statement with hypotheses a
concrete state and operands that meet them. -/

namespace Sys2Proof.Tests

-- One declaration after another: `decide +kernel` waits for every earlier one, and a thread that waits costs memory.
set_option Elab.async false

open Sys2Proof Sys2Proof.Machine

/-! ### Ill-formed terms, one or more for each check of WellFormed.lean -/

/-- An extension word of format V. -/
def xv (rnd sat fmt xp sub : Nat) : Option ExtV :=
  some ⟨BitVec.ofNat 3 rnd, BitVec.ofNat 1 sat, BitVec.ofNat 6 fmt, BitVec.ofNat 6 xp, BitVec.ofNat 16 sub⟩
/-- An extension word of format M with no qualifier. -/
def xm : ExtM := ⟨0, 0, 0, 0, 0, 0, 0, 0, 0, 0, 0, 0⟩
def illegal (i : Instr) : Bool := WellFormed.check i == some .illegalOpcode
def reservedFormat (i : Instr) : Bool := WellFormed.check i == some .formatReserved

/-- Fields that must be 0, a fixed pm and a forbidden extension word (R83). -/
theorem test_illFormed_plain : ([.nop ⟨1, 0, 0, 0, none⟩, .nop ⟨0, 0, 0, 1, none⟩, .yield ⟨0, 0, 0, 1, xv 0 0 0 0 0⟩,
    .exit ⟨0, 1, 0, 0, none⟩, .bra ⟨1, 4, none⟩, .bra ⟨0, 4, some 0⟩, .brp ⟨0, 4, some 0⟩, .call ⟨0, 4, some 0⟩,
    .ret ⟨0, 3, 0, 0, none⟩, .callx ⟨3, 2, 0, 0, none⟩, .jmpx ⟨2, 2, 0, 0, none⟩, .brt ⟨0, 2, 1, 0, none⟩,
    .meet ⟨12, 4, none⟩, .leave ⟨12, 0, 0, 0, none⟩, .join ⟨0, 0, 1, 1, none⟩, .waitm ⟨12, 0, 0, 2, none⟩,
    .kmov ⟨96, 12, 0, 0, none⟩, .kmov ⟨1, 96, 2, 0, none⟩, .meetrd ⟨1, 0, 0, 1, none⟩, .meetwr ⟨0, 96, 0, 2, none⟩,
    .barSync ⟨0, 96, 0, none⟩, .barSync ⟨0, 0, 16, none⟩, .barArv ⟨0, 0, 48, none⟩, .cbarSync ⟨0, 0, 256, none⟩,
    .cbarArv ⟨0, 0, 1, none⟩, .gopen ⟨8, 0, 0, 0, none⟩, .gset ⟨1, 4, 0, 1, none⟩, .trap ⟨0, 0, 0x3FF, none⟩,
    .lperm ⟨96, 1, 2, 0, none⟩, .lbc ⟨1, 1, 2, 0, xv 0 0 0 0 0⟩, .voteAll ⟨8, 0, 0, 0, none⟩, .voteAny ⟨0, 8, 0, 1, none⟩,
    .voteBallot ⟨1, 8, 0, 2, none⟩, .voteCount ⟨1, 0, 1, 3, none⟩, .lmatch ⟨1, 1, 1, 0, none⟩,
    .fenceAcq ⟨1, 0, 0, 0, none⟩, .fenceRel ⟨0, 0, 0, 0, none⟩, .fenceAr ⟨0, 0, 1, 2, none⟩,
    .abinit ⟨0, 1, 2, 0, none⟩, .abexp ⟨1, 2, 2, 1, none⟩, .abarr ⟨0, 2, 2, 1, none⟩, .abwait ⟨0, 2, 2, 4, none⟩,
    .abtest ⟨8, 2, 2, 4, none⟩, .waitc ⟨0, 0, 63, none⟩, .waitc ⟨0, 0, 384, none⟩, .hgl ⟨1, 1, 2, 0, none⟩,
    .hga ⟨1, 1, 97, 0, none⟩, .obres ⟨16, 96, 0, 0, none⟩, .obrel ⟨0, 1, 0, 0, none⟩, .obset ⟨0, 97, 0, 1, none⟩,
    .acz ⟨16, 0, 0, 0, none⟩, .acrd ⟨96, 0, 0, 0, none⟩, .acwr ⟨0, 96, 0, 0, none⟩] : List Instr).all illegal = true := by decide

/-- Destinations, permutations and modifiers of the vector families (R82 to R85, R128, R137, R145, R146, R159, R161). -/
theorem test_illFormed_vector : ([.iadd ⟨96, 1, 2, 0, none⟩, .iadd ⟨1, 1, 2, 7, none⟩, .iadd ⟨1, 1, 2, 1, xv 0 0 0 3 0⟩,
    .isub ⟨1, 1, 2, 7, xv 0 0 0 37 0⟩, .imul ⟨1, 1, 2, 7, xv 0 0 0 40 0⟩, .imulh ⟨1, 1, 2, 0, xv 0 1 0 0 0⟩,
    .imac ⟨1, 1, 2, 0, xv 1 0 0 0 0⟩, .idiv ⟨1, 1, 2, 0, xv 0 0 0x10 0 0⟩, .irem ⟨1, 1, 2, 0, xv 0 0 1 0 0⟩,
    .imin ⟨1, 1, 2, 0, xv 0 0 0x30 0 0⟩, .imax ⟨1, 1, 2, 0, xv 0 0 0 0 1⟩, .iabsd ⟨1, 1, 2, 0, xv 0 1 0 0 0⟩,
    .iaddmin ⟨1, 1, 2, 0, xv 2 0 0 0 0⟩, .iaddmax ⟨1, 1, 2, 0, xv 0 0 3 0 0⟩, .and ⟨1, 1, 2, 0, xv 0 1 0 0 0⟩,
    .or ⟨1, 1, 2, 0, xv 0 0 0x10 0 0⟩, .xor ⟨100, 1, 2, 0, none⟩, .andn ⟨1, 1, 2, 0, xv 0 0 0 0 1⟩, .mov ⟨1, 1, 2, 0, none⟩,
    .popc ⟨1, 0, 2, 0, none⟩, .clz ⟨1, 1, 2, 0, none⟩, .brev ⟨1, 2, 2, 0, none⟩, .movi ⟨1, 0, 1, some 5⟩, .movi ⟨1, 1, 1, none⟩,
    .shl ⟨1, 1, 2, 1, none⟩, .shr ⟨1, 1, 2, 1, xv 0 0 0 1 0⟩, .sar ⟨1, 1, 2, 0, none⟩, .rol ⟨1, 1, 2, 2, none⟩,
    .bfx ⟨1, 1, 2, 0, xv 0 0 0x10 0 0⟩, .bfi ⟨1, 1, 2, 0, none⟩, .lea ⟨1, 2, 2, 2, none⟩, .lea ⟨2, 2, 2, 2, xv 0 0 0 0 8⟩,
    .iadd64 ⟨2, 2, 3, 3, none⟩, .icmp ⟨8, 1, 2, 0, none⟩, .icmp ⟨1, 1, 2, 6, none⟩, .sel ⟨1, 1, 2, 0, xv 0 0 0 2 0⟩,
    .fadd ⟨1, 1, 2, 0, xv 6 0 0 0 0⟩, .fsub ⟨1, 1, 2, 0, xv 0 0 1 0 0⟩, .fmul ⟨1, 1, 2, 0, xv 0 0 0 0 1⟩,
    .ffma ⟨1, 1, 2, 0, xv 5 0 0 0 256⟩, .fmin ⟨1, 1, 2, 0, xv 1 0 0 0 0⟩, .fmax ⟨1, 1, 2, 0, xv 0 1 0 0 0⟩,
    .faddmin ⟨97, 1, 2, 0, none⟩, .fcmp ⟨8, 1, 2, 0, none⟩, .fclass ⟨1, 1, 2, 0, none⟩, .fdiv ⟨1, 1, 2, 7, none⟩,
    .frcp ⟨1, 1, 2, 0, none⟩, .frsq ⟨1, 0, 2, 0, none⟩, .fsqrt ⟨1, 0, 2, 0, none⟩, .fexp2 ⟨1, 3, 2, 0, xv 1 0 0 0 0⟩,
    .flog2 ⟨1, 3, 2, 0, none⟩, .fsin ⟨1, 5, 2, 0, xv 2 0 0 0 0⟩, .fcos ⟨1, 5, 2, 0, none⟩, .ftanh ⟨1, 6, 2, 0, none⟩,
    .hadd2 ⟨1, 1, 2, 0, xv 0 0 0 0 0⟩, .hmul2 ⟨1, 1, 2, 0, xv 0 0 3 0 0⟩, .hfma2 ⟨1, 1, 2, 0, xv 0 0 1 0 1⟩,
    .hmin2 ⟨1, 1, 2, 0, xv 1 0 1 0 0⟩, .hmax2 ⟨1, 1, 2, 0, xv 0 1 1 0 0⟩, .dot4 ⟨1, 1, 2, 0, xv 0 0 1 0 0⟩,
    .cvt ⟨1, 1, 0, 0, none⟩, .cvt ⟨1, 1, 0, 0, xv 0 0 0 0 0x4000⟩, .cvtsr ⟨1, 1, 2, 0, xv 5 0 0 0 0⟩,
    .pack ⟨1, 1, 2, 0, xv 0 0 0 0 0⟩, .unpack ⟨1, 1, 0, 0, xv 0 0 0 0 0⟩, .qscale ⟨1, 1, 0, 0, xv 0 0 1 0 0⟩,
    .qscale ⟨1, 1, 0, 0, xv 0 0 3 0 0x8000⟩, .signq ⟨1, 1, 0, 0, xv 0 0 0 0 0x3000⟩, .ternq ⟨1, 1, 0, 0, xv 0 0 0 0 0x100⟩,
    .lshf ⟨1, 1, 2, 0, none⟩, .lshf ⟨1, 1, 2, 0, xv 0 0 0 0 32⟩, .lred ⟨1, 1, 0, 0, xv 0 0 0 0 3⟩,
    .lscan ⟨96, 1, 0, 0, none⟩] : List Instr).all illegal = true := by decide

/-- A format code that is assigned to nothing (R42), where every other field is legal. -/
theorem test_reservedFormats : ([.fadd ⟨1, 1, 2, 0, xv 0 0 0x0D 0 0⟩, .hadd2 ⟨1, 1, 2, 0, xv 0 0 0x30 0 0⟩,
    .dot4 ⟨1, 1, 2, 0, xv 0 0 3 0 0x1000⟩, .cvt ⟨1, 1, 0, 0, xv 0 0 0x3F 0 0⟩, .frcp ⟨1, 0, 2, 0, xv 0 0 0x18 0 0⟩,
    .signq ⟨1, 1, 0, 0, xv 0 0 0x10 0 0⟩, .lred ⟨1, 1, 0, 0, xv 0 0 0x20 0 0⟩, .fcmp ⟨1, 1, 2, 0, xv 0 0 0x28 0 0⟩,
    .mxloop ⟨0, 0, 96, 0, xv 0 0 0x3F 0 1⟩] : List Instr).all reservedFormat = true := by decide

/-- Uniform, memory, engine, system and clearing forms (R86 to R91, R146, R148, R197, R236, R244, R250). -/
theorem test_illFormed_others : ([.sadd ⟨1, 96, 97, 0, none⟩, .ssub ⟨96, 1, 97, 0, none⟩, .smul ⟨96, 96, 1, 0, none⟩,
    .sand ⟨96, 96, 97, 1, none⟩, .sor ⟨96, 96, 97, 0, xv 0 1 0 0 0⟩, .sxor ⟨96, 96, 97, 0, xv 0 0 0x10 0 0⟩,
    .sshl ⟨96, 96, 97, 1, none⟩, .sshr ⟨96, 96, 97, 0, none⟩, .smin ⟨96, 96, 97, 1, none⟩, .smax ⟨96, 96, 97, 0, none⟩,
    .smov ⟨96, 96, 97, 0, none⟩, .smovi ⟨96, 0, 1, some 0⟩, .scmp ⟨96, 96, 97, 6, none⟩, .sfromv ⟨1, 1, 0, 0, none⟩,
    .sld ⟨97, 96, 5, 0, none⟩, .sld ⟨96, 97, 4, 0, none⟩, .srd ⟨1, 0, 0x0F, none⟩, .srd ⟨96, 0, 0, none⟩, .srd ⟨1, 0, 0x0A, none⟩,
    .ld ⟨1, 2, 5, 0, none⟩, .ld ⟨1, 3, 4, 0, none⟩, .ld ⟨1, 2, 4, 0, some { xm with rel := 1 }⟩,
    .ldf ⟨1, 2, 4, 0, none⟩, .ldPk ⟨1, 2, 4, 0, some { xm with pk := 1 }⟩, .st ⟨2, 2, 6, 0, none⟩,
    .st ⟨1, 2, 4, 0, some { xm with acq := 1 }⟩, .stf ⟨1, 2, 4, 0, some xm⟩, .feopSet ⟨1, 2, 4, 0, some xm⟩,
    .feopClear ⟨1, 2, 6, 0, some xm⟩, .feopTest ⟨1, 2, 6, 0, some { xm with aop := 2, hint := 1 }⟩,
    .atom ⟨1, 2, 3, 0, none⟩, .atom ⟨1, 2, 4, 0, some { xm with aop := 10 }⟩, .cas ⟨1, 2, 4, 0, none⟩,
    .red ⟨1, 2, 5, 0, some { xm with aop := 9 }⟩, .red ⟨1, 2, 4, 0, some { xm with sgn := 1 }⟩, .cst ⟨1, 2, 3, 0, none⟩,
    .pref ⟨1, 2, 4, 0, none⟩, .acst ⟨16, 2, 4, 0, none⟩, .acst ⟨0, 2, 5, 0, none⟩, .ld ⟨1, 2, 4, 0, some { xm with r0 := 1 }⟩,
    .ld ⟨1, 2, 4, 0, some { xm with idx := 1 }⟩, .mxloop ⟨0, 0, 96, 0, none⟩, .mxstep ⟨0, 0, 96, 0, xv 1 0 0 0 0⟩,
    .cpyq ⟨1, 0, 0, 0, none⟩, .gthq ⟨0, 1, 0, 0, none⟩, .clpost ⟨0, 0, 1, 0, none⟩, .clctlQuery ⟨0, 0, 0, 32, none⟩,
    .clctlAbort ⟨0, 1, 0, 1, none⟩, .epopen ⟨0, 0, 0, 0, some 0⟩, .epstep ⟨0, 0, 0, 0, none⟩, .epclose ⟨0, 1, 0, 0, none⟩,
    .rwsend ⟨0, 0, 0, 1, none⟩, .lqtake ⟨3, 0, 0, 0, none⟩, .csrrd ⟨0, 1, 0, 0, none⟩, .csrrd ⟨0, 1, 0, 0, some 9⟩,
    .csrwr ⟨1, 0, 96, 0, some 8⟩, .fragrd ⟨0, 93, 96, 0, none⟩, .fragres ⟨1, 97, 96, 96, none⟩, .fragkill ⟨2, 1, 96, 96, none⟩,
    .eret ⟨0, 0, 0, 1, none⟩, .svcwait ⟨1, 1, 0, 0, none⟩, .tlbinv ⟨0, 0, 97, 96, none⟩, .cacheop ⟨1, 0, 2, 96, none⟩,
    .pmctl ⟨2, 96, 0, 1, none⟩, .savex ⟨0, 1, 0, 0, none⟩, .savex ⟨0, 1, 0, 0, some 0x60⟩, .restx ⟨1, 0, 96, 0, some 0⟩,
    .clearingCst ⟨1, 0, 0, 0⟩, .cadd ⟨0, 0, 0, 1⟩, .csub ⟨0, 0, 0, 1⟩, .cmov ⟨0, 0, 1, 0⟩, .cbra ⟨1, 0⟩,
    .csend ⟨0, 0, 0, 0x6000⟩, .crecv ⟨0, 0, 0, 1⟩, .cred ⟨0, 0, 0, 16⟩, .ccomp ⟨0, 0, 0, 0x6000⟩, .csigFe ⟨0, 0, 0, 1⟩,
    .csigAb ⟨0, 0, 0, 0⟩, .cwaitFe ⟨0, 0, 0, 1⟩, .cwaitPh ⟨0, 0, 0, 0⟩, .cend ⟨1, 0⟩] : List Instr).all
      illegal = true := by decide

/-! ### Words written out from the spec's encodings (R83 to R91, R94, R250), one at least for every instruction -/

/-- The words decode to the instruction, with nothing left. -/
def decodes (ws : List Word) (i : Instr) : Bool := match Decode.words ws with | .ok (j, []) => j == i | _ => false
/-- The word decodes to a clearing instruction. -/
def clears (w : Word) (i : Instr) : Bool := match Decode.clr w with | .ok j => j == i | _ => false

/-- Control and convergence (R94 opcodes 0x00 to 0x0F). -/
theorem test_decode_control : ([
    ([0x00000000], .nop ⟨0, 0, 0, 0, none⟩), ([0x00000001], .yield ⟨0, 0, 0, 1, none⟩),
    ([0x020FFFFE], .bra ⟨0, 0xFFFFE, none⟩), ([0x04A00005], .brp ⟨10, 0x5, none⟩), ([0x06300007], .call ⟨3, 0x7, none⟩),
    ([0x08018000], .ret ⟨0, 96, 0, 0, none⟩), ([0x0A080800], .callx ⟨4, 2, 0, 0, none⟩),
    ([0x0C018800], .jmpx ⟨0, 98, 0, 0, none⟩), ([0x0E001400], .brt ⟨0, 5, 0, 0, none⟩),
    ([0x10000000], .exit ⟨0, 0, 0, 0, none⟩), ([0x12B00010], .meet ⟨11, 0x10, none⟩),
    ([0x14060000], .leave ⟨3, 0, 0, 0, none⟩), ([0x14160001], .join ⟨11, 0, 0, 1, none⟩),
    ([0x14040002], .waitm ⟨2, 0, 0, 2, none⟩), ([0x16C81C00], .kmov ⟨100, 7, 0, 0, none⟩),
    ([0x160F9008], .kmov ⟨7, 100, 1, 0, none⟩), ([0x16100001], .meetrd ⟨8, 0, 0, 1, none⟩),
    ([0x16002802], .meetwr ⟨0, 10, 0, 2, none⟩), ([0x18018423], .barSync ⟨0, 97, 35, none⟩),
    ([0x1800001F], .barArv ⟨0, 0, 31, none⟩), ([0x1A0000FF], .cbarSync ⟨0, 0, 255, none⟩),
    ([0x1A000105], .cbarArv ⟨0, 0, 261, none⟩), ([0x1C0E0000], .gopen ⟨7, 0, 0, 0, none⟩),
    ([0x1C079401], .gset ⟨3, 101, 0, 1, none⟩), ([0x1E0001FF], .trap ⟨0, 0, 511, none⟩)] : List (List Word × Instr)).all (fun x => decodes x.1 x.2) = true := by decide

/-- Integer vector (opcodes 0x10 to 0x25). -/
theorem test_decode_integer : ([
    ([0x21020818, 0x02000000], .iadd ⟨1, 2, 3, 0, xv 0 0 8 0 0⟩), ([0x22040C21], .isub ⟨2, 3, 4, 1, none⟩),
    ([0x2506102A, 0x02000000], .imul ⟨3, 4, 5, 2, xv 0 0 8 0 0⟩), ([0x26081433], .imulh ⟨4, 5, 6, 3, none⟩),
    ([0x290A183C, 0x02000000], .imac ⟨5, 6, 7, 4, xv 0 0 8 0 0⟩), ([0x2A0C1C45], .idiv ⟨6, 7, 8, 5, none⟩),
    ([0x2D0E204E, 0x02000000], .irem ⟨7, 8, 9, 6, xv 0 0 8 0 0⟩), ([0x2E102450], .imin ⟨8, 9, 10, 0, none⟩),
    ([0x31122859, 0x02000000], .imax ⟨9, 10, 11, 1, xv 0 0 8 0 0⟩), ([0x32142C62], .iabsd ⟨10, 11, 12, 2, none⟩),
    ([0x3516306B, 0x02000000], .iaddmin ⟨11, 12, 13, 3, xv 0 0 8 0 0⟩), ([0x36183474], .iaddmax ⟨12, 13, 14, 4, none⟩),
    ([0x391A387D, 0x02000000], .and ⟨13, 14, 15, 5, xv 0 0 8 0 0⟩), ([0x3A1C3C86], .or ⟨14, 15, 16, 6, none⟩),
    ([0x3D1E4088, 0x02000000], .xor ⟨15, 16, 17, 0, xv 0 0 8 0 0⟩), ([0x3E204491], .andn ⟨16, 17, 18, 1, none⟩),
    ([0x40020016], .mov ⟨1, 0, 2, 6, none⟩), ([0x40020410], .popc ⟨1, 1, 2, 0, none⟩),
    ([0x41020810, 0x0A000000], .clz ⟨1, 2, 2, 0, xv 0 0 40 0 0⟩),
    ([0x41020C17, 0x04240000], .brev ⟨1, 3, 2, 7, xv 0 0 16 36 0⟩), ([0x42BE0200], .movi ⟨95, 0, 512, none⟩),
    ([0x43020000, 0xDEADBEEF], .movi ⟨1, 0, 0, some 0xDEADBEEF⟩), ([0x44020818], .shl ⟨1, 2, 3, 0, none⟩),
    ([0x44020819], .shr ⟨1, 2, 3, 1, none⟩), ([0x4402081A], .sar ⟨1, 2, 3, 2, none⟩), ([0x4402081B], .rol ⟨1, 2, 3, 3, none⟩),
    ([0x46020818], .bfx ⟨1, 2, 3, 0, none⟩), ([0x46020819], .bfi ⟨1, 2, 3, 1, none⟩),
    ([0x47098832, 0x02000007], .lea ⟨4, 98, 6, 2, xv 0 0 8 0 7⟩),
    ([0x47081B23, 0x10000000], .iadd64 ⟨4, 6, 100, 3, xv 0 1 0 0 0⟩), ([0x480E081D], .icmp ⟨7, 2, 3, 5, none⟩),
    ([0x4A02081F], .sel ⟨1, 2, 3, 7, none⟩)] : List (List Word × Instr)).all (fun x => decodes x.1 x.2) = true := by decide

/-- Floating vector (opcodes 0x26 to 0x36). -/
theorem test_decode_floating : ([
    ([0x4C020818], .fadd ⟨1, 2, 3, 0, none⟩), ([0x4E020819], .fsub ⟨1, 2, 3, 1, none⟩),
    ([0x5002081A], .fmul ⟨1, 2, 3, 2, none⟩), ([0x5202081B], .ffma ⟨1, 2, 3, 3, none⟩),
    ([0x5402081C], .fmin ⟨1, 2, 3, 4, none⟩), ([0x5602081D], .fmax ⟨1, 2, 3, 5, none⟩),
    ([0x5802081E], .faddmin ⟨1, 2, 3, 6, none⟩), ([0x5A060417], .fcmp ⟨3, 1, 2, 7, none⟩),
    ([0x5C020010], .fclass ⟨1, 0, 2, 0, none⟩), ([0x5F020818, 0xB00000AB], .fdiv ⟨1, 2, 3, 0, xv 5 1 0 0 171⟩),
    ([0x60120060], .frcp ⟨9, 0, 12, 0, none⟩), ([0x60120460], .frsq ⟨9, 1, 12, 0, none⟩),
    ([0x60120860], .fsqrt ⟨9, 2, 12, 0, none⟩), ([0x60120C60], .fexp2 ⟨9, 3, 12, 0, none⟩),
    ([0x60121060], .flog2 ⟨9, 4, 12, 0, none⟩), ([0x60121460], .fsin ⟨9, 5, 12, 0, none⟩),
    ([0x60121860], .fcos ⟨9, 6, 12, 0, none⟩), ([0x60121C60], .ftanh ⟨9, 7, 12, 0, none⟩),
    ([0x63020818, 0x00800000], .hadd2 ⟨1, 2, 3, 0, xv 0 0 2 0 0⟩),
    ([0x65020818, 0x00800000], .hmul2 ⟨1, 2, 3, 0, xv 0 0 2 0 0⟩),
    ([0x67020818, 0x00800000], .hfma2 ⟨1, 2, 3, 0, xv 0 0 2 0 0⟩),
    ([0x69020818, 0x00800000], .hmin2 ⟨1, 2, 3, 0, xv 0 0 2 0 0⟩),
    ([0x6B020818, 0x00800000], .hmax2 ⟨1, 2, 3, 0, xv 0 0 2 0 0⟩),
    ([0x6D080818, 0x31000300], .dot4 ⟨4, 2, 3, 0, xv 1 1 4 0 768⟩)] : List (List Word × Instr)).all (fun x => decodes x.1 x.2) = true := by decide

/-- Conversion and cross-lane (opcodes 0x3C to 0x4A). -/
theorem test_decode_convert : ([
    ([0x79020800, 0x50400000], .cvt ⟨1, 2, 0, 0, xv 2 1 1 0 0⟩),
    ([0x7B020B18, 0x00C00100], .cvtsr ⟨1, 2, 99, 0, xv 0 0 3 0 256⟩),
    ([0x7D020818, 0x00C04000], .pack ⟨1, 2, 3, 0, xv 0 0 3 0 16384⟩),
    ([0x7F020800, 0x00004100], .unpack ⟨1, 2, 0, 0, xv 0 0 0 0 16640⟩),
    ([0x81020800, 0x01404000], .qscale ⟨1, 2, 0, 0, xv 0 0 5 0 16384⟩),
    ([0x83082000, 0x00001200], .signq ⟨4, 8, 0, 0, xv 0 0 0 0 4608⟩),
    ([0x85082000, 0x00002000], .ternq ⟨4, 8, 0, 0, xv 0 0 0 0 8192⟩),
    ([0x89020818, 0x00000021], .lshf ⟨1, 2, 3, 0, xv 0 0 0 0 33⟩), ([0x8A020818], .lperm ⟨1, 2, 3, 0, none⟩),
    ([0x8C020B08], .lbc ⟨1, 2, 97, 0, none⟩), ([0x8E020800], .voteAll ⟨1, 2, 0, 0, none⟩),
    ([0x8E0E1C01], .voteAny ⟨7, 7, 0, 1, none⟩), ([0x8EC00802], .voteBallot ⟨96, 2, 0, 2, none⟩),
    ([0x8E0A0803], .voteCount ⟨5, 2, 0, 3, none⟩), ([0x91C80800, 0x02800005], .lred ⟨100, 2, 0, 0, xv 0 0 10 0 5⟩),
    ([0x92020800], .lscan ⟨1, 2, 0, 0, none⟩), ([0x94038400], .lmatch ⟨1, 97, 0, 0, none⟩)] : List (List Word × Instr)).all (fun x => decodes x.1 x.2) = true := by decide

/-- Uniform (opcodes 0x4C to 0x59). -/
theorem test_decode_uniform : ([
    ([0x98C187F8], .sadd ⟨96, 97, 127, 0, none⟩), ([0x9AC187F8], .ssub ⟨96, 97, 127, 0, none⟩),
    ([0x9CC187F8], .smul ⟨96, 97, 127, 0, none⟩), ([0x9EC187F8], .sand ⟨96, 97, 127, 0, none⟩),
    ([0xA0C187F8], .sor ⟨96, 97, 127, 0, none⟩), ([0xA2C187F8], .sxor ⟨96, 97, 127, 0, none⟩),
    ([0xA4C18710], .sshl ⟨96, 97, 98, 0, none⟩), ([0xA4C18711], .sshr ⟨96, 97, 98, 1, none⟩),
    ([0xA6C18710], .smin ⟨96, 97, 98, 0, none⟩), ([0xA6C18711], .smax ⟨96, 97, 98, 1, none⟩),
    ([0xA8C00310], .smov ⟨96, 0, 98, 0, none⟩), ([0xAAFE03FF], .smovi ⟨127, 0, 1023, none⟩),
    ([0xACC18714], .scmp ⟨96, 97, 98, 4, none⟩), ([0xAEC98B7F], .sld ⟨100, 98, 6, 127, none⟩),
    ([0xB004000D], .srd ⟨2, 0, 13, none⟩), ([0xB2CC5000], .sfromv ⟨102, 20, 0, 0, none⟩)] : List (List Word × Instr)).all (fun x => decodes x.1 x.2) = true := by decide

/-- Memory and synchronisation (opcodes 0x5A to 0x66). -/
theorem test_decode_memory : ([
    ([0xB5080AC0, 0x89080200], .ld ⟨4, 2, 5, 64, some { xm with iv := 1, idx := 9, hint := 2, acq := 1 }⟩),
    ([0xB5098A01, 0x00000C00], .ldf ⟨4, 98, 4, 1, some { xm with clr := 1, fe := 1 }⟩),
    ([0xB5080800, 0x85001000], .ldPk ⟨4, 2, 0, 0, some { xm with iv := 1, idx := 5, pk := 1 }⟩),
    ([0xB7080B03, 0x00040100], .st ⟨4, 2, 6, 3, some { xm with hint := 1, rel := 1 }⟩),
    ([0xB7080B03, 0x00000400], .stf ⟨4, 2, 6, 3, some { xm with fe := 1 }⟩),
    ([0xB9020B00, 0x00000000], .feopSet ⟨1, 2, 6, 0, some { xm with aop := 0 }⟩),
    ([0xB9020B00, 0x00100000], .feopClear ⟨1, 2, 6, 0, some { xm with aop := 1 }⟩),
    ([0xB9020B00, 0x00200000], .feopTest ⟨1, 2, 6, 0, some { xm with aop := 2 }⟩),
    ([0xBB041280, 0x00220100], .atom ⟨2, 4, 5, 0, some { xm with aop := 2, sgn := 1, rel := 1 }⟩),
    ([0xBD082280, 0x00000200], .cas ⟨4, 8, 5, 0, some { xm with acq := 1 }⟩),
    ([0xBF041200, 0x00900000], .red ⟨2, 4, 4, 0, some { xm with aop := 9 }⟩), ([0xC0000000], .fenceAcq ⟨0, 0, 0, 0, none⟩),
    ([0xC0000001], .fenceRel ⟨0, 0, 0, 1, none⟩), ([0xC0000002], .fenceAr ⟨0, 0, 0, 2, none⟩),
    ([0xC2100B00], .cst ⟨8, 2, 6, 0, none⟩), ([0xC4000828], .abinit ⟨0, 2, 5, 0, none⟩),
    ([0xC4000829], .abexp ⟨0, 2, 5, 1, none⟩), ([0xC401830A], .abarr ⟨0, 96, 97, 2, none⟩),
    ([0xC400082B], .abwait ⟨0, 2, 5, 3, none⟩), ([0xC40C082C], .abtest ⟨6, 2, 5, 4, none⟩),
    ([0xC600017F], .waitc ⟨0, 0, 383, none⟩), ([0xC8000A3F], .pref ⟨0, 2, 4, 63, none⟩),
    ([0xCA145310], .hgl ⟨10, 20, 98, 0, none⟩), ([0xCC145310], .hga ⟨10, 20, 98, 0, none⟩)] : List (List Word × Instr)).all (fun x => decodes x.1 x.2) = true := by decide

/-- Matrix and engine commands (opcodes 0x6A to 0x78). -/
theorem test_decode_engine : ([
    ([0xD41F8000], .obres ⟨15, 96, 0, 0, none⟩), ([0xD6060000], .obrel ⟨3, 0, 0, 0, none⟩),
    ([0xD6078801], .obset ⟨3, 98, 0, 1, none⟩), ([0xD81E0000], .acz ⟨15, 0, 0, 0, none⟩),
    ([0xDA803C00], .acrd ⟨64, 15, 0, 0, none⟩), ([0xDC054000], .acwr ⟨2, 80, 0, 0, none⟩),
    ([0xDE041181], .acst ⟨2, 4, 3, 1, none⟩), ([0xE1020B10, 0x00C00100], .mxloop ⟨1, 2, 98, 0, xv 0 0 3 0 256⟩),
    ([0xE2020B10], .mxstep ⟨1, 2, 98, 0, none⟩), ([0xE4F00000], .cpyq ⟨30, 0, 0, 0, none⟩),
    ([0xE6200000], .gthq ⟨4, 0, 0, 0, none⟩), ([0xE8300000], .clpost ⟨6, 0, 0, 0, none⟩),
    ([0xEA40001F], .clctlQuery ⟨8, 0, 0, 31, none⟩), ([0xEA410000], .clctlAbort ⟨8, 1, 0, 0, none⟩),
    ([0xEC100000], .epopen ⟨2, 0, 0, 0, none⟩), ([0xEC110000], .epstep ⟨2, 1, 0, 0, none⟩),
    ([0xEC120000], .epclose ⟨2, 2, 0, 0, none⟩), ([0xEE100000], .rwsend ⟨2, 0, 0, 0, none⟩),
    ([0xF0100000], .lqtake ⟨2, 0, 0, 0, none⟩)] : List (List Word × Instr)).all (fun x => decodes x.1 x.2) = true := by decide

/-- System instructions (opcodes 0x7A to 0x7E). -/
theorem test_decode_system : ([
    ([0xF5190000, 0x00000118], .csrrd ⟨0, 100, 0, 0, some 0x118⟩),
    ([0xF5203280, 0x00000107], .csrwr ⟨1, 0, 101, 0, some 0x107⟩), ([0xF6173000], .fragrd ⟨0, 92, 96, 0, none⟩),
    ([0xF638B265], .fragres ⟨1, 98, 100, 101, none⟩), ([0xF6403265], .fragkill ⟨2, 0, 100, 101, none⟩),
    ([0xF8000000], .eret ⟨0, 0, 0, 0, none⟩), ([0xF83B8000], .svcwait ⟨1, 110, 0, 0, none⟩),
    ([0xFA003164], .tlbinv ⟨0, 0, 98, 100, none⟩), ([0xFA200064], .cacheop ⟨1, 0, 0, 100, none⟩),
    ([0xFA590065], .pmctl ⟨2, 100, 0, 101, none⟩), ([0xFD00F200, 0x00000105], .savex ⟨0, 3, 100, 0, some 0x105⟩),
    ([0xFD3901E5, 0x00001100], .restx ⟨1, 100, 3, 101, some 0x1100⟩)] : List (List Word × Instr)).all (fun x => decodes x.1 x.2) = true := by decide

/-- Clearing instructions. -/
theorem test_decode_clearing : ([
    (0x04000058, .cld ⟨8, 0, 0, 0x58⟩), (0x081A7FF8, .clearingCst ⟨0, 3, 4, 0x7FF8⟩), (0x10918000, .cadd ⟨1, 2, 3, 0x0⟩),
    (0x1DD08000, .csub ⟨11, 10, 1, 0x0⟩), (0x27F00000, .cmov ⟨15, 14, 0, 0x0⟩), (0x2D7FFFFF, .cmovi ⟨10, 0x7FFFFF⟩),
    (0x34C00000, .cbnz ⟨9, 0x400000⟩), (0x38000003, .cbra ⟨0, 0x3⟩), (0x459ABFE0, .csend ⟨11, 3, 5, 0x3FE0⟩),
    (0x4891DE00, .crecv ⟨1, 2, 3, 0x5E00⟩), (0x50918200, .cred ⟨1, 2, 3, 0x200⟩), (0x5891A020, .ccomp ⟨1, 2, 3, 0x2020⟩),
    (0x60118000, .csigFe ⟨0, 2, 3, 0x0⟩), (0x60118001, .csigAb ⟨0, 2, 3, 0x1⟩), (0x6CC00000, .cwaitFe ⟨9, 8, 0, 0x0⟩),
    (0x6CC00001, .cwaitPh ⟨9, 8, 0, 0x1⟩), (0x70918000, .cswred ⟨1, 2, 3, 0x0⟩), (0x78001234, .cend ⟨0, 0x1234⟩)] : List (Word × Instr)).all (fun x => clears x.1 x.2) = true := by decide

/-! ### Single steps on a small state -/

/-- The first words of registers, by register and lane. -/
def cells (l : List (Nat × List Nat)) : FMap Word :=
  l.flatMap fun r => ((List.range r.2.length).zip r.2).map fun x => (r.1 * 32 + x.1, BitVec.ofNat 32 x.2)
/-- A warp of workgroup 300 that issues, in lanes 0 to 3, the first instruction of the clause ws at 0x100000. -/
def warpOf (ws : List Word) (v : List (Nat × List Nat)) (u : List (Nat × Nat)) : Warp :=
  { live := true, wg := 300, nv := 96, ns := 32, nt := 16, na := 16, v := cells v, s := u.map fun x => (x.1, BitVec.ofNat 32 x.2),
    th := (List.range 4).map fun l => (l, { st := .active, addr := 0x100000 }),
    run := some { mask := 0xF, addr := 0x100000, slot := 0, words := ws } }
/-- That warp in slot 0 of core 0, released and of tenant 0. -/
def sample (ws : List Word) (v : List (Nat × List Nat)) (u : List (Nat × Nat)) : State :=
  { State.reset with
    nextId := 100
    cores := [(0, { released := true, tenant := 0, warps := [(0, warpOf ws v u)] })]
    wgs := [(300, { launch := noLaunch, core := 0, slots := [0], lsize := 0x10000 })] }
/-- The state after an instruction. -/
def out (i : Instr) (s : State) : State := match exec i s with | .next t => t | _ => s
/-- Register r of lanes 0 to 3, and what the outstanding results hold. -/
def lanes (r : Nat) (s : State) : List Nat := (List.range 4).map fun l => (s.warp.reg r l).toNat
def results (s : State) : List Nat := s.warp.ops.map (·.val)

def nums : State := sample [] [(1, [5, 5, 5, 5]), (2, [0x7FFFFFFF, 0x80000000, 0x00FF8001, 0xFFFFFFFF]),
  (3, [1, 0xFFFFFFFF, 0x00017FFF, 0x21])] [(0, 7), (1, 0xFFFFFFFE)]
/-- Register 1 after an instruction on registers 2 and 3. -/
def one (i : Instr) : List Nat := lanes 1 (out i nums)

/-- R130: IADD wraps, and under SAT clamps. -/
theorem test_iadd : one (.iadd ⟨1, 2, 3, 0, none⟩) = [0x80000000, 0x7FFFFFFF, 0x01010000, 0x20]
    ∧ one (.iadd ⟨1, 2, 3, 0, xv 0 1 0 0 0⟩) = [0x7FFFFFFF, 0x80000000, 0x01010000, 0x20]
    ∧ one (.iadd ⟨1, 2, 3, 0, xv 0 1 0x10 0 0⟩) = [0x7FFF0000, 0x8000FFFF, 0x01000000, 0xFFFF0020] := by decide
theorem test_isub : one (.isub ⟨1, 2, 3, 0, none⟩) = [0x7FFFFFFE, 0x80000001, 0x00FE0002, 0xFFFFFFDE] := by decide
theorem test_products : one (.imul ⟨1, 2, 3, 0, none⟩) = [0x7FFFFFFF, 0x80000000, 0x3F01FFFF, 0xFFFFFFDF]
    ∧ one (.imulh ⟨1, 2, 3, 0, none⟩) = [0, 0, 0x17F, 0xFFFFFFFF] ∧ one (.imulh ⟨1, 2, 3, 0, xv 0 0 8 0 0⟩) = [0, 0x7FFFFFFF, 0x17F, 0x20]
    ∧ one (.imac ⟨1, 2, 3, 0, none⟩) = [0x80000004, 0x80000005, 0x3F020004, 0xFFFFFFE4] := by decide
theorem test_extremes : one (.imin ⟨1, 2, 3, 0, none⟩) = [1, 0x80000000, 0x17FFF, 0xFFFFFFFF]
    ∧ one (.imax ⟨1, 2, 3, 0, none⟩) = [0x7FFFFFFF, 0xFFFFFFFF, 0xFF8001, 0x21]
    ∧ one (.imax ⟨1, 2, 3, 0, xv 0 0 8 0 0⟩) = [0x7FFFFFFF, 0xFFFFFFFF, 0xFF8001, 0xFFFFFFFF]
    ∧ one (.iabsd ⟨1, 2, 3, 0, none⟩) = [0x7FFFFFFE, 0x7FFFFFFF, 0xFE0002, 0x22] := by decide
/-- The example of R130: 0x7FFF_FFFF + 1 against 5, wrapped and clamped. -/
theorem test_iaddmin : one (.iaddmin ⟨1, 2, 3, 0, none⟩) = [0x80000000, 5, 5, 5]
    ∧ one (.iaddmin ⟨1, 2, 3, 0, xv 0 1 0 0 0⟩) = [5, 0x80000000, 5, 5]
    ∧ one (.iaddmax ⟨1, 2, 3, 0, none⟩) = [5, 0x7FFFFFFF, 0x1010000, 0x20] := by decide
theorem test_bitwise : one (.and ⟨1, 2, 3, 0, none⟩) = [1, 0x80000000, 0x10001, 0x21]
    ∧ one (.or ⟨1, 2, 3, 0, none⟩) = [0x7FFFFFFF, 0xFFFFFFFF, 0xFFFFFF, 0xFFFFFFFF]
    ∧ one (.xor ⟨1, 2, 3, 0, none⟩) = [0x7FFFFFFE, 0x7FFFFFFF, 0xFEFFFE, 0xFFFFFFDE]
    ∧ one (.andn ⟨1, 2, 3, 0, none⟩) = [0x7FFFFFFE, 0, 0xFE8000, 0xFFFFFFDE] := by decide
theorem test_counts : one (.popc ⟨1, 1, 3, 0, none⟩) = [1, 32, 16, 2] ∧ one (.clz ⟨1, 2, 3, 0, none⟩) = [31, 0, 15, 26]
    ∧ one (.brev ⟨1, 3, 3, 0, none⟩) = [0x80000000, 0xFFFFFFFF, 0xFFFE8000, 0x84000000] := by decide
/-- The count is the whole element: 0xFFFF_FFFF and 0x17FFF shift everything out; ROL takes it modulo 32 (R132). -/
theorem test_shifts : one (.shl ⟨1, 2, 3, 0, none⟩) = [0xFFFFFFFE, 0, 0, 0] ∧ one (.shr ⟨1, 2, 3, 1, none⟩) = [0x3FFFFFFF, 0, 0, 0]
    ∧ one (.sar ⟨1, 2, 3, 2, none⟩) = [0x3FFFFFFF, 0xFFFFFFFF, 0, 0xFFFFFFFF]
    ∧ one (.rol ⟨1, 2, 3, 3, none⟩) = [0xFFFFFFFE, 0x40000000, 0x807FC000, 0xFFFFFFFF] := by decide
/-- A butterfly reads lane L xor 1 (R84). -/
theorem test_mov : one (.mov ⟨1, 0, 3, 1, none⟩) = [0xFFFFFFFF, 1, 0x21, 0x17FFF] ∧ one (.movi ⟨1, 0, 0x3FF, none⟩) = [0xFFFFFFFF, 0xFFFFFFFF, 0xFFFFFFFF, 0xFFFFFFFF]
    ∧ one (.sel ⟨1, 2, 3, 7, none⟩) = [0x7FFFFFFF, 0x80000000, 0x00FF8001, 0xFFFFFFFF] := by decide
/-- R131: the quotient truncates, −2^31 over −1 gives −2^31 and 0, and a zero divisor all ones and x. -/
theorem test_division : results (out (.idiv ⟨1, 2, 3, 0, none⟩) nums) = [0x7FFFFFFF, 0x80000000, 0xAA, 0]
    ∧ results (out (.irem ⟨1, 2, 3, 0, none⟩) nums) = [0, 0, 0x80AB, 0xFFFFFFFF]
    ∧ results (out (.idiv ⟨1, 2, 9, 0, none⟩) nums) = [0xFFFFFFFF, 0xFFFFFFFF, 0xFFFFFFFF, 0xFFFFFFFF]
    ∧ results (out (.irem ⟨1, 2, 9, 0, none⟩) nums) = [0x7FFFFFFF, 0x80000000, 0x00FF8001, 0xFFFFFFFF] := by decide

/-- Bit fields at position 7 and length 12, and one that reaches past the register (R134). -/
def fields : State := sample [] [(1, [0xFFFFFFFF, 0xFFFFFFFF]), (2, [0x00FF8001, 0x2D, 0xF0000000]), (3, [0x0C07, 0x0604, 0xFF1C])] []
theorem test_fields : lanes 1 (out (.bfx ⟨1, 2, 3, 0, none⟩) fields) = [0xFFFFFF00, 2, 0xFFFFFFFF, 0]
    ∧ (lanes 1 (out (.bfi ⟨1, 2, 3, 1, none⟩) fields)).take 2 = [0xFFF800FF, 0xFFFFFEDF] := by decide
/-- Pairs: a carry into the high word, and a signed index shifted (R135). -/
def pairs : State := sample [] [(4, [0xFFFFFFFF]), (5, [0]), (6, [1]), (7, [0]), (8, [0xFFFFFFFF])] []
theorem test_pairs : ((out (.iadd64 ⟨2, 4, 6, 3, none⟩) pairs).warp.reg64 2 0, (out (.lea ⟨2, 4, 8, 2, xv 0 0 0 0 3⟩) pairs).warp.reg64 2 0)
    = (0x100000000, 0xFFFFFFF7) := by decide
/-- Predicates: signed and unsigned less-than (R136), and a vote (R157). -/
def preds (i : Instr) (p : Nat) : List Bool := (List.range 4).map fun l => (out i nums).warp.pred p l
theorem test_icmp : preds (.icmp ⟨0, 2, 3, 2, none⟩) 0 = [false, true, false, true]
    ∧ preds (.icmp ⟨0, 2, 3, 2, xv 0 0 8 0 0⟩) 0 = [false, true, false, false] := by decide
theorem test_votes : lanes 1 (out (.voteBallot ⟨1, 7, 0, 2, none⟩) nums) = [15, 15, 15, 15]
    ∧ preds (.voteAny ⟨2, 1, 0, 1, none⟩) 2 = [false, false, false, false] ∧ preds (.voteAll ⟨2, 7, 0, 0, none⟩) 2 = [true, true, true, true] := by decide
/-- Uniform arithmetic on 7 and −2: s2 (R147). -/
def uni (i : Instr) : Nat := ((out i nums).warp.reg 98 0).toNat
theorem test_uniform : [uni (.sadd ⟨98, 96, 97, 0, none⟩), uni (.ssub ⟨98, 96, 97, 0, none⟩), uni (.smul ⟨98, 96, 97, 0, none⟩),
    uni (.sand ⟨98, 96, 97, 0, none⟩), uni (.sor ⟨98, 96, 97, 0, none⟩), uni (.sxor ⟨98, 96, 97, 0, none⟩), uni (.sshl ⟨98, 97, 96, 0, none⟩),
    uni (.sshr ⟨98, 97, 96, 1, none⟩), uni (.sshr ⟨98, 97, 96, 1, xv 0 0 8 0 0⟩), uni (.smin ⟨98, 96, 97, 0, none⟩), uni (.smax ⟨98, 96, 97, 1, none⟩),
    uni (.smov ⟨98, 0, 97, 0, none⟩), uni (.smovi ⟨98, 0, 0, some 0xABCD⟩), uni (.scmp ⟨98, 97, 96, 2, none⟩), uni (.sfromv ⟨98, 3, 0, 0, none⟩)]
    = [5, 9, 0xFFFFFFF2, 6, 0xFFFFFFFF, 0xFFFFFFF9, 0xFFFFFF00, 0xFFFFFFFF, 0x1FFFFFF, 0xFFFFFFFE, 7, 0xFFFFFFFE, 0xABCD, 1, 1] := by decide

/-- FP32 values: 1.0, 3.0, −0 and a NaN in register 2; 2^-24, 0.5, +0 and 2.0 in register 3; 1.0 in register 1. -/
def floats : State := sample [] [(1, [0x3F800000, 0x3F800000, 0x3F800000, 0x3F800000]), (2, [0x3F800000, 0x40400000, 0x80000000, 0x7FC00001]),
  (3, [0x33800000, 0x3F000000, 0, 0x40000000])] []
def fone (i : Instr) : List Nat := lanes 1 (out i floats)
/-- 1 + 2^-24 is a tie, which goes to even; rounding up takes the next value (R138, R53). -/
theorem test_fadd : fone (.fadd ⟨1, 2, 3, 0, none⟩) = [0x3F800000, 0x40600000, 0, 0x7FC00000]
    ∧ fone (.fadd ⟨1, 2, 3, 0, xv 2 0 0 0 0⟩) = [0x3F800001, 0x40600000, 0, 0x7FC00000] := by decide +kernel
theorem test_fmul : fone (.fmul ⟨1, 2, 3, 0, none⟩) = [0x33800000, 0x3FC00000, 0x80000000, 0x7FC00000]
    ∧ fone (.ffma ⟨1, 2, 3, 0, none⟩) = [0x3F800000, 0x40200000, 0x3F800000, 0x7FC00000]
    ∧ (fone (.fsub ⟨1, 2, 3, 0, none⟩)).drop 1 = [0x40200000, 0x80000000, 0x7FC00000] := by decide +kernel
theorem test_fmin : fone (.fmin ⟨1, 2, 3, 0, none⟩) = [0x33800000, 0x3F000000, 0x80000000, 0x40000000]
    ∧ fone (.fmax ⟨1, 3, 2, 0, none⟩) = [0x3F800000, 0x40400000, 0, 0x40000000]
    ∧ fone (.faddmin ⟨1, 2, 3, 0, none⟩) = [0x3F800000, 0x3F800000, 0, 0x3F800000] := by decide +kernel
theorem test_fclass : fone (.fclass ⟨1, 0, 2, 0, none⟩) = [0x40, 0x40, 8, 0x100] := by decide +kernel
theorem test_fcmp : ((List.range 4).map fun l => (out (.fcmp ⟨1, 2, 3, 1, none⟩) floats).warp.pred 1 l) = [true, true, false, true] := by decide +kernel
/-- 1/3, √2, 1/√2, 2^0.5, log2 3, and sin, cos and tanh of 1, as the correctly rounded FP32 values. -/
def args : State := sample [] [(2, [0x3F800000]), (3, [0x40400000]), (4, [0x40000000]), (5, [0x3F000000])] []
def long (i : Instr) : Nat := (results (out i args)).headD 0
theorem test_functions : [long (.fdiv ⟨1, 2, 3, 0, none⟩), long (.frcp ⟨1, 0, 3, 0, none⟩), long (.fsqrt ⟨1, 2, 4, 0, none⟩),
    long (.frsq ⟨1, 1, 4, 0, none⟩)] = [0x3EAAAAAB, 0x3EAAAAAB, 0x3FB504F3, 0x3F3504F3] := by decide +kernel
theorem test_transcendental : [long (.fexp2 ⟨1, 3, 5, 0, none⟩), long (.flog2 ⟨1, 4, 3, 0, none⟩), long (.fsin ⟨1, 5, 2, 0, none⟩),
    long (.fcos ⟨1, 6, 2, 0, none⟩), long (.ftanh ⟨1, 7, 2, 0, none⟩)]
    = [0x3FB504F3, 0x3FCAE00D, 0x3F576AA4, 0x3F0A5140, 0x3F42F7D6] := by decide +kernel
/-- Packed BF16 1.0 and 2.0 against 1.0 and 0.5, onto 1.0 and 1.0; four E4M3 ones (R143, R144). -/
def packed : State := sample [] [(1, [0x3F803F80]), (2, [0x40003F80]), (3, [0x3F003F80]), (4, [0x38383838]), (5, [0x3F800000])] []
def pone (i : Instr) (r : Nat) : Nat := ((out i packed).warp.reg r 0).toNat
theorem test_packed : [pone (.hadd2 ⟨1, 2, 3, 0, none⟩) 1, pone (.hmul2 ⟨1, 2, 3, 0, none⟩) 1, pone (.hfma2 ⟨1, 2, 3, 0, none⟩) 1,
    pone (.hmin2 ⟨1, 2, 3, 0, none⟩) 1, pone (.hmax2 ⟨1, 2, 3, 0, none⟩) 1, pone (.dot4 ⟨5, 4, 4, 0, none⟩) 5]
    = [0x40204000, 0x3F803F80, 0x40004000, 0x3F003F80, 0x40003F80, 0x40A00000] := by decide +kernel
/-- FP32 1.0 and 2.0 into BF16, and BF16 out to FP32 (R163, R164). -/
def convs : State := sample [] [(1, [0xFFFFFFFF]), (2, [0x3F800000]), (3, [0x40000000]), (4, [0x40003F80])] [(0, 0)]
def cone (i : Instr) : Nat := ((out i convs).warp.reg 1 0).toNat
theorem test_conversions : [cone (.cvt ⟨1, 2, 0, 0, xv 0 0 1 0 0⟩), cone (.cvtsr ⟨1, 2, 96, 0, xv 0 0 1 0 0⟩), cone (.pack ⟨1, 2, 3, 0, xv 0 0 1 0 0⟩),
    cone (.unpack ⟨1, 4, 0, 0, xv 0 0 0 0 0x0100⟩), cone (.unpack ⟨1, 4, 0, 0, xv 0 0 0 0 0x4100⟩)]
    = [0x3F80, 0x3F80, 0x40003F80, 0x3F800000, 0x40000000] := by decide +kernel
/-- Lane moves of 10, 11, 12, 13 with fill 90 (R155, R156), sums over them (R160), and equal lanes (R158). -/
def moves : State := sample [] [(1, [0, 0, 0, 0]), (2, [10, 11, 12, 13]), (3, [90, 1, 1, 0]), (4, [7, 8, 7, 8])] [(0, 2)]
theorem test_lanes : [lanes 1 (out (.lshf ⟨1, 2, 3, 0, xv 0 0 0 0 1⟩) moves), lanes 1 (out (.lshf ⟨1, 2, 3, 0, xv 0 0 0 0 33⟩) moves),
    lanes 1 (out (.lperm ⟨1, 2, 3, 0, none⟩) moves), lanes 1 (out (.lbc ⟨1, 2, 96, 0, none⟩) moves),
    lanes 1 (out (.lred ⟨1, 2, 0, 0, xv 0 0 0x0A 0 0⟩) moves), lanes 1 (out (.lscan ⟨1, 2, 0, 0, xv 0 0 0x0A 0 0⟩) moves),
    lanes 1 (out (.lmatch ⟨1, 4, 0, 0, none⟩) moves)]
    = [[90, 10, 11, 12], [11, 12, 13, 13], [10, 11, 11, 10], [12, 12, 12, 12], [46, 46, 46, 46], [10, 21, 33, 46], [5, 10, 5, 10]] := by decide +kernel

/-! ### Witnesses: states and operands that meet the hypotheses of each statement -/

/-- A well-formed instruction that passes every check before its own effect, as a value. -/
def ready (i : Instr) (s : State) : Bool := i.wf && (s.gate i).isNone
theorem ready_runs (i : Instr) (s : State) : ready i s = true ↔ i.wf = true ∧ Runs i s := by
  simp only [ready, Bool.and_eq_true, Option.isNone_iff_eq_none, gate_none]
def isNext (o : Host.Outcome State Fault Refusal) : Bool := match o with | .next _ => true | _ => false
/-- An address or a number that a check answers. -/
def okIs {α ε : Type} [DecidableEq α] (e : Except ε α) (a : α) : Bool := match e with | .ok b => decide (b = a) | .error _ => false
def errIs {α : Type} (e : Except Cause α) (c : Cause) : Bool := match e with | .error b => b == c | .ok _ => false

theorem witness_DecodeEncodeRoundTrip : ([.iadd ⟨4, 2, 3, 0, none⟩, .cadd ⟨1, 2, 3, 0⟩, .scrub] : List Instr).map
    (fun i => (i.wf, formOf i)) = [(true, .core), (true, .clearing), (true, .event)] := by decide
theorem witness_DecodedWordsAreTheEncoding : Decode.words [0x20080818#32, 5#32] = .ok (.iadd ⟨4, 2, 3, 0, none⟩, [5#32])
    ∧ Decode.clr 0x78000000#32 = .ok (.cend ⟨0, 0⟩) := ⟨rfl, rfl⟩
theorem witness_UnassignedOpcodesAreRefused : Decode.opcode 0x6E000000#32 = 0x37 ∧ Decode.opcode 0xFFFFFFFF#32 = 0x7F
    ∧ 0x80000000 ≤ (0x80000000#32).toNat := by decide
theorem witness_StepKeepsMemoryCanonical : memWf State.reset.mem = true ∧ isNext (Sys2Proof.Machine.step State.reset) = true := by
  decide +kernel
theorem witness_MemoryAndPairsAreLittleEndian : 0xFFFF < 256 ^ 2 ∧ (94 + 1 < 96 ∨ 96 ≤ 94) ∧ 31 < 32 ∧ 2 ^ 64 - 1 < 2 ^ 64 := by decide
/-- Core 191: die 3, column 7, row 5. -/
theorem witness_CorePlaces : ({ State.reset with cur := { core := 191, slot := 0 } } : State).cur.core = 3 * 48 + (5 * 8 + 7) := by decide
theorem witness_HomeOfEveryByte : homeCore 0x01002FFFFFFF = some 191 ∧ homeCore 0x010000000000 = some 0 ∧ homeCore 0 = some 0 := by
  decide +kernel
/-- The first and last bytes of the window: executed, of another tenant, beyond the flat size, and translated. -/
theorem witness_FlatWindowTranslation : let s := nums
    191 < 192 ∧ 2 ^ 22 - 1 < 2 ^ 22 ∧ (s.core 0).tenant = 0 ∧ (s.core 191).tenant ≠ 0 ∧ s.flatBytes ≤ 2 ^ 22 - 1 ∧ ¬ s.flatBytes ≤ 0 := by
  decide +kernel

/-- The instruction that is due in a turn of core 0's partition 0. -/
def due (s : State) : Option (Word × Option Word × Nat) :=
  match s.nextTurn.2.turnOf 0 0 with | (v, true) => v.warp.run.bind fun r => (clauseInstrs r.words)[r.slot]? | _ => none
/-- Its clause, turn, power and release. -/
def atIssue (s : State) : Bool := s.nextTurn.1 == .issue 0 0 && !s.nextTurn.2.power.down && (s.nextTurn.2.core 0).released
  && !(s.nextTurn.2.die 0).halted
theorem witness_StepRunsTheDecodedInstruction : let s := State.reset.withFetchWord 32 0x20080818
    atIssue s = true ∧ due s = some (0x20080818#32, none, 1) ∧ Decode.core 0x20080818#32 none = .ok (.iadd ⟨4, 2, 3, 0, none⟩) := by
  refine ⟨?_, ?_, rfl⟩ <;> decide +kernel
/-- SVCWAIT in the service warp. -/
theorem witness_StepRunsTheDecodedInstruction_service : let s := State.reset.withFetchWord 32 0xF8398000
    s.nextTurn.1 = .service 0 ∧ s.nextTurn.2.power.down = false ∧ (s.nextTurn.2.core 0).released = true
    ∧ (s.nextTurn.2.turnOfService 0).2 = true
    ∧ ((s.nextTurn.2.turnOfService 0).1.warp.run.bind fun r => (clauseInstrs r.words)[r.slot]?) = some (0xF8398000#32, none, 1)
    ∧ Decode.core 0xF8398000#32 none = .ok (.svcwait ⟨1, 102, 0, 0, none⟩) := by
  refine ⟨?_, ?_, ?_, ?_, ?_, rfl⟩ <;> decide +kernel
/-- An unassigned opcode is due. -/
theorem witness_StepFaultsOnBadWords : let s := State.reset.withFetchWord 32 0xFE000000
    atIssue s = true ∧ due s = some (0xFE000000#32, none, 1) ∧ Decode.core 0xFE000000#32 none = .error .illegalOpcode := by
  refine ⟨?_, ?_, rfl⟩ <;> decide +kernel
/-- HADD2 with format code 0x3F, which is reserved, of registers within the counts and beyond them. -/
theorem witness_StepFaultsOnBadWords_format : let s := State.reset.withFetchWord 64 (1661470744 + 2 ^ 32 * 264241152)
    atIssue s = true ∧ due s = some (1661470744#32, some 264241152#32, 1) ∧ Decode.core 1661470744#32 (some 264241152#32) = .error .formatReserved
    ∧ Decode.parse 1661470744#32 (some 264241152#32) = some (.hadd2 ⟨4, 2, 3, 0, some ⟨0, 0, 0x3F, 0, 0⟩⟩)
    ∧ ((s.core 0).warp 0).countsOk (.hadd2 ⟨4, 2, 3, 0, some ⟨0, 0, 0x3F, 0, 0⟩⟩) = true
    ∧ ({ (s.core 0).warp 0 with nv := 4 } : Warp).countsOk (.hadd2 ⟨4, 2, 3, 0, some ⟨0, 0, 0x3F, 0, 0⟩⟩) = false := by
  refine ⟨?_, ?_, rfl, rfl, ?_, ?_⟩ <;> decide +kernel
/-- CSUB c11, c10, c1 is due on processor 0; a scrub event; and a word that is no clearing instruction. -/
def atClear : State := State.reset.withFetchWord 32 0x1DD08000
def badClear : State := { atClear with mem := wrBytes atClear.mem 0x100000 (leBytes 4 0x80000000) }
theorem witness_StepRunsClearingAndEvents : atClear.nextTurn.1 = .clear 0 0
    ∧ (atClear.nextTurn.2.clearTurn 0 0).2 = some (.csub ⟨11, 10, 1, 0⟩) ∧ atClear.power.down = false
    ∧ ({ State.reset with agenda := [.event .scrub {}] } : State).nextTurn.1 = .event .scrub {} ∧ formOf .scrub = .event := by
  decide +kernel
theorem witness_StepRunsClearingAndEvents_range : let s := badClear; let c := ({ s with cur := { core := 0, slot := 0 } } : State).clear
    (c.coll.map fun x => (x.abort, x.fAlgo, s.posted x.cmd)) = some (false, 3, false) ∧ c.ended = none ∧ (s.die 0).halted = false
    ∧ isFabric 0x100000 = false ∧ s.swHeld 0x100000 4 = false
    ∧ okIs (s.hubTranslate 0 c.pc .ex) 0x100000 = true ∧ s.bad 0x100000 4 = false ∧ s.rdN 0x100000 4 = 0x80000000 := by decide +kernel
theorem witness_ClausesAreMemorysWords : let s := State.reset.withFetchWord 32 0x20080818
    s.fetchClause 0 0 0x100000 = .present [0x00000001#32, 0x20080818#32] ∧ isHbm 0x100000 = true ∧ s.bad 0x100000 4 = false
    ∧ (s.warpAt 0 0).mode = .tenant ∧ okIs (s.translate 0 (s.warpAt 0 0).tenant 0x100000 .ex) 0x100000 = true := by decide +kernel

/-- Variants of the small state: in a handler, in the service warp, with few registers, and with a damaged register. -/
def handler : State := nums.updWarp fun w => { w with mode := .save, drained := true }
def serviceWarp : Warp := { warpOf [] [(1, [5, 5, 5, 5])] [(0, 7), (1, 0)] with wg := 0, tenant := 0xFF }
def service : State := { nums with cur := { core := 0, slot := 64 }, cores := [(0, { released := true, warps := [(64, serviceWarp)] })] }
def few : State := nums.updWarp fun w => { w with nv := 2 }
def damaged : State := nums.updWarp fun w => { w with bad := [2 * 32 + 3] }
theorem witness_IssueChecksFault : (isSys (.csrrd ⟨0, 1, 0, 0, some 0⟩) = true ∧ nums.warp.mode = .tenant ∧ nums.cur.slot ≠ 64)
    ∧ (svcOnly (.fragkill ⟨2, 0, 100, 101, none⟩) = true ∧ handler.warp.mode ≠ .tenant)
    ∧ (few.warp.countsOk (.iadd ⟨1, 2, 3, 0, none⟩) = false ∧ isSys (.iadd ⟨1, 2, 3, 0, none⟩) = false)
    ∧ namesMask (.join ⟨0, 0, 0, 1, none⟩) = true ∧ service.cur.slot = 64
    ∧ (damaged.warp.countsOk (.iadd ⟨1, 2, 3, 0, none⟩) = true ∧ damaged.warp.readsBad damaged.mask (.iadd ⟨1, 2, 3, 0, none⟩) = true) := by
  decide +kernel
theorem witness_ExceptionEntry : let fs : List LaneFault := [(0, .misaligned, 1), (3, .protection, 2)]
    nums.cur.slot ≠ 64 ∧ nums.warp.mode = .tenant ∧ fs ≠ [] ∧ (fs.map (·.1)).Nodup ∧ (∀ f ∈ fs, f.1 < 32)
    ∧ (nums.core nums.cur.core).freeFrag = some 0 := by decide +kernel
/-- Every entry of the fragment table is taken. -/
def full : State := nums.updCore 0 fun k => { k with frags := (List.range 64).map fun i => (i, { valid := true }) }
theorem witness_StoppingFaults : full.cur.slot ≠ 64 ∧ full.warp.mode = .tenant ∧ (full.core full.cur.core).freeFrag = none
    ∧ service.cur.slot = 64 ∧ handler.cur.slot ≠ 64 ∧ handler.warp.mode ≠ .tenant := by decide +kernel

/-- Every integer form at operands of its own: with types, saturation, permutations. -/
theorem witness_integers : ([.iadd ⟨1, 2, 3, 0, none⟩, .isub ⟨1, 2, 3, 1, none⟩, .imul ⟨1, 2, 3, 0, xv 0 1 0 0 0⟩, .imulh ⟨1, 2, 3, 0, xv 0 0 8 0 0⟩,
    .imac ⟨1, 2, 3, 6, none⟩, .imin ⟨1, 2, 3, 7, xv 0 0 0x28 0 0⟩, .imax ⟨1, 2, 97, 0, none⟩, .iabsd ⟨1, 96, 3, 0, none⟩, .iaddmin ⟨1, 2, 3, 0, none⟩,
    .iaddmax ⟨95, 2, 3, 0, none⟩, .and ⟨1, 2, 3, 0, none⟩, .or ⟨1, 2, 3, 0, none⟩, .xor ⟨1, 2, 3, 0, none⟩, .andn ⟨1, 2, 3, 0, none⟩,
    .shl ⟨1, 2, 3, 0, none⟩, .shr ⟨1, 2, 3, 1, none⟩, .sar ⟨1, 2, 3, 2, xv 0 0 0x20 0 0⟩, .rol ⟨1, 2, 3, 3, none⟩, .popc ⟨1, 1, 3, 0, none⟩,
    .clz ⟨1, 2, 3, 0, none⟩, .brev ⟨1, 3, 3, 0, none⟩, .mov ⟨1, 0, 3, 6, none⟩, .movi ⟨1, 0, 0, some 9⟩, .bfx ⟨1, 2, 3, 0, none⟩,
    .bfi ⟨1, 2, 3, 1, none⟩, .lea ⟨4, 2, 3, 2, none⟩, .iadd64 ⟨4, 2, 96, 3, none⟩, .icmp ⟨7, 2, 3, 5, none⟩, .sel ⟨1, 2, 3, 7, none⟩,
    .idiv ⟨1, 2, 3, 0, none⟩, .irem ⟨1, 2, 3, 0, xv 0 0 8 0 0⟩, .sadd ⟨98, 96, 97, 0, none⟩, .ssub ⟨98, 96, 97, 0, none⟩, .smul ⟨98, 96, 97, 0, none⟩,
    .sand ⟨98, 96, 97, 0, none⟩, .sor ⟨98, 96, 97, 0, none⟩, .sxor ⟨98, 96, 97, 0, none⟩, .sshl ⟨98, 96, 97, 0, none⟩, .sshr ⟨98, 96, 97, 1, none⟩,
    .smin ⟨98, 96, 97, 0, none⟩, .smax ⟨98, 96, 97, 1, none⟩, .smov ⟨98, 0, 97, 0, none⟩, .smovi ⟨98, 0, 3, none⟩, .scmp ⟨98, 96, 97, 4, none⟩,
    .sfromv ⟨98, 2, 0, 0, none⟩, .srd ⟨1, 0, 0, none⟩, .srd ⟨4, 0, 0x0D, none⟩, .srd ⟨100, 0, 0x0A, none⟩] : List Instr).all (ready · nums) = true := by
  decide +kernel
theorem witness_SpecialRegisterReads : serviceOpen 6 = false ∧ serviceOpen 0x0D = false ∧ service.cur.slot = 64 := by decide +kernel
/-- The ends of .i8 and .n32. -/
theorem witness_FittedElements : tyWidth 4 = 8 ∧ tySigned 4 = true ∧ (-(2 ^ 7) : Int) ≤ -128 ∧ (127 : Int) ≤ 2 ^ 7 - 1 ∧ tySigned 1 = false := by
  decide
/-- Every floating form, conversion and cross-lane form. -/
theorem witness_floats : ([.fadd ⟨1, 2, 3, 0, none⟩, .fsub ⟨1, 2, 3, 0, xv 2 0 0 0 0⟩, .fmul ⟨1, 2, 3, 0, xv 5 0 0 0 7⟩, .ffma ⟨1, 2, 3, 0, xv 0 1 0 0 0⟩,
    .hadd2 ⟨1, 2, 3, 0, none⟩, .hmul2 ⟨1, 2, 3, 0, xv 0 0 2 0 0⟩, .hfma2 ⟨1, 2, 3, 0, none⟩, .dot4 ⟨1, 2, 3, 0, xv 0 0 4 0 0x300⟩, .faddmin ⟨1, 2, 3, 0, none⟩,
    .fmin ⟨1, 2, 3, 0, none⟩, .fmax ⟨1, 2, 3, 0, none⟩, .hmin2 ⟨1, 2, 3, 0, none⟩, .hmax2 ⟨1, 2, 3, 0, none⟩, .fcmp ⟨0, 2, 3, 6, none⟩,
    .fclass ⟨1, 0, 3, 0, none⟩, .fdiv ⟨1, 2, 3, 0, none⟩, .frcp ⟨1, 0, 3, 0, none⟩, .frsq ⟨1, 1, 3, 0, none⟩, .fsqrt ⟨1, 2, 3, 0, none⟩,
    .fexp2 ⟨1, 3, 3, 0, none⟩, .flog2 ⟨1, 4, 3, 0, none⟩, .fsin ⟨1, 5, 3, 0, none⟩, .fcos ⟨1, 6, 3, 0, none⟩, .ftanh ⟨1, 7, 3, 0, none⟩,
    .cvt ⟨1, 2, 0, 0, xv 0 0 1 0 0⟩, .cvtsr ⟨1, 2, 96, 0, xv 0 0 1 0 0⟩, .pack ⟨1, 2, 3, 0, xv 0 0 1 0 0⟩, .unpack ⟨1, 2, 0, 0, xv 0 0 0 0 0x4100⟩,
    .qscale ⟨1, 2, 0, 0, xv 0 0 3 0 0⟩, .qscale ⟨1, 2, 0, 0, xv 0 0 3 0 0x4000⟩, .signq ⟨1, 2, 0, 0, xv 0 0 0 0 0⟩,
    .signq ⟨4, 8, 0, 0, xv 0 0 0 0 0x1200⟩, .ternq ⟨1, 2, 0, 0, xv 0 0 0 0 0x2000⟩,
    .lshf ⟨1, 2, 3, 0, xv 0 0 0 0 31⟩, .lperm ⟨1, 2, 3, 0, none⟩, .lbc ⟨1, 2, 96, 0, none⟩, .voteAll ⟨1, 2, 0, 0, none⟩, .voteAny ⟨1, 7, 0, 1, none⟩,
    .voteBallot ⟨96, 7, 0, 2, none⟩, .voteCount ⟨1, 0, 0, 3, none⟩, .lmatch ⟨1, 2, 0, 0, none⟩, .lred ⟨1, 2, 0, 0, none⟩,
    .lscan ⟨1, 2, 0, 0, xv 0 0 0x0A 0 4⟩] : List Instr).all (ready · nums) = true := by decide +kernel
theorem witness_uniformOperands : nums.differing 96 1 = [] ∧ cvtTop ⟨1, 2, 0, 0, xv 0 0 3 0 0⟩ = 0 ∧ cvtTop ⟨1, 2, 0, 0, xv 0 0 3 0 0x4000⟩ ≠ 0 := by
  decide +kernel
/-- The greatest FP32 value, and a subnormal E4M3. -/
theorem witness_RepresentableValuesRoundToThemselves : (ffmt 0).isSome ∧ (ffmt 3).isSome ∧ (decodeE 0 0x7F7FFFFF).isNan = false
    ∧ (decodeE 3 1).isNan = false := by decide +kernel
theorem witness_DotProductAndFusedMinimum : (dec32 0x3F800000#32).isNan = false ∧ (dec32 0x80000000#32).isZero = true := by decide +kernel
/-- Two NaNs, one, an order, and the zeros. -/
theorem witness_MinimumAndMaximum : let d := decodeE 0
    (ffmt 0).isSome ∧ (d 0x7FC00001).isNan = true ∧ (d 0x3F800000).isNan = false ∧ cmpF (d 0x3F800000) (d 0x40000000) < 0
    ∧ 0 < cmpF (d 0x40000000) (d 0x3F800000) ∧ (d 0x80000000).isZero = true ∧ (d 0x80000000).neg = true ∧ (d 0).neg = false := by decide +kernel
/-- A NaN, −∞, a normal, a subnormal and a zero. -/
theorem witness_FloatComparisonAndClass : [0x7F800001, 0xFF800000, 0x00800000, 0x80000001, 0x80000000].map
    (fun (n : Nat) => let x := BitVec.ofNat 32 n; (x.toNat / 2 ^ 23 % 2 ^ 8, decide (x.toNat % 2 ^ 23 = 0)))
    = [(255, false), (255, true), (1, true), (0, false), (0, true)] := by decide +kernel

/-! Control flow: a clause of one instruction whose branch has a target block after it. -/

/-- A header of one instruction, and the instruction; then, in memory, a block of two targets, both the clause itself. -/
def jumps : State :=
  let s := sample [0x00000001#32, 0x0C000000#32] [(2, [0x100000, 0x100000, 0x100000, 0x100000])] [(4, 1)]
  { s with mem := wrBytes (placeTables s.mem) 0x100008 (leBytes 12 (0xB7B70002 + 2 ^ 32 * 0xFFFFFFFE + 2 ^ 64 * 0xFFFFFFFE)),
           tenants := [(0, { root := 0x10000 })] }
theorem witness_ControlTransfers : jumps.warp.run.isSome = true ∧ (∀ l ∈ jumps.lanes, jumps.warp.reg64 2 l % 4 = 0)
    ∧ ([.bra ⟨0, 4, none⟩, .brp ⟨15, 4, none⟩, .call ⟨1, 4, none⟩, .ret ⟨0, 2, 0, 0, none⟩] : List Instr).all (ready · jumps) = true := by decide +kernel
theorem witness_IndirectTransfers : (jumps.warp.run.map (·.after)) = some 0x100008
    ∧ okIs (jumps.fetchWord 0 0 0x100008) 0xB7B70002#32 = true ∧ bitsOf 0xB7B70002 31 8 = 0xB7B700
    ∧ okIs (jumps.fetchWord 0 0 0x10000C) 0xFFFFFFFE#32 = true ∧ okIs (jumps.fetchWord 0 0 0x100010) 0xFFFFFFFE#32 = true
    ∧ modW 64 ((0x100008 : Int) + 4 * sext 32 0xFFFFFFFE) = 0x100000
    ∧ (∀ l ∈ jumps.lanes, jumps.warp.reg64 2 l = 0x100000 ∧ (jumps.warp.reg 100 l).toNat = 1)
    ∧ ([.jmpx ⟨0, 2, 0, 0, none⟩, .callx ⟨4, 2, 0, 0, none⟩, .brt ⟨0, 100, 0, 0, none⟩] : List Instr).all (ready · jumps) = true := by decide +kernel
theorem witness_ConvergenceMasks : ([.meet ⟨11, 4, none⟩, .leave ⟨0, 0, 0, 0, none⟩, .join ⟨11, 0, 0, 1, none⟩, .kmov ⟨96, 11, 0, 0, none⟩,
    .kmov ⟨0, 96, 1, 0, none⟩, .meetrd ⟨4, 0, 0, 1, none⟩, .meetwr ⟨0, 4, 0, 2, none⟩] : List Instr).all (ready · jumps) = true
    ∧ (∀ l ∈ jumps.lanes, meetBad (jumps.warp.reg64 4 l) = false) ∧ jumps.warp.run.isSome = true := by decide +kernel
theorem witness_EndsTrapsAndWaits : ([.exit ⟨0, 0, 0, 0, none⟩, .trap ⟨0, 0, 511, none⟩, .waitm ⟨3, 0, 0, 2, none⟩] : List Instr).all (ready · jumps) = true := by
  decide +kernel
/-- A store of every lane that has not registered. -/
def storing : State := jumps.updWarp fun w => { w with ops := (List.range 4).map fun l => { id := l, lane := l, kind := .st } }
/-- A launch whose cohort 1 has a barrier and holds workgroup 0. -/
def launch1 : Launch :=
  { tenant := 0, queue := 0, recNo := 0, recVa := 0, order := 0, code := 0, param := 0, nv := 8, ns := 8, nt := 0, na := 0,
    energy := 0, lsize := 0, threads := 32, gx := 1, gy := 1, gz := 1, flags := 0, donea := 0, cohorts := [(1, 0, 0)], cbarmap := 2 }
def launched : State := { jumps with launches := [(noLaunch, launch1)] }
theorem witness_BarrierArrivals : jumps.mask ≠ 0#32 ∧ jumps.warp.ops = [] ∧ storing.mask ≠ 0#32
    ∧ (∀ l ∈ storing.lanes, storing.warp.unregistered l storing.nextId = true) ∧ (∀ x ∈ storing.warp.ops, x.kind ≠ .barArr ∧ x.kind ≠ .cbarArr)
    ∧ (launched.launch (launched.wg launched.warp.wg).launch = some launch1 ∧ bitOf launch1.cbarmap 1 = true ∧ launch1.member 1 0 = true)
    ∧ bitOf launch1.cbarmap 2 = false
    ∧ ([.barSync ⟨0, 0, 0, none⟩, .barArv ⟨0, 100, 0x3F, none⟩, .cbarSync ⟨0, 0, 1, none⟩, .cbarArv ⟨0, 0, 0x101, none⟩,
        .cbarSync ⟨0, 0, 2, none⟩] : List Instr).all (ready · launched) = true := by decide +kernel
/-- A load of lane 0 that has not returned, and one command of each class. -/
def loading : State := jumps.updWarp fun w => { w with ops := [{ id := 1, lane := 0, kind := .ld }], cmat := 1, ccopy := 1, cclr := 1, caux := 1 }
theorem witness_OrderingInstructions : ([.nop ⟨0, 0, 0, 0, none⟩, .yield ⟨0, 0, 0, 1, none⟩, .fenceAcq ⟨0, 0, 0, 0, none⟩, .fenceRel ⟨0, 0, 0, 1, none⟩,
      .fenceAr ⟨0, 0, 0, 2, none⟩, .waitc ⟨0, 0, 64, none⟩, .waitc ⟨0, 0, 383, none⟩, .pref ⟨0, 2, 4, 0, none⟩] : List Instr).all (ready · loading) = true
    ∧ (∀ l ∈ jumps.lanes, jumps.warp.unregistered l jumps.nextId = false) ∧ ¬ (∀ l ∈ storing.lanes, storing.warp.unregistered l storing.nextId = false)
    ∧ jumps.warp.ops = [] ∧ loading.warp.ops.length = 1 ∧ ¬ loading.warp.cmat ≤ 64 % 64 ∧ jumps.warp.cmat ≤ 64 % 64
    ∧ okIs (jumps.reach .rd 4 .misaligned false 0x100000) 0x100000 = true ∧ isFabric 0x100000 = false := by decide +kernel

/-! Memory, engines, the system instructions and the events. -/

/-- Registers 2 and 3 hold addresses of words, 6 and 3 one that is off its alignment, 8 and 9 addresses of flat memory, 10 counts,
12 and 9 one address of flat memory for all lanes. -/
def mems : State :=
  let s := sample [0x00000001#32]
    [(2, [0x100100, 0x100104, 0x100108, 0x10010C]), (4, [7, 8, 9, 10]), (6, [0x100102, 0x100104, 0x100108, 0x10010C]),
     (8, [0x100, 0x110, 0x140, 0x1000]), (9, [0x400000, 0x400000, 0x400000, 0x400000]), (10, [1, 0, 2, 5000]), (11, [4, 4, 4, 4]),
     (12, [0x200, 0x200, 0x200, 0x200]), (13, [0x400000, 0x400000, 0x400000, 0x400000]), (14, [0x40001, 0x40001, 0x40001, 0x40001]),
     (16, [0x110000, 0x110000, 0x110000, 0x110000])]
    [(0, 0x100100), (1, 0), (2, 0x102)]
  { s with mem := placeTables s.mem, tenants := [(0, { root := 0x10000 })] }
def fe : ExtM := { xm with fe := 1 }
def feo (n : BitVec 4) : MOps := ⟨10, 8, 6, 0, some { xm with aop := n }⟩
def canParkB (s : State) (ok : Nat → Bool) : Bool :=
  s.lanes.all ok || (s.cur.slot != 64 && s.warp.mode == .tenant && (s.core s.cur.core).freeFrag.isSome)
theorem witness_LaneAccesses : ([.ld ⟨1, 2, 4, 0, none⟩, .ldf ⟨1, 8, 4, 0, some fe⟩, .st ⟨4, 2, 4, 127, none⟩, .stf ⟨4, 8, 4, 0, some fe⟩,
      .atom ⟨4, 2, 4, 0, none⟩, .red ⟨4, 2, 4, 0, none⟩, .cas ⟨4, 2, 4, 0, none⟩, .ld ⟨1, 6, 4, 0, none⟩] : List Instr).all (ready · mems) = true
    ∧ canParkB mems (fun l => (mems.reach .rd 4 .misaligned false (mems.warp.ea ⟨1, 2, 4, 0, none⟩ 4 l)).isOk) = true
    ∧ (mems.lanes.map fun l => (mems.reach .rd 4 .misaligned false (mems.warp.ea ⟨1, 6, 4, 0, none⟩ 4 l)).isOk) = [false, true, true, true]
    ∧ (mems.lanes.map fun l => (mems.reach .rd 4 .misaligned true (mems.warp.ea ⟨1, 8, 4, 0, none⟩ 4 l)).isOk) = [true, true, true, true]
    ∧ canParkB mems (fun _ => false) = true ∧ mems.warp.ops = [] := by decide +kernel
theorem witness_SharedAccesses : ([.sld ⟨98, 96, 4, 0, none⟩, .sld ⟨98, 98, 4, 0, none⟩, .feopSet (feo 0), .feopClear (feo 1),
      .feopTest (feo 2)] : List Instr).all (ready · mems) = true
    ∧ okIs (mems.reach .rd 4 .misaligned false (mems.warp.ea ⟨98, 96, 4, 0, none⟩ 4 0)) 0x100100 = true
    ∧ errIs (mems.reach .rd 4 .misaligned false (mems.warp.ea ⟨98, 98, 4, 0, none⟩ 4 0)) .misaligned = true
    ∧ mems.lanes.all (fun l => (mems.reach .rw 16 .misaligned true (mems.warp.ea (feo 0) 16 l)).isOk
        && decide ((mems.warp.ea (feo 0) 16 l - flatVa) % flatStep + 16 * min (mems.warp.reg 10 l).toNat 4096 ≤ mems.flatBytes)) = true := by
  decide +kernel
/-- The counts that the homes have found for a FEOP.test. -/
def counted : State := mems.updWarp fun w => { w with ops := (List.range 4).map fun l =>
  { id := l, lane := l, kind := .feTest, done := true, val := l } }
theorem witness_SharedAccesses_test : ready (.feopTest (feo 2)) counted = true ∧ counted.mask ≠ 0#32
    ∧ (counted.warp.ops.all fun x => x.kind == .feTest && x.done) = true
    ∧ (counted.lanes.map fun l => (counted.warp.ops.find? fun y => y.kind == .feTest && y.lane == l && y.done).map (·.val))
      = [some 0, some 1, some 2, some 3]
    ∧ (mems.lanes.all fun l => match mems.reach .rw 16 .misaligned true (mems.warp.ea (feo 0) 16 l) with
        | .ok pa => !mems.warp.conflicts (laneBit l) pa (16 * min (mems.warp.reg 10 l).toNat 4096) | .error _ => false) = true := by decide +kernel
/-- An object that ABINIT has made, of one byte count and four arrivals. -/
def inited : State := out (.abinit ⟨0, 12, 14, 0, none⟩) mems
theorem witness_AsyncBarriers : mems.differing 12 2 = [] ∧ mems.differing 14 1 = []
    ∧ okIs (mems.reach .rw 16 .misaligned true (mems.warp.reg64 12 mems.lowest)) 0x10000000200 = true
    ∧ mems.warp.conflicts mems.mask 0x10000000200 16 = false ∧ mems.discards 0x10000000200 16 = false
    ∧ (inited.abRead 0x10000000200).malformed = false
    ∧ ((inited.abRead 0x10000000200).phase, (inited.warp.reg 14 0).getLsbD 0, (inited.warp.reg 11 0).getLsbD 0) = (false, true, false)
    ∧ ([.abinit ⟨0, 12, 14, 0, none⟩, .abexp ⟨0, 12, 14, 1, none⟩, .abarr ⟨0, 12, 14, 2, none⟩, .abwait ⟨0, 12, 14, 3, none⟩,
        .abwait ⟨0, 12, 11, 3, none⟩, .abtest ⟨1, 12, 14, 4, none⟩] : List Instr).all (ready · inited) = true := by decide +kernel
/-- Both words reach zero, and one that does not. -/
theorem witness_AsyncBarriers_update : ((⟨0#32, 1#32, 0x80000000#32, 0x10000#32⟩ : AbObj).update 0#32 1#32).phase = true
    ∧ ((⟨0#32, 1#32, 0x80000000#32, 0x10000#32⟩ : AbObj).update 8#32 1#32).phase = false := by decide

/-- A packs-vector header with room, raw, of four 32-bit elements, at 0x110000. -/
def packs : State := { mems with mem := wrBytes mems.mem 0x110000 (leBytes 32 (2 ^ 8 + 4 * 2 ^ 16 + 16 * 2 ^ 32 + 4096 * 2 ^ 64
  + 2 ^ 128 * (7 + 8 * 2 ^ 32))) }
theorem witness_PackedVectorsAndHashGrid : (packs.lanes.all fun l => packs.warp.ea ⟨4, 16, 4, 0, none⟩ 16 l == 0x110000) = true
    ∧ okIs (packs.reach .wr 16 .misaligned false 0x110000) 0x110000 = true ∧ packs.warp.conflicts packs.mask 0x110000 16 = false
    ∧ packs.bad 0x110000 16 = false ∧ (Pk.of (packs.rdN 0x110000 16)).bad = false ∧ (Pk.of (packs.rdN 0x110000 16)).cap = 4096
    ∧ (packVector 32 ([7, 8, 9, 10] ++ List.replicate 28 0)).2.length = 32
    ∧ okIs (packs.reach .wr 16 .misaligned false (0x110000 + 16 + 16)) 0x110020 = true
    ∧ isFabric 0x110000 = false ∧ packs.swHeld 0x110000 16 = false
    ∧ packs.readNow 0 0x110000 16 false = .ok (packs.rdN 0x110000 16) false ∧ packs.readNow 0 (0x110010 + 32 / 32 * 4) 4 = .ok 8 false
    ∧ (packs.pkLane packs packs 0 0x110000 1 4).2 = .value 8
    ∧ packs.warp.ops = [] ∧ (packs.updWarp fun w => { w with ops := [{ id := 1, lane := 0, kind := .st, mask := 1#32 }] }).pkViews.2.fresh = packs.fresh + 1
    ∧ ([.cst ⟨4, 16, 4, 0, none⟩, .ldPk ⟨1, 16, 4, 0, some { xm with iv := 1, idx := 5, pk := 1 }⟩] : List Instr).all (ready · packs) = true := by
  decide +kernel
/-- The same vector packed: its mask has bit 1 alone, and its payload is 9. -/
def packs1 : State := { packs with mem := wrBytes packs.mem 0x110000 (leBytes 48 (4 * 2 ^ 16 + 20 * 2 ^ 32 + 4096 * 2 ^ 64 + 2 ^ 128 * 2 + 2 ^ 256 * 9)) }
theorem witness_PackedVectors : (Pk.of (packs1.rdN 0x110000 16)).bad = false ∧ (Pk.of (packs1.rdN 0x110000 16)).raw = false
    ∧ packs1.readNow 1 0x110010 16 false = .ok 2 false ∧ packs1.readNow 1 (0x110010 + 8 * maskBytes 4 / 32 * 4) 4 = .ok 9 false
    ∧ ([0, 1, 4].map fun e => (packs1.pkLane packs1 packs1 1 0x110000 e 4).2) = [.value 0, .value 9, .value 0] := by decide +kernel
/-- A region of one dimension, one level of one feature, resolution 1 and 2 entries; coordinates 0 to 1 in v20. -/
def region : Nat := 1 + 2 ^ 8 * (1 + 2 ^ 8 * 1) + 2 ^ 64 * 0x120000 + 2 ^ 128 * 0x130000 + 2 ^ 256 * 1 + 2 ^ (8 * 0x60) * 1
def grid : State :=
  { packs.updWarp fun w => { w with v := fset w.v (20 * 32) 0x3F000000#32, s := [(0, 0x140000#32), (1, 0#32)] } with
    mem := wrBytes packs.mem 0x140000 (leBytes 256 region) }
def gridRegion : Region :=
  { d := 1, l := 1, f := 1, pfmt := 0, exact_ := false, shift := 0, pbase := 0x120000, gbase := 0x130000, nres := [1], tlog := [1] }
theorem witness_hashGrid : grid.warp.reg64 96 0 % 256 = 0
    ∧ grid.mustWait grid.lowest (blockReads 0x140000) = false
    ∧ okIs (grid.readBlock16 grid.lowest 0x140000 16) region = true ∧ Region.parse region = some gridRegion
    ∧ grid.warp.rangeOk 20 1 false = true ∧ grid.warp.rangeBad grid.mask 20 1 = false ∧ grid.warp.rangeOk 1 1 false = true
    ∧ grid.warp.rangeOk 1 1 true = true ∧ grid.warp.caux < 63 ∧ grid.mask ≠ 0#32 := by decide +kernel
theorem witness_hashGrid_lanes : (grid.lanes.all fun l => grid.hgLane gridRegion .rd 20 l (fun e => 0x120000 + 4 * e) 4 == none
      && grid.hgLane gridRegion .wr 20 l (fun e => 0x130000 + 4 * e) 4 == none
      && !grid.mustWait l (grid.paramReads gridRegion 20 l)
      && (gridRegion.corners (grid.warp.coords 20 1 l)).all fun c => (grid.param gridRegion l (0x120000 + 4 * c.2.1) 0).2 == false) = true
    ∧ ([.hgl ⟨1, 20, 96, 0, none⟩, .hga ⟨1, 20, 96, 0, none⟩] : List Instr).all (ready · grid) = true := by decide +kernel
/-- Packs and grid are plain, and what the four instructions touch there passes its checks. -/
def passes (s : State) (need : Need) (va n : Nat) : Bool :=
  match s.reach need n .misaligned false va with | .ok pa => !isFabric pa | .error _ => false
theorem witness_plain : packs.warp.ops = [] ∧ (packs.core packs.cur.core).copies = [] ∧ packs.errs = [] ∧ packs.swOwned = []
    ∧ grid.warp.ops = [] ∧ (grid.core grid.cur.core).copies = [] ∧ grid.errs = [] ∧ grid.swOwned = []
    ∧ 128 * szRegs 4 ≤ (Pk.of (packs.rdN 0x110000 16)).cap
    ∧ ((List.range 8).all fun i => passes packs .wr (0x110010 + 16 * i) 16) = true
    ∧ (let h := Pk.of (packs.rdN 0x110000 16); maskBytes h.n + (h.n * h.width + 31) / 32 * 4 = 32 ∧ h.width = 32)
    ∧ ((List.range 32).all fun k => (k % 16 != 0 || passes packs .rd (0x110010 + k) 16)
        && (k % 4 != 0 || passes packs .rd (0x110010 + k) 4)) = true := by decide +kernel
theorem witness_plain_grid : ((List.range 16).all fun i => okIs (grid.reach .rd 16 .misaligned false (0x140000 + 16 * i)) (0x140000 + 16 * i)) = true
    ∧ isFabric 0x140000 = false ∧ isFabric (0x140000 + 255) = false ∧ Region.parse (grid.rdN 0x140000 256) = some gridRegion
    ∧ (grid.lanes.all fun l => !(dec32 (grid.warp.reg 20 l)).isNan
      && (gridRegion.corners (grid.warp.coords 20 1 l)).all fun c =>
        (entryPieces (gridRegion.paddr c.2.1) 4).all (fun p => passes grid .rd p.1 p.2)
        && (entryPieces (gridRegion.gbase + gridRegion.gsize * c.2.1) gridRegion.gsize).all fun p => passes grid .wr p.1 p.2) = true := by
  decide +kernel
/-- Registers 0 and 1 hold a reservation of four BF16 rows; tile 1 has 64 rows of FP32-wide elements at row 0. -/
def tiled : State :=
  mems.updWarp fun w => { w with t := [(1, tileMake (1 * 2 ^ 11) 0 64)], s := [(0, 0x804#32)] }
def crowded : State := tiled.updWarp fun w => { w with t := [(1, tileMake (1 * 2 ^ 11) 0 1023)] }
theorem witness_OperandBufferTiles : ([.obres ⟨2, 96, 0, 0, none⟩, .obset ⟨1, 96, 0, 1, none⟩, .obrel ⟨1, 0, 0, 0, none⟩] : List Instr).all (ready · tiled) = true
    ∧ resCheck 0x804 4 true = none ∧ resCheck 0x804 64 false = none ∧ tiled.warp.reg64 96 0 = 0x804 ∧ (tiled.warp.tile 2).getLsbD 63 = false
    ∧ (tiled.warp.tile 1).getLsbD 63 = true ∧ (tiled.core 0).freeRun 4 = some 64 ∧ (crowded.core 0).freeRun 4 = none
    ∧ tileRows (tileMake 0x804 1023 1) = (1023, 1) := by decide +kernel
theorem witness_MatrixCommands : ((tiled.core 0).queued 0).length < 8 ∧ tiled.warp.cmat < 63 ∧ tiled.flow = .advance
    ∧ loopOk false (tiled.warp.tile 1) 0 1 1 = true ∧ loopOk true (tiled.warp.tile 1) 0 1 1 = true ∧ (tiled.core 0).wbOwner = none
    ∧ (tiled.lanes.all fun l => tiled.warp.ea ⟨0, 16, 4, 0, none⟩ 128 l == 0x110000) = true
    ∧ (match tiled.linesOf .wr 0x110000 16 with | .ok ps => ps.length == 16 | .error _ => false) = true
    ∧ ([.acz ⟨15, 0, 0, 0, none⟩, .acwr ⟨0, 20, 0, 0, none⟩, .acst ⟨0, 16, 4, 0, none⟩, .acrd ⟨20, 3, 0, 0, none⟩, .mxloop ⟨1, 1, 98, 0, xv 0 0 1 0 1⟩,
        .mxstep ⟨1, 1, 98, 0, none⟩] : List Instr).all (ready · tiled) = true
    ∧ (tiled.updWarp fun w => { w with cmat := 63 }).warp.cmat = 63 := by decide +kernel

/-- Uniform registers 4 and 5 hold the address of a block in the workgroup's allocation; the clause has class 2. -/
def posting : State := tiled.updWarp fun w => { w with run := w.run.map fun r => { r with words := [0x00000021#32] }, s := [(4, 0x80#32), (5, 0x400000#32)] }
/-- The same behind guard slot 3, which is false; and unresolved, with a command that waits for it. -/
def guarded : State := posting.updWarp fun w => { w with
  run := w.run.map fun r => { r with words := [BitVec.ofNat 32 (0x21 + 2 ^ 26 + 3 * 2 ^ 23)] }, g := [(3, .no)] }
def held : State := (posting.updWarp fun w => { w with g := [(3, .unresolved)] }).updCore 0 fun k =>
  { k with cmds := [{ id := 5, slot := 0, wg := 300, tenant := 0, ctr := .aux, op := 0x73, guard := some 3, gst := .unresolved }] }
theorem witness_EngineCommands : posting.lanes.all (fun l => !posting.warp.unregistered l posting.nextId) = true
    ∧ posting.warp.reg64 100 0 = flatVa + 0x80 ∧ (posting.wg posting.warp.wg).lbase = 0 ∧ 0x80 + 128 ≤ (posting.wg posting.warp.wg).lsize
    ∧ posting.bad (flatBase + 0x80) 128 = false ∧ posting.queueFull 0 0x74 = false ∧ posting.warp.cclr < 63
    ∧ bitsOf (posting.rdN (flatBase + 0x80) 32) 31 28 = posting.warp.tenant ∧ fget Guard.yes guarded.warp.g 3 = .no
    ∧ ([.cpyq ⟨4, 0, 0, 0, none⟩, .gthq ⟨4, 0, 0, 0, none⟩, .clpost ⟨4, 0, 0, 0, none⟩, .clctlQuery ⟨4, 0, 0, 8, none⟩, .clctlAbort ⟨4, 1, 0, 0, none⟩,
        .epopen ⟨4, 0, 0, 0, none⟩, .epstep ⟨4, 1, 0, 0, none⟩, .epclose ⟨4, 2, 0, 0, none⟩, .rwsend ⟨4, 0, 0, 0, none⟩, .lqtake ⟨4, 0, 0, 0, none⟩,
        .gopen ⟨3, 0, 0, 0, none⟩, .gset ⟨3, 100, 0, 1, none⟩] : List Instr).all (fun i => ready i posting && ready i guarded) = true := by
  decide +kernel
theorem witness_EngineCommands_gset : held.warp.reg 100 0 ≠ 0#32 ∧ posting.warp.reg 98 0 = 0#32 ∧ (posting.core 0).cmds = []
    ∧ ready (.gset ⟨3, 98, 0, 1, none⟩) posting = true ∧ ready (.gset ⟨3, 100, 0, 1, none⟩) held = true
    ∧ held.warp.reg 98 0 = 0#32 ∧ ready (.gset ⟨3, 98, 0, 1, none⟩) held = true
    ∧ ((held.core 0).cmds.map fun y => (y.slot, y.guard, y.gst == .unresolved, y.ended)) = [(0, some 3, true, false)] := by decide +kernel

/-! The service warp: entry 2 of its fragment table is valid and not reported; uniform register 4 refers to it, 5 is a mask. -/

def svcs : State :=
  (service.updWarp fun w => { w with s := [(4, 0x42#32), (5, 1#32), (6, 0x80000000#32), (8, 2#32), (9, 3#32), (10, 0x100#32)] }).updCore 0 fun k => { k with
    frags := [(2, { valid := true, pend := true, gen := 1, tenant := 0, slot := 0, mask := 3, addr := 0x100, pslot := 1 })],
    warps := fset k.warps 0 { (nums.warp) with run := none } }
/-- One waiting event of each kind but the fragment's. -/
def events (k : Core) : State := svcs.setCore 0 { k with warps := (svcs.core 0).warps, released := true }
theorem witness_SupervisorRegistersAndFragments : (svcs.core 0).ref (svcs.warp.reg 100 0) = some (.entry 2)
    ∧ (svcs.core 0).ref (svcs.warp.reg 101 0) = none ∧ (service.core 0).nextEvent = none ∧ (svcs.core 0).nextEvent = some 0x01000002#32
    ∧ (((events { mbox := [7] }).core 0).nextEvent.map fun e => e.toNat / 2 ^ 24) = some 3
    ∧ (((events { slotEv := [5] }).core 0).nextEvent.map fun e => e.toNat / 2 ^ 24) = some 2
    ∧ (((events { dogEv := [9] }).core 0).nextEvent.map fun e => e.toNat / 2 ^ 24) = some 5
    ∧ svcs.warp.reg 99 0 = 0#32 ∧ svcs.warp.reg 101 0 = 1#32 ∧ 2 ≤ (svcs.warp.reg 104 0).toNat
    ∧ ([.csrrd ⟨0, 1, 0, 0, some 5⟩, .csrwr ⟨1, 0, 104, 0, some 5⟩, .fragrd ⟨0, 8, 100, 0, none⟩, .fragres ⟨1, 0, 100, 101, none⟩, .fragres ⟨1, 100, 100, 101, none⟩,
        .fragkill ⟨2, 0, 100, 101, none⟩, .svcwait ⟨1, 98, 0, 0, none⟩, .pmctl ⟨2, 98, 0, 99, none⟩, .pmctl ⟨2, 98, 0, 101, none⟩,
        .pmctl ⟨2, 98, 0, 104, none⟩] : List Instr).all (ready · svcs) = true := by decide +kernel
theorem witness_ContextItemsAndCaches : svcs.target_ 100 = some (0, 3#32) ∧ svcs.target_ 101 = none
    ∧ ((svcs.core 0).warp 0).beyond 0 1 = false ∧ (svcs.core 0).itemBad 0 3 0 1 0 = false
    ∧ (svcs.warpAt 0 0).beyond 8 5 = false ∧ handler.warp.mode ≠ .tenant
    ∧ (svcs.warp.reg 99 0).toNat / 2 ^ 10 = 0 ∧ (svcs.warp.reg 99 0).toNat / 256 % 4 = 0 ∧ (svcs.warp.reg 106 0).toNat / 256 % 4 = 1
    ∧ ([.savex ⟨0, 1, 100, 0, some 1⟩, .savex ⟨0, 1, 101, 0, some 1⟩, .restx ⟨1, 100, 1, 0, some 1⟩, .restx ⟨1, 101, 1, 0, some 1⟩, .tlbinv ⟨0, 0, 100, 99, none⟩,
        .tlbinv ⟨0, 0, 0, 106, none⟩, .cacheop ⟨1, 0, 0, 99, none⟩, .cacheop ⟨1, 0, 0, 101, none⟩, .cacheop ⟨1, 0, 100, 104, none⟩,
        .cacheop ⟨1, 0, 0, 105, none⟩] : List Instr).all (ready · svcs) = true
    ∧ ready (.eret ⟨0, 0, 0, 0, none⟩) handler = true := by decide +kernel
/-- Warp 0 in its save handler, with a save area that its tenant can write, and another in a restore handler whose record has
passed its check. -/
def saver : State := { mems.updWarp fun w => { w with mode := .save, drained := true } with
  tenants := [(0, { root := 0x10000, poolBase := 0x200000, poolSize := 0x20000, poolCount := 1 })] }
def restorer : State := mems.updWarp fun w => { w with mode := .restore, drained := true, refused := some false }
theorem witness_ContextItemsAndCaches_eret : saver.warp.mode = .save ∧ saver.warp.index = 0
    ∧ ((saver.areaStores saver.warp.wg).all fun x => (saver.translate 0 0 ((saver.tenant 0).area 0 + x.1) .wr).isOk) = true
    ∧ restorer.warp.mode = .restore ∧ restorer.warp.refused = some false ∧ restorer.restoreWait = none
    ∧ (ready (.eret ⟨0, 0, 0, 0, none⟩) saver && ready (.eret ⟨0, 0, 0, 0, none⟩) restorer) = true := by decide +kernel
/-! A clearing processor in a collective of two dies of this device; registers: 8 an address of memory, 9 one of flat memory, 10 a
count, 11 a rank. -/

def coll0 : Coll :=
  { id := 0, tenant := 0, core := 0, slot := 0, cmd := 0, wg := 300, va := 0, seq := 0, local_ := 0, lsize := 0,
    block := 2 ^ (8 * 0x10) * 0x100000 + 2 ^ (8 * 0x18) * 0x140000 + 2 ^ (8 * 0x20) * 64 }
def proc0 : Clear := { coll := some coll0, size := 2, c := [(8, 0x100000), (9, 0x40000000000000), (10, 4), (11, 1)] }
def clearing (pc : Clear → Clear) (lost : Bool) : State :=
  ({ mems with cur := { core := 0, slot := 0 }, groups := [{ handle := 0, tenant := 0, members := [(0, 0), (0, 1)], lost := lost }] } : State).setProc 0 0 (pc proc0)
def clr : State := clearing id false
theorem witness_ClearingInstructions : clr.clear.coll = some coll0 ∧ clr.clear.ended = none ∧ (clr.group coll0).map (·.lost) = some false
    ∧ clr.clear.gone = none ∧ (clearing (fun c => { c with gone := some stRange }) false).clear.gone = some stRange
    ∧ isFabric 0x100000 = false ∧ clr.swHeld 0x100000 8 = false
    ∧ ((clearing id true).group coll0).map (·.lost) = some true
    ∧ okIs (clr.hubTranslate 0 0x100000 .rd) 0x100000 = true ∧ okIs (clr.hubTranslate 0 0x100000 .wr) 0x100000 = true ∧ clr.bad 0x100000 8 = false
    ∧ okIs (clr.hubTranslate 0 flatVa .wr) flatBase = true ∧ isFlat flatBase = true ∧ okIs (clr.hubTranslate 0 flatVa .rd) flatBase = true
    ∧ clr.clear.got = none ∧ clr.clear.asked = false ∧ clr.clear.reg 11 < clr.clear.size ∧ coll0.inSrc 0x100000 4 = true
    ∧ okIs (clr.elemRead 0 0x100000 coll0.width 0 4) [0, 0, 0, 0] = true ∧ (clr.takeMsg coll0 1 0).isNone = true
    ∧ redType coll0.fDtype = true ∧ clr.clear.sent.contains 1 = false ∧ (clr.spaceRead 0 0x100000 16).isOk = true := by decide +kernel
/-- An object in flat memory, a message and a result that have arrived, a contributed chunk. -/
def msg0 : Msg :=
  { dev := 0, die := 0, tenant := 0, group := 0, stream := 0, seq := 0, src := 1, chan := 0, kind := 0, count := 4, data := leBytes 16 5, arrived := true }
def clr2 : State := { clearing (fun c => { c with sent := [1] }) false with
  mem := wrBytes (placeTables []) flatBase (leBytes 16 (2 ^ 95)), msgs := [msg0, { msg0 with kind := 3 }] }
theorem witness_ClearingInstructions_messages : (clr2.abRead flatBase).malformed = false
    ∧ ((clr2.takeMsg coll0 1 0).map fun r => ((r.2.applyMsg coll0 r.1 0x100000 0 4 0 true).2, (r.2.applyMsg coll0 r.1 0x100000 0 3 0 false).2))
      = some (none, some stRange)
    ∧ clr2.clear.sent.contains 1 = true ∧ ((clr2.takeResult coll0 1).map fun r => (r.2.spaceWrite 0 0x100000 (r.1.take 16)).2) = some none
    ∧ (clr2.spaceWrite 0 0x140000 (leBytes 16 5)).2 = none := by decide +kernel

/-- A state with one operation of the warp, number 7, and the event's operands. -/
def oneOp (o : Op) : State :=
  { mems.updWarp fun w => { w with ops := [o] } with arg := { core := 0, slot := 0, a := 7 }, full := [flatBase / 16] }
def opAt (k : OpKind) (pa n : Nat) : Op := { id := 7, lane := 1, kind := k, va := pa, pa := pa, size := n, data := 5, dest := some 4 }
def opReady (o : Op) : Bool :=
  let s := oneOp o
  s.findOp 0 7 == some (0, o) && s.opFree 0 0 o && !o.done && decide (0 < o.size) && !isFabric o.pa && !s.bad o.pa o.size && !s.discards o.pa o.size
  && !s.swHeld o.pa o.size && decide ((o.pa + o.size - 1) / 128 = o.pa / 128) && o.aop == 0
theorem witness_CoreAndHomeEvents : ([opAt .ld 0x100100 4, opAt .ldf flatBase 4, opAt .ldf (flatBase + 16) 4, opAt .st 0x100100 4, opAt .stf flatBase 4,
      opAt .atom 0x100100 4, opAt .cas 0x100100 4, { opAt .cas 0x100100 4 with data := 0 }, opAt .red 0x100100 4, opAt .feSet flatBase 1,
      opAt .feClear flatBase 1,
      opAt .feTest flatBase 1, opAt .feTest flatBase 2].all opReady) = true
    ∧ (oneOp (opAt .ldf flatBase 4)).isFull (flatBase / 16) = true ∧ (oneOp (opAt .ldf flatBase 4)).isFull (flatBase / 16 + 1) = false
    ∧ (oneOp (opAt .cas 0x100100 4)).rdN 0x100100 4 = 0 ∧ (oneOp (opAt .ld 0x100100 4)).ldfq = [] := by decide +kernel
theorem witness_CoreAndHomeEvents_return : let o : Op := { opAt .ld 0x100100 4 with done := true }
    (oneOp o).findOp 0 7 = some (0, o) ∧ o.kind.long = true ∧ ((oneOp o).warpAt 0 0).drained = false ∧ ((oneOp o).warpAt 0 0).mode = .tenant
    ∧ (4#7).toNat + o.words ≤ 96 ∧ (({ o with err := true }).covers 1) = true ∧ (((oneOp o).warpAt 0 0).thread 1).st ≠ .exited
    ∧ (((oneOp o).warpAt 0 0).thread 1).pend = none := by decide +kernel
/-- A completion to be told, a walk, a watchdog at its limit, a released core, and a damaged byte. -/
def dues : State :=
  { launched.updWarpAt 0 0 (fun w => { w with wdog := 0x40000000 }) with
    arg := { core := 0, slot := 0, a := noLaunch, idx := 1 }, launches := [(noLaunch, { launch1 with told := [(1, 0)] })],
    walks := [⟨0, 0, 0x200000, true⟩, ⟨0, 0, 0x200000, false⟩], errs := [noLaunch] }
theorem witness_CoreAndHomeEvents_others : ((dues.launch noLaunch).map fun l => l.told.contains (1, 0)) = some true
    ∧ (dues.walks[1]?.map fun x => (x.dead, decide (x.core < 192), (dues.walk x.tenant x.va).isSome)) = some (false, true, true)
    ∧ (dues.walks[0]?.map (·.dead)) = some true ∧ (dues.warpAt 0 0).live = true ∧ ((dues.core 0).rawCsr 6).toNat = 0x40000000
    ∧ (dues.warpAt 0 0).wdog = 0x40000000 ∧ (dues.core 0).released = true ∧ dues.bad noLaunch 1 = true ∧ dues.bad 0 1 = false := by decide +kernel

/-- The head of matrix engine 0, of each kind, started or not, and a copy and a gather. -/
def matrix (x : Cmd) : State := { tiled.updCore 0 fun k => { k with cmds := [x] } with arg := { core := 0, idx := 0, a := x.id } }
def cmdOf (op eng : Nat) (go : Bool) : Cmd :=
  { id := 9, slot := 0, wg := 300, tenant := 0, ctr := .mat, op := op, acc := 1, eng := eng, started := go, lines := [0x110000],
    va := 0x110000, tile := tiled.warp.tile 1, fmtB := 1, data := [(3, 7#32)], lsize := 0x10000 }
theorem witness_EngineEvents : ([0x6C, 0x6E, 0x6F, 0x70, 0x71].all fun op => let x := cmdOf op 0 true
      (matrix x).matCanStep 0 x && ((matrix x).core 0).head 0 == some x && !((stepCells x (bStep [] x)).any ((matrix x).core 0).bufBad.contains)) = true
    ∧ (let x := cmdOf 0x6C 0 false; ((matrix x).core 0).head 0 = some x ∧ (matrix x).drainHolds 0 x = false ∧ ((matrix x).core 0).olderAcc x = false)
    ∧ (let x := { cmdOf 0x6C 0 true with units := 1 }; ((matrix x).core 0).head 0 = some x ∧ x.steps ≤ x.units)
    ∧ ((cmdOf 0x6E 0 true).data.map (·.1)).Nodup := by decide +kernel
/-- A gather of one row of 16 bytes, and a copy of one element into the weight buffer. -/
def gatherBlock : Nat := 0x120000 + 2 ^ 64 * 0x130000 + 2 ^ 128 * 0x100000 + 2 ^ (8 * 0x1C) * 16 + 2 ^ (8 * 0x20) * 1 + 2 ^ (8 * 0x24) * 9
def copyBlock : Nat := 0x120000 + 2 ^ (64 + 55) * 2 + 2 ^ (8 * 0x20) * (1 + 2 ^ 16 * (1 + 2 ^ 16 * (1 + 2 ^ 16 * (1 + 2 ^ 16 * 1))))
  + 2 ^ (8 * 0x2A) * (1 + 2 ^ 16)
theorem witness_EngineEvents_copy : let g : Cmd := { cmdOf 0x73 4 true with block := gatherBlock }; let s := (matrix g).acts 0 0 0 9
    (matrix g).cmdOf 0 9 = some g ∧ (matrix g).copyCanGo 0 g = true ∧ g.gatherCheck = none ∧ okIs (s.gatherIdx 0 g 0) 0 = true
    ∧ okIs (s.engRead 0 0 0x120000 16) 0 = true ∧ (s.engWrite 0 0 0x130000 (leBytes 16 0) 0 true).2 = none ∧ s.posted 9 = false
    ∧ (let c : Cmd := { cmdOf 0x72 4 false with block := copyBlock }; (matrix c).copyNext 0 = some c ∧ (matrix c).copyCheck 0 c = none
        ∧ (CopyReq.parse c.block).dkind = 2)
    ∧ (let c : Cmd := { cmdOf 0x72 4 true with block := copyBlock }; (matrix c).copyCanGo 0 c = true)
    ∧ (let c : Cmd := { cmdOf 0x72 4 true with block := copyBlock, units := 1 }; c.ended = false ∧ c.copyTotal ≤ c.units)
    ∧ (let c : Cmd := cmdOf 0x76 6 false; (matrix c).joinTurn 0 c = true) := by decide +kernel
/-! The join unit: entry 0 of tenant 0 with key 5 and four steps of records at 0x120000, of which the first two exist. -/

def ep (st : EpState) : Episode := { st := st, key := 5, buf := 0x120000, cap := 4, nstep := 2, len := 2, missing := 1 }
def rw (step : Nat) : Reward := { tenant := 0, key := 5, step := step, reward := 1#32, flags := 0, at_ := 3 }
def joins (e : Episode) : State :=
  { mems with episodes := [(0, e)], joinCycle := 0x05000000, rewardsOut := [rw 0], escrow := [rw 1],
              tenants := [(0, { root := 0x10000, epq := [(0, (0x150000, 0))] })] }
theorem witness_JoinUnitEvents : let s := joins (ep .open_); let e := s.episode 0
    s.rewardsOut[0]? = some (rw 0) ∧ s.escrow[0]? = some (rw 1) ∧ (s.tenant 0).epesc ≤ s.joinCycle - (rw 1).at_ ∧ (s.tenant 0).resetting = false
    ∧ s.entryOf 0 5 = some 0 ∧ s.entryOf 0 6 = none ∧ (s.tenant 0).epesc ≠ 0 ∧ s.escrow.length < 131072
    ∧ (rw 1).step < e.cap ∧ (rw 1).step < e.nstep ∧ (s.joinRead 0 0x120010 16).isOk = true
    ∧ (s.joinWrite 0 0x120014 (leBytes 8 4)).2 = none ∧ (s.joinRead 0 0x120000 16).isOk = true := by decide +kernel
theorem witness_JoinUnitEvents_closed : let s := joins (ep .closed); let e := s.episode 0
    e.st = .closed ∧ (rw 1).step < e.len ∧ e.missing ≤ 1 ∧ s.entryOf 0 5 = some 0 ∧ (s.tenant 0).epjto ≠ 0 ∧ (s.tenant 0).epjto ≤ (s.joinCycle % 2 ^ 32 + 2 ^ 32 - e.tclose) % 2 ^ 32 ∧ e.bad = false
    ∧ bitOf e.policy 0 = false ∧ bitOf ({ e with policy := 1 } : Episode).policy 0 = true := by decide +kernel
/-- The first reward is there and the second is missing. -/
def partly : State := { joins (ep .closed) with mem := wrBytes mems.mem 0x120000 (leBytes 16 (4 * 2 ^ 32)) }
theorem witness_JoinUnitEvents_timeout : (match partly.firstMissing (ep .closed) 0 2 with | .ok (some x) => x == (1, 0#32) | _ => false) = true := by
  decide +kernel
/-- An episode in JOINED, and one in SCAN with two records to write. -/
def queued (e : Episode) : State := { joins e with joinedQ := [0] }
theorem witness_JoinUnitEvents_scan : (match (queued (ep .joined)).stepRecs (ep .joined) 0 2 with | .ok rs => rs.length == 2 | .error _ => false) = true
    ∧ (((queued (ep .scan)).tenant 0).lq 0) = (0x150000, 16, 0, 0)
    ∧ ((queued (ep .scan)).joinWrite 0 0x150000 (leBytes 32 7)).2 = none ∧ (rw 1).bad = false ∧ 0 + 15 - 0 < 16 ∧ 16 ≤ 0 + 16 - 0
    ∧ ((1 : Nat) : Int) < ((7#32 : Word) - 5#32).toInt ∧ ¬ ((2 : Nat) : Int) < ((7#32 : Word) - 5#32).toInt := by decide +kernel

/-! The launch unit: queue 1 of tenant 0, its ring at 0x160000 and its TAIL at 0x170000; record 0 names a descriptor at 0x180000. -/

def record : Nat := 0x180000 + 2 ^ (8 * 0x10) * (1 + 2 ^ 16 + 2 ^ 32)
def descriptor : Nat := 0x100000 + 2 ^ 64 * (8 + 2 ^ 8 * 8) + 2 ^ (8 * 0x14) * 32
def queue1 : Queue := { en := true, log2n := 4, ring := 0x160000, ctla := 0x170000, tail := 1 }
def unit (q : Queue) (rec : Nat) : State :=
  { mems with
    mem := wrBytes (wrBytes (wrBytes (placeTables []) 0x160000 (leBytes 64 rec)) 0x170000 (leBytes 8 1)) 0x180000 (leBytes 256 descriptor),
    tenants := [(0, { root := 0x10000, active := true, coreset := 1, queues := [(1, q)], poolCount := 1 })],
    arg := { idx := 0, slot := 1 } }
theorem witness_LaunchAndCollectiveEvents : let s := unit queue1 record
    okIs (s.hubRead 0 0x170000 8) 1 = true ∧ ¬ (1 < queue1.tail ∨ 2 ^ queue1.log2n < 1 - queue1.head) ∧ 1 < ({ queue1 with tail := 2 } : Queue).tail
    ∧ queue1.next < queue1.tail ∧ okIs (s.recordAt 0 1 0) record = true ∧ okIs (s.depRead 0 (depOf record 0)) true = true
    ∧ okIs (s.depRead 0 (depOf record 1)) true = true
    ∧ (unit { queue1 with met := some (true, true) } record).startNext = some (0, 1) := by decide +kernel
/-- The next record's launch, and a record whose grid is empty. -/
theorem witness_LaunchAndCollectiveEvents_start : ((unit { queue1 with met := some (true, true) } record).makeLaunch 0 1 0 record (some (true, true))).isOk = true
    ∧ (match (unit queue1 0).makeLaunch 0 1 0 0 none with | .error e => e == stRange | .ok _ => false) = true := by decide +kernel
/-- A launch of one workgroup, with what it offers: that workgroup, a gang of it, or a saved one. -/
def newLaunch : Launch := { launch1 with cohorts := [], cbarmap := 0 }
def offers (l : Launch) (gs : FMap Wg) : State :=
  { unit queue1 record with launches := [(7, l)], wgs := gs, cores := [(0, { released := true, tenant := 0 })], arg := { b := 0 } }
def savedWg : Wg := { launch := 7, st := .saved, area := some 0 }
theorem witness_LaunchAndCollectiveEvents_placement : (offers newLaunch []).launch 7 = some newLaunch ∧ (offers newLaunch []).cands = [.fresh 7 0]
    ∧ ((offers newLaunch []).placeNew 7 newLaunch 0).isSome = true
    ∧ (offers { newLaunch with gang := [0] } []).cands = [.gang 7] ∧ ((offers { newLaunch with gang := [0] } []).placeGang 7 newLaunch [0]).isSome = true
    ∧ (offers newLaunch [(400, savedWg)]).cands = [.restore 7 [400]]
    ∧ ((offers newLaunch [(400, savedWg)]).placeSavedAll newLaunch [400]).isSome = true
    ∧ ((offers { newLaunch with nv := 2000 } []).placeNew 7 { newLaunch with nv := 2000 } 0).isNone = true
    ∧ ((offers { newLaunch with nv := 2000 } []).relieved.placeNew 7 { newLaunch with nv := 2000 } 0).isNone = true
    ∧ (offers newLaunch [(400, savedWg)]).savable [400] = false := by decide +kernel
/-- A warp that a save request has reached, one whose drain has nothing to wait for, and a fault record that waits. -/
def saves : State :=
  { launched.updWarpAt 0 0 (fun w => { w with run := none, saving := true }) with arg := { core := 0, slot := 0 }, recs := [⟨0, 5⟩] }
def drains : State := saves.updWarpAt 0 0 fun w => { w with mode := .save }
def ringed : State := { saves with tenants := [(0, { root := 0x10000, ringBase := 0x150000, consumed := 0x170000 })] }
theorem witness_LaunchAndCollectiveEvents_saves : saves.launch (saves.wg (saves.warpAt 0 0).wg).launch = some launch1
    ∧ (launch1.told.filter (·.2 == 0)) = [] ∧ saves.canSave 0 0 = true ∧ drains.drainDone 0 0 = true ∧ saves.recs = [⟨0, 5⟩]
    ∧ saves.ringSlot 0 1 = some 0x40 ∧ ringed.ringSlot 0 1 = some 0x150040
    ∧ ({ ringed with tenants := [] } : State).ringSlot 0 1 = none := by decide +kernel
/-- A collective waits and processor 0 is free; with a lost member; with a block that breaks its rules. -/
def waits (x : Coll) (lost : Bool) : State :=
  { (clearing id lost).updDie 0 (fun k => { k with queue := [x], procs := [] }) with arg := { core := 0, idx := 0 } }
def good : Coll := { coll0 with block := coll0.block + 3 * 2 ^ 32 + 2 ^ (8 * 0x30) * 0x100000, lsize := 0x10000 }
theorem witness_LaunchAndCollectiveEvents_collectives : ((waits good false).die 0).freeProc = some 0 ∧ ((waits good false).die 0).nextColl = some good
    ∧ ((waits good false).group good).map (fun g => (g.members.findIdx (· == (0, 0)), g.members.length)) = some (0, 2)
    ∧ (waits good false).collCheck good 2 = none ∧ (waits { good with block := 2 ^ 32 * 200 } false).collCheck { good with block := 2 ^ 32 * 200 } 2 ≠ none
    ∧ ((waits good true).group good).map (·.lost) = some true := by decide +kernel
def push0 : Push := { tenant := 0, group := 0, stream := 0, seq := 0, chunk := 0, rank := 0, dtype := 0, size := 2, op := 0, root := 0, data := [] }
def slot0 : Slot := { tenant := 0, group := 0, stream := 0, seq := 0, chunk := 0, dtype := 0, size := 2, op := 0, elems := 0, root := 0, bitmap := [0] }
/-- A message on its way, an ended collective of a resident or saved workgroup, a held end whose workgroup is back, a contribution
and a slot. -/
def traffic (st : WgState) : State :=
  { (clearing (fun c => { c with ended := some 0 }) false).updDie 0 (fun k => { k with held := [{ wg := 300, slot := 0, cmd := 1, status := 0, off := 0, bar := 0 }] }) with
    msgs := [{ msg0 with arrived := false }], pushes := [push0], slots := [slot0], wgs := [(300, { launch := noLaunch, core := 0, slots := [0], st := st })] }
theorem witness_LaunchAndCollectiveEvents_traffic : ((traffic .resident).msgs[0]?.map fun m => (m.arrived, decide (m.dev = (traffic .resident).dev),
      decide ((traffic .resident).inbox m.die + m.data.length ≤ inboxSize))) = some (false, true, true)
    ∧ ((traffic .resident).proc 0 0).ended = some 0 ∧ ((traffic .resident).wg 300).st = .resident ∧ ((traffic .saved).wg 300).st = .saved
    ∧ (((traffic .restoring).updWarpAt 0 0 fun w => { w with eret := true }).heldReady 0).isSome = true ∧ (traffic .resident).pushes[0]? = some push0 ∧ (traffic .resident).slots[0]? = some slot0
    ∧ slot0.bitmap.contains push0.rank = true ∧ slot0.atRoot = false ∧ (traffic .resident).slotLimit slot0 ≤ slot0.age
    ∧ 0 < ({ traffic .resident with planes := [5], ports := [(5, { slotLimit := 9 })] } : State).slotLimit slot0
    ∧ (traffic .resident).dieOf 0 0 slot0.root = some 0 ∧ (traffic .resident).dieOf 0 0 7 = some 0 ∧ slot0.bitmap.length < slot0.size
    ∧ ({ traffic .resident with groups := [] } : State).dieOf 0 0 0 = none ∧ (traffic .resident).posted 1 = false
    ∧ ((traffic .resident).die 0).halted = false := by decide +kernel

/-- The hub's tenant reset, samples, images, release, requests and reports. -/
def minted (m : Mint) : State := { State.reset with mint := m }
theorem witness_HubEvents : (State.reset.tenant 15).resetting = false
    ∧ (({ State.reset with tenants := [(3, { resetting := true, evpage := 0x1000 })] } : State).tenant 3).resetting = true
    ∧ (({ State.reset with tenants := [(3, { resetting := true, evpage := 0x1000 })] } : State).tenant 3).evpage ≠ 0
    ∧ (7 :: State.reset.power.samples).length ≤ 64 ∧ State.reset.power.down = false
    ∧ (minted { installed := [0] }).mint.stopped = false ∧ 0 ∈ (minted { installed := [0] }).mint.installed ∧ 3 ∉ (minted { installed := [0] }).mint.installed
    ∧ State.reset.mint.locked = false ∧ (minted { locked := true }).mint.locked = true ∧ State.reset.booted = false
    ∧ State.reset.mint.queue.length < 8 ∧ 8 ≤ (minted { queue := List.replicate 8 (0, 1) }).mint.queue.length
    ∧ (minted { queue := [(0, 1)] }).mint.queue = [(0, 1)] ∧ State.reset.mint.latched = none
    ∧ ((minted { latched := some (0, 1, []) }).mint.latched.isSome) = true
    ∧ State.reset.power.cycles < 4096 ∧ 4096 ≤ ({ State.reset with power := { cycles := 4096 } } : State).power.cycles
    ∧ State.reset.hubCycle < 2 ^ 20 ∧ 2 ^ 20 ≤ ({ State.reset with hubCycle := 2 ^ 20 } : State).hubCycle := by decide +kernel
/-- The example of R445, whose scores are 10, 3, 1 and −11, and the example that follows R442, with its owner. -/
theorem test_egress : egress [(0, 12, 2), (1, 4, 1), (2, 4, 3), (3, 9, 20)] = some 3 := by decide
theorem test_recast : residSum [0x3E800000, 0xBF000000, 0] = 0xBE800000 ∧ residOwner 6 2 0 4 = 0 ∧ residOwner 6 2 1 4 = 1 := by
  decide +kernel

/-- A port that trains, one that is up with link 3 live and a flit sent, one of Ultra Ethernet; in sequence, ahead and behind. -/
def portOf (p : Port) : State := { State.reset with ports := [(0, p)] }
def upPort : Port := { en := true, st := 2, live := 8, gap := true, retry := [{ seq := 65535, last := true, bits := [], link := 3 }], rxSeq := 65535 }
theorem witness_FabricEvents : (portOf { en := true, st := 1 }).port 0 = { en := true, st := 1 } ∧ bitOf upPort.live 3 = true ∧ upPort.live - 2 ^ 3 = 0
    ∧ bitOf 12 3 = true ∧ 12 - 2 ^ 3 ≠ 0 ∧ (portOf upPort).portUp 0 = true ∧ (portOf {}).portUp 0 = false ∧ upPort.failed = false
    ∧ ({ upPort with failed := true } : Port).failed = true
    ∧ (0 % 65536 + 65536 - 65535) % 65536 ≤ upPort.retry.length ∧ (65535 % 65536 + 65536 - upPort.rxSeq) % 65536 = 0
    ∧ (0 % 65536 + 65536 - upPort.rxSeq) % 65536 = 1 ∧ (65534 % 65536 + 65536 - upPort.rxSeq) % 65536 = 65535 ∧ upPort.window = []
    ∧ ((portOf { upPort with ue := true }).portUp 0 && ((portOf { upPort with ue := true }).port 0).ue) = true
    ∧ State.reset.endpoint 72 = none ∧ ({ State.reset with uePorts := [(72, 1)] } : State).endpoint 72 = some 1 := by decide +kernel
/-- A load's packet and what its target and its source keep. -/
def packet0 : Packet :=
  { kind := 0, vc := 0, typ := 0, coded := false, len := 0, src := 3, tenant := 0, dst := 0, ctx := 1, seq := 7, addr := 0x100000, opn := 0, bmask := 0,
    arg := 16, data := [] }
def arrives (p : Packet) (next : Nat) : State :=
  { mems with targets := [{ src := 3, ctx := 1, next := next, replies := [(7, packet0)] }],
              ctxs := [{ core := 0, tenant := 0, dest := 3, ctx := 1, next := 8, reqs := [{ seq := 7, kind := 0, core := 0, op := 1, addr := 2 ^ 55, pkt := p }] }],
              arg := { data := p.header } }
theorem witness_FabricEvents_packets : packetBad (List.replicate 31 0#8) = true ∧ packetBad packet0.header = false ∧ packetOf packet0.header = packet0
    ∧ (packetOf packet0.header).dst = (arrives packet0 7).dev ∧ ((arrives packet0 7).target? 3 1).map (fun t => (t.next, t.early.length)) = some (7, 0)
    ∧ (7 + 2 ^ 32 - 7 % 2 ^ 32) % 2 ^ 32 = 0 ∧ (7 + 2 ^ 32 - 6 % 2 ^ 32) % 2 ^ 32 = 1 ∧ 2 ^ 31 ≤ (7 + 2 ^ 32 - 8 % 2 ^ 32) % 2 ^ 32
    ∧ ([6, 7, 8].all fun k => packetOf ({ packet0 with kind := k } : Packet).header == { packet0 with kind := k }) = true
    ∧ ((arrives packet0 8).ctxs.find? fun x => x.ctx == 1 && x.dest == 3).isSome = true
    ∧ (arrives packet0 7).meetsSys packet0.addr 16 = false ∧ ({ mems with sysBase := 0x10000F, sysSize := 2 ^ 30 } : State).meetsSys packet0.addr 16 = true
    ∧ mems.bad packet0.addr 16 = false ∧ ({ mems with errs := [0x100003] } : State).bad packet0.addr 16 = true := by decide +kernel
def waitsFor (timer sends : Nat) : State :=
  { State.reset with ports := [(5, { en := true, st := 2 })], planes := [5],
                     ctxs := [{ core := 0, tenant := 0, dest := 3, ctx := 1, next := 8, idle := 0x10000,
                                reqs := [{ seq := 7, kind := 0, core := 0, op := 1, addr := 2 ^ 55, pkt := packet0, timer := timer, sends := sends }] }] }
theorem witness_FabricEvents_timers : ((waitsFor 0x4000 1).die 0).freplay ≤ 0x4000 ∧ 0x3FFF < ((waitsFor 0 1).die 0).freplay ∧ 16 ≤ ((waitsFor 0 16).die 0).freplays
    ∧ ((waitsFor 0 17).die 0).freplays < 17 ∧ (waitsFor 0x4000 17).portFor packet0 = some 5 ∧ (waitsFor 0x4000 17).portUp 5 = true
    ∧ ((waitsFor 0x4000 17).port 5).ue = false
    ∧ ((waitsFor 0 0).die 0).fquiet ≤ 0x10000 ∧ ({ State.reset with lost := [3] } : State).lost.contains 3 = true
    ∧ ({ State.reset with ueWins := [(2, 0x1000, 0x10)] } : State).ueWins = [(2, 0x1000, 0x10)] ∧ (leBytes 16 31).length = 16 ∧ leNat (leBytes 16 31) < 32
    ∧ 32 ≤ leNat (leBytes 16 32) := by decide +kernel

/-! Boundary cases: a machine without power, special inputs, releases of masks and barriers, lasting errors, other units' words. -/

theorem witness_StepStopsOnlyWithoutPower : let s : State := { State.reset with power := { down := true }, agenda := [.cycles 4 0 1] }
    s.power.down = true ∧ isReset s.nextTurn.1 = false
    ∧ isReset ({ s with agenda := [.event .packageReset {}] } : State).nextTurn.1 = true ∧ State.reset.power.down = false := by decide +kernel
theorem witness_FloatArithmetic : (FVal.fin false 1 0).units 0 = some 1 ∧ (FVal.fin true 1 0).units 0 = some (-1) ∧ (FVal.fin true 0 0).units 0 = some 0
    ∧ (FVal.nan false).isNan = true ∧ mulE (.inf false) (.fin false 0 0) = .nan false ∧ mulE (.inf false) (.fin true 3 2) = .inf true := by decide
theorem witness_FloatLongResults : 0 ≤ cmpF (.fin false 10 0) (.fin false 10 0) ∧ cmpF (.fin false 9 0) (.fin false 10 0) < 0 := by decide
/-- Lanes 0 and 1, mask 3's members, are held at one address; lane 2, of no mask, is held on mask 4, and lane 3 waits in a WAITM on mask 5. -/
def meeting : State := jumps.updWarp fun w => { w with
  run := none
  k := [(3, 3#32)]
  th := [(0, { st := .held, addr := 0x100000, meet := meetMake 3 0x100000 }), (1, { st := .held, addr := 0x100000, meet := meetMake 3 0x100000 }),
         (2, { st := .held, addr := 0x100000, meet := meetMake 4 0x100000 }), (3, { st := .active, addr := 0x100000, wait := .waitm 5, naddr := 0x100008 })] }
/-- The same with lane 1 elsewhere: lane 0 stays, and so does a member of a WAITM whose other member does not wait. -/
def apart : State := meeting.updWarp fun w => (w.updThread 1 fun t => { t with meet := meetMake 3 0x200000 }).setMask 5 9#32
theorem witness_ConvergenceMasks_release : let w := meeting.warp; let u := apart.warp
    w.mode = .tenant ∧ (w.thread 0).st = .held ∧ w.inMask 3 0 = true ∧ w.inMask 3 1 = true ∧ w.inMask 3 2 = false
    ∧ ([0, 1].all fun m => (w.thread m).st == .held && meetMask (w.thread m).meet == 3 && meetAddr (w.thread m).meet == 0x100000) = true
    ∧ w.inMask (meetMask (w.thread 2).meet) 2 = false ∧ (w.thread 3).wait = .waitm 5 ∧ w.inMask 5 3 = false
    ∧ meetAddr (u.thread 1).meet ≠ 0x100000 ∧ u.inMask 5 3 = true ∧ u.inMask 5 0 = true ∧ (u.thread 0).wait ≠ .waitm 5
    ∧ (w.releaseMeets 100).releaseWaitm.2 = [3] ∧ ((w.releaseMeets 100).thread 3).nmark = false
    ∧ meetValid ((w.releaseMeets 100).thread 3).meet = false ∧ (u.releaseMeets 100).releaseWaitm.2 = [] := by decide +kernel
/-- One arrival of one at barrier 2, where lane 0 waits, and four of four at cohort 1's, where lane 1 waits. -/
def met : State :=
  { (launched.updWarp fun w => { w with
      run := none
      th := [(0, { st := .atBar, addr := 0x100000, opnd := 2 }), (1, { st := .atCbar, addr := 0x100000, opnd := 1 }), (2, {}), (3, {})] }).updWg 300 fun x =>
        { x with bars := [(2, { begun := true, fixed := some 1, arrived := 3 })] } with
    launches := [(noLaunch, { launch1 with cbars := [(1, { begun := true, arrived := 4 })] })] }
theorem witness_BarrierArrivals_completion : let b := fget ({} : Bar) (met.wg 300).bars 2; let y := met.warpAt 0 0
    b.begun = true ∧ b.fixed.getD (met.liveIn 300) ≤ b.arrived ∧ (fget ({} : Bar) (met.wg 300).bars 3).begun = false
    ∧ y.stowed = false ∧ (y.thread 0).st = .atBar ∧ (y.thread 0).opnd = 2 ∧ y.arriving .barArr 0 = false ∧ 0 ∈ (met.wg 300).slots
    ∧ ((met.launch noLaunch).map fun l => (fget ({} : Bar) l.cbars 1).arrived) = some 4
    ∧ (((met.wgsOf noLaunch).filter fun x => launch1.member 1 x.2.index).map fun x => met.liveIn x.1).foldl (· + ·) 0 ≤ 4
    ∧ (met.wg 300).st ≠ .ended ∧ (y.thread 1).st = .atCbar ∧ (y.thread 1).opnd = 1 ∧ y.arriving .cbarArr 1 = false ∧ (y.thread 1).cdone = false := by
  decide +kernel
theorem witness_AsyncBarriers_error : ({ mems with errs := [0x10000000200] } : State).bad 0x10000000200 16 = true ∧ mems.bad 0x10000000200 16 = false
    ∧ mems.imageLocked 0x10000000200 16 = false
    ∧ ([.abexp ⟨0, 12, 14, 1, none⟩, .abarr ⟨0, 12, 14, 2, none⟩, .abwait ⟨0, 12, 14, 3, none⟩, .abtest ⟨1, 12, 14, 4, none⟩] : List Instr).all
        (ready · ({ mems with errs := [0x10000000200] } : State)) = true := by decide +kernel
/-- A packed-vector copy whose header is here, or in a word that a switch slice owns. -/
def expanding : Cmd := { cmdOf 0x72 4 false with block := 0x120000 + 2 ^ (8 * 0x34) * 2 ^ 8 }
theorem witness_EngineCommands_discard : let r := CopyReq.parse expanding.block
    expanding.op = 0x72 ∧ r.expand = true ∧ tiled.expandNeed 0 0 r = none
    ∧ ({ tiled with swOwned := [0x120000 / 4] } : State).expandNeed 0 0 r = some (needCode 0x120000 16) := by decide +kernel
theorem witness_EngineEvents_asks : let s : State := { matrix expanding with swOwned := [0x120000 / 4] }; let g : Cmd := { expanding with gst := .no }
    s.copyNext 0 = some expanding ∧ (s.acts 0 0 0 9).expandNeed 0 0 (CopyReq.parse expanding.block) = some (needCode 0x120000 16)
    ∧ needOf (needCode 0x120000 16) = some (0x120000, 16) ∧ (matrix g).copyNext 0 = some g ∧ g.gst = .no := by decide +kernel
/-- Warp 3 of the service warp's core holds a fault that FRAGRES clears, or one that it does not. -/
def slotted (c : Cause) : State := svcs.updCore 0 fun k => { k with warps := fset k.warps 3 { (nums.warp) with run := none, wfault := some c } }
theorem witness_SupervisorRegistersAndFragments_warp : ((slotted .fragFull).core 0).ref 0x80000003#32 = some (.warp 3)
    ∧ ((slotted .fragFull).warpAt 0 3).wfault = some .fragFull ∧ ((slotted .warpAbort).warpAt 0 3).wfault = some .warpAbort
    ∧ ((slotted .warpAbort).core 0).ref 0x80000003#32 = some (.warp 3) := by decide +kernel
/-- A restore handler on a core whose operand buffer has rows, and one without. -/
def filling (rows : Nat) : State := restorer.updWarp fun w => { w with t := [(1, tileMake (1 * 2 ^ 11) 0 rows)], v := cells [(4, [2 ^ 31 + 2 ^ 25])] }
theorem witness_ContextItemsAndCaches_classes : let s := filling 64
    s.target_ 0#7 = some (0, BitVec.allOnes 32) ∧ ([(1, 5), (9, 5), (17, 0), (18, 3)].all fun x => !s.warp.beyond x.1 x.2) = true
    ∧ s.warp.mode = .restore ∧ s.warp.refused = some false ∧ (tileMake 0x804 0 64).getLsbD 63 = true
    ∧ (s.core 0).freeRun 64 = some 64 ∧ ((filling 1023).core 0).freeRun 64 = none
    ∧ (restorer.target_ 0#7).map (·.1) = some restorer.cur.slot ∧ svcs.target_ 100 = some (0, 3#32) ∧ (svcs.warpAt 0 0).run = none
    ∧ (jumps.warpAt 0 0).run ≠ none ∧ 1024 / 2 ^ 10 ≠ 0 ∧ 768 / 256 % 4 = 3
    ∧ (svcs.access (2 ^ 54) .rd).isOk = false := by decide +kernel
/-- A coded block of 32 zeros, a raw message of four elements, and where messages and contributions go. -/
def coded0 : Coll := { coll0 with block := coll0.block + 2 ^ 16, seq := 0 }
theorem witness_ClearingInstructions_more : ((clr.code coded0 1 0 0x100000 0 0x100000).2 matches .ok _) = true
    ∧ coded0.fDtype = 0 ∧ coded0.fComp = 1 ∧ 32 % coded0.fB = 0 ∧ msg0.kind = 0 ∧ msg0.count = 4 ∧ coll0.bytes 4 = 16 ∧ coll0.width % 8 = 0
    ∧ 16 ≤ 65536 - 0x100000 % 65536 ∧ clr2.swHeld 0x100000 16 = false ∧ clr.planes = [] ∧ msg0.dev = clr.dev
    ∧ ({ msg0 with dev := 3 } : Msg).dev ≠ clr.dev ∧ (msgBytes { msg0 with dev := 3 }).length ≤ 4096
    ∧ ({ clr with errs := [flatBase] } : State).bad flatBase 16 = true
    ∧ coll0.getsResult 2 0 1 = true ∧ ({ coll0 with block := coll0.block + 1 } : Coll).getsResult 2 1 0 = false := by decide +kernel
/-- System core 0 runs in a mode. -/
def ruled (m : SysMode) (s : State) : State := { s with sys := [(0, { released := true, mode := m })] }
theorem witness_CoreAndHomeEvents_more : ((ruled .hs dues).sysCore dues.arg.hart).released = true ∧ ((ruled .u dues).sysCore 0).mode = .u
    ∧ (dues.sysCore 0).released = false ∧ ((oneOp (opAt .ld 0x100100 4)).core 0).l1Bad = [] ∧ (oneOp (opAt .st 0x100100 4)).imageLocked 0x100100 4 = false
    ∧ ({ mems with errs := [0x100100] } : State).bad 0x100100 1 = true ∧ mems.mapsLine 0 0x100100 0x100100 = true
    ∧ mems.mapsLine 0 0x200000 0x100100 = false := by decide +kernel
theorem witness_JoinUnitEvents_more : ((1 + (2 ^ 17 - 1)) % 2 ^ 17, (2 + (2 ^ 17 - 1)) % 2 ^ 17, (0 + (2 ^ 17 - 1)) % 2 ^ 17) = (0, 1, 2 ^ 17 - 1) := by decide
theorem witness_LaunchAndCollectiveEvents_more : ((waits good false).group { good with block := 5 * 2 ^ 64 }).isNone = true
    ∧ ({ waits good false with groups := [{ handle := 0, tenant := 0, members := [(0, 1)], lost := false }] } : State).group good
      = some { handle := 0, tenant := 0, members := [(0, 1)], lost := false }
    ∧ (0, 0) ∉ [((0 : Nat), (1 : Nat))] ∧ WellFormed.fmtAssigned good.fDtype = true ∧ WellFormed.fmtAssigned 0x3F = false
    ∧ ({ traffic .resident with arg := { data := packet0.header } } : State).arg.data ≠ []
    ∧ ((ruled .m (unit queue1 record)).sysCore 0).mode = .m ∧ (offers { newLaunch with nv := 2000 } []).preemptFor { newLaunch with nv := 2000 } = []
    ∧ slot0.size ≤ ({ slot0 with bitmap := [0, 1] } : Slot).bitmap.length
    ∧ (let t : Tag := { group := 5, stream := 2 ^ 32 - 1, seq := 7, chunk := 3, who := 2 ^ 14 - 1, root := 1, op := 1 }
       ({ packet0 with addr := t.addr, opn := t.opn, bmask := t.bmask, arg := t.arg } : Packet).tag = t) := by decide +kernel
theorem witness_HubEvents_access : ([.m, .hs, .vs, .u].map fun m => ((ruled m State.reset).sysCore State.reset.arg.hart).mode) = [.m, .hs, .vs, .u]
    ∧ ((ruled .m State.reset).sysCore 0).released = true ∧ (State.reset.sysCore 0).released = false
    ∧ State.reset.mmioRead 0x10404 = some 0 ∧ State.reset.mmioRead 0x30000 = none ∧ State.reset.launches = []
    ∧ ({ State.reset with launches := [(1, launch1)] } : State).launches.any (fun l => l.2.tenant == 0 && !l.2.done) = true
    ∧ (minted { stopped := true }).mint.stopped = true ∧ ([115#8].getD 0 0#8).toNat = 115 := by decide +kernel
/-- A memory endpoint at port 0, with a window, and a context whose acknowledgement is in a port. -/
def windowed : State := { portOf { en := true, st := 2, live := 1, ue := true } with uePorts := [(144, 1)], ueWins := [(0, 0x1000, 0x10)] }
theorem witness_FabricEvents_more : (windowed.ueWins.any fun w => w.1 == 0 && decide (w.2.1 ≤ 0x1000 ∧ 0x1000 + 16 ≤ w.2.1 + w.2.2)) = true
    ∧ windowed.meetsSys 0x1000 16 = false ∧ windowed.endpoint 144 = some 1 ∧ windowed.ueUp 0 = true ∧ State.reset.endpoint 144 = none
    ∧ windowed.bad 0x1000 16 = false ∧ (waitsFor 0 17).planes.all (fun n => (waitsFor 0 17).portUp n) = true
    ∧ (let s : State := { waitsFor 0x4000 17 with ports := [(5, { en := true, st := 1 }), (6, { en := true, st := 2 })], planes := [5, 6] }
       s.portFor packet0 = some 5 ∧ s.portUp 5 = false ∧ s.portUp 6 = true)
    ∧ (3 : Nat) - 1 + 2 ^ 32 - 2 < 2 ^ 33 ∧ ((3 - 1 + 2 ^ 32 - 2) % 2 ^ 32 < 2 ^ 31)
    ∧ (let x : Ctx := { core := 0, tenant := 0, dest := 3, ctx := 1, next := 8, acked := 8, idle := 0x10000 }
       ({ State.reset with ctxs := [x] } : State).ackHeld x = false
       ∧ ({ State.reset with ports := [(0, { waiting := [{ packet0 with kind := 7, dst := 3 }] })] } : State).ackHeld x = true) := by decide +kernel

end Sys2Proof.Tests
end

/-! Little-endian memory and register pairs (spec/00_scope.md R2). -/

namespace Sys2Proof.Machine

/-! ### Memory -/

theorem getElem_leBytes (n v k : Nat) (h : k < (leBytes n v).length) :
    (leBytes n v)[k] = BitVec.ofNat 8 (v / 256 ^ k) := by
  induction n generalizing v k with
  | zero => simp at h
  | succ n ih =>
    cases k with
    | zero => simp [leBytes]
    | succ k =>
      have hk : k < (leBytes n (v / 256)).length := by simpa using h
      calc (leBytes n (v / 256))[k]
          = BitVec.ofNat 8 (v / 256 / 256 ^ k) := ih (v / 256) k hk
        _ = BitVec.ofNat 8 (v / 256 ^ (k + 1)) := by rw [Nat.div_div_eq_div_mul, ← Nat.pow_succ']

theorem rd8_wrBytes_leBytes (m : List Host.Cell) (a v : Nat) {n k : Nat} (hk : k < n) :
    rd8 (wrBytes m a (leBytes n v)) (a + k) = BitVec.ofNat 8 (v / 256 ^ k) := by
  have hlen : k < (leBytes n v).length := by simpa using hk
  rw [rd8_wrBytes_in _ m a k hlen, getElem_leBytes]

theorem rdBytes_wrBytes_leBytes (m : List Host.Cell) (a n v : Nat) :
    rdBytes (wrBytes m a (leBytes n v)) a n = leBytes n v := by
  simpa using rdBytes_wrBytes (leBytes n v) m a

theorem rdN_wrBytes_leBytes (s : State) (a n v : Nat) :
    ({ s with mem := wrBytes s.mem a (leBytes n v) } : State).rdN a n = v % 256 ^ n := by
  rw [State.rdN, rdBytes_wrBytes_leBytes, leNat_leBytes]

/-! ### Register pairs -/

theorem reg_setReg_self (w : Warp) (d : Nat) {l : Nat} (x : Word) (hl : l < 32) : (w.setReg d l x).reg d l = x := by
  by_cases hd : d < 96
  · simp [reg_setReg_vec w x hd hl hl]
  · simp [reg_setReg_uni w x (Nat.le_of_not_lt hd)]

theorem reg_setReg_ne (w : Warp) {c d l k : Nat} (x : Word) (hc : c ≠ d) (hl : l < 32) (hk : k < 32) :
    (w.setReg d k x).reg c l = w.reg c l := by
  by_cases hd : d < 96
  · simp [reg_setReg_vec w x hd hl hk, hc]
  · simp [reg_setReg_uni w x (Nat.le_of_not_lt hd), hc]

theorem reg_setReg64_low (w : Warp) (d v : Nat) {l : Nat} (hl : l < 32) :
    (w.setReg64 d l v).reg d l = BitVec.ofNat 32 v := by
  rw [Warp.setReg64, reg_setReg_ne _ _ (Nat.ne_of_lt d.lt_succ_self) hl hl, reg_setReg_self _ _ _ hl]

theorem reg_setReg64_high (w : Warp) (d v : Nat) {l : Nat} (hl : l < 32) :
    (w.setReg64 d l v).reg (d + 1) l = BitVec.ofNat 32 (v / 2 ^ 32) := by
  rw [Warp.setReg64, reg_setReg_self _ _ _ hl]

theorem reg64_setReg64 (w : Warp) (d v : Nat) {l : Nat} (hl : l < 32) : (w.setReg64 d l v).reg64 d l = v % 2 ^ 64 := by
  rw [Warp.reg64, reg_setReg64_low w d v hl, reg_setReg64_high w d v hl, BitVec.toNat_ofNat, BitVec.toNat_ofNat]
  omega

/-- Settles O8: the bytes of memory read back where they were written, and of a pair's two writes neither touches the other's
register, so every pair reads back, also v95 with the first uniform register, which the statement leaves out. -/
theorem memoryAndPairsAreLittleEndian : Obligations.MemoryAndPairsAreLittleEndian := by
  unfold Obligations.MemoryAndPairsAreLittleEndian
  refine ⟨fun s a n v hv => ⟨?_, fun k hk => rd8_wrBytes_leBytes s.mem a v hk⟩,
    fun w d l v _ hl => ⟨reg_setReg64_low w d v hl, reg_setReg64_high w d v hl, fun hv => ?_⟩⟩
  · rw [rdN_wrBytes_leBytes, Nat.mod_eq_of_lt hv]
  · rw [reg64_setReg64 w d v hl, Nat.mod_eq_of_lt hv]

end Sys2Proof.Machine

/-! Reset, the canonical form of memory, and the places of cores (spec/01_machine.md R8, R10). -/

namespace Sys2Proof.Machine

/-! ### Every step keeps memory in its canonical form -/

theorem OutOk.fault (f : Fault) : OutOk (.fault f) := by intro t e; cases e
theorem OutOk.refused (e : Refusal) : OutOk (.refused e) := by intro t h; cases h

theorem State.issue_memOk (r : State × Bool) (h : MemOk r.1) : OutOk (State.issue r) := by
  have hi : MemOk r.1.issuing := State.issuing_memOk _ h
  unfold State.issue
  split
  case isTrue => exact .next h
  case isFalse =>
    split
    · exact .next h
    · exact .next (State.afterIssue_memOk _ (State.faultOpen_memOk _ _ hi))
    · next i _ =>
      split
      · next t ht => exact .next (State.afterIssue_memOk _ (exec_memOk i _ hi t ht))
      · exact .fault _
      · exact .refused _

theorem State.doTurn_clear_memOk (s : State) (d p : Nat) (h : MemOk s) : OutOk (s.doTurn (.clear d p)) := by
  have ht : MemOk (s.clearTurn d p).1 := State.clearTurn_memOk s d p h
  unfold State.doTurn
  dsimp only
  split
  · next t e => exact .next (State.clearOut_memOk _ _ _ _ h (by simpa [e] using ht))
  · next t i e =>
    have hx : OutOk (exec i t) := exec_memOk i t (by simpa [e] using ht)
    split
    · next u hu => exact .next (State.clearOut_memOk _ _ _ _ h (hx u hu))
    · exact hx

theorem State.doTurn_event_memOk (s : State) (e : Instr) (a : Arg) (h : MemOk s) : OutOk (s.doTurn (.event e a)) := by
  unfold State.doTurn
  dsimp only
  split
  · exact .next h
  · exact exec_memOk e _ (h.of_mem rfl)

theorem State.doTurn_cycles_memOk (s : State) (cls u n : Nat) (h : MemOk s) : OutOk (s.doTurn (.cycles cls u n)) := by
  unfold State.doTurn
  dsimp only
  split
  · exact .next (.ite (State.passCycles_memOk _ _ _ h) h)
  · exact .next (h.of_mem rfl)
  · exact .next (State.passEdge_memOk _ _ _ h)
  · exact .next (State.passPort_memOk _ _ _ h)
  · exact .next (State.passSwitch_memOk _ _ _ h)
  · exact .next (State.countHub_memOk _ _ _ _ (h.of_mem rfl))
  · exact .next (h.of_mem rfl)

theorem State.doTurn_memOk (s : State) (t : Turn) (h : MemOk s) : OutOk (s.doTurn t) := by
  cases t with
  | issue c q =>
    unfold State.doTurn
    dsimp only
    split
    · exact State.issue_memOk _ (State.turnOf_memOk _ _ _ h)
    · exact .next h
  | service c =>
    unfold State.doTurn
    dsimp only
    split
    · exact State.issue_memOk _ (State.turnOfService_memOk _ _ h)
    · exact .next h
  | clear d p => exact State.doTurn_clear_memOk s d p h
  | event e a => exact State.doTurn_event_memOk s e a h
  | cycles cls u n => exact State.doTurn_cycles_memOk s cls u n h
  | write pa bs => exact .next (State.outsideWrite_memOk _ _ _ h)
  | damage pa n => exact .next (h.of_mem rfl)
  | damageReg c w x => exact .next (State.updWarpAt_memOk _ _ _ _ h)
  | damageBuf c r => exact .next (State.updCore_memOk _ _ _ h)
  | damageL1 c w => exact .next (State.updCore_memOk _ _ _ h)
  | damageHub n => exact .next (State.damageHub_memOk _ _ h)
  | evict c w => exact .next (State.updCore_memOk _ _ _ h)
  | supervise c m => exact .next (.ite h (State.supervise_memOk _ _ _ h))
  | askHeld c e k m => exact .next (State.askHeld_memOk _ _ _ _ _ h)
  | credit p vc f => exact .next (State.credit_memOk _ _ _ _ h)
  | ueRead p pa n => exact .next (State.ueRead_memOk _ _ _ _ h)
  | sysMode hart mode => exact .next (State.setSysMode_memOk _ _ _ h)
  | sysRelease hart => exact .next (State.sysRelease_memOk _ _ h)
  | sysRead hart i o => exact .next (State.sysRead_memOk _ _ _ _ h)
  | tlbDrop c => exact .next (State.updDie_memOk _ _ _ (State.updCore_memOk _ _ _ h))

theorem State.nextTurn_memOk (s : State) (h : MemOk s) : MemOk s.nextTurn.2 := by
  unfold State.nextTurn
  split
  · exact h
  · exact h.of_mem rfl

theorem step_memOk (s : State) (h : MemOk s) : OutOk (step s) := by
  unfold step State.oneStep
  dsimp only
  split
  · exact .fault _
  · exact State.doTurn_memOk _ _ (State.nextTurn_memOk s h)

/-- Settles O6: the state of the next turn has the memory of the one before it, and each kind of turn ends in operations that keep
memory canonical, those of an instruction or event by `exec_memOk`. -/
theorem stepKeepsMemoryCanonical : Obligations.StepKeepsMemoryCanonical :=
  fun s t h e => step_memOk s h t e

/-! ### Reset -/

/-- Settles O5: reset lists no cell. -/
theorem resetMemoryCanonical : Obligations.ResetMemoryCanonical := ⟨rfl, rfl⟩

@[simp] theorem reset_core (c : Nat) : State.reset.core c = {} := rfl
@[simp] theorem reset_die (d : Nat) : State.reset.die d = {} := rfl
@[simp] theorem reset_port (p : Nat) : State.reset.port p = {} := rfl
@[simp] theorem reset_tenant (t : Nat) : State.reset.tenant t = {} := rfl

/-- A core whose CSRs nothing has written reads each at its reset value. -/
theorem rawCsr_of_csr_nil {k : Core} (h : k.csr = []) (n : Nat) : k.rawCsr n = csrReset n := by
  rw [Core.rawCsr, h, fget]

/-- An event selection counts no event at reset (spec/28_system.md R465). -/
theorem csrReset_evsel {n : Nat} (h : n < 8) : csrReset (0x100 + n) = 0x00F00000#32 := by
  unfold csrReset
  have hsel : 0x100 ≤ 0x100 + n ∧ 0x100 + n ≤ 0x107 := by omega
  simp [hsel, show ∀ j, j < 0x100 → 0x100 + n ≠ j by omega]

theorem csrReset_above_evsel {n : Nat} (h : 0x107 < n) : csrReset n = 0#32 := by
  unfold csrReset
  simp [show ¬ n ≤ 0x107 by omega, show ∀ j, j < 0x100 → n ≠ j by omega]

/-- Settles O7: reset lists no register, so each reads as the value its definition gives an unwritten one. -/
theorem resetRegisters : Obligations.ResetRegisters := by
  have hcsr (c n : Nat) : (State.reset.core c).rawCsr n = csrReset n := rawCsr_of_csr_nil rfl n
  have hevents (c n : Nat) (hn : n < 8) : (State.reset.core c).rawCsr (0x100 + n) = 0x00F00000#32
      ∧ (State.reset.core c).rawCsr (0x108 + n) = 0#32 ∧ (State.reset.core c).rawCsr (0x110 + n) = 0#32 := by
    rw [hcsr, hcsr, hcsr]
    exact ⟨csrReset_evsel hn, csrReset_above_evsel (by omega), csrReset_above_evsel (by omega)⟩
  unfold Obligations.ResetRegisters
  refine ⟨?cores, ?csrs, hevents, ?frags, ?procs, ?meas, ?bootStep, ?tenants, ?queues, ?ports, ?timers, ?islands, ?package⟩
  case csrs =>
    intro c
    simp only [hcsr]
    decide
  case cores => simp
  case tenants => simp
  case ports => simp
  case timers => simp
  case procs => simp
  case queues => exact fun _ _ => rfl
  case frags => exact fun _ _ => rfl
  case meas => exact fun _ => rfl
  case islands => exact fun _ => ⟨rfl, rfl⟩
  case bootStep => rfl
  case package => rfl

/-! ### The places of cores (R8) -/

@[simp] theorem special_core (s : State) (l : Nat) : s.special 0x06 l = s.cur.core % 48 := rfl
@[simp] theorem special_die (s : State) (l : Nat) : s.special 0x07 l = s.cur.core / 48 := rfl

/-- Core x of row y of a die lies in the quarter of its half of the columns and its half of the rows. -/
theorem islandOf_place (die : Nat) {x y : Nat} (hx : x < 8) (hy : y < 6) :
    islandOf (die * 48 + (y * 8 + x)) = 4 * die + (x / 4 + 2 * (y / 3)) := by
  unfold islandOf
  have hdie : (die * 48 + (y * 8 + x)) / 48 = die := by omega
  have hplace : (die * 48 + (y * 8 + x)) % 48 = y * 8 + x := by omega
  have hcol : (y * 8 + x) % 8 = x := by omega
  have hrow : (y * 8 + x) / 8 = y := by omega
  rw [hdie, hplace, hcol, hrow]
  omega

/-- Settles O10: 48 cores to a die, 8 to a row of it. -/
theorem corePlaces : Obligations.CorePlaces := by
  intro s die x y l _ hx hy hc
  rw [special_core, special_die, hc]
  exact ⟨by omega, by omega, islandOf_place die hx hy⟩

end Sys2Proof.Machine

/-! Predicates, the checks at issue, and special registers (spec/02_state.md R19, R22, R28; spec/10_system_clearing_isa.md R233, R235). -/

namespace Sys2Proof.Machine

/-! ### Predicates (R22) -/

@[simp] theorem pred_seven (w : Warp) (l : Nat) : w.pred 7 l = true := rfl
@[simp] theorem setPred_seven (w : Warp) (l : Nat) (x : Bool) : w.setPred 7 l x = w := rfl

/-- Settles O9: a write of p0 to p6 reads back in its own lane of its own predicate alone. -/
theorem predicateSevenReadsTrue : Obligations.PredicateSevenReadsTrue := by
  refine fun w l k x => ⟨pred_seven w l, setPred_seven w l x, fun p q hp hq => ?_⟩
  rw [pred_setPred w x (by omega) (by omega)]
  simp [Nat.ne_of_lt hp]

/-! ### The checks at issue (R19, R233, R235, R247, R425) -/

/-- Every core instruction acts only behind the checks at issue. -/
theorem exec_gated {i : Instr} (h : formOf i = .core) (s : State) : ∃ f, exec i s = s.gated i f := by
  cases i <;> simp only [formOf, reduceCtorEq] at h <;> (dsimp only [exec]; exact ⟨_, rfl⟩)

theorem formOf_of_isSys {i : Instr} (h : isSys i = true) : formOf i = .core := by
  cases i <;> simp only [isSys, Bool.false_eq_true] at h <;> rfl

/-- The instructions that handler mode refuses are SYS instructions. -/
theorem isSys_of_svcOnly {i : Instr} (h : svcOnly i = true) : isSys i = true := by
  cases i <;> simp only [svcOnly, Bool.false_eq_true] at h <;> rfl

theorem svcOnly_of_not_isSys {i : Instr} (h : isSys i = false) : svcOnly i = false :=
  Bool.eq_false_iff.mpr fun hs => by simp [isSys_of_svcOnly hs] at h

/-- A check that fails gives the fault of the whole split, at the header or at the instruction. -/
theorem exec_of_gate {i : Instr} {s : State} {c : Cause} {atHeader : Bool} (h : formOf i = .core) (hg : s.gate i = some (c, atHeader)) :
    exec i s = .next (if atHeader then s.faultOpenAt s.here.1 0 c else s.faultOpen c) := by
  obtain ⟨f, he⟩ := exec_gated h s
  rw [he, State.gated, hg]
  cases atHeader <;> rfl

theorem gate_privileged_tenant {i : Instr} {s : State} (hs : s.cur.slot ≠ 64) (hi : isSys i = true) (hm : s.warp.mode = .tenant) :
    s.gate i = some (.privileged, true) := by
  simp [State.gate, hs, hi, hm]

theorem gate_privileged_handler {i : Instr} {s : State} (hs : s.cur.slot ≠ 64) (hi : svcOnly i = true) (hm : s.warp.mode ≠ .tenant) :
    s.gate i = some (.privileged, false) := by
  simp [State.gate, hs, hi, hm]

theorem gate_eret_service {s : State} (o : SOps) (hs : s.cur.slot = 64) : s.gate (.eret o) = some (.illegalOpcode, false) := by
  simp [State.gate, hs, isSys, svcOnly, refOk]

/-- Of an instruction that is no SYS instruction the checks are those of handler mode, of the counts and of lasting errors. -/
theorem gate_of_not_isSys {i : Instr} {s : State} (hi : isSys i = false) :
    s.gate i = if namesMask i = true ∧ s.warp.mode ≠ .tenant ∨ s.warp.countsOk i = false then some (.illegalOpcode, false)
      else if s.warp.readsBad s.mask i = true then some (.dataUncorrectable, false) else none := by
  unfold State.gate
  simp only [hi, svcOnly_of_not_isSys hi]
  by_cases hn : namesMask i = true ∧ s.warp.mode ≠ .tenant
  · simp [hn]
  · cases hc : s.warp.countsOk i <;> simp_all

/-- Settles O18: each check is named by `gate`, and the checks before it pass or give the same fault. -/
theorem issueChecksFault : Obligations.IssueChecksFault := by
  unfold Obligations.IssueChecksFault
  refine ⟨fun i s hs => ⟨fun hi hm => ?tenant, fun hi hm => ?handler⟩,
    fun i s hf hi => ⟨fun hc => ?counts, fun hn hm => ?masks, fun hs o => ?eret, fun hc hn hb => ?errors⟩⟩
  case tenant => exact exec_of_gate (formOf_of_isSys hi) (gate_privileged_tenant hs hi hm)
  case handler => exact exec_of_gate (formOf_of_isSys (isSys_of_svcOnly hi)) (gate_privileged_handler hs hi hm)
  case eret => exact exec_of_gate rfl (gate_eret_service o hs)
  case counts => exact exec_of_gate hf (by rw [gate_of_not_isSys hi, if_pos (.inr hc)])
  case masks => exact exec_of_gate hf (by rw [gate_of_not_isSys hi, if_pos (.inl ⟨hn, hm⟩)])
  case errors =>
    have hpass : ¬ (namesMask i = true ∧ s.warp.mode ≠ .tenant ∨ s.warp.countsOk i = false) := by
      rintro (⟨h, hm⟩ | h)
      · exact hm (hn h)
      · simp [hc] at h
    exact exec_of_gate hf (by rw [gate_of_not_isSys hi, if_neg hpass, if_pos hb])

/-! ### Special registers (R28, R148) -/

/-- A 64-bit value in a pair of uniform registers. -/
theorem results_uniformPair (s : State) (d : BitVec 7) (l v : Nat) (hd : 96 ≤ d.toNat) :
    Results s (s.updWarp fun w => w.setReg64 d.toNat l v) fun c _ =>
      if c = d.toNat then some (BitVec.ofNat 32 v) else if c = d.toNat + 1 then some (BitVec.ofNat 32 (v / 2 ^ 32)) else none := by
  refine results_of (regsOnly_setReg64 _ _ _ _) fun c l _ _ => ?_
  dsimp only [Warp.setReg64]
  rw [reg_setReg_uni _ _ (by omega), reg_setReg_uni _ _ hd]
  by_cases h1 : c = d.toNat
  · simp [h1]
  · by_cases h2 : c = d.toNat + 1 <;> simp [h1, h2]

theorem srd_even {o : IOps} (hw : (Instr.srd o).wf = true) (hn : WellFormed.srSel o = 0x0A ∨ WellFormed.srSel o = 0x0D) :
    o.d.toNat % 2 = 0 := by
  rw [Instr.wf, WellFormed.check, Option.isNone_iff_eq_none, verdict_none] at hw
  simp [WellFormed.isEven] at hw
  omega

/-- What SRD leaves where the special register has a stated value. -/
def State.srd (s : State) (o : IOps) : State :=
  let v := s.special (WellFormed.srSel o)
  if WellFormed.srSel o = 0x0A ∨ WellFormed.srSel o = 0x0D then
    if 96 ≤ o.d.toNat then s.updWarp fun w => w.setReg64 o.d.toNat 0 (v 0) else s.perLane64 o.d fun _ => v
  else if 96 ≤ o.d.toNat then s.updWarp fun w => w.setReg o.d.toNat 0 (BitVec.ofNat 32 (v 0))
  else s.perLane o.d fun _ l => BitVec.ofNat 32 (v l)

theorem exec_srd {o : IOps} {s : State} (hR : Runs (.srd o) s) (h : s.cur.slot = 64 → serviceOpen (WellFormed.srSel o) = false) :
    exec (.srd o) s = .next (s.srd o) := by
  have hopen : ¬ (s.cur.slot = 64 ∧ serviceOpen (WellFormed.srSel o) = true) := fun ⟨hs, hv⟩ => by simp [h hs] at hv
  change execSrd o s = _
  rw [execSrd, gated_runs hR]
  dsimp only
  rw [if_neg hopen]
  simp only [State.srd, State.perLane64, List.foldl_map]
  rfl

theorem Results.congr {s t : State} {f g : Nat → Nat → Option Word} (h : Results s t f) (e : ∀ c l, f c l = g c l) : Results s t g :=
  (funext fun c => funext fun l => e c l : f = g) ▸ h

/-- Settles O27: a listed special register of 64 bits goes to an even pair, any other to one register. -/
theorem specialRegisterReads : Obligations.SpecialRegisterReads := by
  intro o s hopen n v wide d hw hR
  refine ⟨s.srd o, exec_srd hR hopen, ?_⟩
  have hn : n = WellFormed.srSel o := rfl
  unfold State.srd
  rw [← hn]
  by_cases hwide : n = 0x0A ∨ n = 0x0D <;> by_cases hd : 96 ≤ d
  · rw [if_pos hwide, if_pos hd]
    exact (results_uniformPair s o.d 0 (v 0) hd).congr fun c l => by simp [hd, wide, hwide, d]
  · have heven : d % 2 = 0 := srd_even hw hwide
    rw [if_pos hwide, if_neg hd]
    exact (results_perLane64 s o.d (fun _ => v) (by omega)).congr fun c l => by simp [inPairs, hd, wide, hwide, d]
  · rw [if_neg hwide, if_pos hd]
    exact (results_uniform s o.d 0 (BitVec.ofNat 32 (v 0)) hd).congr fun c l => by simp [inUniform, hd, wide, hwide, d]
  · rw [if_neg hwide, if_neg hd]
    refine (results_perLane s o.d (fun _ l => BitVec.ofNat 32 (v l)) (by omega)).congr fun c l => ?_
    by_cases hl : s.mask.getLsbD l = true <;> simp [inLanes, hd, wide, hwide, hl, d]

end Sys2Proof.Machine

/-! Contexts, translation and caches (spec/02_state.md R33 to R40; spec/10_system_clearing_isa.md R244 to R248). -/

namespace Sys2Proof.Machine

/-- An instruction reaches what its effect does where it runs. -/
theorem reaches_of {i : Instr} {s t : State} {p : State → Prop} (he : Runs i s → exec i s = .next t) (hp : p t) : Reaches i s p :=
  fun _ hR => ⟨t, he hR, hp⟩

theorem Reaches.imp {i : Instr} {s : State} {p q : State → Prop} (h : Reaches i s p) (hpq : ∀ t, p t → q t) : Reaches i s q :=
  fun hw hR => (h hw hR).imp fun t ht => ⟨ht.1, hpq t ht.2⟩

/-! ### SAVEX (R244) -/

theorem savex_vec {o : SOps} (hw : (Instr.savex o).wf = true) : o.d.toNat < 96 := by
  rw [Instr.wf, WellFormed.check, Option.isNone_iff_eq_none, verdict_none] at hw
  simp only [WellFormed.isVec, Bool.and_eq_true, decide_eq_true_eq] at hw
  exact hw.1.1.2

theorem exec_savex_none {o : SOps} {s : State} (ht : s.target_ o.a = none) (hR : Runs (.savex o) s) :
    exec (.savex o) s = .next (s.perLane o.d fun _ _ => 0#32) := by
  change execSavex o s = _
  rw [execSavex, gated_runs hR]
  simp only [ht]

theorem exec_savex_item {o : SOps} {s : State} {slot : Nat} {m : Word} (ht : s.target_ o.a = some (slot, m))
    (hb : ((s.core s.cur.core).warp slot).beyond (itemCls o.x) (itemIdx o.x) = false)
    (he : (s.core s.cur.core).itemBad slot m (itemCls o.x) (itemIdx o.x) (s.rowOf o.b) = false) (hR : Runs (.savex o) s) :
    exec (.savex o) s = .next (s.perLane o.d fun _ l => if oneItem (itemCls o.x) || m.getLsbD l then
      BitVec.ofNat 32 ((s.core s.cur.core).item ((s.core s.cur.core).warp slot) (itemCls o.x) (itemIdx o.x) (s.rowOf o.b) l) else 0#32) := by
  change execSavex o s = _
  rw [execSavex, gated_runs hR]
  simp only [ht, hb, he, Bool.false_eq_true, if_false]

theorem savex_none (o : SOps) (s : State) (ht : s.target_ o.a = none) : Computes (.savex o) s (inLanes s o.d fun _ => 0#32) :=
  fun hw hR => ⟨_, exec_savex_none ht hR, results_perLane s o.d _ (savex_vec hw)⟩

theorem savex_item (o : SOps) (s : State) {slot : Nat} {m : Word} (ht : s.target_ o.a = some (slot, m))
    (hb : ((s.core s.cur.core).warp slot).beyond (itemCls o.x) (itemIdx o.x) = false)
    (he : (s.core s.cur.core).itemBad slot m (itemCls o.x) (itemIdx o.x) (s.rowOf o.b) = false) :
    Computes (.savex o) s (inLanes s o.d fun l => if oneItem (itemCls o.x) = true ∨ m.getLsbD l = true then
      BitVec.ofNat 32 ((s.core s.cur.core).item ((s.core s.cur.core).warp slot) (itemCls o.x) (itemIdx o.x) (s.rowOf o.b) l) else 0#32) :=
  fun hw hR => ⟨_, exec_savex_item ht hb he hR,
    (results_perLane s o.d _ (savex_vec hw)).congr fun c l => by simp only [inLanes, Bool.or_eq_true]⟩

/-! ### Frames of a core and of a warp -/

/-- Nothing differs but one core. -/
def OnlyCore (s t : State) (c : Nat) : Prop := t = { s with cores := t.cores } ∧ ∀ j, j ≠ c → t.core j = s.core j

theorem OnlyCore.refl (s : State) (c : Nat) : OnlyCore s s c := ⟨rfl, fun _ _ => rfl⟩
theorem OnlyCore.trans {s t u : State} {c : Nat} (h : OnlyCore s t c) (g : OnlyCore t u c) : OnlyCore s u c :=
  ⟨by rw [g.1, h.1], fun j hj => (g.2 j hj).trans (h.2 j hj)⟩
theorem onlyCore_updCore (s : State) (c : Nat) (f : Core → Core) : OnlyCore s (s.updCore c f) c :=
  ⟨rfl, fun _ hj => core_setCore_ne s _ hj⟩

/-- One update of a core for each lane of a list. -/
theorem onlyCore_foldl_updCore (c : Nat) (g : Nat → Core → Core) (ls : List Nat) (s : State) :
    OnlyCore s (ls.foldl (fun s l => s.updCore c (g l)) s) c
      ∧ (ls.foldl (fun s l => s.updCore c (g l)) s).core c = ls.foldl (fun k l => g l k) (s.core c) := by
  induction ls generalizing s with
  | nil => exact ⟨.refl s c, rfl⟩
  | cons l ls ih =>
    obtain ⟨hframe, hcore⟩ := ih (s.updCore c (g l))
    refine ⟨(onlyCore_updCore s c (g l)).trans hframe, ?_⟩
    rw [List.foldl_cons, List.foldl_cons, hcore, core_updCore]

/-- Nothing differs but one warp of one core. -/
def OnlyWarpAt (s t : State) (c slot : Nat) : Prop :=
  OnlyCore s t c ∧ t.core c = { s.core c with warps := (t.core c).warps } ∧ ∀ w, w ≠ slot → t.warpAt c w = s.warpAt c w

theorem onlyWarpAt_updWarpAt (s : State) (c slot : Nat) (f : Warp → Warp) : OnlyWarpAt s (s.updWarpAt c slot f) c slot := by
  refine ⟨onlyCore_updCore s c (·.setWarp slot (f (s.warpAt c slot))), ?_, fun w hw => warpAt_setWarpAt_ne s _ (.inr hw)⟩
  rw [State.updWarpAt, State.setWarpAt, core_updCore]
  rfl

/-! ### RESTX (R39, R231, R244, R245) -/

/-- A handler whose record has been checked, and a warp in no restore handler, goes on. -/
theorem checkRecord_made {s : State} (h : s.warp.mode = .restore → s.warp.refused ≠ none) : s.checkRecord = (s, true) := by
  rw [State.checkRecord, if_pos]
  by_cases hm : s.warp.mode = .restore
  · exact .inr (Option.isSome_iff_ne_none.mpr (h hm))
  · exact .inl hm

/-- What RESTX does with the context it names, once the record has passed its check. -/
def State.putContext (s : State) (o : SOps) (slot : Nat) (m : Word) : State :=
  let c := s.cur.core; let cls := itemCls o.x; let idx := itemIdx o.x
  let x := fun (l : Nat) => s.warp.reg o.a.toNat l
  if cls = 1 ∧ slot ≠ s.cur.slot ∧ (s.warpAt c slot).run.isSome then s.stalled
  else if (s.warpAt c slot).beyond cls idx then s
  else if cls = 9 then s.putTile idx (x s.lowest)
  else if 17 ≤ cls then s.lanes.foldl (fun t l => t.putRow (cls == 18) (s.rowOf o.b) l (x l)) s
  else if oneItem cls then s.updWarpAt c slot fun w => w.putItem cls idx 0 (x s.lowest)
  else s.updWarpAt c slot fun w => (s.lanes.filter fun l => m.getLsbD l).foldl (fun w l => w.putItem cls idx l (x l)) w

theorem exec_restx_none {o : SOps} {s : State} (ht : s.target_ o.d = none) (hR : Runs (.restx o) s) : exec (.restx o) s = .next s := by
  change execRestx o s = _
  rw [execRestx, gated_runs hR]
  simp only [ht]

theorem exec_restx {o : SOps} {s : State} {slot : Nat} {m : Word} (ht : s.target_ o.d = some (slot, m))
    (hc : s.warp.mode = .restore → s.warp.refused ≠ none) (hr : s.warp.refused ≠ some true) (hR : Runs (.restx o) s) :
    exec (.restx o) s = .next (s.putContext o slot m) := by
  change execRestx o s = _
  rw [execRestx, gated_runs hR]
  simp only [ht, checkRecord_made hc, if_neg hr, State.putContext]

theorem putContext_one {s : State} {o : SOps} {slot : Nat} (m : Word) (hone : oneItem (itemCls o.x) = true) (hcls : itemCls o.x ≠ 9)
    (hb : (s.warpAt s.cur.core slot).beyond (itemCls o.x) (itemIdx o.x) = false)
    (hrun : itemCls o.x = 1 → slot = s.cur.slot ∨ (s.warpAt s.cur.core slot).run = none) :
    s.putContext o slot m = s.updWarpAt s.cur.core slot fun w =>
      w.putItem (itemCls o.x) (itemIdx o.x) 0 (s.warp.reg o.a.toNat s.lowest) := by
  have hstall : ¬ (itemCls o.x = 1 ∧ slot ≠ s.cur.slot ∧ (s.warpAt s.cur.core slot).run.isSome = true) := by
    rintro ⟨h1, hne, hsome⟩
    rcases hrun h1 with h | h
    · exact hne h
    · simp [h] at hsome
  have hlt : ¬ 17 ≤ itemCls o.x := by
    simp only [oneItem, Bool.or_eq_true, beq_iff_eq] at hone
    omega
  simp only [State.putContext, if_neg hstall, hb, Bool.false_eq_true, if_false, if_neg hcls, if_neg hlt, hone, if_true]

theorem putContext_lanes {s : State} {o : SOps} {slot : Nat} (m : Word) (hone : oneItem (itemCls o.x) = false) (hlt : itemCls o.x < 17)
    (hb : (s.warpAt s.cur.core slot).beyond (itemCls o.x) (itemIdx o.x) = false) :
    s.putContext o slot m = s.updWarpAt s.cur.core slot fun w => (s.lanes.filter fun l => m.getLsbD l).foldl (fun w l =>
      w.putItem (itemCls o.x) (itemIdx o.x) l (s.warp.reg o.a.toNat l)) w := by
  have h1 : itemCls o.x ≠ 1 := fun h => by simp [oneItem, h] at hone
  have h9 : itemCls o.x ≠ 9 := fun h => by simp [oneItem, h] at hone
  simp only [State.putContext, h1, false_and, if_false, hb, Bool.false_eq_true, if_neg h9, if_neg (Nat.not_le.mpr hlt), hone]

theorem putContext_stalled {s : State} {o : SOps} {slot : Nat} (m : Word) (h1 : itemCls o.x = 1) (hslot : slot ≠ s.cur.slot)
    (hrun : (s.warpAt s.cur.core slot).run ≠ none) : s.putContext o slot m = s.stalled :=
  if_pos ⟨h1, hslot, Option.isSome_iff_ne_none.mpr hrun⟩

/-! What is read of an item after it was put -/

theorem toNat_fget_fset (m : FMap Word) {a b j l : Nat} (x : Word) (h : a = b ↔ j = l) :
    (fget 0#32 (fset m b x) a).toNat = if j = l then x.toNat else (fget 0#32 m a).toNat := by
  rw [fget_fset]
  simp only [h]
  split <;> rfl

theorem item_putItem {cls : Nat} (hcls : cls = 0 ∨ cls = 10 ∨ cls = 13 ∨ cls = 14 ∨ cls = 15) (k : Core) (w : Warp) (idx row l j : Nat)
    (x : Word) : k.item (w.putItem cls idx l x) cls idx row j = if j = l then x.toNat else k.item w cls idx row j := by
  rcases hcls with rfl | rfl | rfl | rfl | rfl
  · exact toNat_fget_fset w.v x (by omega)
  · exact toNat_fget_fset w.a x (by omega)
  · exact toNat_fget_fset w.ldfs x (by omega)
  · exact toNat_fget_fset w.ldfs x (by omega)
  · exact toNat_fget_fset w.ldfs x (by omega)

theorem preds_putItem (w : Warp) (idx l j : Nat) (x : Word) :
    ((w.putItem 2 idx l x).thread j).preds.toNat = if j = l then x.toNat % 128 else (w.thread j).preds.toNat := by
  simp only [Warp.putItem, Warp.updThread]
  split
  · next h =>
    subst h
    rw [thread_setThread, BitVec.toNat_ofNat]
    omega
  · rw [thread_setThread_ne _ _ ‹_›]
    rfl

/-- What a lane's item is read as, once it has been put in some lanes. -/
theorem foldl_putItem_lane {cls idx : Nat} {read : Warp → Nat → Nat} {g : Word → Nat}
    (h : ∀ w l j x, read (w.putItem cls idx l x) j = if j = l then g x else read w j) (x : Nat → Word) (ls : List Nat) (w : Warp) (j : Nat) :
    read (ls.foldl (fun w l => w.putItem cls idx l (x l)) w) j = if j ∈ ls then g (x j) else read w j := by
  induction ls generalizing w with
  | nil => simp
  | cons l ls ih =>
    rw [List.foldl_cons, ih, h]
    by_cases hj : j = l
    · subst hj; simp
    · simp [hj]

theorem item_foldl_putItem {cls : Nat} (hcls : cls = 0 ∨ cls = 10 ∨ cls = 13 ∨ cls = 14 ∨ cls = 15) (k : Core) (w : Warp) (idx row : Nat)
    (x : Nat → Word) {ls : List Nat} {l : Nat} (hl : l ∈ ls) :
    k.item (ls.foldl (fun w l => w.putItem cls idx l (x l)) w) cls idx row l = (x l).toNat :=
  (foldl_putItem_lane (read := fun w j => k.item w cls idx row j) (g := BitVec.toNat)
    (fun w l j x => item_putItem hcls k w idx row l j x) x ls w l).trans (if_pos hl)

theorem preds_foldl_putItem (w : Warp) (idx : Nat) (x : Nat → Word) {ls : List Nat} {l : Nat} (hl : l ∈ ls) :
    ((ls.foldl (fun w l => w.putItem 2 idx l (x l)) w).thread l).preds.toNat = (x l).toNat % 128 :=
  (foldl_putItem_lane (read := fun w j => (w.thread j).preds.toNat) (g := fun x => x.toNat % 128)
    (fun w l j x => preds_putItem w idx l j x) x ls w l).trans (if_pos hl)

/-! The uniform register, the tile register and the convergence mask -/

theorem putItem_uniform (w : Warp) (idx j : Nat) (x : Word) :
    fget 0#32 (w.putItem 1 idx 0 x).s j = if j = idx then x else fget 0#32 w.s j := fget_fset _ _ _ _ _

theorem kmask_putItem (w : Warp) (idx : Nat) (x : Word) : (w.putItem 8 idx 0 x).kmask idx = x := fget_fset_self _ _ _ _

theorem tile_setTile (w : Warp) (n j : Nat) (x : BitVec 64) : (w.setTile n x).tile j = if j = n then x else w.tile j :=
  fget_fset _ _ _ _ _

/-- The tile register that a write of one of its words makes. -/
def Warp.tileWith (w : Warp) (idx : Nat) (x : Word) : BitVec 64 :=
  BitVec.ofNat 64 (withHalf (idx % 2) (w.tile (idx / 2)).toNat x.toNat)

/-- A write that makes a saved tile's record whole, in a restore handler, reserves its rows. -/
def State.reserves (s : State) (idx : Nat) (x : Word) : Prop :=
  idx % 2 = 1 ∧ (s.warp.tileWith idx x).getLsbD 63 = true ∧ s.warp.mode = .restore

theorem putTile_word {s : State} {idx : Nat} {x : Word} (h : ¬ s.reserves idx x) :
    s.putTile idx x = s.updWarp fun w => w.setTile (idx / 2) (s.warp.tileWith idx x) := by
  rw [State.putTile]
  exact if_neg h

theorem putTile_full {s : State} {idx : Nat} {x : Word} (h : s.reserves idx x)
    (hf : (s.core s.cur.core).freeRun (tileRows (s.warp.tileWith idx x)).2 = none) : s.putTile idx x = s.stalled := by
  rw [State.putTile]
  refine (if_pos h).trans ?_
  rw [Warp.tileWith] at hf
  simp only [hf]

theorem putTile_moved {s : State} {idx base : Nat} {x : Word} (h : s.reserves idx x)
    (hf : (s.core s.cur.core).freeRun (tileRows (s.warp.tileWith idx x)).2 = some base) :
    s.putTile idx x = s.updWarp fun w => { w.setTile (idx / 2) (moveTile (s.warp.tileWith idx x) base) with
      moved := w.moved ++ [((tileRows (s.warp.tileWith idx x)).1, base)] } := by
  rw [State.putTile]
  refine (if_pos h).trans ?_
  rw [Warp.tileWith] at hf
  simp only [hf, Warp.tileWith]

theorem putContext_tile {s : State} {o : SOps} {slot : Nat} (m : Word) (hcls : itemCls o.x = 9)
    (hb : (s.warpAt s.cur.core slot).beyond (itemCls o.x) (itemIdx o.x) = false) :
    s.putContext o slot m = s.putTile (itemIdx o.x) (s.warp.reg o.a.toNat s.lowest) := by
  rw [hcls] at hb
  simp only [State.putContext, hcls, hb, Nat.reduceEqDiff, false_and, if_false, if_true, Bool.false_eq_true]

/-! The rows of the buffers -/

/-- The weight buffer, or the operand buffer, and a row's place in it. -/
def Core.buffer (k : Core) (wb : Bool) : FMap Byte := if wb then k.wb else k.ob
def bufRow (wb : Bool) (row : Nat) : Nat := if wb then row % 512 else row % 1024

/-- A core whose one buffer, and the errors noted of it, are given. -/
def Core.withBuffer (k : Core) (wb : Bool) (m : FMap Byte) (bad : List Nat) : Core :=
  if wb then { k with wb := m, bufBad := bad } else { k with ob := m, bufBad := bad }

@[simp] theorem buffer_withBuffer (k : Core) (wb : Bool) (m : FMap Byte) (bad : List Nat) : (k.withBuffer wb m bad).buffer wb = m := by
  cases wb <;> rfl

/-- Four bytes of a lane in a row. -/
def putLaneBytes (m : FMap Byte) (r l : Nat) (x : Word) : FMap Byte :=
  ((leBytes 4 x.toNat).zip (List.range 4)).foldl (fun m y => fset m (128 * r + 4 * l + y.2) y.1) m

/-- The core after a lane's four bytes are put in a row. -/
def Core.putLane (k : Core) (wb : Bool) (row l : Nat) (x : Word) : Core :=
  k.withBuffer wb (putLaneBytes (k.buffer wb) (bufRow wb row) l x)
    (k.bufBad.filter (· != if wb then 1024 + bufRow wb row else bufRow wb row))

theorem putRow_eq (s : State) (wb : Bool) (row l : Nat) (x : Word) :
    s.putRow wb row l x = s.updCore s.cur.core fun k => k.putLane wb row l x := by
  cases wb <;> rfl

theorem fget_putLaneBytes (m : FMap Byte) (r : Nat) {l : Nat} (x : Word) (j : Nat) (hl : l < 32) :
    fget 0#8 (putLaneBytes m r l x) j
      = if j / 128 = r ∧ j % 128 / 4 = l then BitVec.ofNat 8 (x.toNat / 256 ^ (j % 4)) else fget 0#8 m j := by
  have hput : putLaneBytes m r l x = fset (fset (fset (fset m (128 * r + 4 * l) (BitVec.ofNat 8 x.toNat))
      (128 * r + 4 * l + 1) (BitVec.ofNat 8 (x.toNat / 256))) (128 * r + 4 * l + 2) (BitVec.ofNat 8 (x.toNat / 256 / 256)))
      (128 * r + 4 * l + 3) (BitVec.ofNat 8 (x.toNat / 256 / 256 / 256)) := rfl
  simp only [hput, fget_fset, Nat.div_div_eq_div_mul]
  by_cases hj : j / 128 = r ∧ j % 128 / 4 = l
  · rw [if_pos hj]
    obtain h | h | h | h : j % 4 = 0 ∨ j % 4 = 1 ∨ j % 4 = 2 ∨ j % 4 = 3 := by omega
    all_goals simp only [h, Nat.reduceMul, Nat.reducePow, Nat.div_one]
    · rw [if_neg (by omega), if_neg (by omega), if_neg (by omega), if_pos (by omega)]
    · rw [if_neg (by omega), if_neg (by omega), if_pos (by omega)]
    · rw [if_neg (by omega), if_pos (by omega)]
    · rw [if_pos (by omega)]
  · rw [if_neg hj, if_neg (by omega), if_neg (by omega), if_neg (by omega), if_neg (by omega)]

theorem fget_foldl_putLaneBytes (r : Nat) (x : Nat → Word) (ls : List Nat) (hls : ∀ l ∈ ls, l < 32) (m : FMap Byte) (j : Nat) :
    fget 0#8 (ls.foldl (fun m l => putLaneBytes m r l (x l)) m) j
      = if j / 128 = r ∧ j % 128 / 4 ∈ ls then BitVec.ofNat 8 ((x (j % 128 / 4)).toNat / 256 ^ (j % 4)) else fget 0#8 m j := by
  induction ls generalizing m with
  | nil => simp
  | cons l ls ih =>
    rw [List.foldl_cons, ih fun k hk => hls k (List.mem_cons_of_mem _ hk), fget_putLaneBytes _ _ _ _ (hls l List.mem_cons_self)]
    by_cases hj : j % 128 / 4 = l <;> by_cases hr : j / 128 = r <;> simp [hj, hr]

theorem foldl_putLane (wb : Bool) (row : Nat) (x : Nat → Word) (ls : List Nat) (k : Core) :
    ∃ bad, ls.foldl (fun k l => k.putLane wb row l (x l)) k
      = k.withBuffer wb (ls.foldl (fun m l => putLaneBytes m (bufRow wb row) l (x l)) (k.buffer wb)) bad := by
  induction ls generalizing k with
  | nil => exact ⟨k.bufBad, by cases wb <;> rfl⟩
  | cons l ls ih =>
    obtain ⟨bad, h⟩ := ih (k.putLane wb row l (x l))
    refine ⟨bad, ?_⟩
    rw [List.foldl_cons, List.foldl_cons, h]
    cases wb <;> rfl

/-- The four bytes of a lane, read as one word. -/
theorem leNat_row (m : FMap Byte) (r l : Nat) (x : Word)
    (h : ∀ i, i < 4 → fget 0#8 m (128 * r + 4 * l + i) = BitVec.ofNat 8 (x.toNat / 256 ^ i)) :
    leNat ((List.range 4).map fun i => fget 0#8 m (128 * r + 4 * l + i)) = x.toNat := by
  have hbytes : ((List.range 4).map fun i => fget 0#8 m (128 * r + 4 * l + i)) = leBytes 4 x.toNat := by
    refine List.ext_getElem (by simp) fun i hi _ => ?_
    rw [List.getElem_map, List.getElem_range, getElem_leBytes]
    exact h i (by simpa using hi)
  rw [hbytes, leNat_leBytes]
  exact Nat.mod_eq_of_lt x.isLt

theorem foldl_putRow (wb : Bool) (row : Nat) (x : Nat → Word) (ls : List Nat) {s : State} {c : Nat} (hc : s.cur.core = c) :
    ls.foldl (fun t l => t.putRow wb row l (x l)) s = ls.foldl (fun t l => t.updCore c fun k => k.putLane wb row l (x l)) s := by
  induction ls generalizing s with
  | nil => rfl
  | cons l ls ih =>
    rw [List.foldl_cons, List.foldl_cons, putRow_eq, hc]
    exact ih hc

theorem putContext_rows {s : State} {o : SOps} {slot : Nat} (m : Word) {wb : Bool} (hcls : itemCls o.x = if wb then 18 else 17) :
    s.putContext o slot m = s.lanes.foldl (fun t l => t.updCore s.cur.core fun k =>
      k.putLane wb (s.rowOf o.b) l (s.warp.reg o.a.toNat l)) s := by
  rw [← foldl_putRow wb (s.rowOf o.b) (s.warp.reg o.a.toNat) s.lanes rfl]
  cases wb <;> rw [State.putContext, hcls] <;> rfl

/-- The core after RESTX has put rows: one buffer of it, its lanes' bytes in it, and no other byte. -/
theorem putContext_rows_spec (s : State) (o : SOps) (slot : Nat) (m : Word) (wb : Bool) (hcls : itemCls o.x = if wb then 18 else 17) :
    let t := s.putContext o slot m; let c := s.cur.core; let r := bufRow wb (s.rowOf o.b)
    OnlyCore s t c ∧ (∃ m' bad, t.core c = (s.core c).withBuffer wb m' bad)
      ∧ (∀ l, s.mask.getLsbD l = true →
          leNat ((List.range 4).map fun i => fget 0#8 ((t.core c).buffer wb) (128 * r + 4 * l + i)) = (s.warp.reg o.a.toNat l).toNat)
      ∧ ∀ j, (j / 128 = r → s.mask.getLsbD (j % 128 / 4) = false) →
          fget 0#8 ((t.core c).buffer wb) j = fget 0#8 ((s.core c).buffer wb) j := by
  intro t c r
  obtain ⟨hframe, hcore⟩ := onlyCore_foldl_updCore c (fun l k => k.putLane wb (s.rowOf o.b) l (s.warp.reg o.a.toNat l)) s.lanes s
  obtain ⟨bad, hbuf⟩ := foldl_putLane wb (s.rowOf o.b) (s.warp.reg o.a.toNat) s.lanes (s.core c)
  rw [← putContext_rows (slot := slot) m hcls] at hframe hcore
  rw [hbuf] at hcore
  have hget (j : Nat) : fget 0#8 ((t.core c).buffer wb) j
      = if j / 128 = r ∧ j % 128 / 4 ∈ s.lanes then BitVec.ofNat 8 ((s.warp.reg o.a.toNat (j % 128 / 4)).toNat / 256 ^ (j % 4))
        else fget 0#8 ((s.core c).buffer wb) j := by
    rw [show t.core c = _ from hcore, buffer_withBuffer]
    exact fget_foldl_putLaneBytes r _ _ (fun l hl => lanesOf_lt hl) _ j
  refine ⟨hframe, ⟨_, bad, hcore⟩, fun l hl => leNat_row _ _ _ _ fun i hi => ?_, fun j hj => ?_⟩
  · have hl32 : l < 32 := BitVec.lt_of_getLsbD hl
    have hrow : (128 * r + 4 * l + i) / 128 = r := by omega
    have hlane : (128 * r + 4 * l + i) % 128 / 4 = l := by omega
    have hbyte : (128 * r + 4 * l + i) % 4 = i := by omega
    rw [hget, hrow, hlane, hbyte, if_pos ⟨rfl, mem_lanesOf.mpr ⟨hl32, hl⟩⟩]
  · rw [hget, if_neg]
    rintro ⟨hr, hl⟩
    have hmask := (mem_lanesOf.mp hl).2
    simp [hj hr] at hmask

/-! What RESTX reaches in a context whose item is in range, where the record has been checked and passed -/

theorem refused_ne_none {s : State} (hc : s.warp.mode = .restore → s.warp.refused = some false) :
    s.warp.mode = .restore → s.warp.refused ≠ none := fun hm => by simp [hc hm]

section
variable {o : SOps} {s : State} {slot : Nat} {m : Word} (ht : s.target_ o.d = some (slot, m))
  (hc : s.warp.mode = .restore → s.warp.refused = some false) (hr : s.warp.refused ≠ some true)
include ht hc hr

theorem restx_putContext {p : State → Prop} (hp : p (s.putContext o slot m)) : Reaches (.restx o) s p :=
  reaches_of (exec_restx ht (refused_ne_none hc) hr) hp

variable (hb : (s.warpAt s.cur.core slot).beyond (itemCls o.x) (itemIdx o.x) = false)
include hb

theorem restx_one (hone : oneItem (itemCls o.x) = true) (h9 : itemCls o.x ≠ 9)
    (hrun : itemCls o.x = 1 → slot = s.cur.slot ∨ (s.warpAt s.cur.core slot).run = none) :
    Reaches (.restx o) s fun t => OnlyWarpAt s t s.cur.core slot ∧ t.warpAt s.cur.core slot
      = (s.warpAt s.cur.core slot).putItem (itemCls o.x) (itemIdx o.x) 0 (s.warp.reg o.a.toNat s.lowest) := by
  refine restx_putContext ht hc hr ?_
  rw [putContext_one m hone h9 hb hrun]
  exact ⟨onlyWarpAt_updWarpAt s _ _ _, warpAt_updWarpAt s _ _ _⟩

theorem restx_lanes (hone : oneItem (itemCls o.x) = false) (hlt : itemCls o.x < 17) :
    Reaches (.restx o) s fun t => OnlyWarpAt s t s.cur.core slot ∧ t.warpAt s.cur.core slot
      = (s.lanes.filter fun l => m.getLsbD l).foldl (fun w l => w.putItem (itemCls o.x) (itemIdx o.x) l (s.warp.reg o.a.toNat l))
        (s.warpAt s.cur.core slot) := by
  refine restx_putContext ht hc hr ?_
  rw [putContext_lanes m hone hlt hb]
  exact ⟨onlyWarpAt_updWarpAt s _ _ _, warpAt_updWarpAt s _ _ _⟩

theorem restx_tile {p : State → Prop} (h9 : itemCls o.x = 9) (hp : p (s.putTile (itemIdx o.x) (s.warp.reg o.a.toNat s.lowest))) :
    Reaches (.restx o) s p :=
  restx_putContext ht hc hr (by rwa [putContext_tile m h9 hb])

end

/-! ### ERET (R34, R247) -/

theorem DieCounts.refl (s : State) : DieCounts s s := fun _ => rfl
theorem OnlyWarpIds.refl (s : State) : OnlyWarpIds s s := ⟨fun _ => rfl, rfl, Nat.le_refl _, .refl s, [], by simp⟩

theorem DieCounts.trans {s t u : State} (h : DieCounts s t) (g : DieCounts t u) : DieCounts s u :=
  fun d => by rw [g d, h d]

theorem OnlyWarpIds.trans {s t u : State} (h : OnlyWarpIds s t) (g : OnlyWarpIds t u) : OnlyWarpIds s u := by
  obtain ⟨hmem, hrest, hid, hdie, ws, hwalks⟩ := h
  obtain ⟨gmem, grest, gid, gdie, vs, gwalks⟩ := g
  refine ⟨fun a => (gmem a).trans (hmem a), ?_, Nat.le_trans hid gid, hdie.trans gdie, ws ++ vs, ?_⟩
  · rw [grest, hrest]
  · rw [gwalks, hwalks, List.append_assoc]

/-- A change of the acting warp, once the number of the next operation has risen. -/
theorem onlyWarpIds_updWarp (s : State) (n : Nat) (f : Warp → Warp) :
    OnlyWarpIds s (({ s with nextId := s.nextId + n } : State).updWarp f) := by
  refine ⟨fun _ => rfl, ?_, Nat.le_add_right _ _, .refl s, [], by simp⟩
  rw [State.updWarp, setWarp_setWarp]
  rfl

/-- The store that a piece makes, with its number, and those of a list of pieces. -/
def pieceOp (n va pa : Nat) (bs : List Byte) : Op :=
  { id := n, lane := 0, kind := .st, va := va, pa := pa, size := bs.length, data := leNat bs }
def pieceOps : Nat → List (Nat × Nat × List Byte) → List Op
  | _, [] => []
  | n, (va, pa, bs) :: r => pieceOp n va pa bs :: pieceOps (n + 1) r

theorem addOp_spec (s : State) (o : Op) : OnlyWarpIds s (s.addOp o)
    ∧ (s.addOp o).warp = { s.warp with ops := s.warp.ops ++ [{ o with id := s.nextId }] } :=
  ⟨onlyWarpIds_updWarp s 1 _, warp_updWarp _ _⟩

theorem addPieces_spec (ps : List (Nat × Nat × List Byte)) (s : State) :
    OnlyWarpIds s (State.addPieces 0#32 0 0 0 s ps)
      ∧ (State.addPieces 0#32 0 0 0 s ps).warp = { s.warp with ops := s.warp.ops ++ pieceOps s.nextId ps } := by
  induction ps generalizing s with
  | nil => exact ⟨.refl s, by simp [State.addPieces, pieceOps]⟩
  | cons p ps ih =>
    obtain ⟨va, pa, bs⟩ := p
    obtain ⟨hadd, hop⟩ := addOp_spec s (pieceOp 0 va pa bs)
    obtain ⟨hids, hwarp⟩ := ih (s.addOp (pieceOp 0 va pa bs))
    refine ⟨hadd.trans hids, hwarp.trans ?_⟩
    rw [hop]
    simp only [List.append_assoc]
    rfl

/-- Of pieces with the outcome of translating each address, the first that fails and those that do not. -/
def firstFault (ps : List (Nat × List Byte × Except Cause Nat)) : Option (Cause × Nat) :=
  ps.findSome? fun x => match x.2.2 with | .error e => some (e, x.1) | .ok _ => none
def translated (ps : List (Nat × List Byte × Except Cause Nat)) : List (Nat × Nat × List Byte) :=
  ps.filterMap fun x => match x.2.2 with | .ok pa => some (x.1, pa, x.2.1) | .error _ => none

/-- Operations that write given bytes at places that translate are the stores that the pieces make. -/
theorem pieces_are_stores {area : Nat} {acc : Nat → Except Cause Nat} (xs : List (Nat × List Byte)) {os : List Op} {n : Nat}
    (hdata : os.map (fun x => (x.va, x.size, x.data)) = xs.map fun x => (area + x.1, x.2.length, leNat x.2))
    (hid : os.map (·.id) = (List.range os.length).map (n + ·))
    (hop : ∀ x ∈ os, acc x.va = .ok x.pa
      ∧ x = { id := x.id, lane := 0, kind := .st, va := x.va, pa := x.pa, size := x.size, data := x.data }) :
    firstFault (xs.map fun x => (area + x.1, x.2, acc (area + x.1))) = none
      ∧ pieceOps n (translated (xs.map fun x => (area + x.1, x.2, acc (area + x.1)))) = os := by
  induction xs generalizing os n with
  | nil =>
    rw [List.map_nil, List.map_eq_nil_iff] at hdata
    subst hdata
    exact ⟨rfl, rfl⟩
  | cons y xs ih =>
    cases os with
    | nil => simp at hdata
    | cons x os =>
      simp only [List.map_cons, List.cons.injEq, Prod.mk.injEq, List.length_cons, List.range_succ_eq_map, List.map_map] at hdata hid
      obtain ⟨⟨hva, hsize, hbytes⟩, hdata⟩ := hdata
      obtain ⟨hx, hid⟩ := hid
      obtain ⟨hacc, hshape⟩ := hop x List.mem_cons_self
      have hid' : os.map (·.id) = (List.range os.length).map (n + 1 + ·) := by
        rw [hid]
        exact List.map_congr_left fun k _ => by simp only [Function.comp]; omega
      obtain ⟨hfault, hops⟩ := ih hdata hid' fun z hz => hop z (List.mem_cons_of_mem _ hz)
      rw [hva] at hacc
      have hhead : pieceOp n (area + y.1) x.pa y.2 = x := by
        rw [pieceOp, ← hva, ← hsize, ← hbytes, ← show x.id = n from hx]
        exact hshape.symm
      constructor
      · simpa only [firstFault, List.map_cons, List.findSome?_cons, hacc] using hfault
      · simp only [translated, List.map_cons, List.filterMap_cons, hacc, pieceOps, hhead]
        exact congrArg (x :: ·) hops

/-- The base of the acting workgroup's save area, and the pieces of its header with the outcome of translating each address. -/
def State.areaBase (s : State) : Nat := (s.tenant s.warp.tenant).area ((s.wg s.warp.wg).area.getD 0)
def State.headerPieces (s : State) : List (Nat × List Byte × Except Cause Nat) :=
  (s.areaStores s.warp.wg).map fun x => (s.areaBase + x.1, x.2, s.translate s.cur.core s.warp.tenant (s.areaBase + x.1) .wr)

theorem storeHeader_eq (s : State) : s.storeHeader = match firstFault s.headerPieces with
    | some (e, va) => (s.faultSplit e va, false)
    | none => (State.addPieces 0#32 0 0 0 s (translated s.headerPieces), true) := rfl

/-- Where every store of the header has a place, warp 0's handler makes them all. -/
theorem storeHeader_spec {s : State} {os : List Op}
    (hdata : os.map (fun x => (x.va, x.size, x.data)) = (s.areaStores s.warp.wg).map fun x => (s.areaBase + x.1, x.2.length, leNat x.2))
    (hid : os.map (·.id) = (List.range os.length).map (s.nextId + ·))
    (hop : ∀ x ∈ os, s.translate s.cur.core s.warp.tenant x.va .wr = .ok x.pa
      ∧ x = { id := x.id, lane := 0, kind := .st, va := x.va, pa := x.pa, size := x.size, data := x.data }) :
    ∃ v, s.storeHeader = (v, true) ∧ OnlyWarpIds s v ∧ v.warp = { s.warp with ops := s.warp.ops ++ os } := by
  obtain ⟨hfault, hops⟩ : firstFault s.headerPieces = none ∧ pieceOps s.nextId (translated s.headerPieces) = os :=
    pieces_are_stores (acc := fun va => s.translate s.cur.core s.warp.tenant va .wr) _ hdata hid hop
  obtain ⟨hids, hwarp⟩ := addPieces_spec (translated s.headerPieces) s
  rw [hops] at hwarp
  exact ⟨_, by rw [storeHeader_eq, hfault], hids, hwarp⟩

/-- The acting warp as its handler ends: its results are written nowhere. -/
def Warp.atEret (w : Warp) : Warp :=
  { w with eret := true, run := none, groups := [], parked := [], ops := w.ops.map fun x => if x.kind.long then { x with dest := none } else x }

theorem exec_eret {o : SOps} {s v : State} (hwait : s.warp.mode = .restore → s.restoreWait = none)
    (hready : (if s.warp.mode = .save then (if s.warp.index = 0 then s.storeHeader else (s, true)) else s.checkRecord) = (v, true))
    (hR : Runs (.eret o) s) :
    exec (.eret o) s = .next { (if s.warp.mode = .save then (v.updWarp Warp.atEret).finishSave s.warp.wg
      else (v.updWarp Warp.atEret).leaveHandlers s.warp.wg) with flow := .moved } := by
  have hnone : (if s.warp.mode = .restore then s.restoreWait else none) = none := by
    split
    · exact hwait ‹_›
    · rfl
  change execEret o s = _
  rw [execEret, gated_runs hR]
  simp only [hnone, hready]
  rfl

/-- What a handler does before it ends: a save handler of warp 0 makes the header's stores, and the others nothing. -/
def EretStores (s : State) (os : List Op) : Prop :=
  if s.warp.mode = .save ∧ s.warp.index = 0 then
    os.map (fun x => (x.va, x.size, x.data)) = (s.areaStores s.warp.wg).map (fun x => (s.areaBase + x.1, x.2.length, leNat x.2))
    ∧ os.map (·.id) = (List.range os.length).map (s.nextId + ·)
    ∧ ∀ x ∈ os, s.translate s.cur.core s.warp.tenant x.va .wr = .ok x.pa
        ∧ x = { id := x.id, lane := 0, kind := .st, va := x.va, pa := x.pa, size := x.size, data := x.data }
  else os = []

theorem eret_ready {s : State} {os : List Op} (hr : s.warp.mode = .restore → s.warp.refused ≠ none)
    (hos : EretStores s os) :
    ∃ v, (if s.warp.mode = .save then (if s.warp.index = 0 then s.storeHeader else (s, true)) else s.checkRecord) = (v, true)
      ∧ OnlyWarpIds s v ∧ v.warp = { s.warp with ops := s.warp.ops ++ os } := by
  unfold EretStores at hos
  by_cases hsave : s.warp.mode = .save
  · by_cases hidx : s.warp.index = 0
    · rw [if_pos ⟨hsave, hidx⟩] at hos
      obtain ⟨hdata, hid, hop⟩ := hos
      simpa only [hsave, hidx, if_true] using storeHeader_spec hdata hid hop
    · rw [if_neg fun h => hidx h.2] at hos
      subst hos
      exact ⟨s, by simp [hsave, hidx], .refl s, by simp⟩
  · rw [if_neg fun h => hsave h.1] at hos
    subst hos
    exact ⟨s, by rw [if_neg hsave, checkRecord_made hr], .refl s, by simp⟩

/-! ### TLBINV (R248) -/

/-- A table whose values are changed by key, where the change leaves the default as it is. -/
theorem fget_map_key {α : Type} (f : Nat → α → α) {d : α} (hd : ∀ k, f k d = d) (m : FMap α) (k : Nat) :
    fget d (m.map fun x => (x.1, f x.1 x.2)) k = f k (fget d m k) := by
  induction m with
  | nil => exact (hd k).symm
  | cons x m ih =>
    obtain ⟨j, v⟩ := x
    by_cases h : j = k
    · subst h; simp [fget]
    · simp only [List.map_cons, fget, h, if_false, ih]

/-- What a TLBINV of die d leaves of a core, of a walk and of the state, given the entries that it names. -/
def cutCore (d : Nat) (hit : Tlb → Bool) (j : Nat) (k : Core) : Core :=
  if j / 48 = d then { k with tlb := k.tlb.filter fun e => !hit e } else k
def killWalk (d : Nat) (x : Walk) : Walk := if x.core / 48 = d then { x with dead := true } else x
def State.invalidate (s : State) (d : Nat) (hit : Tlb → Bool) : State :=
  ({ s with cores := s.cores.map fun x => (x.1, cutCore d hit x.1 x.2), walks := s.walks.map (killWalk d) } : State).updDie d fun k =>
    { k with ltlb := k.ltlb.filter fun e => !hit e }

theorem cutCore_tlb (d : Nat) (hit : Tlb → Bool) (j : Nat) (k : Core) :
    (cutCore d hit j k).tlb = if j / 48 = d then k.tlb.filter fun e => !hit e else k.tlb := by
  unfold cutCore; split <;> rfl
theorem cutCore_warps (d : Nat) (hit : Tlb → Bool) (j : Nat) (k : Core) : (cutCore d hit j k).warps = k.warps := by
  unfold cutCore; split <;> rfl
theorem killWalk_dead {d : Nat} (x : Walk) (h : (killWalk d x).core / 48 = d) : (killWalk d x).dead = true := by
  unfold killWalk at h ⊢
  split
  · rfl
  · next hne => rw [if_neg hne] at h; exact absurd h hne

theorem core_invalidate (s : State) (d : Nat) (hit : Tlb → Bool) (j : Nat) : (s.invalidate d hit).core j = cutCore d hit j (s.core j) :=
  fget_map_key (cutCore d hit) (fun k => by unfold cutCore; split <;> rfl) s.cores j

theorem die_invalidate (s : State) (d e : Nat) (hit : Tlb → Bool) :
    ((s.invalidate d hit).die e).ltlb = if e = d then (s.die e).ltlb.filter fun x => !hit x else (s.die e).ltlb := by
  rw [State.invalidate, State.die, State.updDie, fget_fset]
  split
  · next h => subst h; rfl
  · rfl

theorem warpAt_invalidate (s : State) (d : Nat) (hit : Tlb → Bool) (j w : Nat) : (s.invalidate d hit).warpAt j w = s.warpAt j w := by
  rw [State.warpAt, core_invalidate, Core.warp, cutCore_warps]
  rfl

theorem walks_invalidate (s : State) (d : Nat) (hit : Tlb → Bool) : ∀ x ∈ (s.invalidate d hit).walks, x.core / 48 = d → x.dead = true := by
  intro x hx
  obtain ⟨y, -, rfl⟩ := List.mem_map.mp (show x ∈ s.walks.map (killWalk d) from hx)
  exact killWalk_dead y

/-- The entries that a TLBINV with operand b and an address names. -/
def tlbHit (b va : Nat) (e : Tlb) : Bool :=
  match b / 256 % 4 with
  | 0 => e.tenant == b % 256 && decide (e.vbase ≤ va ∧ va < e.vbase + e.span)
  | 1 => e.tenant == b % 256
  | _ => true

/-- Only scope 0 names an address. -/
theorem tlbHit_scope {b : Nat} (h : b / 256 % 4 ≠ 0) (va va' : Nat) : tlbHit b va = tlbHit b va' := by
  funext e
  unfold tlbHit
  split
  · next h0 => exact absurd h0 h
  · rfl
  · rfl

/-- A word has no bit above bit 31. -/
theorem bits_above (x : Word) {n : Nat} (hn : n ≤ 32) : bitsOf x.toNat 31 n = x.toNat / 2 ^ n := by
  refine Nat.mod_eq_of_lt (Nat.div_lt_of_lt_mul ?_)
  rw [← Nat.pow_add, Nat.add_sub_cancel' hn]
  exact x.isLt

theorem exec_tlbinv {o : SOps} {s : State} (hR : Runs (.tlbinv o) s) :
    exec (.tlbinv o) s =
      let b := (s.warp.reg o.b.toNat 0).toNat
      .next (if b / 2 ^ 10 ≠ 0 ∨ b / 256 % 4 = 3 ∨ b / 256 % 4 = 0 ∧ o.a = 0#7 then s
        else s.invalidate (s.cur.core / 48) (tlbHit b (if o.a = 0#7 then 0 else s.warp.reg64 o.a.toNat 0))) := by
  have hscope (b : Nat) : bitsOf b 9 8 = b / 256 % 4 := rfl
  have hcut (x : Nat × Core) (d : Nat) (hit : Tlb → Bool) :
      (if x.1 / 48 = d then (x.1, { x.2 with tlb := x.2.tlb.filter fun e => !hit e }) else x) = (x.1, cutCore d hit x.1 x.2) := by
    unfold cutCore; split <;> rfl
  change execTlbinv o s = _
  rw [execTlbinv, gated_runs hR]
  by_cases ha : o.a = 0#7
  · simp only [ha, bits_above _ (show 10 ≤ 32 by omega), hscope, hcut, if_true, and_true]
    rfl
  · simp only [ha, bits_above _ (show 10 ≤ 32 by omega), hscope, hcut, if_false, reduceCtorEq]
    rfl

/-! ### CACHEOP (R248) -/

/-- What CACHEOP does with operand b. -/
def State.cacheop (s : State) (o : SOps) (b : Nat) : State :=
  let c := s.cur.core
  match b with
  | 0 => s.updCore c (·.dropWords fun _ => true)
  | 1 => s.giveUp c fun _ => true
  | 2 => if o.a = 0#7 then s else match s.access (s.warp.reg64 o.a.toNat 0) .rd with
    | .error _ => s
    | .ok pa => s.giveUp c fun w => w / 32 == pa / 128
  | 3 => (s.updCore c (·.dropWords fun _ => true)).giveUp c fun _ => true
  | _ => s

theorem exec_cacheop {o : SOps} {s : State} {b : Nat} (hb : (s.warp.reg o.b.toNat 0).toNat = b) (hR : Runs (.cacheop o) s) :
    exec (.cacheop o) s = .next (s.cacheop o b) := by
  have hline (pa : Nat) : inWords (pa / 128 * 128) 128 = fun w => w / 32 == pa / 128 := by
    funext w
    rw [inWords, Bool.eq_iff_iff, decide_eq_true_iff, beq_iff_eq]
    omega
  have hbits : bitsOf b 31 2 = b / 4 := hb ▸ bits_above _ (show 2 ≤ 32 by omega)
  change execCacheop o s = _
  rw [execCacheop, gated_runs hR]
  simp only [hb, hbits, hline]
  match b with
  | 0 | 1 | 2 | 3 => rfl
  | b + 4 => exact congrArg _ (if_pos (by omega))

theorem dropWords_all (k : Core) :
    k.dropWords (fun _ => true) = { k with copies := [], l1Bad := k.l1Bad.filter fun w => k.owned.contains w } := by
  simp [Core.dropWords]

theorem cacheop_none {s : State} {o : SOps} {b : Nat}
    (h : 4 ≤ b ∨ b = 2 ∧ (o.a = 0#7 ∨ ∃ e, s.access (s.warp.reg64 o.a.toNat 0) .rd = .error e)) : s.cacheop o b = s := by
  rcases h with h | ⟨rfl, h⟩
  · match b, h with
    | b + 4, _ => rfl
  · rcases h with h | ⟨e, h⟩
    · exact if_pos h
    · simp only [State.cacheop, h, ite_self]

theorem cacheop_line {s : State} {o : SOps} {pa : Nat} (ha : o.a ≠ 0#7) (h : s.access (s.warp.reg64 o.a.toNat 0) .rd = .ok pa) :
    s.cacheop o 2 = s.giveUp s.cur.core fun w => w / 32 == pa / 128 := by
  simp only [State.cacheop, if_neg ha, h]

/-- Settles O53: each instruction runs to the effect that its own lemmas above give, and the parts of that effect are theirs: the item
as it is read back, the frame of the warp, the core or the buffer it was put in, and the stores of an ERET. -/
theorem contextItemsAndCaches : Obligations.ContextItemsAndCaches := by
  intro o s c k cls idx row b va scope named hit inval clean
  refine ⟨savex_none o s, fun slot m ht hb he => savex_item o s ht hb he, fun ht => reaches_of (exec_restx_none ht) rfl,
    fun slot m ht hb h1 h9 h17 hr hc => ?items,
    fun slot m ht hb hr hc => ⟨fun h1 => ?uniform, fun h9 => ⟨fun hno => ?tileWord, fun hres hf => ?tileFull, fun base hres hf => ?tileMoved⟩,
      fun h17 => ?operandRow, fun h18 => ?weightRow⟩, fun os _ hc hos => ?eret,
    fun hb hscope hnamed => ?tlbinv, fun h => ?tlbinvNone, fun hb => ?drop, fun hb => ?clean, fun pa hb hnamed hacc => ?cleanLine,
    fun hb => ?dropAndClean, fun h => ?cacheNone⟩
  case items =>
    cases hone : oneItem cls
    case true =>
      refine (restx_one ht hc hr hb hone h9 fun h => absurd h h1).imp fun t ⟨⟨⟨hs, hj⟩, hk, hw⟩, hwarp⟩ =>
        ⟨hs, hj, hk, hw, fun h => by simp at h, fun h8 => ?_⟩
      rw [hwarp, show itemCls o.x = 8 from h8]
      exact kmask_putItem _ _ _
    case false =>
      refine (restx_lanes ht hc hr hb hone h17).imp fun t ⟨⟨⟨hs, hj⟩, hk, hw⟩, hwarp⟩ =>
        ⟨hs, hj, hk, hw, fun _ l hl hm => ?_, fun h8 => ?_⟩
      · have hmem : l ∈ s.lanes.filter fun l => m.getLsbD l :=
          List.mem_filter.mpr ⟨mem_lanesOf.mpr ⟨BitVec.lt_of_getLsbD hl, hl⟩, hm⟩
        rw [hwarp]
        exact ⟨fun hcls => item_foldl_putItem hcls _ _ idx row _ hmem, fun h2 => by
          rw [show itemCls o.x = 2 from h2]
          exact preds_foldl_putItem _ _ _ hmem⟩
      · rw [h8] at hone; simp [oneItem] at hone
  case uniform =>
    have hone : oneItem (itemCls o.x) = true := by rw [show itemCls o.x = 1 from h1]; rfl
    have h9 : itemCls o.x ≠ 9 := by rw [show itemCls o.x = 1 from h1]; omega
    split
    · next hrun => exact restx_putContext ht hc hr (putContext_stalled m h1 hrun.1 hrun.2)
    · next hrun =>
      have hfree : slot = s.cur.slot ∨ (s.warpAt s.cur.core slot).run = none :=
        Decidable.or_iff_not_imp_left.mpr fun hslot => Decidable.byContradiction fun hsome => hrun ⟨hslot, hsome⟩
      refine (restx_one ht hc hr hb hone h9 fun _ => hfree).imp fun t ⟨⟨⟨hs, hj⟩, hk, hw⟩, hwarp⟩ =>
        ⟨hs, hj, hk, hw, fun j => ?_⟩
      rw [hwarp, show itemCls o.x = 1 from h1]
      exact putItem_uniform _ _ _ _
  case tileWord =>
    refine restx_tile ht hc hr hb h9 ?_
    rw [putTile_word hno]
    exact ⟨onlyWarp_setWarp s _, by rw [warp_updWarp]; rfl, fun j => by rw [warp_updWarp]; exact tile_setTile _ _ _ _⟩
  case tileFull => exact restx_tile ht hc hr hb h9 (putTile_full hres hf)
  case tileMoved =>
    refine restx_tile ht hc hr hb h9 ?_
    rw [putTile_moved hres hf]
    exact ⟨onlyWarp_setWarp s _, by rw [warp_updWarp]; rfl, fun j => by rw [warp_updWarp]; exact tile_setTile _ _ _ _⟩
  case operandRow =>
    obtain ⟨⟨hs, hj⟩, ⟨m', bad, hk⟩, hput, hrest⟩ := putContext_rows_spec s o slot m false h17
    exact restx_putContext ht hc hr ⟨hs, hj, by rw [hk]; rfl, hput, hrest⟩
  case weightRow =>
    obtain ⟨⟨hs, hj⟩, ⟨m', bad, hk⟩, hput, hrest⟩ := putContext_rows_spec s o slot m true h18
    exact restx_putContext ht hc hr ⟨hs, hj, by rw [hk]; rfl, hput, hrest⟩
  case eret =>
    obtain ⟨v, hready, hids, hwarp⟩ := eret_ready (fun hm => (hc hm).1) hos
    refine reaches_of (exec_eret (fun hm => (hc hm).2) hready) ⟨rfl, v.updWarp Warp.atEret, ?_, ?_, rfl⟩
    · rw [warp_updWarp, hwarp]
      rfl
    · exact hids.trans (onlyWarpIds_updWarp v 0 Warp.atEret)
  case tlbinv =>
    have hcond : ¬ (b / 2 ^ 10 ≠ 0 ∨ b / 256 % 4 = 3 ∨ b / 256 % 4 = 0 ∧ o.a = 0#7) := by
      rintro (h | h | ⟨h, ha⟩)
      · exact h hb
      · exact hscope h
      · exact hnamed h ha
    refine reaches_of exec_tlbinv ?_
    have hhit : tlbHit b (if o.a = 0#7 then 0 else va) = hit := by
      split
      · next ha => exact tlbHit_scope (fun h => hnamed h ha) 0 va
      · rfl
    rw [if_neg hcond, hhit]
    exact ⟨fun _ => rfl, fun j => by rw [core_invalidate]; exact cutCore_tlb _ _ _ _, fun d => die_invalidate s _ d hit,
      walks_invalidate s _ hit, List.length_map _, warpAt_invalidate s _ hit⟩
  case tlbinvNone => exact reaches_of exec_tlbinv (if_pos (by simpa only [named, ne_eq, Decidable.not_not] using h))
  case drop => exact reaches_of (exec_cacheop hb) (congrArg (s.setCore c) (dropWords_all k))
  case clean => exact reaches_of (exec_cacheop hb) rfl
  case cleanLine => exact reaches_of (exec_cacheop hb) (cacheop_line hnamed hacc)
  case dropAndClean =>
    exact reaches_of (exec_cacheop hb) (congrArg (fun u => clean u fun _ => true) (congrArg (s.setCore c) (dropWords_all k)))
  case cacheNone => exact reaches_of (exec_cacheop rfl) (cacheop_none (by simpa only [named, ne_eq, Decidable.not_not] using h))

end Sys2Proof.Machine

/-! Numbers: values on a format's grid, and the order of reductions and scans (spec/03_numbers.md R54, R59, R68, R69). -/

namespace Sys2Proof.Machine

open Sys2Proof

/-! ### The place of a dyadic magnitude (R54) -/

@[simp] theorem quot_one_zero (m : Nat) : quot m 1 0 = (m, true) := by
  simp [quot, Nat.mod_one]

theorem quot_one_neg (m k : Nat) : (quot m 1 (-(k : Int))).1 = m / 2 ^ k := by
  cases k with
  | zero => simp [quot]
  | succ k =>
    have hk : ¬ (0 : Int) ≤ -((k + 1 : Nat) : Int) := by omega
    simp only [quot, if_neg hk, Int.neg_neg, Int.toNat_natCast, Nat.one_mul]

/-- The floor at a coarser exponent drops low bits. -/
theorem floorAt_rat_one (m : Nat) {e q : Int} {k : Nat} (h : e + q = -k) : ((Mag.rat m 1 e).floorAt q).1 = m / 2 ^ k := by
  rw [Mag.floorAt, h, quot_one_neg]

theorem log2_rat_one {m : Nat} (hm : m ≠ 0) (e : Int) : (Mag.rat m 1 e).log2 = Nat.log2 m + e := by
  have hlow : m / 2 ^ Nat.log2 m = 1 :=
    Nat.div_eq_of_lt_le (by simpa using Nat.log2_self_le hm) (by simpa [Nat.pow_succ, Nat.mul_comm] using Nat.lt_log2_self (n := m))
  have hhigh : m / 2 ^ (Nat.log2 m + 1) = 0 := Nat.div_eq_of_lt Nat.lt_log2_self
  have hguess : (Nat.log2 m : Int) - Nat.log2 1 + e = Nat.log2 m + e := by
    rw [show Nat.log2 1 = 0 by decide]
    omega
  unfold Mag.log2
  simp only [hguess]
  rw [floorAt_rat_one m (k := Nat.log2 m) (by omega), floorAt_rat_one m (k := Nat.log2 m + 1) (by omega), hlow, hhigh]
  rfl

/-- A magnitude is exact at its own exponent. -/
theorem placeAt_self (m : Nat) (e : Int) (base : Nat) : placeAt (.rat m 1 e) e base = ⟨base + m, 0, 0⟩ := by
  have hfloor : (Mag.rat m 1 e).floorAt (-e) = (m, true) := by rw [Mag.floorAt, Int.add_right_neg, quot_one_zero]
  rw [placeAt, hfloor]
  rfl

/-! ### Grid points (R43, R47, R48) -/

theorem gridVal_subnormal (f : FFmt) {g : Nat} (h : g < 2 ^ f.t) : gridVal f g = (g, 1 - (f.bias : Int) - f.t) := by
  simp [gridVal, Nat.div_eq_of_lt h, Nat.mod_eq_of_lt h]

theorem gridVal_normal (f : FFmt) {g : Nat} (h : 2 ^ f.t ≤ g) :
    gridVal f g = (2 ^ f.t + g % 2 ^ f.t, ((g / 2 ^ f.t : Nat) : Int) - f.bias - f.t) := by
  have he : g / 2 ^ f.t ≠ 0 := Nat.ne_of_gt (Nat.div_pos h (Nat.two_pow_pos _))
  simp [gridVal, -Nat.div_eq_zero_iff, he]

/-- Zero's code alone has magnitude zero. -/
theorem gridVal_eq_zero (f : FFmt) (g : Nat) : (gridVal f g).1 = 0 ↔ g = 0 := by
  have hpos : 0 < 2 ^ f.t := Nat.two_pow_pos _
  rcases Nat.lt_or_ge g (2 ^ f.t) with h | h
  · rw [gridVal_subnormal f h]
  · rw [gridVal_normal f h]
    constructor <;> intro <;> omega

/-- A grid point up to the largest finite value is found at its own code, with nothing discarded: in the lowest binade for a
subnormal, in the binade of its exponent field else. -/
theorem placeF_gridVal (f : FFmt) {g : Nat} (hg : g ≠ 0) (hmax : g ≤ f.gmax) :
    placeF f (.rat (gridVal f g).1 1 (gridVal f g).2) = ⟨g, 0, 0⟩ := by
  unfold placeF
  rw [log2_rat_one (mt (gridVal_eq_zero f g).mp hg)]
  rcases Nat.lt_or_ge g (2 ^ f.t) with h | h
  case inl =>
    have hlog : Nat.log2 g < f.t := (Nat.log2_lt hg).mpr h
    rw [gridVal_subnormal f h]
    have he : min (max ((Nat.log2 g : Int) + (1 - f.bias - f.t) + f.bias) 1) (max ((f.gmax / 2 ^ f.t : Nat) : Int) 1) = 1 := by omega
    simp only [he, placeAt_self]
    simp
  case inr =>
    have hlog : Nat.log2 (2 ^ f.t + g % 2 ^ f.t) = f.t := by
      have hmod : g % 2 ^ f.t < 2 ^ f.t := Nat.mod_lt _ (Nat.two_pow_pos _)
      rw [Nat.log2_eq_iff (by omega), Nat.pow_succ]
      omega
    have hpos : 1 ≤ g / 2 ^ f.t := Nat.div_pos h (Nat.two_pow_pos _)
    have htop : g / 2 ^ f.t ≤ f.gmax / 2 ^ f.t := Nat.div_le_div_right hmax
    rw [gridVal_normal f h]
    dsimp only
    rw [hlog]
    generalize hex : g / 2 ^ f.t = ex at *
    have he : min (max ((f.t : Int) + (ex - f.bias - f.t) + f.bias) 1) (max ((f.gmax / 2 ^ f.t : Nat) : Int) 1) = ex := by omega
    have hcode : (ex - 1) * 2 ^ f.t + (2 ^ f.t + g % 2 ^ f.t) = g := by
      calc (ex - 1) * 2 ^ f.t + (2 ^ f.t + g % 2 ^ f.t)
          = (ex - 1 + 1) * 2 ^ f.t + g % 2 ^ f.t := by rw [Nat.succ_mul]; omega
        _ = g := by rw [Nat.sub_add_cancel hpos, ← hex, Nat.mul_comm]; exact Nat.div_add_mod _ _
    simp only [he, placeAt_self, show ((ex : Int) - 1).toNat = ex - 1 by omega, hcode]

/-! ### Rounding what needs none (R54, R59) -/

/-- Nothing discarded, no mode takes the larger neighbour: a hash of 32 bits alone does not carry. -/
theorem roundsUp_exact (rnd : Nat) (neg : Bool) (g : Nat) {h : Nat} (hh : h < 2 ^ 32) : roundsUp rnd neg ⟨g, 0, 0⟩ h = false := by
  unfold roundsUp
  split
  case h_6 => simpa using hh
  all_goals simp

theorem not_unsigned_neg {f : FFmt} {neg : Bool} (h : f.sign = none → neg = false) : ¬ (f.sign = none ∧ neg = true) :=
  fun ⟨hs, ht⟩ => by simp [h hs] at ht

theorem roundF_gridVal (f : FFmt) (rnd : Nat) (sat infSat neg : Bool) {g h : Nat} (hh : h < 2 ^ 32) (hmax : g ≤ f.gmax)
    (hneg : f.sign = none → neg = false) :
    roundF f rnd sat infSat h (.ofF (.fin neg (gridVal f g).1 (gridVal f g).2)) = if g = 0 then zeroCode f neg else signed f neg g := by
  by_cases hg : g = 0
  · rw [Ex.ofF, if_pos ((gridVal_eq_zero f g).mpr hg), if_pos hg]
    rfl
  · rw [Ex.ofF, if_neg (mt (gridVal_eq_zero f g).mp hg), if_neg hg]
    dsimp only [roundF]
    rw [placeF_gridVal f hg hmax, roundsUp_exact rnd neg g hh, if_neg (not_unsigned_neg hneg)]
    simp [hg, Nat.not_lt.mpr hmax]

theorem roundF_inf {f : FFmt} {i : Nat} (hi : f.inf = some i) (rnd : Nat) (sat neg : Bool) (h : Nat) (hneg : f.sign = none → neg = false) :
    roundF f rnd sat false h (.inf neg) = signed f neg i := by
  simp [roundF, not_unsigned_neg hneg, hi]

/-! ### The codes of a format -/

theorem signed_bitOf {f : FFmt} {b c : Nat} (hs : f.sign = some b) (hc : c < 2 ^ (b + 1)) : signed f (bitOf c b) (c % 2 ^ b) = c := by
  have hdiv : c / 2 ^ b < 2 := Nat.div_lt_of_lt_mul (by rwa [← Nat.pow_succ])
  have hsum := Nat.mod_add_div c (2 ^ b)
  rcases Nat.le_one_iff_eq_zero_or_eq_one.mp (Nat.le_of_lt_succ hdiv) with htop | htop <;>
    simpa [signed, hs, bitOf, -Nat.div_eq_zero_iff, htop] using hsum

/-- A zero keeps its sign where the format has -0; where it has none, the code of -0 is the NaN (R48). -/
theorem zeroCode_bitOf {f : FFmt} {b c : Nat} (hs : f.sign = some b) (hc : c < 2 ^ (b + 1)) (hnan : ¬ (f.nz = false ∧ c = 2 ^ b))
    (hzero : c % 2 ^ b = 0) : zeroCode f (bitOf c b) = c := by
  have hcode := signed_bitOf hs hc
  rw [hzero] at hcode
  unfold zeroCode
  split
  case isTrue => exact hcode
  case isFalse hnz =>
    simp only [signed, hs, Nat.zero_add] at hcode
    split at hcode
    · exact absurd ⟨by simpa using hnz, hcode.symm⟩ hnan
    · exact hcode

/-- Codes of w bits: a sign is their top bit, and an unsigned format's codes are its special ones and those up to its largest
finite value. -/
def FFmt.Spans (f : FFmt) (w : Nat) : Prop :=
  match f.sign with
  | some b => w = b + 1
  | none => ∀ c, c < 2 ^ w → f.nan ≠ some c → f.inf ≠ some c → c ≤ f.gmax

theorem b8_spans (f : Nat) : (b8 f).Spans 8 := by
  unfold b8
  dsimp only
  split
  case h_1 | h_2 => rfl
  case h_3 | h_4 =>
    intro c hc hnan hinf
    simp only [ne_eq, Option.some.injEq, reduceCtorEq] at hnan hinf
    dsimp only
    omega

theorem ffmt_spans {f : Nat} {x : FFmt} (h : ffmt f = some x) : x.Spans (WellFormed.fmtWidth f) := by
  unfold ffmt at h
  split at h
  case h_7 =>
    split at h
    case isFalse => cases h
    case isTrue hb8 =>
      cases h
      simp only [WellFormed.fmtB8, Bool.and_eq_true, decide_eq_true_eq] at hb8
      have hw : WellFormed.fmtWidth f = 8 := by
        rw [WellFormed.fmtWidth, if_neg (by omega), if_neg (by omega), if_neg (by omega)]
      rw [hw]
      exact b8_spans f
  all_goals cases h; rfl

theorem decodeF_unsigned {f : FFmt} (hs : f.sign = none) (c : Nat) :
    decodeF f c = if f.nan = some c then .nan false else if f.inf = some c then .inf false
      else .fin false (gridVal f c).1 (gridVal f c).2 := by
  simp only [decodeF, hs]

theorem decodeF_signed {f : FFmt} {b : Nat} (hs : f.sign = some b) (c : Nat) :
    decodeF f c = if f.nz = false ∧ c = 2 ^ b then .nan false else if f.inf = some (c % 2 ^ b) then .inf (bitOf c b)
      else if f.gmax < c % 2 ^ b then .nan (bitOf c b)
      else .fin (bitOf c b) (gridVal f (c % 2 ^ b)).1 (gridVal f (c % 2 ^ b)).2 := by
  simp only [decodeF, hs]

section
variable {f : FFmt} {c h : Nat} (rnd : Nat) (sat : Bool) (hh : h < 2 ^ 32) (hn : (decodeF f c).isNan = false)
include hh hn

theorem roundF_decodeF_unsigned (hs : f.sign = none) (hfin : f.nan ≠ some c → f.inf ≠ some c → c ≤ f.gmax) :
    roundF f rnd sat false h (.ofF (decodeF f c)) = c := by
  rw [decodeF_unsigned hs] at hn ⊢
  by_cases hnan : f.nan = some c
  · rw [if_pos hnan, FVal.isNan] at hn
    exact Bool.noConfusion hn
  rw [if_neg hnan]
  by_cases hinf : f.inf = some c
  · rw [if_pos hinf, Ex.ofF, roundF_inf hinf rnd sat false h fun _ => rfl, signed, hs]
  rw [if_neg hinf, roundF_gridVal f rnd sat false false hh (hfin hnan hinf) fun _ => rfl]
  by_cases hzero : c = 0
  · rw [if_pos hzero, zeroCode, signed, hs, hzero, ite_self]
  · rw [if_neg hzero, signed, hs]

theorem roundF_decodeF_signed {b : Nat} (hs : f.sign = some b) (hc : c < 2 ^ (b + 1)) :
    roundF f rnd sat false h (.ofF (decodeF f c)) = c := by
  have hsign : f.sign = none → bitOf c b = false := by simp [hs]
  rw [decodeF_signed hs] at hn ⊢
  by_cases hnan : f.nz = false ∧ c = 2 ^ b
  · rw [if_pos hnan, FVal.isNan] at hn
    exact Bool.noConfusion hn
  rw [if_neg hnan] at hn ⊢
  by_cases hinf : f.inf = some (c % 2 ^ b)
  · rw [if_pos hinf, Ex.ofF, roundF_inf hinf rnd sat _ h hsign, signed_bitOf hs hc]
  rw [if_neg hinf] at hn ⊢
  by_cases hmax : f.gmax < c % 2 ^ b
  · rw [if_pos hmax, FVal.isNan] at hn
    exact Bool.noConfusion hn
  rw [if_neg hmax, roundF_gridVal f rnd sat false _ hh (Nat.le_of_not_lt hmax) hsign]
  by_cases hzero : c % 2 ^ b = 0
  · rw [if_pos hzero, zeroCode_bitOf hs hc hnan hzero]
  · rw [if_neg hzero, signed_bitOf hs hc]

end

/-- A code that is no NaN comes back from the value it decodes to. -/
theorem roundF_decodeF {f : FFmt} {w c h : Nat} (rnd : Nat) (sat : Bool) (hf : f.Spans w) (hc : c < 2 ^ w) (hh : h < 2 ^ 32)
    (hn : (decodeF f c).isNan = false) : roundF f rnd sat false h (.ofF (decodeF f c)) = c := by
  cases hs : f.sign with
  | none =>
    simp only [FFmt.Spans, hs] at hf
    exact roundF_decodeF_unsigned rnd sat hh hn hs (hf c hc)
  | some b =>
    simp only [FFmt.Spans, hs] at hf
    exact roundF_decodeF_signed rnd sat hh hn hs (hf ▸ hc)

/-- Settles O29: a format's codes are its infinities and its grid points, and a grid point lies at its own code. -/
theorem representableValuesRoundToThemselves : Obligations.RepresentableValuesRoundToThemselves := by
  intro f x c rnd h sat hx hc hh hn
  rw [decodeE, hx] at hn ⊢
  rw [roundTo, hx]
  exact roundF_decodeF rnd sat (ffmt_spans hx) hc hh hn

/-! ### The order of reductions and scans (R68, R69) -/

/-- Node n of the next level of the tree of R68. -/
def pairUp (op : Word → Word → Word) (v : Nat → Option Word) (n : Nat) : Option Word := node op (v (2 * n)) (v (2 * n + 1))

/-- Lane l after the step of R69 at distance k. -/
def scanUp (op : Word → Word → Word) (k : Nat) (v : Nat → Option Word) (l : Nat) : Option Word :=
  if k ≤ l then node op (v (l - k)) (v l) else v l

theorem treeLevel_range (op : Word → Word → Word) (n : Nat) (v : Nat → Option Word) :
    treeLevel op ((List.range (2 * n)).map v) = (List.range n).map (pairUp op v) := by
  induction n generalizing v with
  | zero => rfl
  | succ n ih =>
    have hrest := ih fun l => v (l + 2)
    rw [Nat.mul_succ, List.range_succ_eq_map, List.range_succ_eq_map, List.range_succ_eq_map]
    simp only [List.map_cons, List.map_map, treeLevel]
    rw [show pairUp op v 0 = node op (v 0) (v 1) from rfl]
    exact congrArg (List.cons _) hrest

theorem reduceTree_range (op : Word → Word → Word) (v : Nat → Option Word) :
    reduceTree op ((List.range 32).map v) = pairUp op (pairUp op (pairUp op (pairUp op (pairUp op v)))) 0 := by
  rw [reduceTree, treeLevel_range op 16, treeLevel_range op 8, treeLevel_range op 4, treeLevel_range op 2, treeLevel_range op 1]
  rfl

theorem getD_map_range {n l : Nat} (v : Nat → Option Word) (hl : l < n) : ((List.range n).map v).getD l none = v l := by
  simp [List.getD, hl]

theorem scanStep_range (op : Word → Word → Word) (k : Nat) (v : Nat → Option Word) :
    scanStep op k ((List.range 32).map v) = (List.range 32).map (scanUp op k v) := by
  refine List.map_congr_left fun l hl => ?_
  have hl : l < 32 := List.mem_range.mp hl
  rw [getD_map_range v hl, getD_map_range v (show l - k < 32 by omega)]
  rfl

theorem scan_range (op : Word → Word → Word) (v : Nat → Option Word) :
    [1, 2, 4, 8, 16].foldl (fun xs k => scanStep op k xs) ((List.range 32).map v)
      = (List.range 32).map (scanUp op 16 (scanUp op 8 (scanUp op 4 (scanUp op 2 (scanUp op 1 v))))) := by
  simp only [List.foldl_cons, List.foldl_nil, scanStep_range]

theorem lscan_vec {o : VOps} (h : (Instr.lscan o).wf = true) : o.d.toNat < 96 := by
  rw [Instr.wf, WellFormed.check, Option.isNone_iff_eq_none, verdict_none] at h
  simp only [Bool.and_eq_true, WellFormed.isVec, decide_eq_true_eq] at h
  exact h.1.1.1.1

theorem inLanes_congr {s : State} {d : BitVec 7} {v v' : Nat → Word} (h : ∀ l, l < 32 → v l = v' l) (c l : Nat) :
    inLanes s d v c l = inLanes s d v' c l := by
  unfold inLanes
  split
  case isTrue hm => rw [h l (BitVec.lt_of_getLsbD hm.2)]
  case isFalse => rfl

/-- Settles O38: the operands are a function of the lane, of which a tree level and a scan step each make the next one. -/
theorem reductionAndScan : Obligations.ReductionAndScan := by
  intro o s op x up pair
  refine ⟨computes_of _ (show execLred o s = _ from rfl) fun _ => ?lred, computes_of _ (show execLscan o s = _ from rfl) fun hw => ?lscan⟩
  case lred =>
    have htree : reduceTree op (s.warp.operands s.mask o.a.toNat) = pair (pair (pair (pair (pair x)))) 0 := reduceTree_range op x
    rw [htree]
    exact results_oneValue s o.d _
  case lscan =>
    have hscan : [1, 2, 4, 8, 16].foldl (fun xs k => scanStep op k xs) (s.warp.operands s.mask o.a.toNat)
        = (List.range 32).map (up 16 (up 8 (up 4 (up 2 (up 1 x))))) := scan_range op x
    refine (results_perLane s o.d _ (lscan_vec hw)).congr (inLanes_congr fun l hl => ?_)
    rw [hscan, getD_map_range _ hl]

end Sys2Proof.Machine

/-! The encoding: the words of an instruction and the instruction of its words (spec/04_encoding.md R81 to R96,
spec/10_system_clearing_isa.md R250). -/

namespace Sys2Proof.Laws.RoundTrip

/-- The words of each row of the opcode table are read back. -/
theorem statement (i : Instr) : Statement i :=
  Instr.casesOn (motive := Statement) i
    nop yield bra brp call ret callx jmpx brt exit meet leave join waitm kmov meetrd meetwr barSync barArv cbarSync cbarArv
    gopen gset trap iadd isub imul imulh imac idiv irem imin imax iabsd iaddmin iaddmax and or xor andn mov popc clz brev movi
    shl shr sar rol bfx bfi lea iadd64 icmp sel fadd fsub fmul ffma fmin fmax faddmin fcmp fclass fdiv frcp frsq fsqrt fexp2
    flog2 fsin fcos ftanh hadd2 hmul2 hfma2 hmin2 hmax2 dot4 cvt cvtsr pack unpack qscale signq ternq lshf lperm lbc voteAll
    voteAny voteBallot voteCount lred lscan lmatch sadd ssub smul sand sor sxor sshl sshr smin smax smov smovi scmp sld srd
    sfromv ld ldf ldPk st stf feopSet feopClear feopTest atom cas red fenceAcq fenceRel fenceAr cst abinit abexp abarr abwait
    abtest waitc pref hgl hga obres obrel obset acz acrd acwr acst mxloop mxstep cpyq gthq clpost clctlQuery clctlAbort epopen
    epstep epclose rwsend lqtake csrrd csrwr fragrd fragres fragkill eret svcwait tlbinv cacheop pmctl savex restx cld
    clearingCst cadd csub cmov cmovi cbnz cbra csend crecv cred ccomp csigFe csigAb cwaitFe cwaitPh cswred cend clauseWaitMet
    clauseWordsArrive longResultReturn cbarCompletion pageWalk storeRegistration homeWriteQueueApply loadServe
    matrixCommandStart matrixStep matrixCommandEnd copyCommandStart copyDelivery commandEnd collectiveStart
    clearingMessageArrival collectiveEnd switchSlotTimeout reductionPush heldEndApply rewardMessage escrowAgeExpiry
    joinTimeout episodeScan queueTailPoll queueAdvance doorbell dependenceReread recordStart workgroupPlacement gangPlacement
    saveHandlerEntry drainComplete restorePlacement verUpdate watchdogExpiry mailboxMessage faultRecordWrite scrub tenantReset
    registerWrite qcfgWrite portcfgWrite portTraining freplayWrite islfreqWrite islbudgetWrite plimitWrite telemetrySample
    thermalShutdown eventSnapshot packageReset imageInstall coreRelease extend attestationRequest fabricRequestArrival
    fabricReplyArrival acknowledgement fabricReplayTimeout contextQuietExpiry contextClose flitReceive retryGapExpiry
    retryRequest linkFailure portRetrain ueRmaWrite ueQueueAdvance ueRewardSend ueUnsupportedRequest dieStopsAnswering
    planeReportsUnreachable

/-- Settles O1: row by row of the opcode table, by the laws of the rows. -/
theorem decodeEncodeRoundTrip : Obligations.DecodeEncodeRoundTrip := statement

end Sys2Proof.Laws.RoundTrip

namespace Sys2Proof

/-! ### The fields of a word make up the word -/

theorem extV_dec (w : Word) : Encode.extV (Decode.extV w) = w := by
  simp only [Encode.extV, Decode.extV, BitVec.extractLsb'_append_extractLsb'_eq_extractLsb']
  exact BitVec.extractLsb'_eq_self

theorem extM_dec (w : Word) : Encode.extM (Decode.extM w) = w := by
  simp only [Encode.extM, Decode.extM, BitVec.extractLsb'_append_extractLsb'_eq_extractLsb']
  exact BitVec.extractLsb'_eq_self

theorem ofNat_opcode (w : Word) : BitVec.ofNat 7 (Decode.opcode w) = w.extractLsb' 25 7 := by
  rw [Decode.opcode, BitVec.ofNat_toNat, BitVec.setWidth_eq]

section
variable {w : Word} {x : Option Word} (hx : Decode.xbit w = x.isSome)
include hx

/-- The X bit as a field. -/
theorem xb_dec : Encode.xb x = w.extractLsb' 24 1 := by
  have h : (w.extractLsb' 24 1).getLsbD 0 = x.isSome := by simpa [Decode.xbit] using hx
  cases x <;> simp_all [Encode.xb, BitVec.eq_of_getLsbD_eq_iff]

theorem xb_map_dec {α : Type} (f : Word → α) : Encode.xb (x.map f) = w.extractLsb' 24 1 := by
  rw [← xb_dec hx]
  simp only [Encode.xb, Option.isSome_map]

theorem vOps_dec : Encode.vOps (BitVec.ofNat 7 (Decode.opcode w)) (Decode.vOps w x) = w :: x.toList := by
  simp only [Encode.vOps, Decode.vOps, ofNat_opcode, xb_map_dec hx, BitVec.extractLsb'_append_extractLsb'_eq_extractLsb',
    Option.map_map, Function.comp_def, extV_dec, Option.map_id']
  exact congrArg (· :: _) BitVec.extractLsb'_eq_self

theorem mOps_dec : Encode.mOps (BitVec.ofNat 7 (Decode.opcode w)) (Decode.mOps w x) = w :: x.toList := by
  simp only [Encode.mOps, Decode.mOps, ofNat_opcode, xb_map_dec hx, BitVec.extractLsb'_append_extractLsb'_eq_extractLsb',
    Option.map_map, Function.comp_def, extM_dec, Option.map_id']
  exact congrArg (· :: _) BitVec.extractLsb'_eq_self

theorem iOps_dec : Encode.iOps (BitVec.ofNat 7 (Decode.opcode w)) (Decode.iOps w x) = w :: x.toList := by
  simp only [Encode.iOps, Decode.iOps, ofNat_opcode, xb_dec hx, BitVec.extractLsb'_append_extractLsb'_eq_extractLsb']
  exact congrArg (· :: _) BitVec.extractLsb'_eq_self

theorem bOps_dec : Encode.bOps (BitVec.ofNat 7 (Decode.opcode w)) (Decode.bOps w x) = w :: x.toList := by
  simp only [Encode.bOps, Decode.bOps, ofNat_opcode, xb_dec hx, BitVec.extractLsb'_append_extractLsb'_eq_extractLsb']
  exact congrArg (· :: _) BitVec.extractLsb'_eq_self

theorem eOps_dec : Encode.eOps (BitVec.ofNat 7 (Decode.opcode w)) (Decode.eOps w x) = w :: x.toList := by
  simp only [Encode.eOps, Decode.eOps, ofNat_opcode, xb_dec hx, BitVec.extractLsb'_append_extractLsb'_eq_extractLsb']
  exact congrArg (· :: _) BitVec.extractLsb'_eq_self

theorem sOps_dec : Encode.sOps (BitVec.ofNat 7 (Decode.opcode w)) (Decode.sOps w x) = w :: x.toList := by
  simp only [Encode.sOps, Decode.sOps, ofNat_opcode, xb_dec hx, BitVec.extractLsb'_append_extractLsb'_eq_extractLsb']
  exact congrArg (· :: _) BitVec.extractLsb'_eq_self

end

/-! ### Words that decode (R81 to R94, R96) -/

/-- An opcode that names an instruction names one of a core, whose words are those of that opcode with the fields of one format. -/
theorem encode_of_ofFields {op : Nat} {v : VOps} {i : IOps} {b : BOps} {e : EOps} {s : SOps} {m : MOps} {j : Instr}
    (h : Decode.ofFields op v i b e s m = some j) :
    formOf j = .core ∧ encode j ∈ [Encode.vOps (.ofNat 7 op) v, Encode.iOps (.ofNat 7 op) i, Encode.bOps (.ofNat 7 op) b,
      Encode.eOps (.ofNat 7 op) e, Encode.sOps (.ofNat 7 op) s, Encode.mOps (.ofNat 7 op) m] := by
  unfold Decode.ofFields at h
  repeat' split at h
  all_goals cases h <;> exact ⟨rfl, by simp [encode]⟩

theorem core_ok {w : Word} {x : Option Word} {i : Instr} (h : Decode.core w x = .ok i) :
    Decode.parse w x = some i ∧ i.wf = true := by
  unfold Decode.core at h
  split at h
  case h_1 => cases h
  case h_2 j hj =>
    split at h
    case h_1 hc => cases h; exact ⟨hj, by rw [Instr.wf, hc]; rfl⟩
    case h_2 => cases h

theorem words_ok {ws rest : List Word} {i : Instr} (h : Decode.words ws = .ok (i, rest)) :
    ∃ w x, ws = w :: x.toList ++ rest ∧ Decode.xbit w = x.isSome ∧ Decode.core w x = .ok i := by
  unfold Decode.words at h
  split at h
  case h_1 => cases h
  case h_2 w tail =>
    split at h
    case isTrue hx =>
      repeat' split at h
      all_goals cases h
      next hi => exact ⟨w, some _, rfl, hx, hi⟩
    case isFalse hx =>
      split at h
      all_goals cases h
      next hi => exact ⟨w, none, rfl, by simpa using hx, hi⟩

theorem encode_of_core {w : Word} {x : Option Word} {i : Instr} (hx : Decode.xbit w = x.isSome) (h : Decode.core w x = .ok i) :
    i.wf = true ∧ formOf i = .core ∧ encode i = w :: x.toList := by
  obtain ⟨hparse, hwf⟩ := core_ok h
  obtain ⟨hform, hwords⟩ := encode_of_ofFields hparse
  rw [vOps_dec hx, iOps_dec hx, bOps_dec hx, eOps_dec hx, sOps_dec hx, mOps_dec hx] at hwords
  exact ⟨hwf, hform, by simpa using hwords⟩

/-! ### Clearing words (R250) -/

theorem c1Ops_dec (w : Word) : Encode.c1Ops (w.extractLsb' 27 5) (Decode.c1Ops w) = [w] := by
  simp only [Encode.c1Ops, Decode.c1Ops, BitVec.extractLsb'_append_extractLsb'_eq_extractLsb']
  exact congrArg (· :: _) BitVec.extractLsb'_eq_self

theorem c2Ops_dec (w : Word) : Encode.c2Ops (w.extractLsb' 27 5) (Decode.c2Ops w) = [w] := by
  simp only [Encode.c2Ops, Decode.c2Ops, BitVec.extractLsb'_append_extractLsb'_eq_extractLsb']
  exact congrArg (· :: _) BitVec.extractLsb'_eq_self

theorem encode_of_ofClrFields {op : Nat} {c : C1Ops} {k : C2Ops} {j : Instr} (h : Decode.ofClrFields op c k = some j) :
    formOf j = .clearing ∧ encode j ∈ [Encode.c1Ops (.ofNat 5 op) c, Encode.c2Ops (.ofNat 5 op) k] := by
  unfold Decode.ofClrFields at h
  repeat' split at h
  all_goals cases h <;> exact ⟨rfl, by simp [encode]⟩

theorem clr_ok {w : Word} {i : Instr} (h : Decode.clr w = .ok i) : Decode.parseClr w = some i ∧ i.wf = true := by
  unfold Decode.clr at h
  repeat' split at h
  all_goals cases h
  case h_2.isTrue hp hc => exact ⟨hp, hc⟩

theorem encode_of_clr {w : Word} {i : Instr} (h : Decode.clr w = .ok i) :
    i.wf = true ∧ formOf i = .clearing ∧ encode i = [w] := by
  obtain ⟨hparse, hwf⟩ := clr_ok h
  obtain ⟨hform, hwords⟩ := encode_of_ofClrFields hparse
  rw [BitVec.ofNat_toNat, BitVec.setWidth_eq, c1Ops_dec, c2Ops_dec] at hwords
  exact ⟨hwf, hform, by simpa using hwords⟩

/-- Settles O2: the decoders read each field of a word once, so the instruction's fields put the word together again. -/
theorem decodedWordsAreTheEncoding : Obligations.DecodedWordsAreTheEncoding := by
  refine ⟨fun ws i rest h => ?core, fun w i h => encode_of_clr h⟩
  obtain ⟨w, x, hws, hx, hi⟩ := words_ok h
  obtain ⟨hwf, hform, hwords⟩ := encode_of_core hx hi
  exact ⟨hwf, hform, by rw [hws, hwords]⟩

/-! ### Words without an instruction (R94, R250) -/

/-- Settles O4: no arm of either decoder's table has such an opcode; a clearing word's is its top five bits. -/
theorem unassignedOpcodesAreRefused : Obligations.UnassignedOpcodesAreRefused := by
  refine ⟨fun w x h => ?core, fun w h => ?clearing⟩
  case core =>
    have hparse : Decode.parse w x = none := by
      unfold Decode.parse
      generalize Decode.opcode w = op at h ⊢
      simp only [List.mem_cons, List.not_mem_nil, or_false] at h
      rcases h with rfl | rfl | rfl | rfl | rfl | rfl | rfl | rfl | rfl | rfl | rfl | rfl <;> rfl
    rw [Decode.core, hparse]
  case clearing =>
    have hop : 16 ≤ (w.extractLsb' 27 5).toNat := by
      rw [BitVec.extractLsb'_toNat, Nat.shiftRight_eq_div_pow]
      omega
    have hparse : Decode.parseClr w = none := by
      unfold Decode.parseClr Decode.ofClrFields
      split
      case h_17 => rfl
      all_goals omega
    rw [Decode.clr, hparse]

/-! ### Words that the spec writes out -/

/-- Settles O3: the decoders run on closed words. -/
theorem wordsOfTheSpec : Obligations.WordsOfTheSpec := by
  unfold Obligations.WordsOfTheSpec
  and_intros <;> rfl

end Sys2Proof

/-! What a step issues, and what a fetch finds (spec/04_encoding.md R72, R92, R93, R96, R101, R105). -/

namespace Sys2Proof.Machine

open Sys2Proof

/-! ### The instruction that is due (R96) -/

section
variable {s u v : State} {c q n : Nat} {r : Split} {w : Word} {x : Option Word}

/-- The turn of a split that is due issues what stands at its slot. -/
theorem step_of_due (hpower : u.power.down = false) (hcore : (u.core c).released = true) (hdie : (u.die (c / 48)).halted = false)
    (hturn : s.nextTurn = (.issue c q, u) ∧ q < 4 ∧ u.turnOf c q = (v, true) ∨ s.nextTurn = (.service c, u) ∧ u.turnOfService c = (v, true)) :
    step s = State.issue (v, true) := by
  unfold step State.oneStep
  rcases hturn with ⟨hnext, hq, hdue⟩ | ⟨hnext, hdue⟩
  · simp [hnext, hpower, State.doTurn, hcore, hdie, hq, hdue]
  · simp [hnext, hpower, State.doTurn, hcore, hdie, hdue]

variable (hrun : v.warp.run = some r) (hslot : (clauseInstrs r.words)[r.slot]? = some (w, x, n))
include hrun hslot

theorem nextInstr_of_ok {i : Instr} (h : Decode.core w x = .ok i) : v.nextInstr = .run i := by
  simp [State.nextInstr, hrun, hslot, h]

theorem nextInstr_of_error {e : Cause} (h : Decode.core w x = .error e) (he : e ≠ .formatReserved) : v.nextInstr = .cause e := by
  simp [State.nextInstr, hrun, hslot, h, he]

/-- Of a reserved format code the declared counts are checked first (R96 order 4). -/
theorem nextInstr_of_formatReserved {i : Instr} (h : Decode.core w x = .error .formatReserved) (hi : Decode.parse w x = some i) :
    v.nextInstr = .cause (if v.warp.countsOk i = true then .formatReserved else .illegalOpcode) := by
  cases hc : v.warp.countsOk i <;> simp [State.nextInstr, hrun, hslot, h, hi, hc]

end

theorem issue_run {v : State} {i : Instr} (h : v.nextInstr = .run i) :
    State.issue (v, true) = match exec i v.issuing with
      | .next t => .next t.afterIssue
      | .fault f => .fault f
      | .refused e => .refused e := by
  simp only [State.issue, h] <;> rfl

theorem issue_cause {v : State} {e : Cause} (h : v.nextInstr = .cause e) :
    State.issue (v, true) = .next (v.issuing.faultOpen e).afterIssue := by
  simp only [State.issue, h] <;> rfl

/-- Settles O14: the turn issues, and what it issues is the decoded instruction. -/
theorem stepRunsTheDecodedInstruction : Obligations.StepRunsTheDecodedInstruction := by
  intro s u v c q r w x n i hpower hcore hdie hturn hrun hslot hi
  exact (step_of_due hpower hcore hdie hturn).trans (issue_run (nextInstr_of_ok hrun hslot hi))

/-- Settles O15: the turn issues, and what it issues is the fault of the words. -/
theorem stepFaultsOnBadWords : Obligations.StepFaultsOnBadWords := by
  intro s u v c q r w x n e hpower hcore hdie hturn hrun hslot he faults
  have hstep := step_of_due hpower hcore hdie hturn
  refine ⟨fun hne => ?other, fun i hres hi => ?reserved⟩
  case other => exact hstep.trans (issue_cause (nextInstr_of_error hrun hslot he hne))
  case reserved =>
    subst hres
    exact hstep.trans (issue_cause (nextInstr_of_formatReserved hrun hslot he hi))

/-! ### What a fetch finds (R72, R93, R101, R323, R326) -/

/-- Words fetched from an address on: each is what the fetch of its own address gives. -/
def State.FetchedFrom (s : State) (c w a : Nat) (ws : List Word) : Prop :=
  ∀ k x, ws[k]? = some x → s.fetchWord c w (a + 4 * k) = .ok x

theorem fetchedFrom_nil (s : State) (c w a : Nat) : s.FetchedFrom c w a [] := by
  simp [State.FetchedFrom]

theorem fetchedFrom_cons {s : State} {c w a : Nat} {y : Word} {ws : List Word} (hy : s.fetchWord c w a = .ok y)
    (h : s.FetchedFrom c w (a + 4) ws) : s.FetchedFrom c w a (y :: ws) := by
  intro k x hk
  cases k with
  | zero => cases hk; exact hy
  | succ k =>
    rw [show a + 4 * (k + 1) = a + 4 + 4 * k by omega]
    exact h k x hk

theorem fetchInstrs_fetched {s : State} {c w n a : Nat} {ws : List Word} (h : s.fetchInstrs c w n a = .ok ws) : s.FetchedFrom c w a ws := by
  induction n generalizing a ws with
  | zero => cases h; exact fetchedFrom_nil s c w a
  | succ n ih =>
    unfold State.fetchInstrs at h
    repeat' split at h
    all_goals cases h
    case _ hy _ _ _ hz _ _ hr => exact fetchedFrom_cons hy (fetchedFrom_cons hz (ih hr))
    case _ hy _ _ _ hr => exact fetchedFrom_cons hy (ih hr)

theorem fetchWords_fetched {s : State} {c w a : Nat} {ws : List Word} (h : s.fetchWords c w a = .ok ws) : s.FetchedFrom c w a ws := by
  unfold State.fetchWords at h
  repeat' split at h
  all_goals cases h
  case _ hy _ => exact fetchedFrom_cons hy (fetchedFrom_nil s c w (a + 4))
  case _ hy _ _ _ hr => exact fetchedFrom_cons hy (fetchInstrs_fetched hr)

theorem fetchClause_present {s : State} {c w a : Nat} {ws : List Word} (h : s.fetchClause c w a = .present ws) :
    s.fetchWords c w a = .ok ws := by
  unfold State.fetchClause at h
  split at h <;> cases h
  assumption

/-- A word of another device's memory of which a warp has read nothing has not come. -/
theorem farRead_none {w : Warp} (h : w.ops = []) (lane pa n : Nat) : w.farRead lane pa n = none := by
  simp [Warp.farRead, h]

theorem fetchClause_wait {s : State} {c w a va pa : Nat} (h : s.fetchWord c w a = .error (.wait va pa)) :
    s.fetchClause c w a = if a % 4 = 0 then .absent else .failed .misaligned a := by
  by_cases ha : a % 4 = 0 <;> simp [State.fetchClause, State.fetchWords, ha, h]

/-- A code word under the patches of its warp's launch (R93). -/
def State.patched (s : State) (c w a : Nat) (x : Word) : Word :=
  match s.launch (s.wg (s.warpAt c w).wg).launch with
  | none => x
  | some l => l.overlay a x

theorem fetchWord_service (s : State) (c : Nat) {a : Nat} (ha : isHbm a = true) :
    s.fetchWord c 64 a = if s.swHeld a 4 = true then .error (.wait a a)
      else if s.bad a 4 = true then .error (.fault .dataUncorrectable) else .ok (BitVec.ofNat 32 (s.rdN a 4)) := by
  simp [State.fetchWord, ha]

section
variable {s : State} {c w a pa : Nat} (hw : w ≠ 64) (hm : (s.warpAt c w).mode = .tenant)
  (ht : s.translate c (s.warpAt c w).tenant a .ex = .ok pa)
include hw hm ht

theorem fetchWord_local (hf : isFabric pa = false) :
    s.fetchWord c w a = if s.swHeld pa 4 = true then .error (.wait a pa)
      else if s.bad pa 4 = true then .error (.fault .dataUncorrectable)
      else .ok (s.patched c w a (BitVec.ofNat 32 (s.rdN pa 4))) := by
  simp [State.fetchWord, hw, hm, ht, hf, State.patched] <;> rfl

theorem fetchWord_far (hf : isFabric pa = true) (hops : (s.warpAt c w).ops = []) : s.fetchWord c w a = .error (.wait a pa) := by
  simp [State.fetchWord, hw, hm, ht, hf, farRead_none hops]

end

/-- Settles O17: a fetch collects what it finds word by word from the clause's address on, and a word is found in memory, or asked
for in another device's. -/
theorem clausesAreMemorysWords : Obligations.ClausesAreMemorysWords := by
  refine ⟨fun s c w a ws h k x hk => fetchWords_fetched (fetchClause_present h) k x hk, fun s c a ha => fetchWord_service s c ha,
    fun s c w a pa hw hm ht => ⟨fun hf => fetchWord_local hw hm ht hf, fun hf hops => ?far⟩⟩
  have hword := fetchWord_far hw hm ht hf hops
  exact ⟨hword, fetchClause_wait hword⟩

end Sys2Proof.Machine

/-! Where the threads of a control transfer go (spec/05_control.md R101, R105, R108; spec/04_encoding.md R77, R92). -/

namespace Sys2Proof.Machine

open Sys2Proof

/-! ### Groups -/

theorem getLsbD_laneBit (l j : Nat) : (laneBit l).getLsbD j = decide (j < 32 ∧ l = j) := by
  rw [laneBit, BitVec.getLsbD_ofNat, Nat.testBit_two_pow, Bool.decide_and]

/-- A position's group holds a lane of some groups. -/
def HoldsLane (gs : List Group) (a p l : Nat) : Prop := ∃ g ∈ gs, g.addr = a ∧ g.slot = p ∧ g.mask.getLsbD l = true

theorem holdsLane_cons (g : Group) (gs : List Group) (a p l : Nat) :
    HoldsLane (g :: gs) a p l ↔ (g.addr = a ∧ g.slot = p ∧ g.mask.getLsbD l = true) ∨ HoldsLane gs a p l := by
  simp [HoldsLane]

/-- Joining a group adds its lanes at its position and nothing else (R261). -/
theorem holdsLane_joinGroup (addr slot : Nat) (m : Word) (cnt stamp : Nat) (gs : List Group) (a p l : Nat) :
    HoldsLane (joinGroup addr slot m cnt stamp gs) a p l ↔ HoldsLane gs a p l ∨ addr = a ∧ slot = p ∧ m.getLsbD l = true := by
  induction gs with
  | nil => simp [joinGroup, HoldsLane]
  | cons g gs ih =>
    unfold joinGroup
    split
    case isTrue h =>
      obtain ⟨rfl, rfl⟩ := h
      simp only [holdsLane_cons, BitVec.getLsbD_or, Bool.or_eq_true, and_or_left]
      exact or_right_comm
    case isFalse => rw [holdsLane_cons, holdsLane_cons, ih, or_assoc]

/-! ### One thread of a warp reaches a position (R77, R108) -/

/-- The places of a warp's threads may differ, and nothing else. -/
def Warp.MovesOnly (w w' : Warp) : Prop := w' = { w with th := w'.th, groups := w'.groups, bound := w'.bound }

/-- The places of threads other than lane l may differ, and nothing else. -/
def Warp.Spares (l : Nat) (w w' : Warp) : Prop :=
  w.MovesOnly w' ∧ w'.thread l = w.thread l ∧ (∀ a p, w'.inGroup a p l ↔ w.inGroup a p l)
    ∧ fget (0, 1) w'.bound l = fget (0, 1) w.bound l

theorem Warp.MovesOnly.refl (w : Warp) : w.MovesOnly w := rfl
theorem Warp.MovesOnly.trans {a b c : Warp} (h : a.MovesOnly b) (g : b.MovesOnly c) : a.MovesOnly c := by
  unfold Warp.MovesOnly at *
  rw [g, h]

theorem Warp.Spares.refl (l : Nat) (w : Warp) : w.Spares l w := ⟨.refl w, rfl, fun _ _ => .rfl, rfl⟩
theorem Warp.Spares.trans {l : Nat} {a b c : Warp} (h : a.Spares l b) (g : b.Spares l c) : a.Spares l c :=
  ⟨h.1.trans g.1, g.2.1.trans h.2.1, fun x p => (g.2.2.1 x p).trans (h.2.2.1 x p), g.2.2.2.trans h.2.2.2⟩

/-- A lane waits at its run boundary for its results, to go on from a position (R77). -/
def Warp.waitBound (w : Warp) (t : Nat × Nat × Nat) : Warp :=
  let w := if w.mode = .tenant then
    w.updThread t.1 (fun x => { x with st := .active, wait := .none, addr := t.2.1, slot := t.2.2 }) else w
  { w with bound := fset w.bound t.1 (t.2.1, t.2.2) }

theorem Warp.waitBound_movesOnly (w : Warp) (t : Nat × Nat × Nat) : w.MovesOnly (w.waitBound t) := by
  unfold Warp.waitBound
  dsimp only
  split <;> rfl

theorem Warp.unmeet_movesOnly (w : Warp) (l p : Nat) : w.MovesOnly (w.unmeet l p) := by
  unfold Warp.unmeet
  dsimp only
  split <;> rfl

theorem Warp.place_movesOnly (w : Warp) (id l a p : Nat) : w.MovesOnly (w.place id l a p) := by
  unfold Warp.place
  dsimp only
  repeat' split
  all_goals rfl

theorem Warp.arrive_movesOnly (w : Warp) (id l a p : Nat) : w.MovesOnly (w.arrive id l a p) := by
  unfold Warp.arrive
  split
  · rfl
  · exact (w.unmeet_movesOnly l p).trans (Warp.place_movesOnly _ id l a p)

section
variable {l j : Nat} (h : j ≠ l)
include h

theorem Warp.setThread_spares (w : Warp) (t : Thread) : w.Spares l (w.setThread j t) :=
  ⟨rfl, thread_setThread_ne w t h.symm, fun _ _ => .rfl, rfl⟩

theorem Warp.waitBound_spares (w : Warp) (a p : Nat) : w.Spares l (w.waitBound (j, a, p)) := by
  have hbound (u : Warp) : u.Spares l { u with bound := fset u.bound j (a, p) } :=
    ⟨rfl, rfl, fun _ _ => .rfl, fget_fset_ne _ _ _ h.symm⟩
  unfold Warp.waitBound
  dsimp only
  split
  · exact (w.setThread_spares h _).trans (hbound _)
  · exact hbound w

theorem Warp.unmeet_spares (w : Warp) (p : Nat) : w.Spares l (w.unmeet j p) := by
  unfold Warp.unmeet
  dsimp only
  split
  · exact w.setThread_spares h _
  · exact .refl l w

theorem Warp.place_spares (w : Warp) (id a p : Nat) : w.Spares l (w.place id j a p) := by
  have hjoin (u : Warp) : u.Spares l { u with groups := joinGroup a p (laneBit j) 0 id u.groups } :=
    ⟨rfl, rfl, fun x q => (holdsLane_joinGroup ..).trans (by simp [getLsbD_laneBit, h, HoldsLane, Warp.inGroup]), rfl⟩
  unfold Warp.place
  dsimp only
  repeat' split
  · exact (hjoin w).trans (Warp.setThread_spares h _ _)
  · exact w.setThread_spares h _
  · exact hjoin w
  · exact .refl l w

theorem Warp.arrive_spares (w : Warp) (id a p : Nat) : w.Spares l (w.arrive id j a p) := by
  unfold Warp.arrive
  split
  · exact w.setThread_spares h _
  · exact (w.unmeet_spares h p).trans (Warp.place_spares h _ id a p)

end

/-! ### What becomes of the thread itself -/

/-- A lane has reached the clause at an address: without its meet where it is no member of the mask that the meet names, held
where its meet names the address, else in the group there (R108, R267). -/
def Warp.Arrived (w w' : Warp) (l a : Nat) : Prop :=
  let x := w.thread l; let y := w'.thread l
  let there := { x with addr := a, slot := 0, wait := .none }
  if w.mode = .tenant ∧ meetValid x.meet = true ∧ w.inMask (meetMask x.meet) l = false then
    y = { there with st := .active, meet := meetClear x.meet } ∧ w'.inGroup a 0 l
  else if w.mode = .tenant ∧ meetValid x.meet = true ∧ meetAddr x.meet = a then y = { there with st := .held }
  else (w.mode = .tenant → y = { there with st := .active }) ∧ (w.mode = .tenant ∨ w.drained = true → w'.inGroup a 0 l)

theorem Warp.place_thread {w : Warp} (hm : w.mode = .tenant) (id l a p : Nat) :
    (w.place id l a p).thread l = { w.thread l with st := .active, addr := a, slot := p, wait := .none } := by
  simp [Warp.place, hm, Warp.updThread, Warp.thread, Warp.setThread]

theorem Warp.place_inGroup {w : Warp} (hm : w.mode = .tenant ∨ w.drained = true) (id a p : Nat) {l : Nat} (hl : l < 32) :
    (w.place id l a p).inGroup a p l := by
  have hjoin : HoldsLane (joinGroup a p (laneBit l) 0 id w.groups) a p l :=
    (holdsLane_joinGroup ..).mpr (.inr ⟨rfl, rfl, by simp [getLsbD_laneBit, hl]⟩)
  unfold Warp.place
  dsimp only
  rw [if_pos hm]
  split <;> exact hjoin

theorem Warp.arrived_arrive (w : Warp) (id a : Nat) {l : Nat} (hl : l < 32) : w.Arrived (w.arrive id l a 0) l a := by
  unfold Warp.Arrived
  dsimp only
  split
  case isTrue h =>
    obtain ⟨hm, hvalid, hout⟩ := h
    have harrive : w.arrive id l a 0 = (w.unmeet l 0).place id l a 0 := by
      simp [Warp.arrive, Warp.meetsAt, hm, hout]
    have hmode : (w.unmeet l 0).mode = .tenant := by rw [w.unmeet_movesOnly l 0]; exact hm
    have hthread : (w.unmeet l 0).thread l = { w.thread l with meet := meetClear (w.thread l).meet } := by
      simp [Warp.unmeet, hm, hvalid, hout]
    rw [harrive]
    exact ⟨by rw [Warp.place_thread hmode, hthread], Warp.place_inGroup (.inl hmode) id a 0 hl⟩
  case isFalse hin =>
    split
    case isTrue h =>
      obtain ⟨hm, hvalid, haddr⟩ := h
      have hmask : w.inMask (meetMask (w.thread l).meet) l = true := by
        simpa using fun hout => hin ⟨hm, hvalid, hout⟩
      simp [Warp.arrive, Warp.meetsAt, hm, hvalid, haddr, hmask]
    case isFalse haddr =>
      have harrive : w.arrive id l a 0 = w.place id l a 0 := by
        have hmeet : w.meetsAt l a 0 = false := by
          by_cases hm : w.mode = .tenant <;> by_cases hvalid : meetValid (w.thread l).meet = true <;>
            simp_all [Warp.meetsAt]
        have hkeep : w.unmeet l 0 = w := by
          simp only [not_and, Bool.not_eq_false] at hin
          rw [Warp.unmeet, if_neg]
          rintro ⟨hm, -, hvalid, hout⟩
          simp [hin hm hvalid] at hout
        simp [Warp.arrive, hmeet, hkeep]
      rw [harrive]
      exact ⟨fun hm => Warp.place_thread hm id l a 0, fun hm => Warp.place_inGroup hm id a 0 hl⟩

/-- A lane that has arrived stays so, whatever other lanes did before and do after it. -/
theorem Warp.Arrived.of_spares {u w w' v : Warp} {l a : Nat} (hbefore : u.Spares l w) (h : w.Arrived w' l a) (hafter : w'.Spares l v) :
    u.Arrived v l a := by
  obtain ⟨hframe, hthread, -, -⟩ := hbefore
  obtain ⟨-, hthread', hgroup', -⟩ := hafter
  have hm : w.mode = u.mode := by rw [hframe]
  have hd : w.drained = u.drained := by rw [hframe]
  have hk (k : Nat) : w.inMask k l = u.inMask k l := by rw [hframe]; rfl
  unfold Warp.Arrived at h ⊢
  rw [hthread, hm, hd] at h
  simp only [hk] at h
  simpa only [hthread', hgroup'] using h

theorem Warp.waitBound_at (w : Warp) (l a p : Nat) :
    fget (0, 1) (w.waitBound (l, a, p)).bound l = (a, p)
      ∧ (w.mode = .tenant → (w.waitBound (l, a, p)).thread l = { w.thread l with st := .active, wait := .none, addr := a, slot := p }) := by
  refine ⟨fget_fset_self _ _ _ _, fun hm => ?_⟩
  simp [Warp.waitBound, hm, Warp.updThread, Warp.thread, Warp.setThread]

/-! ### Several threads, one after another -/

section
variable {f : Warp → Nat → Warp} {l : Nat}

theorem foldl_movesOnly (h : ∀ (w : Warp) j, w.MovesOnly (f w j)) (ls : List Nat) (w : Warp) : w.MovesOnly (ls.foldl f w) := by
  induction ls generalizing w with
  | nil => exact .refl w
  | cons j ls ih => exact (h w j).trans (ih _)

variable (h : ∀ (w : Warp) j, j ≠ l → w.Spares l (f w j))
include h

theorem foldl_spares {ls : List Nat} (hl : l ∉ ls) (w : Warp) : w.Spares l (ls.foldl f w) := by
  induction ls generalizing w with
  | nil => exact .refl l w
  | cons j ls ih =>
    rw [List.mem_cons, not_or] at hl
    exact (h w j (Ne.symm hl.1)).trans (ih hl.2 _)

/-- One of several distinct lanes takes its step between the others'. -/
theorem foldl_step {ls : List Nat} (hls : ls.Nodup) (hl : l ∈ ls) (w : Warp) :
    ∃ u, w.Spares l u ∧ (f u l).Spares l (ls.foldl f w) := by
  induction ls generalizing w with
  | nil => cases hl
  | cons j ls ih =>
    obtain ⟨hj, hls⟩ := List.nodup_cons.mp hls
    rcases List.mem_cons.mp hl with rfl | hl
    · exact ⟨w, .refl l w, foldl_spares h hj _⟩
    · obtain ⟨u, hu, hrest⟩ := ih hls hl (f w j)
      exact ⟨u, (h w j fun e => hj (e ▸ hl)).trans hu, hrest⟩

end

/-- Lanes wait at their run boundary, to go on from clause starts. -/
def Warp.waitAll (w : Warp) (ls : List Nat) (target : Nat → Nat) : Warp := ls.foldl (fun w l => w.waitBound (l, target l, 0)) w
/-- Lanes arrive at clause starts. -/
def Warp.arriveAll (w : Warp) (id : Nat) (ls : List Nat) (target : Nat → Nat) : Warp :=
  ls.foldl (fun w l => w.arrive id l (target l) 0) w
/-- Lanes of a split go to clause starts: those that a marker holds for their results wait for them, the others arrive (R77). -/
def Warp.sent (w : Warp) (id : Nat) (marked : Bool) (ls : List Nat) (target : Nat → Nat) : Warp :=
  (w.waitAll (ls.filter fun l => marked && w.awaits l) target).arriveAll id (ls.filter fun l => !(marked && w.awaits l)) target

section
variable (w : Warp) (id : Nat) (marked : Bool) {ls : List Nat} (target : Nat → Nat)

theorem Warp.sent_movesOnly : w.MovesOnly (w.sent id marked ls target) :=
  (foldl_movesOnly (fun w _ => w.waitBound_movesOnly _) _ w).trans (foldl_movesOnly (fun w j => w.arrive_movesOnly id j _ 0) _ _)

variable {l : Nat}

theorem Warp.waitAll_spares (hl : l ∉ ls) : w.Spares l (w.waitAll ls target) :=
  foldl_spares (fun w _ hj => w.waitBound_spares hj _ _) hl w

theorem Warp.arriveAll_spares (hl : l ∉ ls) : w.Spares l (w.arriveAll id ls target) :=
  foldl_spares (fun w _ hj => w.arrive_spares hj id _ 0) hl w

theorem Warp.sent_spares (hl : l ∉ ls) : w.Spares l (w.sent id marked ls target) :=
  (w.waitAll_spares target fun h => hl (List.mem_filter.mp h).1).trans
    (Warp.arriveAll_spares _ id target fun h => hl (List.mem_filter.mp h).1)

variable (hls : ls.Nodup) (hl : l ∈ ls)
include hls hl

theorem Warp.sent_waits (hwait : marked = true ∧ w.awaits l = true) :
    fget (0, 1) (w.sent id marked ls target).bound l = (target l, 0)
      ∧ (w.mode = .tenant → (w.sent id marked ls target).thread l =
          { w.thread l with st := .active, addr := target l, slot := 0, wait := .none }) := by
  obtain ⟨u, ⟨hframe, hthread, -, -⟩, hrest⟩ := foldl_step (f := fun w l => w.waitBound (l, target l, 0))
    (fun w _ hj => w.waitBound_spares hj _ _) (hls.filter fun l => marked && w.awaits l) (List.mem_filter.mpr ⟨hl, by simpa using hwait⟩) w
  obtain ⟨-, hthread', -, hbound'⟩ : (u.waitBound (l, target l, 0)).Spares l (w.sent id marked ls target) :=
    hrest.trans (Warp.arriveAll_spares _ id target (by simp [hwait]))
  have hm : u.mode = w.mode := by rw [hframe]
  obtain ⟨hbound, htenant⟩ := u.waitBound_at l (target l) 0
  exact ⟨hbound'.trans hbound, fun h => hthread'.trans ((htenant (hm.trans h)).trans (by rw [hthread]))⟩

theorem Warp.sent_arrives (hlt : l < 32) (hgo : ¬ (marked = true ∧ w.awaits l = true)) :
    w.Arrived (w.sent id marked ls target) l (target l) := by
  rw [← Bool.and_eq_true] at hgo
  have hfirst : w.Spares l (w.waitAll (ls.filter fun l => marked && w.awaits l) target) :=
    w.waitAll_spares target fun h => hgo (List.mem_filter.mp h).2
  obtain ⟨u, hbefore, hafter⟩ := foldl_step (f := fun w l => w.arrive id l (target l) 0) (fun w _ hj => w.arrive_spares hj id _ 0)
    (hls.filter fun l => !(marked && w.awaits l)) (List.mem_filter.mpr ⟨hl, by simpa only [Bool.not_eq_true', Bool.not_eq_true] using hgo⟩)
    (w.waitAll (ls.filter fun l => marked && w.awaits l) target)
  exact (u.arrived_arrive id (target l) hlt).of_spares (hfirst.trans hbefore) hafter

end

/-! ### A control transfer of the split (R101) -/

/-- Nothing differs but the acting warp, its core's issue slots, the next number and the flow. -/
def State.OnlyRun (s t : State) : Prop :=
  t = { s with cores := t.cores, nextId := t.nextId, flow := t.flow }
  ∧ (∀ c, c ≠ s.cur.core → t.core c = s.core c) ∧ (∀ w, w ≠ s.cur.slot → t.warpAt s.cur.core w = s.warpAt s.cur.core w)
  ∧ t.core s.cur.core = { s.core s.cur.core with warps := (t.core s.cur.core).warps, parts := (t.core s.cur.core).parts }

theorem State.OnlyRun.cur_eq {s t : State} (h : s.OnlyRun t) : t.cur = s.cur := by rw [h.1]

theorem State.OnlyRun.trans {s t u : State} (h : s.OnlyRun t) (g : t.OnlyRun u) : s.OnlyRun u := by
  have hcur := h.cur_eq
  obtain ⟨hs, hcores, hwarps, hcore⟩ := h
  obtain ⟨gs, gcores, gwarps, gcore⟩ := g
  rw [hcur] at gcores gwarps gcore
  exact ⟨by rw [gs, hs], fun c hc => (gcores c hc).trans (hcores c hc), fun w hw => (gwarps w hw).trans (hwarps w hw),
    by rw [gcore, hcore]⟩

theorem onlyRun_numbered (s : State) (n : Nat) (f : Flow) : s.OnlyRun { s with nextId := n, flow := f } :=
  ⟨rfl, fun _ _ => rfl, fun _ _ => rfl, rfl⟩

theorem onlyRun_setWarp (s : State) (x : Warp) : s.OnlyRun (s.setWarp x) := by
  refine ⟨rfl, fun c hc => core_setCore_ne _ _ hc, fun w hw => warpAt_setWarpAt_ne _ x (.inr hw), ?_⟩
  rw [State.setWarp, State.setWarpAt, core_updCore]
  rfl

theorem core_stallSlot (s : State) : s.stallSlot.core s.cur.core = { s.core s.cur.core with parts := (s.stallSlot.core s.cur.core).parts } := by
  unfold State.stallSlot
  split
  · rw [core_updCore]
  · rfl

theorem warpAt_stallSlot (s : State) (w : Nat) : s.stallSlot.warpAt s.cur.core w = s.warpAt s.cur.core w := by
  rw [State.warpAt, core_stallSlot]
  rfl

theorem onlyRun_stallSlot (s : State) : s.OnlyRun s.stallSlot := by
  refine ⟨?_, fun c hc => ?_, fun w _ => warpAt_stallSlot s w, ?_⟩
  · unfold State.stallSlot
    split <;> rfl
  · unfold State.stallSlot
    split
    · exact core_setCore_ne _ _ hc
    · rfl
  · rw [core_stallSlot]

theorem warp_stallSlot (s : State) : s.stallSlot.warp = s.warp := by
  rw [State.warp, (onlyRun_stallSlot s).cur_eq]
  exact warpAt_stallSlot s s.cur.slot

/-- The lanes that wait, and those that do not, among lanes with their positions. -/
theorem waiting_eq (w : Warp) (marked : Bool) (ls : List Nat) (f : Nat → Nat × Nat × Nat) (hf : ∀ l, (f l).1 = l) :
    (if marked = true then (ls.map f).filter (fun t => w.awaits t.1) else []) = (ls.filter fun l => marked && w.awaits l).map f := by
  cases marked <;> simp [List.filter_map, Function.comp_def, hf]

theorem going_eq (w : Warp) (marked : Bool) (ls : List Nat) (f : Nat → Nat × Nat × Nat) (hf : ∀ l, (f l).1 = l) :
    (ls.map f).filter (fun t => !(((ls.filter fun l => marked && w.awaits l).map f).any fun u => u.1 == t.1))
      = (ls.filter fun l => !(marked && w.awaits l)).map f := by
  rw [List.filter_map]
  refine congrArg (List.map f) (List.filter_congr fun l hl => ?_)
  by_cases h : (marked && w.awaits l) = true
  · simp_all
  · simp_all
    grind

theorem goAll_spec (s : State) (marked : Bool) (ls : List Nat) (target : Nat → Nat) :
    s.OnlyRun (s.goAll s.cur.core s.cur.slot marked (ls.map fun l => (l, target l, 0)))
      ∧ (s.goAll s.cur.core s.cur.slot marked (ls.map fun l => (l, target l, 0))).warp = s.warp.sent s.nextId marked ls target := by
  have hwait := waiting_eq s.warp marked ls (fun l => (l, target l, 0)) fun _ => rfl
  have hgo := going_eq s.warp marked ls (fun l => (l, target l, 0)) fun _ => rfl
  let u := s.setWarp (s.warp.waitAll (ls.filter fun l => marked && s.warp.awaits l) target)
  let v : State := { u with nextId := s.nextId + 1 }
  have heq : s.goAll s.cur.core s.cur.slot marked (ls.map fun l => (l, target l, 0))
      = v.updWarp fun w => w.arriveAll s.nextId (ls.filter fun l => !(marked && s.warp.awaits l)) target := by
    unfold State.goAll State.arriveLanes
    simp only [show s.warpAt s.cur.core s.cur.slot = s.warp from rfl, hwait, hgo, List.foldl_map]
    rfl
  rw [heq]
  refine ⟨((onlyRun_setWarp s _).trans (onlyRun_numbered u (s.nextId + 1) u.flow)).trans (onlyRun_setWarp v _), ?_⟩
  rw [warp_updWarp]
  exact congrArg (Warp.arriveAll · s.nextId _ target) (warp_setWarp' s _)

/-- The split's run ends, and its lanes go to the clauses. -/
theorem endRun_spec (s : State) (marked : Bool) (ls : List Nat) (target : Nat → Nat) :
    s.OnlyRun (s.endRun marked (ls.map fun l => (l, target l, 0)))
      ∧ (s.endRun marked (ls.map fun l => (l, target l, 0))).warp
        = ({ s.warp with run := none } : Warp).sent s.nextId marked ls target := by
  obtain ⟨honly, hwarp⟩ := goAll_spec (s.updWarp fun w => { w with run := none }) marked ls target
  have honly := (onlyRun_setWarp s _).trans honly
  rw [warp_updWarp] at hwarp
  unfold State.endRun
  dsimp only
  split
  · exact ⟨honly.trans (onlyRun_stallSlot _), (warp_stallSlot _).trans hwarp⟩
  · exact ⟨honly, hwarp⟩

theorem transfers_transfer (s : State) (target : Nat → Nat) : Transfers s (s.transfer target) target := by
  obtain ⟨honly, hwarp⟩ := endRun_spec s s.marked s.lanes target
  obtain ⟨hs, hcores, hwarps, hcore⟩ := honly.trans (onlyRun_numbered _ (s.endRun s.marked (s.lanes.map fun l => (l, target l, 0))).nextId .moved)
  have hmask {l : Nat} (h : s.mask.getLsbD l = false) : l ∉ s.lanes := fun hl => by simp [(mem_lanesOf.mp hl).2] at h
  have hw : (s.transfer target).warp = ({ s.warp with run := none } : Warp).sent s.nextId s.marked s.lanes target := hwarp
  refine ⟨hs, hcores, hwarps, hcore, ?_, fun a p l h => ?_, fun l hl => ?_⟩
  · rw [hw, Warp.sent_movesOnly]
  · rw [hw]
    exact (Warp.sent_spares _ _ _ _ (hmask h)).2.2.1 a p
  · dsimp only
    rw [hw]
    split
    case isTrue h => exact (Warp.sent_spares _ _ _ _ (hmask h)).2.1
    case isFalse h =>
      have hl : l ∈ s.lanes := mem_lanesOf.mpr ⟨hl, by simpa using h⟩
      split
      case isTrue hwait => exact Warp.sent_waits _ _ _ _ (lanesOf_nodup _) hl hwait
      case isFalse hgo => exact Warp.sent_arrives { s.warp with run := none } _ _ _ (lanesOf_nodup _) hl (lanesOf_lt hl) hgo

theorem transfer_congr {s : State} {f g : Nat → Nat} (h : ∀ l ∈ s.lanes, f l = g l) : s.transfer f = s.transfer g := by
  have hto : (s.lanes.map fun l => (l, f l, 0)) = s.lanes.map fun l => (l, g l, 0) :=
    List.map_congr_left fun l hl => by rw [h l hl]
  rw [State.transfer, State.transfer, hto]

/-! ### Target blocks (R92, R105) -/

theorem withFaults_nil (s : State) (f : State → State) : s.withFaults [] f = f s := rfl

theorem withFaults_none {s : State} {p : Nat → Bool} (h : ∀ l ∈ s.lanes, p l = false) (g : Nat → LaneFault) (f : State → State) :
    s.withFaults ((s.lanes.filter p).map g) f = f s := by
  rw [List.filter_eq_nil_iff.mpr fun l hl => by simp [h l hl]]
  rfl

theorem blockFault_none {s : State} {w0 : Nat} {es : List Nat} (h : ∀ e ∈ es, ∃ x, s.blockWord w0 e = .ok x) :
    s.blockFault w0 es = none := by
  rw [State.blockFault, List.findSome?_eq_none_iff]
  intro e he
  obtain ⟨x, hx⟩ := h e he
  simp only [hx]

theorem lanes_blockDone (s : State) (w0 : Nat) : (s.blockDone w0).lanes = s.lanes := by
  rw [State.lanes, State.mask, State.blockDone, warp_updWarp]
  rfl

/-- The link that an indirect call writes into a pair of each lane. -/
def State.linked (s : State) (link : Option (BitVec 7)) (back : Nat) : State :=
  match link with
  | none => s
  | some d => s.updWarp fun w => s.lanes.foldl (fun w l => w.setReg64 d.toNat l back) w

theorem linked_pair (s : State) (d : BitVec 7) (back : Nat) : s.linked (some d) back = s.perLane64 d fun _ _ => back := by
  rw [State.linked, State.perLane64, State.updWarp, List.foldl_map]

theorem exec_callx {o : VOps} {s : State} (hR : Runs (.callx o) s) : exec (.callx o) s = .next (s.indirect o.a (some o.d)) :=
  gated_runs hR fun s => s.indirect o.a (some o.d)

theorem exec_jmpx {o : VOps} {s : State} (hR : Runs (.jmpx o) s) : exec (.jmpx o) s = .next (s.indirect o.a none) :=
  gated_runs hR fun s => s.indirect o.a none

section
variable {s : State} {r : Split} {h : Word} (hrun : s.warp.run = some r) (hhead : s.blockWord r.after 0 = .ok h)
  (hmark : bitsOf h.toNat 31 8 = 0xB7B700) (hcount : h.toNat % 256 ≠ 0)
include hrun hhead hmark hcount

theorem withBlock_eq (f : Nat → Nat → State) : s.withBlock f = f r.after (h.toNat % 256) := by
  have hw0 : s.fallThrough = r.after := by simp [State.fallThrough, hrun]
  simp [State.withBlock, hw0, hhead, hmark, hcount]

/-- CALLX and JMPX, where each lane's address is listed. -/
theorem indirect_eq {a : BitVec 7} (link : Option (BitVec 7))
    (hwords : ∀ e, 1 ≤ e → e ≤ h.toNat % 256 → ∃ x, s.blockWord r.after e = .ok x)
    (hlisted : ∀ l ∈ s.lanes, ∃ e, 1 ≤ e ∧ e ≤ h.toNat % 256 ∧ s.warp.reg64 a.toNat l = s.blockTarget r.after e) :
    s.indirect a link
      = ((s.linked link (r.after + 4 * (h.toNat % 256 + 1))).blockDone r.after).transfer fun l => s.warp.reg64 a.toNat l := by
  have hfetched : s.blockFault r.after ((List.range (h.toNat % 256)).map (· + 1)) = none := by
    refine blockFault_none fun e he => ?_
    obtain ⟨k, hk, rfl⟩ := List.mem_map.mp he
    exact hwords (k + 1) (Nat.le_add_left 1 k) (List.mem_range.mp hk)
  rw [State.indirect, withBlock_eq hrun hhead hmark hcount]
  simp only [hfetched]
  rw [withFaults_none]
  · rfl
  · intro l hl
    obtain ⟨e, he, hen, heq⟩ := hlisted l hl
    simp only [heq, Bool.not_eq_false', List.contains_iff_mem, List.mem_map, List.mem_range]
    exact ⟨e, ⟨e - 1, by omega, by omega⟩, rfl⟩

/-- BRT, where each lane's index is one of an entry. -/
theorem brt_eq {o : VOps} (hR : Runs (.brt o) s) (hwords : ∀ l ∈ s.lanes, (s.warp.reg o.a.toNat l).toNat < h.toNat % 256
      ∧ ∃ x, s.blockWord r.after ((s.warp.reg o.a.toNat l).toNat + 1) = .ok x) :
    exec (.brt o) s = .next ((s.blockDone r.after).transfer fun l => s.blockTarget r.after ((s.warp.reg o.a.toNat l).toNat + 1)) := by
  change execBrt o s = _
  rw [execBrt, gated_runs hR, withBlock_eq hrun hhead hmark hcount]
  dsimp only
  rw [blockFault_none]
  · dsimp only
    rw [withFaults_none]
    exact fun l hl => decide_eq_false (Nat.not_le.mpr (hwords l hl).1)
  · intro e he
    obtain ⟨k, hk, rfl⟩ := List.mem_map.mp he
    obtain ⟨l, hl, hlk⟩ := List.any_eq_true.mp (List.mem_filter.mp hk).2
    exact eq_of_beq hlk ▸ (hwords l hl).2

end

theorem blockTarget_of_word {s : State} {w0 e : Nat} {x : Word} (h : s.blockWord w0 e = .ok x) :
    s.blockTarget w0 e = modW 64 ((w0 : Int) + 4 * sext 32 x.toNat) := by
  simp only [State.blockTarget, h]

theorem callx_pair {o : VOps} (hw : (Instr.callx o).wf = true) : o.d.toNat + 1 < 96 := by
  simp [Instr.wf, WellFormed.check, WellFormed.plainV, WellFormed.isVec, WellFormed.isEven] at hw
  omega

/-- Settles O40: the checks of the target block pass, and the transfer that follows sends each thread to its target. -/
theorem indirectTransfers : Obligations.IndirectTransfers := by
  intro o s r h hrun w0 n word tgt a ix hhead hmark hcount
  refine ⟨fun hwords hlisted => ?indirect, fun x hx hw hR => ?brt⟩
  case indirect =>
    have heq (link : Option (BitVec 7)) : s.indirect o.a link = ((s.linked link (w0 + 4 * (n + 1))).blockDone w0).transfer a := by
      refine indirect_eq hrun hhead hmark hcount link hwords fun l hl => ?_
      obtain ⟨e, x, he, hen, hx, ha⟩ := hlisted l hl
      exact ⟨e, he, hen, ha.trans (blockTarget_of_word hx).symm⟩
    refine ⟨fun _ hR => ?jmpx, fun hw hR => ?callx⟩
    case jmpx => exact ⟨_, (exec_jmpx hR).trans (congrArg _ (heq none)), transfers_transfer _ a⟩
    case callx =>
      refine ⟨_, (exec_callx hR).trans (congrArg _ (heq (some o.d))), _, ?_, transfers_transfer _ a⟩
      rw [linked_pair]
      exact results_perLane64 s o.d (fun _ _ => w0 + 4 * (n + 1)) (callx_pair hw)
  case brt =>
    refine ⟨_, brt_eq hrun hhead hmark hcount hR fun l hl => ⟨(hx l hl).1, x l, (hx l hl).2⟩, ?_⟩
    rw [transfer_congr (g := fun l => tgt (x l)) fun l hl => blockTarget_of_word (hx l (lanes_blockDone s w0 ▸ hl)).2]
    exact transfers_transfer _ _

end Sys2Proof.Machine

/-! An LDF that is served keeps the error mark of its access (spec/04_encoding.md R77, R172, R178). -/

namespace Sys2Proof.Machine

open Sys2Proof

/-- An LDF's access that is not done and yet carries the mark of a lasting error. -/
def markedLdf : Op := { id := 0, lane := 0, kind := .ldf, err := true }

/-- The reset state with that access outstanding at a full granule. -/
def markedLdfState : State :=
  { State.reset with cores := [(0, { warps := [(0, { ops := [markedLdf] })] })], full := [0] }

theorem findOp_markedLdfState : markedLdfState.findOp 0 0 = some (0, markedLdf) := rfl

/-- Serving it ends it with the mark it had: `State.serveLdf` sets what an access has read, and no more. -/
theorem findOp_loadServe_markedLdfState : (markedLdfState.loadServe 0 0).findOp 0 0 = some (0, { markedLdf with done := true }) := by
  decide

/-- Refutes O55: its clause for an LDF at a full granule ends the access with `err := false`, where `State.serveLdf` leaves `err` as
it was, and no hypothesis says that the access had no error mark. In `markedLdfState` it has one. The model
itself sets `err` only together with `done`; what the clause lacks is the premise `o.err = false`. -/
theorem not_coreAndHomeEvents : ¬ Obligations.CoreAndHomeEvents := by
  intro h
  obtain ⟨-, -, hserve, -⟩ := h markedLdfState
  obtain ⟨-, hldf, -⟩ := hserve 0 markedLdf findOp_markedLdfState (by decide) (by decide) (by decide) (by decide) (by decide)
    (by decide) (by decide) (by decide) (by decide) (by decide)
  obtain ⟨t, ht, -, hwon, -⟩ := (hldf (by decide) (by decide)).1 (by decide)
  have hstep : t = markedLdfState.loadServe 0 0 := (Host.Outcome.next.inj ht).symm
  have hend := hwon.symm.trans (hstep ▸ findOp_loadServe_markedLdfState)
  exact absurd (congrArg (fun r => r.map fun y : Nat × Op => y.2.err) hend) (by decide)

end Sys2Proof.Machine

/-! Moves across lanes, votes and matches (spec/07_lanes_convert.md R153 to R158). -/

namespace Sys2Proof.Machine

open Sys2Proof

/-! ### The destination that the fields name (R154) -/

theorem isVec_lt {d : BitVec 7} (h : WellFormed.isVec d = true) : d.toNat < 96 := of_decide_eq_true h

theorem plainV_fields {o : VOps} {pm : Nat} {fields : Bool} (h : (WellFormed.plainV o pm fields).isNone = true) : fields = true := by
  rw [Option.isNone_iff_eq_none, WellFormed.plainV, verdict_none] at h
  exact (Bool.and_eq_true_iff.mp h.1).2

theorem vote_pred {o : VOps} {pm : Nat} {b : Bool}
    (h : (WellFormed.plainV o pm (decide (o.d.toNat ≤ 7) && decide (o.a.toNat ≤ 7) && b)).isNone = true) : o.d.toNat < 8 := by
  have hfields := plainV_fields h
  rw [Bool.and_eq_true_iff, Bool.and_eq_true_iff] at hfields
  exact Nat.lt_succ_of_le (of_decide_eq_true hfields.1.1)

theorem lshf_vec {o : VOps} (hw : (Instr.lshf o).wf = true) : o.d.toNat < 96 := by
  rw [Instr.wf, Option.isNone_iff_eq_none, WellFormed.check] at hw
  split at hw
  · cases hw
  · rw [verdict_none] at hw
    exact isVec_lt (Bool.and_eq_true_iff.mp hw.1).2

/-! ### Operands (R82, R153) -/

/-- A lane outside the split delivers the reader's own value. -/
theorem fromLane_eq (w : Warp) (m : Word) (a i l : Nat) :
    w.fromLane m a i l = if m.getLsbD i = true then w.reg a i else w.reg a l :=
  apply_ite (w.reg a) _ i l

/-- A uniform operand in which no lane differs faults no lane. -/
theorem withUniform_same {s : State} {code : BitVec 7} (h : s.differing code.toNat 1 = []) (f : Word → State → State) :
    s.withUniform code f = f (s.warp.reg code.toNat s.lowest) s := by
  rw [State.withUniform, h]
  exact withFaults_nil s _

/-- Settles O36: each move writes, lane by lane, what `Warp.fromLane` delivers, or the fill. -/
theorem laneMoves : Obligations.LaneMoves := by
  intro o s k m a b frm
  refine ⟨computes_of _ (show execLshf o s = _ from rfl) fun hw => ?lshf,
    computes_of _ (show execLperm o s = _ from rfl) fun hw => ?lperm,
    fun hsame => computes_of _ (show execLbc o s = _ from rfl) fun hw => ?lbc⟩
  case lshf =>
    refine (results_perLane s o.d _ (lshf_vec hw)).congr (inLanes_congr fun l _ => ?_)
    rw [fromLane_eq, fromLane_eq]
    cases bitOf (vSub o) 5 <;> rfl
  case lperm =>
    exact (results_perLane s o.d _ (isVec_lt (plainV_fields hw))).congr (inLanes_congr fun l _ => fromLane_eq ..)
  case lbc =>
    rw [withUniform_same hsame]
    exact (results_perLane s o.d _ (isVec_lt (plainV_fields hw))).congr (inLanes_congr fun l _ => fromLane_eq ..)

/-! ### Masks of lanes -/

theorem getLsbD_foldl_laneBit (ls : List Nat) (m : Word) (j : Nat) :
    (ls.foldl (fun m l => m ||| laneBit l) m).getLsbD j = (m.getLsbD j || decide (j < 32 ∧ j ∈ ls)) := by
  induction ls generalizing m with
  | nil => simp
  | cons l ls ih =>
    rw [List.foldl_cons, ih, BitVec.getLsbD_or, getLsbD_laneBit, Bool.or_assoc, ← Bool.decide_or]
    simp only [← and_or_left, List.mem_cons, eq_comm (a := l)]

theorem getLsbD_maskOf (ls : List Nat) (j : Nat) : (maskOf ls).getLsbD j = decide (j < 32 ∧ j ∈ ls) := by
  rw [maskOf, getLsbD_foldl_laneBit, BitVec.getLsbD_zero, Bool.false_or]

theorem getLsbD_maskOf_filter (m : Word) (p : Nat → Bool) (j : Nat) :
    (maskOf ((lanesOf m).filter p)).getLsbD j = (m.getLsbD j && p j) := by
  rw [getLsbD_maskOf, Bool.eq_iff_iff]
  simp only [decide_eq_true_eq, List.mem_filter, mem_lanesOf, Bool.and_eq_true]
  exact ⟨fun h => ⟨h.2.1.2, h.2.2⟩, fun h => ⟨BitVec.lt_of_getLsbD h.1, ⟨BitVec.lt_of_getLsbD h.1, h.1⟩, h.2⟩⟩

theorem lanesOf_maskOf_filter (m : Word) (p : Nat → Bool) : lanesOf (maskOf ((lanesOf m).filter p)) = (lanesOf m).filter p := by
  simp only [lanesOf.eq_1 (maskOf _), getLsbD_maskOf_filter]
  rw [lanesOf, List.filter_filter]
  exact List.filter_congr fun l _ => Bool.and_comm ..

/-! ### Votes (R157) -/

theorem getLsbD_ballot (s : State) (p j : Nat) : (s.ballot p).getLsbD j = (s.mask.getLsbD j && s.warp.pred p j) :=
  getLsbD_maskOf_filter s.mask (fun l => s.warp.pred p l) j

theorem lanesOf_ballot (s : State) (p : Nat) : lanesOf (s.ballot p) = s.lanes.filter fun l => s.warp.pred p l :=
  lanesOf_maskOf_filter s.mask fun l => s.warp.pred p l

/-- The ballot is the whole split where every thread's predicate is true. -/
theorem ballot_beq_mask (s : State) (p : Nat) : (s.ballot p == s.mask) = s.lanes.all fun l => s.warp.pred p l := by
  rw [Bool.eq_iff_iff, beq_iff_eq, List.all_eq_true]
  constructor
  · intro h l hl
    have hbit := getLsbD_ballot s p l
    rw [h, (mem_lanesOf.mp hl).2, Bool.true_and] at hbit
    exact hbit.symm
  · exact fun h => BitVec.eq_of_getLsbD_eq fun l hl => by
      rw [getLsbD_ballot]
      cases hm : s.mask.getLsbD l
      · rfl
      · exact h l (mem_lanesOf.mpr ⟨hl, hm⟩)

/-- The ballot holds a lane where some thread's predicate is true. -/
theorem ballot_bne_zero (s : State) (p : Nat) : (s.ballot p != 0#32) = s.lanes.any fun l => s.warp.pred p l := by
  rw [Bool.eq_iff_iff, bne_iff_ne, List.any_eq_true]
  constructor
  · intro h
    refine Classical.byContradiction fun hno => h ?_
    rw [State.ballot, List.filter_eq_nil_iff.mpr fun l hl hp => hno ⟨l, hl, hp⟩]
    rfl
  · rintro ⟨l, hl, hp⟩ hzero
    have hbit := getLsbD_ballot s p l
    rw [hzero, (mem_lanesOf.mp hl).2, hp, BitVec.getLsbD_zero] at hbit
    cases hbit

/-- Settles O37: the forms of VOTE are questions to the ballot, and the ballot's lanes are those whose predicate is true. -/
theorem votesAndMatch : Obligations.VotesAndMatch := by
  intro o s p bal
  refine ⟨computesPred_of _ (show execVoteAll o s = _ from rfl) fun hw => ?all,
    computesPred_of _ (show execVoteAny o s = _ from rfl) fun hw => ?any,
    computes_of _ (show execVoteBallot o s = _ from rfl) fun _ => results_oneValue s o.d bal,
    computes_of _ (show execVoteCount o s = _ from rfl) fun _ => ?count,
    computes_of _ (show execLmatch o s = _ from rfl) fun hw => ?lmatch, fun j _ => getLsbD_ballot s o.a.toNat j⟩
  case all =>
    rw [← ballot_beq_mask s o.a.toNat]
    exact predicates_perPred s _ (vote_pred hw)
  case any =>
    rw [← ballot_bne_zero s o.a.toNat]
    exact predicates_perPred s _ (vote_pred hw)
  case count =>
    rw [lanesOf_ballot]
    exact results_oneValue s o.d _
  case lmatch =>
    exact results_perLane s o.d _ (isVec_lt (Bool.and_eq_true_iff.mp (plainV_fields hw)).1)

end Sys2Proof.Machine

/-! Codes within their format's width, and conversions (spec/03_numbers.md R41, R54 to R60; spec/07_lanes_convert.md R161 to R164). -/

namespace Sys2Proof.Machine

open Sys2Proof

/-! ### A rounded code has its format's width (R41, R54 to R60) -/

/-- The codes that a rounding into the format may deliver have w bits. -/
structure FFmt.Fits (f : FFmt) (w : Nat) : Prop where
  fin : ∀ neg g, g ≤ f.gmax → signed f neg g < 2 ^ w
  inf : ∀ neg g, f.inf = some g → signed f neg g < 2 ^ w
  nan : ∀ g, f.nan = some g → g < 2 ^ w
  signedNan : ∀ neg g, f.nan = some g → (if f = e4m3 then signed f neg g else g) < 2 ^ w

/-- A signed format whose magnitudes lie below its sign bit. -/
theorem fits_of_signed {f : FFmt} {b : Nat} (hs : f.sign = some b) (hmax : f.gmax < 2 ^ b) (hinf : ∀ g, f.inf = some g → g < 2 ^ b)
    (hnan : ∀ g, f.nan = some g → g < 2 ^ (b + 1) ∧ (f = e4m3 → g < 2 ^ b)) : f.Fits (b + 1) := by
  have hsigned (neg : Bool) {g : Nat} (hg : g < 2 ^ b) : signed f neg g < 2 ^ (b + 1) := by
    rw [signed, hs, Nat.pow_succ]
    cases neg
    · exact Nat.lt_of_lt_of_le hg (by omega)
    · exact (show g + 2 ^ b < 2 ^ b * 2 by omega)
  refine ⟨fun neg g hg => hsigned neg (Nat.lt_of_le_of_lt hg hmax), fun neg g hg => hsigned neg (hinf g hg),
    fun g hg => (hnan g hg).1, fun neg g hg => ?_⟩
  split
  case isTrue he => exact hsigned neg ((hnan g hg).2 he)
  case isFalse => exact (hnan g hg).1

theorem fits_of_unsigned {f : FFmt} {w : Nat} (hs : f.sign = none) (hmax : f.gmax < 2 ^ w) (hinf : ∀ g, f.inf = some g → g < 2 ^ w)
    (hnan : ∀ g, f.nan = some g → g < 2 ^ w) : f.Fits w := by
  have hsigned (neg : Bool) (g : Nat) : signed f neg g = g := by rw [signed, hs]
  refine ⟨fun neg g hg => ?_, fun neg g hg => ?_, hnan, fun neg g hg => ?_⟩
  · exact (hsigned neg g).symm ▸ Nat.lt_of_le_of_lt hg hmax
  · exact (hsigned neg g).symm ▸ hinf g hg
  · rw [hsigned, ite_self]
    exact hnan g hg

theorem b8_fits (f : Nat) : (b8 f).Fits 8 := by
  unfold b8
  dsimp only
  split
  case h_1 | h_2 => exact fits_of_signed rfl (by simp) (by simp) (by simp [e4m3])
  case h_3 | h_4 => exact fits_of_unsigned rfl (by simp) (by simp) (by simp)

theorem fmtWidth_b8 {f : Nat} (h : WellFormed.fmtB8 f = true) : WellFormed.fmtWidth f = 8 := by
  simp only [WellFormed.fmtB8, Bool.and_eq_true, decide_eq_true_eq] at h
  rw [WellFormed.fmtWidth, if_neg (by omega), if_neg (by omega), if_neg (by omega)]

theorem ffmt_fits {f : Nat} {x : FFmt} (h : ffmt f = some x) : x.Fits (WellFormed.fmtWidth f) := by
  unfold ffmt at h
  split at h
  case h_7 =>
    split at h
    case isFalse => cases h
    case isTrue hb8 =>
      cases h
      exact (fmtWidth_b8 hb8).symm ▸ b8_fits f
  all_goals cases h; exact fits_of_signed rfl (by decide) (by decide) (by decide)

theorem ifmt_width {f w : Nat} {sg : Bool} (h : ifmt f = some (w, sg)) : WellFormed.fmtWidth f = w := by
  unfold ifmt at h
  split at h <;> cases h <;> rfl

section
variable {f : FFmt} {w : Nat} (hf : f.Fits w)
include hf

theorem zeroCode_lt (neg : Bool) : zeroCode f neg < 2 ^ w := by
  unfold zeroCode
  split
  · exact hf.fin neg 0 (Nat.zero_le _)
  · exact Nat.two_pow_pos w

theorem overflowF_lt (rnd : Nat) (sat neg : Bool) : overflowF f rnd sat neg < 2 ^ w := by
  unfold overflowF
  split
  · exact hf.fin neg _ (Nat.le_refl _)
  · split
    case h_1 hinf => exact hf.inf neg _ hinf
    case h_2 hnan => exact hf.signedNan neg _ hnan
    case h_3 => exact hf.fin neg _ (Nat.le_refl _)

theorem nan_getD_lt : f.nan.getD 0 < 2 ^ w := by
  cases hn : f.nan with
  | none => exact Nat.two_pow_pos w
  | some g => exact hf.nan g hn

theorem roundF_lt (rnd : Nat) (sat infSat : Bool) (h : Nat) (x : Ex) : roundF f rnd sat infSat h x < 2 ^ w := by
  have hpos := Nat.two_pow_pos w
  cases x with
  | nan neg =>
    dsimp only [roundF]
    split
    case h_1 => exact hpos
    case h_2 hnan => exact hf.signedNan neg _ hnan
  | inf neg =>
    dsimp only [roundF]
    split
    case isTrue =>
      split
      · exact hpos
      · exact nan_getD_lt hf
    case isFalse =>
      split
      case isTrue => exact hf.fin neg _ (Nat.le_refl _)
      case isFalse =>
        split
        case h_1 hinf => exact hf.inf neg _ hinf
        case h_2 hnan => exact hf.signedNan neg _ hnan
        case h_3 => exact hf.fin neg _ (Nat.le_refl _)
  | zero neg => exact zeroCode_lt hf neg
  | num neg m =>
    dsimp only [roundF]
    generalize (if roundsUp rnd neg (placeF f m) h then (placeF f m).g + 1 else (placeF f m).g) = g
    split
    case isTrue =>
      split
      · exact hpos
      · split
        · exact hpos
        · exact nan_getD_lt hf
    case isFalse =>
      split
      case isTrue => exact zeroCode_lt hf neg
      case isFalse =>
        split
        case isTrue => exact overflowF_lt hf rnd sat neg
        case isFalse hg => exact hf.fin neg g (Nat.le_of_not_lt hg)

end

theorem roundE8_lt (rnd : Nat) (sat : Bool) (h : Nat) (x : Ex) : roundE8 rnd sat h x < 2 ^ 8 := by
  cases x with
  | nan => exact Nat.lt_add_one 255
  | inf =>
    dsimp only [roundE8]
    repeat' split
    all_goals decide
  | zero =>
    dsimp only [roundE8]
    split <;> decide
  | num neg m =>
    dsimp only [roundE8]
    generalize (if e8Up rnd neg (placeF e8m0Grid m) h then (placeF e8m0Grid m).g + 1 else (placeF e8m0Grid m).g) = g
    repeat' split
    all_goals omega

theorem roundTo_lt (dst rnd : Nat) (sat infSat : Bool) (h : Nat) (x : Ex) :
    roundTo dst rnd sat infSat h x < 2 ^ WellFormed.fmtWidth dst := by
  unfold roundTo
  split
  case h_1 hf => exact roundF_lt (ffmt_fits hf) rnd sat infSat h x
  case h_2 =>
    split
    case isTrue he8 => exact he8 ▸ roundE8_lt rnd sat h x
    case isFalse =>
      split
      case h_1 hi => exact ifmt_width hi ▸ modW_lt _ _
      case h_2 => exact Nat.two_pow_pos _

theorem conv_lt (src dst rnd : Nat) (sat : Bool) (h c : Nat) : conv src dst rnd sat h c < 2 ^ WellFormed.fmtWidth dst := by
  unfold conv
  split
  case h_1 hdst =>
    rw [ifmt_width hdst]
    dsimp only
    split <;> exact modW_lt _ _
  case h_2 => exact roundTo_lt ..

theorem convLane_lt (m : Word) (src dst rnd : Nat) (sat : Bool) (seed : Nat) (code : Nat → Nat → Nat) (l j : Nat) :
    convLane m src dst rnd sat seed code l j < 2 ^ WellFormed.fmtWidth dst := conv_lt ..

theorem roundLane_lt (m : Word) (dst rnd : Nat) (sat infSat : Bool) (seed : Nat) (ex : Nat → Nat → Ex) (l j : Nat) :
    roundLane m dst rnd sat infSat seed ex l j < 2 ^ WellFormed.fmtWidth dst := roundTo_lt ..

/-! ### Registers made of elements (R52, R163) -/

theorem fmtWidth_pos (f : Nat) : 0 < WellFormed.fmtWidth f := by
  unfold WellFormed.fmtWidth
  repeat' split
  all_goals decide

theorem cvtCount_le (src dst : Nat) : cvtCount src dst ≤ 32 / WellFormed.fmtWidth dst :=
  Nat.div_le_div_left (Nat.le_max_right _ _) (fmtWidth_pos dst)

theorem packElems_high {w k : Nat} {es : List Nat} (h : es.length ≤ k) : packElems w es / 2 ^ (w * k) = 0 :=
  Nat.div_eq_of_lt (Nat.lt_of_lt_of_le (packElems_lt w es) (Nat.pow_le_pow_right (by decide) (Nat.mul_le_mul_left w h)))

/-- A register made of its n lowest elements, and zeros above them. -/
theorem elemN_ofElems_range {w n : Nat} {f : Nat → Nat} (hw : 0 < w) (hn : n ≤ 32 / w) (hf : ∀ j, f j < 2 ^ w) (k : Nat) :
    elemN w (ofElems w ((List.range n).map f)) k = if k < n then f k else 0 := by
  have hbits : w * n ≤ 32 := Nat.le_trans (Nat.mul_le_mul_left w hn) (Nat.mul_div_le 32 w)
  have hlen : ((List.range n).map f).length = n := by simp
  split
  case isTrue hk =>
    rw [elem_of w _ k (by rwa [hlen]) hw (by rwa [hlen]), List.getElem_map, List.getElem_range, Nat.mod_eq_of_lt (hf k)]
  case isFalse hk =>
    have hlt := packElems_lt w ((List.range n).map f)
    rw [hlen] at hlt
    rw [elemN, ofElems, BitVec.toNat_ofNat, Nat.mod_eq_of_lt (Nat.lt_of_lt_of_le hlt (Nat.pow_le_pow_right (by decide) hbits)),
      packElems_high (by rw [hlen]; exact Nat.le_of_not_lt hk), Nat.zero_mod]

/-- An instruction that writes the n lowest elements of a format in each lane. -/
theorem computesElems_low {i : Instr} {s : State} {d : BitVec 7} {dst n : Nat} (f : State → State) (g : Warp → Nat → Nat → Nat)
    (he : exec i s = s.gated i f)
    (hf : f s = s.perLane d fun w l => ofElems (WellFormed.fmtWidth dst) ((List.range n).map (g w l)))
    (hd : i.wf = true → d.toNat < 96) (hn : n ≤ 32 / WellFormed.fmtWidth dst)
    (hg : ∀ l j, g s.warp l j < 2 ^ WellFormed.fmtWidth dst) :
    ComputesElems i s d (WellFormed.fmtWidth dst) fun l j => if j < n then g s.warp l j else 0 :=
  computesElems_of f _ he (fun hw => hf ▸ results_perLane s d _ (hd hw))
    fun _ l k _ => elemN_ofElems_range (fmtWidth_pos dst) hn (hg l) k

theorem ComputesElems.congr {i : Instr} {s : State} {d : BitVec 7} {w : Nat} {f g : Nat → Nat → Nat}
    (h : ComputesElems i s d w f) (hfg : ∀ l k, k < 32 / w → f l k = g l k) : ComputesElems i s d w g := fun hw hR => by
  obtain ⟨t, v, ht, hres, hv⟩ := h hw hR
  exact ⟨t, v, ht, hres, fun l k hl hm hk => (hv l k hl hm hk).trans (hfg l k hk)⟩

/-- An instruction that writes every element of a format in each lane. -/
theorem computesElems_all {i : Instr} {s : State} {d : BitVec 7} {dst : Nat} (f : State → State) (g : Warp → Nat → Nat → Nat)
    (he : exec i s = s.gated i f)
    (hf : f s = s.perLane d fun w l =>
      ofElems (WellFormed.fmtWidth dst) ((List.range (32 / WellFormed.fmtWidth dst)).map (g w l)))
    (hd : i.wf = true → d.toNat < 96) (hg : ∀ l j, g s.warp l j < 2 ^ WellFormed.fmtWidth dst) :
    ComputesElems i s d (WellFormed.fmtWidth dst) (g s.warp) :=
  (computesElems_low f g he hf hd (Nat.le_refl _) hg).congr fun _ _ hk => if_pos hk

/-! ### The fields of the conversion family (R161) -/

theorem cvtExt_fields {o : VOps} {ok res : ExtV → Bool} {fields : Bool} (h : (WellFormed.cvtExt o ok res fields).isNone = true) :
    fields = true ∧ ∃ e, o.x = some e ∧ ok e = true := by
  rw [Option.isNone_iff_eq_none, WellFormed.cvtExt] at h
  split at h
  case h_1 => cases h
  case h_2 e hx =>
    rw [verdict_none, Bool.and_eq_true, Bool.and_eq_true] at h
    obtain ⟨⟨⟨-, hfields⟩, hok⟩, -⟩ := h
    exact ⟨hfields, e, hx, hok⟩

/-- d is a vector register, where that is the one check of the other fields. -/
theorem cvtExt_vec {o : VOps} {ok res : ExtV → Bool} (h : (WellFormed.cvtExt o ok res (WellFormed.isVec o.d)).isNone = true) :
    o.d.toNat < 96 := isVec_lt (cvtExt_fields h).1

/-- d is a vector register, where b is checked too. -/
theorem cvtExt_vec_and {o : VOps} {ok res : ExtV → Bool} {b : Bool}
    (h : (WellFormed.cvtExt o ok res (WellFormed.isVec o.d && b)).isNone = true) : o.d.toNat < 96 :=
  isVec_lt (Bool.and_eq_true_iff.mp (cvtExt_fields h).1).1

/-! ### Conversions (R162 to R164) -/

/-- The elements of CVT's result in each lane. -/
def cvtElem (o : VOps) (m : Word) (rnd seed : Nat) (w : Warp) : Nat → Nat → Nat :=
  convLane m (cvtSrc o) (cvtDst o) rnd (vSat o) seed fun l => elemN (WellFormed.fmtWidth (cvtSrc o)) (w.reg o.a.toNat l)

/-- The elements of PACK's result in each lane: the run of a, the run of b, and those that d keeps. -/
def packElem (o : VOps) (m : Word) (w : Warp) (l j : Nat) : Nat :=
  let ws := WellFormed.fmtWidth (cvtSrc o); let p := 32 / ws; let h := cvtTop o
  if 2 * p * h ≤ j ∧ j < 2 * p * (h + 1) then
    convLane m (cvtSrc o) (cvtDst o) (vRnd o) (vSat o) (vSeed o)
      (fun l j => if j < 2 * p * h + p then elemN ws (w.reg o.a.toNat l) (j - 2 * p * h)
        else elemN ws (w.reg o.b.toNat l) (j - 2 * p * h - p)) l j
  else elemN (WellFormed.fmtWidth (cvtDst o)) (w.reg o.d.toNat l) j

/-- The elements of UNPACK's result in each lane. -/
def unpackElem (o : VOps) (m : Word) (w : Warp) : Nat → Nat → Nat :=
  convLane m (cvtSrc o) (cvtDst o) (vRnd o) (vSat o) (vSeed o) fun l j =>
    elemN (WellFormed.fmtWidth (cvtSrc o)) (w.reg o.a.toNat l) (32 / WellFormed.fmtWidth (cvtDst o) * cvtTop o + j)

theorem packElem_lt (o : VOps) (m : Word) (w : Warp) (l j : Nat) : packElem o m w l j < 2 ^ WellFormed.fmtWidth (cvtDst o) := by
  unfold packElem
  dsimp only
  split
  · exact convLane_lt ..
  · exact elemN_lt ..

/-- Settles O34: each conversion writes a list of elements per lane, and a converted code has its format's width. -/
theorem conversions : Obligations.Conversions := by
  intro o s m w src dst h ws wd n p q a b cv
  refine ⟨?cvt, fun hsame => ?cvtsr, ?pack, ?unpack⟩
  case cvt =>
    exact computesElems_low _ (cvtElem o m (vRnd o) (vSeed o)) (show execCvt o s = _ from rfl) rfl cvtExt_vec_and
      (cvtCount_le src dst) fun _ _ => convLane_lt ..
  case cvtsr =>
    exact computesElems_low _ (cvtElem o m 5 ((w.reg o.b.toNat s.lowest).toNat % 256)) (show execCvtsr o s = _ from rfl)
      (withUniform_same hsame _) cvtExt_vec (cvtCount_le src dst) fun _ _ => convLane_lt ..
  case pack =>
    exact computesElems_all _ (packElem o m) (show execPack o s = _ from rfl) rfl cvtExt_vec fun _ _ => packElem_lt ..
  case unpack =>
    exact computesElems_all _ (unpackElem o m) (show execUnpack o s = _ from rfl) rfl cvtExt_vec_and fun _ _ => convLane_lt ..

end Sys2Proof.Machine

/-! Block scales, and sign and ternary codes (spec/07_lanes_convert.md R165 to R169). -/

namespace Sys2Proof.Machine

open Sys2Proof

/-! ### Groups of registers (R166, R169) -/

/-- One value per lane and register written to n registers from d on. -/
def Warp.setGroup (w : Warp) (d n : Nat) (ls : List Nat) (f : Nat → Nat → Word) : Warp :=
  (List.range n).foldl (fun w k => w.setLanes (d + k) (ls.map fun l => (l, f k l))) w

theorem setGroup_succ (w : Warp) (d n : Nat) (ls : List Nat) (f : Nat → Nat → Word) :
    w.setGroup d (n + 1) ls f = (w.setGroup d n ls f).setLanes (d + n) (ls.map fun l => (l, f n l)) := by
  rw [Warp.setGroup, List.range_succ, List.foldl_append]
  rfl

theorem regsOnly_setGroup (w : Warp) (d n : Nat) (ls : List Nat) (f : Nat → Nat → Word) : w.RegsOnly (w.setGroup d n ls f) := by
  induction n with
  | zero => exact .refl w
  | succ n ih =>
    rw [setGroup_succ]
    exact ih.trans (regsOnly_setLanes _ _ _)

theorem reg_setGroup (w : Warp) {ls : List Nat} (f : Nat → Nat → Word) {c d l n : Nat} (hd : d + n ≤ 96) (hl : l < 32)
    (hls : ∀ k ∈ ls, k < 32) (hn : ls.Nodup) :
    (w.setGroup d n ls f).reg c l = if (d ≤ c ∧ c < d + n) ∧ l ∈ ls then f (c - d) l else w.reg c l := by
  induction n with
  | zero => exact (if_neg (by omega)).symm
  | succ n ih =>
    rw [setGroup_succ, reg_setLanes ls (f n) _ (by omega) hl hls hn, ih (by omega)]
    by_cases hc : c = d + n
    · simp [hc]
    · have hiff : (d ≤ c ∧ c < d + n) ↔ d ≤ c ∧ c < d + (n + 1) := by omega
      simp [hc, hiff]

/-- What n registers from d on hold after a write in each lane of the split. -/
def inGroup (s : State) (d n : Nat) (f : Nat → Nat → Word) (c l : Nat) : Option Word :=
  if s.mask.getLsbD l = true then (if d ≤ c ∧ c < d + n then some (f (c - d) l) else none) else none

theorem results_setGroup (s : State) {d n : Nat} (f : Nat → Nat → Word) (hd : d + n ≤ 96) :
    Results s (s.setWarp (s.warp.setGroup d n s.lanes f)) (inGroup s d n f) := by
  refine results_of (regsOnly_setGroup ..) fun c l _ hl => ?_
  rw [reg_setGroup s.warp f hd hl (fun k (h : k ∈ s.lanes) => lanesOf_lt h) (lanesOf_nodup _)]
  unfold inGroup
  simp only [State.lanes, mem_lanesOf, hl, true_and]
  cases s.mask.getLsbD l
  · simp
  · simp only [and_true, if_true]
    split <;> rfl

/-! ### The fields of SIGNQ and TERNQ (R161, R166, R169) -/

theorem codeq_vec {o : VOps} (h : (WellFormed.codeq o).isNone = true) : o.d.toNat < 96 := cvtExt_vec_and h

theorem codeq_aligned {o : VOps} (h : (WellFormed.codeq o).isNone = true) (hout : vSub o / 4096 % 4 = 1) :
    o.d.toNat % 2 ^ (vSub o / 256 % 4) = 0 := by
  obtain ⟨-, e, hx, hok⟩ := cvtExt_fields h
  simp only [vSub, hx] at hout ⊢
  simpa [hout] using (Bool.and_eq_true_iff.mp hok).2

/-- A group of decoded values ends within the vector registers: 2^G divides their number and where the group begins. -/
theorem codeq_group {o : VOps} (h : (WellFormed.codeq o).isNone = true) (hout : vSub o / 4096 % 4 = 1) :
    o.d.toNat + 2 ^ (vSub o / 256 % 4) ≤ 96 := by
  have hd := codeq_vec h
  have halign := codeq_aligned h hout
  have hg : vSub o / 256 % 4 < 4 := Nat.mod_lt _ (by decide)
  generalize vSub o / 256 % 4 = g at halign hg ⊢
  match g, hg with
  | 0, _ | 1, _ | 2, _ | 3, _ => omega

/-! ### Results of SIGNQ and TERNQ (R166 to R169) -/

/-- The elements of the block; a lane outside the split takes part as +0. -/
def State.codeBlock (s : State) (o : VOps) : List Word :=
  (List.range (32 * 2 ^ (vSub o / 256 % 4))).map fun e =>
    if s.mask.getLsbD (e % 32) then s.warp.reg (o.a.toNat + e / 32) (e % 32) else 0#32

def State.coded (s : State) (o : VOps) (tern : Bool) : Coded :=
  if tern then ternCode (s.codeBlock o) else signCode (5 + vSub o / 256 % 4) (s.codeBlock o)

/-- The registers after a coding: the scale, the decoded values, or the code words. -/
def codedIn (s : State) (o : VOps) (r : Coded) (bits : Nat) : Nat → Nat → Option Word :=
  match vSub o / 4096 % 4 with
  | 0 => inLanes s o.d fun _ => BitVec.ofNat 32 r.s
  | 1 => inGroup s o.d.toNat (2 ^ (vSub o / 256 % 4)) fun k l => r.decs.getD (32 * k + l) 0#32
  | _ => inLanes s o.d fun l => BitVec.ofNat 32 (packCodes bits r.codes / 2 ^ (32 * l))

theorem codeGroup_eq (s : State) (o : VOps) (tern : Bool) : s.codeGroup o tern =
    match vSub o / 4096 % 4 with
    | 0 => s.perLane o.d fun _ _ => BitVec.ofNat 32 (s.coded o tern).s
    | 1 => s.setWarp (s.warp.setGroup o.d.toNat (2 ^ (vSub o / 256 % 4)) s.lanes fun k l =>
        (s.coded o tern).decs.getD (32 * k + l) 0#32)
    | _ => s.perLane o.d fun _ l => BitVec.ofNat 32 (packCodes (if tern then 2 else 1) (s.coded o tern).codes / 2 ^ (32 * l)) := rfl

theorem results_codeGroup {o : VOps} (h : (WellFormed.codeq o).isNone = true) (s : State) (tern : Bool) :
    Results s (s.codeGroup o tern) (codedIn s o (s.coded o tern) (if tern then 2 else 1)) := by
  rw [codeGroup_eq, codedIn]
  split
  case h_1 => exact results_perLane s o.d _ (codeq_vec h)
  case h_2 hout => exact results_setGroup s _ (codeq_group h hout)
  case h_3 => exact results_perLane s o.d _ (codeq_vec h)

theorem inLanes_lane (s : State) (d : BitVec 7) (v : Nat → Word) (c l : Nat) :
    inLanes s d v c l = if s.mask.getLsbD l = true then (if c = d.toNat then some (v l) else none) else none := by
  unfold inLanes
  cases s.mask.getLsbD l <;> simp

/-- The registers after a coding, as the statement gives them: lane by lane. -/
theorem codedIn_lane (s : State) (o : VOps) (r : Coded) (bits c l : Nat) :
    codedIn s o r bits c l = if s.mask.getLsbD l = true then
        (match vSub o / 4096 % 4 with
         | 0 => if c = o.d.toNat then some (BitVec.ofNat 32 r.s) else none
         | 1 => if o.d.toNat ≤ c ∧ c < o.d.toNat + 2 ^ (vSub o / 256 % 4) then
             some (r.decs.getD (32 * (c - o.d.toNat) + l) 0#32) else none
         | _ => if c = o.d.toNat then some (BitVec.ofNat 32 (packCodes bits r.codes / 2 ^ (32 * l))) else none)
      else none := by
  unfold codedIn
  generalize vSub o / 4096 % 4 = out
  match out with
  | 0 | _ + 2 => exact inLanes_lane ..
  | 1 => rfl

/-! ### Block scales (R165) -/

/-- The lanes of the split in a lane's block: all of them with one element per lane, else those of its half. -/
def blockLanes (m : Word) (ws l : Nat) : List Nat := (lanesOf m).filter fun k => ws == 32 || k / 16 == l / 16

theorem halfLanes_eq (m : Word) (ws l : Nat) :
    ((lanesOf m).filter fun k => (if ws = 32 then 0 else k / 16) == if ws = 32 then 0 else l / 16) = blockLanes m ws l :=
  List.filter_congr fun k _ => by by_cases h : ws = 32 <;> simp [h]

/-- The values of a lane's elements. -/
def qscaleVal (o : VOps) (w : Warp) (l j : Nat) : FVal :=
  decodeE (cvtSrc o) (elemN (WellFormed.fmtWidth (cvtSrc o)) (w.reg o.a.toNat l) j)

/-- The scale of a lane's block. -/
def qscaleX (o : VOps) (m : Word) (w : Warp) (l : Nat) : Nat :=
  let ws := WellFormed.fmtWidth (cvtSrc o)
  blockScale (cvtDst o) ((blockLanes m ws l).flatMap fun k => (List.range (32 / ws)).map (qscaleVal o w k))

/-- A lane's element coded under its block's scale. -/
def qscaleElem (o : VOps) (m : Word) (w : Warp) (l : Nat) : Nat → Nat :=
  roundLane m (cvtDst o) (vRnd o) (vSat o) false (vSeed o) (fun k j => scaled (cvtDst o) (qscaleX o m w l) (qscaleVal o w k j)) l

theorem qscaleElem_lt (o : VOps) (m : Word) (w : Warp) (l j : Nat) : qscaleElem o m w l j < 2 ^ WellFormed.fmtWidth (cvtDst o) :=
  roundLane_lt ..

/-- A lane's codes, none of them under the scale of a NaN. -/
def qscaleCodes (o : VOps) (m : Word) (w : Warp) (l : Nat) : Word :=
  if qscaleX o m w l = 0xFF then 0#32
  else ofElems (WellFormed.fmtWidth (cvtDst o)) ((List.range (cvtCount (cvtSrc o) (cvtDst o))).map (qscaleElem o m w l))

theorem exec_qscale (o : VOps) (s : State) : exec (.qscale o) s = s.gated (.qscale o) fun s => s.perLane o.d fun w l =>
    if cvtTop o = 0 then BitVec.ofNat 32 (qscaleX o s.mask w l) else qscaleCodes o s.mask w l := by
  change execQscale o s = _
  unfold execQscale
  simp only [halfLanes_eq]
  rfl

theorem elemN_zero (w k : Nat) : elemN w 0#32 k = 0 := by simp [elemN]

theorem elemN_qscaleCodes (o : VOps) (m : Word) (w : Warp) (l k : Nat) :
    elemN (WellFormed.fmtWidth (cvtDst o)) (qscaleCodes o m w l) k
      = if qscaleX o m w l = 0xFF ∨ cvtCount (cvtSrc o) (cvtDst o) ≤ k then 0 else qscaleElem o m w l k := by
  unfold qscaleCodes
  by_cases hX : qscaleX o m w l = 0xFF
  · rw [if_pos hX, if_pos (.inl hX), elemN_zero]
  · rw [if_neg hX, elemN_ofElems_range (fmtWidth_pos _) (cvtCount_le _ _) (qscaleElem_lt o m w l)]
    by_cases hk : k < cvtCount (cvtSrc o) (cvtDst o)
    · rw [if_pos hk, if_neg (by omega)]
    · rw [if_neg hk, if_pos (by omega)]

/-- Settles O35: a scale is a value per lane, codes are elements under it, and a coding writes its scale, its group or its words. -/
theorem blockCodes : Obligations.BlockCodes := by
  intro o s m w src dst ws wd val block X g out xs coded
  refine ⟨fun htop => ?scale, fun htop => ?codes, ?signq, ?ternq⟩
  case scale =>
    refine computes_of _ (exec_qscale o s) fun hw => (results_perLane s o.d _ (cvtExt_vec_and hw)).congr (inLanes_congr fun l _ => ?_)
    exact if_pos htop
  case codes =>
    refine computesElems_of _ (qscaleCodes o m w) (exec_qscale o s) (fun hw => ?_) fun _ l k _ => elemN_qscaleCodes o m w l k
    exact (results_perLane s o.d _ (cvtExt_vec_and hw)).congr (inLanes_congr fun l _ => if_neg htop)
  case signq =>
    exact computes_of _ (show execSignq o s = _ from rfl) fun hw => (results_codeGroup hw s false).congr (codedIn_lane s o _ _)
  case ternq =>
    exact computes_of _ (show execTernq o s = _ from rfl) fun hw => (results_codeGroup hw s true).congr (codedIn_lane s o _ _)

end Sys2Proof.Machine

/-! An HGA's reductions are translated later than the statement has it (spec/08_memory_isa.md R195, spec/15_memory_model.md R327). -/

namespace Sys2Proof.Machine

open Sys2Proof

/-- A region of one dimension and one level, whose one entry, at address 0, has two features of four bytes. -/
def splitRegion : Region :=
  { d := 1, l := 1, f := 2, pfmt := 0, exact_ := false, shift := 0, pbase := 0, gbase := 0, nres := [1], tlog := [0] }
/-- Its descriptor, as one number. -/
def splitRegionBlock : Nat := 1 + 2 ^ 8 * 1 + 2 ^ 16 * 2 + 2 ^ (8 * 0x20) * 1

/-- The HGA of v1 and v2 at the coordinate in v4, in the region that s0 and s1 name. -/
def splitHga : VOps := ⟨1, 4, 96, 0, none⟩

/-- A core that issues for one lane; its TLB holds the descriptor at 0x100, and of the entry the first feature alone. -/
def splitCore : Core :=
  { warps := [(0, { run := some { mask := 1#32, addr := 0, slot := 0, words := [] }, s := [(0, 0x100#32)] })]
    tlb := [⟨0, 0, 4, 0, 7⟩, ⟨0, 0x100, 0x100, 0x100, 7⟩] }
/-- A second listing of a core, behind the first: it owns the word at 0x10000 with a lasting error. -/
def shadowedCore : Core := { owned := [0x4000], l1Bad := [0x4000] }

/-- The descriptor at 0x100, and a page table of two levels, at 0 and 0x10000, that maps every low address to itself. A walk reads
the word at 0x10000, so it fails while the second listing of core 0 stands. -/
def splitGrid : State :=
  { State.reset with
    cores := [(0, splitCore), (0, shadowedCore)]
    mem := [(2, 1#8), (7, 0x80#8), (0x100, 1#8), (0x101, 1#8), (0x102, 2#8), (0x120, 1#8), (0x10007, 0xF8#8)] }

theorem eq_ok_of_toOption {ε α : Type} {x : Except ε α} {a : α} (h : x.toOption = some a) : x = .ok a := by
  cases x with
  | error e => cases h
  | ok b => exact congrArg _ (Option.some.inj h)

theorem readBlock16_splitGrid : splitGrid.readBlock16 splitGrid.lowest 0x100 16 = .ok splitRegionBlock :=
  eq_ok_of_toOption (by decide +kernel)

theorem hgLane_splitGrid (l : Nat) (hl : l ∈ splitGrid.lanes) :
    splitGrid.hgLane splitRegion .wr 4 l (fun e => splitRegion.gbase + splitRegion.gsize * (splitRegion.f * e))
      (splitRegion.gsize * splitRegion.f) = none := by
  have hlanes : splitGrid.lanes = [0] := by decide +kernel
  obtain rfl : l = 0 := by simpa [hlanes] using hl
  decide +kernel

/-- In the state as it stands, the second feature's address has no translation. -/
theorem reach_splitGrid : splitGrid.reach .wr 4 .misaligned false 4 = .error .translation := rfl

/-- The HGA makes a reduction there: the command's entry has rewritten the table of cores by then, and the walk succeeds. -/
theorem hga_splitGrid :
    (match exec (.hga splitHga) splitGrid with | .next t => t.warp.ops.any (·.va == 4) | _ => false) = true := by
  decide +kernel

theorem OnlyReads.warp_eq {s t : State} (h : OnlyReads s t) : t.warp = s.warp := by
  obtain ⟨hstate, -, -, hcore, -⟩ := h
  have hcur : t.cur = s.cur := by rw [hstate]
  rw [State.warp, State.warpAt, hcur, hcore]
  rfl

/-- Refutes O48: its clause for HGA translates each reduction's address in the state before the instruction, while the model
translates it after the command has been entered and numbered. The two differ where a walk changes between, and the checks of the
lanes do not rule that out: they cover the address of each entry, and not that of each feature. In `splitGrid` the TLB has the
entry's first four bytes alone, and core 0 is listed twice: the second listing fails the walk, and the command's entry removes it.
A page-table word that a switch slice owns is the other case: it reads as a free value that goes by the number of the next
operation (`State.homeByte`), which the command's own number changes. What the clause lacks is that the state in which `p.pa` is
found is the one after the command's entry, or a premise that leaves no such word and no core listed twice. -/
theorem not_packedVectorsAndHashGrid : ¬ Obligations.PackedVectorsAndHashGrid := by
  intro h
  obtain ⟨-, -, -, hgrid, -⟩ := h
  obtain ⟨-, hhga⟩ := hgrid splitHga splitGrid splitRegionBlock splitRegion (by decide) readBlock16_splitGrid (by decide +kernel)
    (by decide) (by decide)
  obtain ⟨t, hexec, u, y, os, hreads, hqueue, -, -, -, -, hops⟩ :=
    hhga (by decide) (by decide) (by decide) (by decide) hgLane_splitGrid (by decide) ((gate_none _ _).mp (by decide))
  obtain ⟨-, hwarp, -, -⟩ := hqueue
  have hos : t.warp.ops = os := by
    rw [hwarp, hreads.warp_eq]
    rfl
  have hany : t.warp.ops.any (·.va == 4) = true := by simpa only [hexec] using hga_splitGrid
  rw [hos] at hany
  obtain ⟨p, hp, hva⟩ := List.any_eq_true.mp hany
  obtain ⟨-, -, -, -, -, hreach⟩ := hops p hp
  rw [eq_of_beq hva] at hreach
  exact absurd (reach_splitGrid.symm.trans hreach) nofun

end Sys2Proof.Machine

/-! Accesses of the lanes of a split (spec/08_memory_isa.md R171, R175, R177, R178, R181, R182; spec/12_divergence.md R268). -/

namespace Sys2Proof.Machine

open Sys2Proof

/-! ### What the steps of an access leave alone -/

/-- Nothing differs but the acting warp, its core's fragments and counted events, the next number, and the walks with the events
that count them. -/
def State.AccessFrame (s t : State) : Prop :=
  t = { s with cores := t.cores, nextId := t.nextId, walks := t.walks, dies := t.dies } ∧ DieCounts s t
  ∧ (∀ c, c ≠ s.cur.core → t.core c = s.core c) ∧ (∀ w, w ≠ s.cur.slot → t.warpAt s.cur.core w = s.warpAt s.cur.core w)
  ∧ ∃ k, t.core s.cur.core = { s.core s.cur.core with
      warps := (t.core s.cur.core).warps, frags := (t.core s.cur.core).frags, csr := k }

theorem State.AccessFrame.cur_eq {s t : State} (h : s.AccessFrame t) : t.cur = s.cur := by rw [h.1]

theorem State.AccessFrame.refl (s : State) : s.AccessFrame s :=
  ⟨rfl, .refl s, fun _ _ => rfl, fun _ _ => rfl, _, rfl⟩

theorem State.AccessFrame.trans {s t u : State} (h : s.AccessFrame t) (g : t.AccessFrame u) : s.AccessFrame u := by
  have hcur := h.cur_eq
  obtain ⟨hs, hdies, hcores, hwarps, k, hcore⟩ := h
  obtain ⟨gs, gdies, gcores, gwarps, j, gcore⟩ := g
  rw [hcur] at gcores gwarps gcore
  exact ⟨by rw [gs, hs], hdies.trans gdies, fun c hc => (gcores c hc).trans (hcores c hc),
    fun w hw => (gwarps w hw).trans (hwarps w hw), j, by rw [gcore, hcore]⟩

/-- A change of the acting core's warps, fragments and counted events, in which no other warp of it differs. -/
theorem accessFrame_setCore {s : State} {k : Core} {csr : FMap Word}
    (hk : k = { s.core s.cur.core with warps := k.warps, frags := k.frags, csr := csr })
    (hwarps : ∀ w, w ≠ s.cur.slot → k.warp w = s.warpAt s.cur.core w) : s.AccessFrame (s.setCore s.cur.core k) :=
  ⟨rfl, .refl s, fun _ hc => core_setCore_ne s k hc, fun w hw => by rw [State.warpAt, core_setCore, hwarps w hw],
    csr, by rw [core_setCore]; exact hk⟩

theorem accessFrame_updWarp (s : State) (f : Warp → Warp) : s.AccessFrame (s.updWarp f) :=
  accessFrame_setCore rfl fun _ hw => warp_setWarp_ne _ _ hw

/-! ### The walks that accesses start (R327) -/

/-- Nothing differs but the walks, and the events that count them. -/
def State.OnlyWalks (s t : State) : Prop := t = { s with walks := t.walks, dies := t.dies } ∧ DieCounts s t

theorem State.OnlyWalks.refl (s : State) : s.OnlyWalks s := ⟨rfl, .refl s⟩
theorem State.OnlyWalks.trans {s t u : State} (h : s.OnlyWalks t) (g : t.OnlyWalks u) : s.OnlyWalks u :=
  ⟨by rw [g.1, h.1], h.2.trans g.2⟩

theorem State.OnlyWalks.cores_eq {s t : State} (h : s.OnlyWalks t) : t.cores = s.cores := by rw [h.1]
theorem State.OnlyWalks.cur_eq {s t : State} (h : s.OnlyWalks t) : t.cur = s.cur := by rw [h.1]
theorem State.OnlyWalks.core_eq {s t : State} (h : s.OnlyWalks t) (c : Nat) : t.core c = s.core c := by rw [State.core, h.cores_eq]; rfl
theorem State.OnlyWalks.warp_eq {s t : State} (h : s.OnlyWalks t) : t.warp = s.warp := by
  rw [State.warp, State.warpAt, h.core_eq, h.cur_eq]
  rfl
theorem State.OnlyWalks.mask_eq {s t : State} (h : s.OnlyWalks t) : t.mask = s.mask := by rw [State.mask, h.warp_eq]; rfl
theorem State.OnlyWalks.here_eq {s t : State} (h : s.OnlyWalks t) : t.here = s.here := by rw [State.here, h.warp_eq]; rfl

theorem State.OnlyWalks.accessFrame {s t : State} (h : s.OnlyWalks t) : s.AccessFrame t :=
  ⟨by rw [h.1], h.2, fun c _ => h.core_eq c, fun w _ => by rw [State.warpAt, h.core_eq]; rfl, _, by rw [h.core_eq]⟩

theorem onlyWalks_countDie (s : State) (d code tenant n : Nat) : s.OnlyWalks (s.countDie d code tenant n) := by
  unfold State.countDie
  split
  · exact .refl s
  · refine ⟨rfl, fun e => ?_⟩
    by_cases h : e = d
    · subst h
      rw [die_updDie]
    · simp [State.die, State.updDie, fget_fset_ne, h]

theorem onlyWalks_noteWalk (s : State) (core tenant va : Nat) : s.OnlyWalks (s.noteWalk core tenant va) := by
  unfold State.noteWalk
  split
  · exact State.OnlyWalks.trans ⟨rfl, .refl s⟩ (onlyWalks_countDie _ _ _ _ _)
  · exact .refl s

theorem onlyWalks_touch (s : State) (va : Nat) : s.OnlyWalks (s.touch va) := by
  unfold State.touch
  split
  · dsimp only
    split
    · exact onlyWalks_noteWalk ..
    · exact .refl s
  · exact onlyWalks_noteWalk ..

theorem onlyWalks_foldl_touch (va : Nat → Nat) (ls : List Nat) (s : State) : s.OnlyWalks (ls.foldl (fun s l => s.touch (va l)) s) := by
  induction ls generalizing s with
  | nil => exact .refl s
  | cons l ls ih => exact (onlyWalks_touch s (va l)).trans (ih _)

/-! ### Counted events of a core (spec/28_system.md R465) -/

theorem count_csr (k : Core) (code tenant n : Nat) : ∃ m, k.count code tenant n = { k with csr := m } := by
  have hfold (f : Core → Nat → Core) (hf : ∀ k i, ∃ m, f k i = { k with csr := m }) (is : List Nat) (k : Core) :
      ∃ m, is.foldl f k = { k with csr := m } := by
    induction is generalizing k with
    | nil => exact ⟨k.csr, rfl⟩
    | cons i is ih =>
      obtain ⟨m, hm⟩ := hf k i
      obtain ⟨m', hm'⟩ := ih { k with csr := m }
      exact ⟨m', by rw [List.foldl_cons, hm, hm']⟩
  unfold Core.count
  split
  · exact ⟨k.csr, rfl⟩
  · refine hfold _ (fun k i => ?_) _ k
    dsimp only
    split
    · exact ⟨k.csr, rfl⟩
    · split <;> exact ⟨_, rfl⟩

/-! ### Lanes that fault park under one fragment-table entry (R268) -/

/-- A thread that has parked with a cause and an address. -/
def Thread.parkedAt (t : Thread) (core slot idx addr pslot : Nat) (c : Cause) (a : Nat) : Thread :=
  { t with st := .parked, cause := some c, faddr := a, findex := idx, addr := addr, slot := pslot, wait := .none, pend := none,
           pendIss := 0, frag := fragId core slot idx }

theorem thread_updThread_ne (w : Warp) {l j : Nat} (f : Thread → Thread) (h : j ≠ l) : (w.updThread l f).thread j = w.thread j :=
  thread_setThread_ne w _ h

section
variable (core slot idx addr pslot : Nat)

theorem parkLanes_cons (w : Warp) (f : LaneFault) (fs : List LaneFault) : w.parkLanes core slot idx addr pslot (f :: fs)
    = (w.updThread f.1 (·.parkedAt core slot idx addr pslot f.2.1 f.2.2)).parkLanes core slot idx addr pslot fs := rfl

theorem parkLanes_threads (fs : List LaneFault) (w : Warp) :
    w.parkLanes core slot idx addr pslot fs = { w with th := (w.parkLanes core slot idx addr pslot fs).th } := by
  induction fs generalizing w with
  | nil => rfl
  | cons f fs ih =>
    rw [parkLanes_cons]
    exact ih _

theorem thread_parkLanes_of_notMem {fs : List LaneFault} {l : Nat} (h : l ∉ fs.map (·.1)) (w : Warp) :
    (w.parkLanes core slot idx addr pslot fs).thread l = w.thread l := by
  induction fs generalizing w with
  | nil => rfl
  | cons f fs ih =>
    rw [List.map_cons, List.mem_cons, not_or] at h
    rw [parkLanes_cons, ih h.2, thread_updThread_ne _ _ h.1]

theorem thread_parkLanes_of_mem {fs : List LaneFault} {l a : Nat} {c : Cause} (hfs : (fs.map (·.1)).Nodup) (h : (l, c, a) ∈ fs)
    (w : Warp) : (w.parkLanes core slot idx addr pslot fs).thread l = (w.thread l).parkedAt core slot idx addr pslot c a := by
  induction fs generalizing w with
  | nil => exact absurd h List.not_mem_nil
  | cons f fs ih =>
    obtain ⟨hf, hfs⟩ := List.nodup_cons.mp hfs
    rw [parkLanes_cons]
    rcases List.mem_cons.mp h with rfl | h
    · rw [thread_parkLanes_of_notMem _ _ _ _ _ hf, thread_updThread]
    · have hne : l ≠ f.1 := by
        rintro rfl
        exact hf (List.mem_map_of_mem (f := (·.1)) h)
      rw [ih hfs h, thread_updThread_ne _ _ hne]

end

/-- Some lanes have parked at the position of the instruction, each with its cause and address, under the entry that was the
lowest free one, and have left the split. -/
def State.Parked (s t : State) (fs : List LaneFault) : Prop :=
  s.AccessFrame t
  ∧ t.warp = { s.warp with th := t.warp.th, run := s.warp.run.map fun r => { r with mask := t.mask } }
  ∧ (∀ l, l < 32 → t.mask.getLsbD l = (s.mask.getLsbD l && !decide (l ∈ fs.map (·.1))))
  ∧ (∀ l, l ∉ fs.map (·.1) → t.warp.thread l = s.warp.thread l)
  ∧ ∀ l c a, (l, c, a) ∈ fs → ∃ i, (s.core s.cur.core).freeFrag = some i
      ∧ t.warp.thread l = (s.warp.thread l).parkedAt s.cur.core s.cur.slot i s.here.1 s.here.2 c a

theorem run_mask_self (s : State) : s.warp.run.map (fun r => { r with mask := s.mask }) = s.warp.run := by
  unfold State.mask
  cases s.warp.run <;> rfl

theorem parked_nil (s : State) : s.Parked s [] :=
  ⟨.refl s, by rw [run_mask_self], by simp, fun _ _ => rfl, by simp⟩

/-- The acting core with an entry for lanes of its warp, and these lanes parked under it. -/
def State.entered (s : State) (i : Nat) (fs : List LaneFault) : Core :=
  let k := s.core s.cur.core
  let e : Frag := { valid := true, pend := true, gen := ((fget ({} : Frag) k.frags i).gen + 1) % 1024, tenant := s.warp.tenant,
                    slot := s.cur.slot, mask := maskOf (fs.map (·.1)), addr := s.here.1, pslot := s.here.2 }
  ({ k with frags := fset k.frags i e } : Core).setWarp s.cur.slot
    (s.warp.parkLanes s.cur.core s.cur.slot i s.here.1 s.here.2 fs)

/-- A warp whose split some lanes have left. -/
def Warp.without (w : Warp) (m : Word) : Warp := { w with run := w.run.map fun r => { r with mask := r.mask &&& ~~~m } }

/-- The state in which lanes of a tenant warp have parked under entry i. -/
def State.parkUnder (s : State) (i : Nat) (fs : List LaneFault) : State :=
  ((s.setCore s.cur.core (s.entered i fs)).countCore s.cur.core 6 s.warp.tenant 1).updWarp (·.without (maskOf (fs.map (·.1))))

theorem takeFaults_tenant {s : State} {i : Nat} {fs : List LaneFault} (hfs : fs ≠ []) (hslot : s.cur.slot ≠ 64)
    (hmode : s.warp.mode = .tenant) (hfree : (s.core s.cur.core).freeFrag = some i) :
    s.takeFaults s.here.1 s.here.2 fs = (s.parkUnder i fs, true) := by
  cases fs with
  | nil => exact absurd rfl hfs
  | cons f fs =>
    simp only [State.takeFaults, if_neg hslot, hmode, ne_eq, not_true_eq_false, if_false, State.fragment, hfree]
    rfl

theorem warp_countCore (s : State) (code tenant n : Nat) : (s.countCore s.cur.core code tenant n).warp = s.warp := by
  obtain ⟨m, hm⟩ := count_csr (s.core s.cur.core) code tenant n
  rw [State.warp, State.warpAt, countCore_cur, State.countCore, core_updCore, hm]
  rfl

theorem warp_entered (s : State) (i : Nat) (fs : List LaneFault) : (s.setCore s.cur.core (s.entered i fs)).warp
    = s.warp.parkLanes s.cur.core s.cur.slot i s.here.1 s.here.2 fs := by
  rw [State.warp, State.warpAt, setCore_cur, core_setCore]
  exact warp_setWarp _ _ _

theorem warp_parkUnder (s : State) (i : Nat) (fs : List LaneFault) : (s.parkUnder i fs).warp =
    (s.warp.parkLanes s.cur.core s.cur.slot i s.here.1 s.here.2 fs).without (maskOf (fs.map (·.1))) := by
  rw [State.parkUnder, warp_updWarp, ← warp_entered]
  exact congrArg (Warp.without · _) (warp_countCore (s.setCore s.cur.core (s.entered i fs)) 6 s.warp.tenant 1)

theorem accessFrame_countCore (s : State) (code tenant n : Nat) : s.AccessFrame (s.countCore s.cur.core code tenant n) := by
  obtain ⟨m, hm⟩ := count_csr (s.core s.cur.core) code tenant n
  rw [State.countCore, State.updCore, hm]
  exact accessFrame_setCore rfl fun _ _ => rfl

theorem accessFrame_parkUnder (s : State) (i : Nat) (fs : List LaneFault) : s.AccessFrame (s.parkUnder i fs) :=
  have hentered : s.AccessFrame (s.setCore s.cur.core (s.entered i fs)) :=
    accessFrame_setCore (csr := (s.core s.cur.core).csr) rfl fun _ hw => warp_setWarp_ne _ _ hw
  (hentered.trans (accessFrame_countCore _ 6 s.warp.tenant 1)).trans (accessFrame_updWarp _ _)

theorem run_parkUnder (s : State) (i : Nat) (fs : List LaneFault) :
    (s.parkUnder i fs).warp.run = s.warp.run.map fun r => { r with mask := r.mask &&& ~~~(maskOf (fs.map (·.1))) } := by
  rw [warp_parkUnder, parkLanes_threads]
  rfl

theorem mask_parkUnder (s : State) (i : Nat) (fs : List LaneFault) :
    (s.parkUnder i fs).mask = s.mask &&& ~~~(maskOf (fs.map (·.1))) := by
  rw [State.mask, run_parkUnder, State.mask]
  cases s.warp.run with
  | none => simp
  | some r => rfl

theorem parked_parkUnder {s : State} {i : Nat} {fs : List LaneFault} (hfree : (s.core s.cur.core).freeFrag = some i)
    (hnodup : (fs.map (·.1)).Nodup) : s.Parked (s.parkUnder i fs) fs := by
  refine ⟨accessFrame_parkUnder s i fs, ?_, fun l hl => ?_, fun l hl => ?_, fun l c a hf => ⟨i, hfree, ?_⟩⟩
  · have hrun : (s.parkUnder i fs).warp.run = s.warp.run.map fun r => { r with mask := (s.parkUnder i fs).mask } := by
      rw [run_parkUnder, mask_parkUnder, State.mask]
      cases s.warp.run <;> rfl
    rw [← hrun, warp_parkUnder, parkLanes_threads]
    rfl
  · rw [mask_parkUnder, BitVec.getLsbD_and, BitVec.getLsbD_not, getLsbD_maskOf]
    simp [hl]
  · rw [warp_parkUnder]
    exact thread_parkLanes_of_notMem _ _ _ _ _ hl _
  · rw [warp_parkUnder]
    exact thread_parkLanes_of_mem _ _ _ _ _ hnodup hf _

/-- Where the lanes that fault can be parked, the effect acts once they are. -/
theorem withFaults_parked {s : State} {fs : List LaneFault} (f : State → State) (hnodup : (fs.map (·.1)).Nodup)
    (hpark : fs = [] ∨ s.cur.slot ≠ 64 ∧ s.warp.mode = .tenant ∧ (s.core s.cur.core).freeFrag ≠ none) :
    ∃ t, s.withFaults fs f = f t ∧ s.Parked t fs := by
  by_cases hfs : fs = []
  · subst hfs
    exact ⟨s, rfl, parked_nil s⟩
  · obtain ⟨hslot, hmode, hsome⟩ := hpark.resolve_left hfs
    obtain ⟨i, hfree⟩ := Option.ne_none_iff_exists'.mp hsome
    exact ⟨s.parkUnder i fs, by rw [State.withFaults, takeFaults_tenant hfs hslot hmode hfree], parked_parkUnder hfree hnodup⟩

/-! ### The operations that lanes add -/

theorem accessFrame_addOp (s : State) (o : Op) : s.AccessFrame (s.addOp o) :=
  have hid : s.AccessFrame { s with nextId := s.nextId + 1 } := ⟨rfl, .refl s, fun _ _ => rfl, fun _ _ => rfl, _, rfl⟩
  hid.trans (accessFrame_updWarp { s with nextId := s.nextId + 1 } fun w => { w with ops := w.ops ++ [{ o with id := s.nextId }] })

/-- Each lane of a list whose access passes adds its operation. -/
theorem foldl_addOp_spec {acc : Nat → Except Cause Nat} {op : Nat → Nat → Op} (hlane : ∀ l pa, (op l pa).lane = l)
    (ls : List Nat) (s : State) :
    let t := ls.foldl (fun s l => match acc l with | .ok pa => s.addOp (op l pa) | .error _ => s) s
    s.AccessFrame t ∧ t.warp = { s.warp with ops := t.warp.ops }
      ∧ ∃ os, t.warp.ops = s.warp.ops ++ os ∧ os.map (·.lane) = ls.filter (fun l => (acc l).isOk)
        ∧ ∀ o ∈ os, ∃ pa, acc o.lane = .ok pa ∧ o = { op o.lane pa with id := o.id } := by
  induction ls generalizing s with
  | nil => exact ⟨.refl s, rfl, [], by simp⟩
  | cons l ls ih =>
    rw [List.foldl_cons]
    cases hl : acc l with
    | error c =>
      have hfilter : (l :: ls).filter (fun l => (acc l).isOk) = ls.filter fun l => (acc l).isOk := by simp [hl, Except.isOk, Except.toBool]
      rw [hfilter]
      exact ih s
    | ok pa =>
      have hfilter : (l :: ls).filter (fun l => (acc l).isOk) = l :: ls.filter fun l => (acc l).isOk := by
        simp [hl, Except.isOk, Except.toBool]
      obtain ⟨hframe, hwarp, os, hops, hlanes, hshape⟩ := ih (s.addOp (op l pa))
      have hadd := (addOp_spec s (op l pa)).2
      rw [hadd] at hwarp hops
      refine ⟨(accessFrame_addOp s _).trans hframe, hwarp, { op l pa with id := s.nextId } :: os, by simpa using hops, ?_, ?_⟩
      · rw [hfilter, List.map_cons, hlanes, hlane]
      · intro o ho
        rcases List.mem_cons.mp ho with rfl | ho
        · exact ⟨pa, (congrArg acc (hlane l pa)).trans hl, by rw [show (op l pa).lane = l from hlane l pa]⟩
        · exact hshape o ho

/-! ### The accesses of a split (R171) -/

/-- The lanes of a split whose access fails, with their causes and addresses. -/
def State.accessFaults (s : State) (va : Nat → Nat) (acc : Nat → Except Cause Nat) : List LaneFault :=
  s.lanes.filterMap fun l => match acc l with | .ok _ => none | .error c => some (l, c, va l)

section
variable {s : State} {va : Nat → Nat} {acc : Nat → Except Cause Nat}

theorem mem_accessFaults {l a : Nat} {c : Cause} : (l, c, a) ∈ s.accessFaults va acc ↔ l ∈ s.lanes ∧ acc l = .error c ∧ a = va l := by
  rw [State.accessFaults, List.mem_filterMap]
  constructor
  · rintro ⟨k, hk, he⟩
    cases hacc : acc k with
    | ok pa => simp [hacc] at he
    | error e =>
      simp only [hacc, Option.some.injEq, Prod.mk.injEq] at he
      obtain ⟨rfl, rfl, rfl⟩ := he
      exact ⟨hk, hacc, rfl⟩
  · rintro ⟨hl, hacc, rfl⟩
    exact ⟨l, hl, by rw [hacc]⟩

theorem accessFaults_lanes (s : State) (va : Nat → Nat) (acc : Nat → Except Cause Nat) :
    (s.accessFaults va acc).map (·.1) = s.lanes.filter fun l => !(acc l).isOk := by
  unfold State.accessFaults
  induction s.lanes with
  | nil => rfl
  | cons l ls ih => cases h : acc l <;> simp [h, ih, Except.isOk, Except.toBool]

theorem nodup_accessFaults : ((s.accessFaults va acc).map (·.1)).Nodup := by
  rw [accessFaults_lanes]
  exact (lanesOf_nodup s.mask).filter _

theorem mem_accessFaults_lanes {l : Nat} : l ∈ (s.accessFaults va acc).map (·.1) ↔ l ∈ s.lanes ∧ (acc l).isOk = false := by
  rw [accessFaults_lanes, List.mem_filter, Bool.not_eq_true']

end

/-- The lanes that stay in the split are those whose access passes. -/
theorem filter_lanes_parked {s t : State} {va : Nat → Nat} {acc : Nat → Except Cause Nat}
    (hmask : ∀ l, l < 32 → t.mask.getLsbD l = (s.mask.getLsbD l && !decide (l ∈ (s.accessFaults va acc).map (·.1)))) :
    t.lanes.filter (fun l => (acc l).isOk) = s.lanes.filter fun l => (acc l).isOk := by
  rw [State.lanes, State.lanes, lanesOf, lanesOf, List.filter_filter, List.filter_filter]
  refine List.filter_congr fun l hl => ?_
  rw [hmask l (List.mem_range.mp hl)]
  cases hok : (acc l).isOk <;> simp [mem_accessFaults_lanes, hok]

/-- Lane by lane, each access that passes its checks adds its operation, and the lanes of the others park. -/
theorem accesses_eachLane {s : State} {va : Nat → Nat} {acc : Nat → Except Cause Nat} {op : Nat → Nat → Op}
    (hlane : ∀ l pa, (op l pa).lane = l) (hpark : s.canPark fun l => (acc l).isOk) :
    Accesses s (s.eachLane va acc fun s l pa => s.addOp (op l pa)) acc va op := by
  obtain ⟨u, hu⟩ : ∃ u, s.lanes.foldl (fun s l => s.touch (va l)) s = u := ⟨_, rfl⟩
  have hwalks : s.OnlyWalks u := hu ▸ onlyWalks_foldl_touch va s.lanes s
  have hplace : s.accessFaults va acc = [] ∨ u.cur.slot ≠ 64 ∧ u.warp.mode = .tenant ∧ (u.core u.cur.core).freeFrag ≠ none := by
    rw [hwalks.warp_eq, hwalks.core_eq, hwalks.cur_eq]
    refine hpark.imp_left fun hok => ?_
    rw [← List.map_eq_nil_iff (f := (·.1)), accessFaults_lanes, List.filter_eq_nil_iff]
    exact fun l hl => by simp [hok l hl]
  obtain ⟨v, hv, hframe, hwarp, hmask, hstay, hgone⟩ := withFaults_parked
    (fun s => s.lanes.foldl (fun s l => match acc l with | .ok pa => s.addOp (op l pa) | .error _ => s) s)
    (nodup_accessFaults (s := s) (va := va) (acc := acc)) hplace
  have heach : s.eachLane va acc (fun s l pa => s.addOp (op l pa))
      = v.lanes.foldl (fun s l => match acc l with | .ok pa => s.addOp (op l pa) | .error _ => s) v := by
    rw [← hv, ← hu]
    rfl
  rw [heach]
  obtain ⟨hadd, haddWarp, os, hops, hlanes, hshape⟩ := foldl_addOp_spec (acc := acc) hlane v.lanes v
  generalize v.lanes.foldl _ v = t at hadd haddWarp hops ⊢
  rw [hwalks.mask_eq] at hmask
  rw [hwalks.warp_eq] at hwarp hstay
  simp only [hwalks.warp_eq, hwalks.core_eq, hwalks.cur_eq, hwalks.here_eq] at hgone
  have htmask : t.mask = v.mask := by rw [State.mask, haddWarp]; rfl
  have hthread (l : Nat) : t.warp.thread l = v.warp.thread l := by rw [haddWarp]; rfl
  obtain ⟨hstate, hdies, hcores, hwarps, hcore⟩ := (hwalks.accessFrame.trans hframe).trans hadd
  refine ⟨fun a => by rw [hstate], hstate, hdies, hcores, hwarps, hcore, ?_, ⟨os, ?_, ?_, hshape⟩, fun l hl => ⟨?_, ?_⟩⟩
  · rw [htmask, haddWarp, hwarp]
  · rw [hops, hwarp]
  · rw [hlanes, filter_lanes_parked hmask]
  · rintro ⟨hin, hbad⟩
    obtain ⟨c, hc⟩ : ∃ c, acc l = .error c := by
      cases h : acc l with
      | error c => exact ⟨c, rfl⟩
      | ok pa => simp [h, Except.isOk, Except.toBool] at hbad
    have hl' : l ∈ s.lanes := mem_lanesOf.mpr ⟨hl, hin⟩
    obtain ⟨i, hfree, hparked⟩ := hgone l c (va l) (mem_accessFaults.mpr ⟨hl', hc, rfl⟩)
    refine ⟨i, c, hfree, hc, ?_, (hthread l).trans hparked⟩
    rw [htmask, hmask l hl]
    simp [mem_accessFaults_lanes, hl', hbad]
  · intro hkeep
    have hnot : l ∉ (s.accessFaults va acc).map (·.1) := by
      rw [mem_accessFaults_lanes, State.lanes, mem_lanesOf]
      rcases hkeep with h | h <;> simp [h]
    refine ⟨(hthread l).trans (hstay l hnot), ?_⟩
    rw [htmask, hmask l hl]
    simp [hnot]

/-- An instruction whose effect is the accesses of its lanes. -/
theorem reaches_accesses {i : Instr} {s : State} {f : State → State} {va : Nat → Nat} {acc : Nat → Except Cause Nat}
    {op : Nat → Nat → Op} (hexec : exec i s = s.gated i f)
    (heffect : f s = s.eachLane va acc fun s l pa => s.addOp (op l pa)) (hlane : ∀ l pa, (op l pa).lane = l)
    (hpark : s.canPark fun l => (acc l).isOk) : Reaches i s fun t => Accesses s t acc va op :=
  reaches_of (fun hR => by rw [hexec, gated_runs hR, heffect]) (accesses_eachLane hlane hpark)

/-- LDF, where no thread has four of them waiting. -/
theorem exec_ldf {o : MOps} {s : State}
    (hroom : ∀ l ∈ s.lanes, (s.warp.ops.filter fun x => x.kind == .ldf && !x.done && x.lane == l).length < 4) (hR : Runs (.ldf o) s) :
    exec (.ldf o) s = .next (s.eachLane (s.warp.ea o (szBytes o.sz.toNat))
      (fun l => s.reach .rd (szBytes o.sz.toNat) .misaligned true (s.warp.ea o (szBytes o.sz.toNat) l)) fun t l pa => t.addOp
        { id := 0, iss := s.nextId, lane := l, kind := .ldf, va := s.warp.ea o (szBytes o.sz.toNat) l, pa := pa,
          size := szBytes o.sz.toNat, sz := o.sz.toNat, acq := mAcq o, clr := mClr o, dest := some o.d }) := by
  change execLdf o s = _
  rw [execLdf, gated_runs hR]
  dsimp only
  rw [if_neg]
  simpa using hroom

/-- Settles O45: each of the seven makes the accesses of its lanes, with its own checks and its own operation. -/
theorem laneAccesses : Obligations.LaneAccesses := by
  intro o s
  refine ⟨?ld, fun hroom => ?ldf, ?st, ?stf, ?atom, ?red, ?cas⟩
  case ldf => exact fun hpark => reaches_of (exec_ldf hroom) (accesses_eachLane (fun _ _ => rfl) hpark)
  all_goals exact reaches_accesses (show exec _ s = _ from rfl) (by rfl) fun _ _ => rfl

end Sys2Proof.Machine

/-! Async barriers (spec/08_memory_isa.md R188 to R191; spec/15_memory_model.md R313; spec/26_faults_checkpoint.md R424). -/

namespace Sys2Proof.Machine

open Sys2Proof

/-! ### The object's words in memory (R188) -/

theorem rdBytes_wrBytes_within (bs : List Byte) (m : List Host.Cell) (a n i : Nat) (h : i + n ≤ bs.length) :
    rdBytes (wrBytes m a bs) (a + i) n = (bs.drop i).take n := by
  induction n generalizing i with
  | zero => simp [rdBytes]
  | succ n ih =>
    have hi : i < bs.length := by omega
    rw [rdBytes, Nat.add_assoc, ih (i + 1) (by omega), rd8_wrBytes_in bs m a i hi, List.drop_eq_getElem_cons hi, List.take_succ_cons]

theorem length_toBytes (o : AbObj) : o.toBytes.length = 16 := by simp [AbObj.toBytes]

theorem ofNat_leNat_leBytes (x : Word) : BitVec.ofNat 32 (leNat (leBytes 4 x.toNat)) = x := by
  rw [leNat_leBytes, Nat.mod_eq_of_lt (by simpa using x.isLt), BitVec.ofNat_toNat, BitVec.setWidth_eq]

/-- An object that has been written is read back. -/
theorem abRead_wrBytes {s : State} {m : List Host.Cell} {pa : Nat} {o : AbObj} (h : s.mem = wrBytes m pa o.toBytes) :
    s.abRead pa = o := by
  have hword (i : Nat) (x : Word) (hi : 4 * i + 4 ≤ 16) (hx : (o.toBytes.drop (4 * i)).take 4 = leBytes 4 x.toNat) :
      BitVec.ofNat 32 (s.rdN (pa + 4 * i) 4) = x := by
    rw [State.rdN, h, rdBytes_wrBytes_within _ _ _ _ _ (by rw [length_toBytes]; exact hi), hx, ofNat_leNat_leBytes]
  unfold State.abRead
  dsimp only
  rw [hword 0 o.bytes (by decide) rfl, hword 1 o.arrivals (by decide) rfl, hword 2 o.flags (by decide) rfl,
    hword 3 o.reload (by decide) rfl]

theorem abRead_congr {s t : State} (h : t.mem = s.mem) (pa : Nat) : t.abRead pa = s.abRead pa := by
  simp only [State.abRead, State.rdN, h]

/-! ### An update of the object (R190) -/

/-- The bits past the low two, in which VALID and the reserved ones stand, are as they were. -/
theorem toNat_or_two (x : Word) : (x ||| 2#32).toNat / 4 = x.toNat / 4 := by
  rw [BitVec.toNat_or, show 4 = 2 ^ 2 from rfl, ← Nat.shiftRight_eq_div_pow, Nat.shiftRight_or_distrib, Nat.shiftRight_eq_div_pow]
  simp

theorem toNat_xor_one (x : Word) : (x ^^^ 1#32).toNat / 4 = x.toNat / 4 := by
  rw [BitVec.toNat_xor, show 4 = 2 ^ 2 from rfl, ← Nat.shiftRight_eq_div_pow, Nat.shiftRight_xor_distrib, Nat.shiftRight_eq_div_pow]
  simp

/-- The flags of an object under an update that does not complete its phase: UNDER is set where the arrivals have gone below 0. -/
def underFlags (f w1 : Word) : Word := if w1.getLsbD 31 then f ||| 2#32 else f

theorem getLsbD_underFlags (f w1 : Word) :
    (underFlags f w1).getLsbD 0 = f.getLsbD 0 ∧ (underFlags f w1).getLsbD 1 = (f.getLsbD 1 || w1.getLsbD 31)
      ∧ (underFlags f w1).toNat / 4 = f.toNat / 4 := by
  unfold underFlags
  split
  next h =>
    rw [BitVec.getLsbD_or, BitVec.getLsbD_or, toNat_or_two, h]
    simp
  next h =>
    rw [Bool.eq_false_iff.mpr h, Bool.or_false]
    exact ⟨rfl, rfl, rfl⟩

theorem update_open {x : AbObj} {add sub : Word} (h : x.bytes + add ≠ 0#32 ∨ x.arrivals - sub ≠ 0#32) :
    x.update add sub = ⟨x.bytes + add, x.arrivals - sub, underFlags x.flags (x.arrivals - sub), x.reload⟩ := by
  rw [AbObj.update]
  exact if_neg fun ⟨h0, h1⟩ => h.elim (absurd h0) (absurd h1)

theorem update_complete {x : AbObj} {add sub : Word} (h0 : x.bytes + add = 0#32) (h1 : x.arrivals - sub = 0#32) :
    x.update add sub = ⟨BitVec.ofNat 32 (x.reload.toNat % 2 ^ 16 * 128), BitVec.ofNat 32 (x.reload.toNat / 2 ^ 16),
      underFlags x.flags (x.arrivals - sub) ^^^ 1#32, x.reload⟩ := by
  rw [AbObj.update]
  exact if_pos ⟨h0, h1⟩

/-- A phase completes exactly where both words reach zero. -/
theorem update_spec (x : AbObj) (add sub : Word) :
    let w0 := x.bytes + add; let w1 := x.arrivals - sub; let y := x.update add sub
    y.reload = x.reload
    ∧ (w0 ≠ 0#32 ∨ w1 ≠ 0#32 → y.bytes = w0 ∧ y.arrivals = w1 ∧ y.phase = x.phase)
    ∧ (w0 = 0#32 → w1 = 0#32 → y.phase = !x.phase ∧ y.bytes = BitVec.ofNat 32 (x.reload.toNat % 2 ^ 16 * 128)
        ∧ y.arrivals = BitVec.ofNat 32 (x.reload.toNat / 2 ^ 16))
    ∧ y.flags.getLsbD 1 = (x.flags.getLsbD 1 || w1.getLsbD 31) ∧ y.malformed = x.malformed := by
  obtain ⟨hphase, hunder, hhigh⟩ := getLsbD_underFlags x.flags (x.arrivals - sub)
  intro w0 w1 y
  by_cases h : w0 = 0#32 ∧ w1 = 0#32
  · obtain ⟨h0, h1⟩ := h
    have hy : y = _ := update_complete h0 h1
    rw [hy]
    refine ⟨rfl, fun hne => absurd h1 (hne.resolve_left (not_not_intro h0)), fun _ _ => ⟨?_, rfl, rfl⟩, ?_, ?_⟩
    · rw [AbObj.phase, BitVec.getLsbD_xor, hphase]
      exact Bool.xor_true _
    · rw [BitVec.getLsbD_xor, hunder]
      exact Bool.xor_false _
    · simp only [AbObj.malformed, toNat_xor_one, hhigh]
  · have hne : w0 ≠ 0#32 ∨ w1 ≠ 0#32 := Decidable.not_and_iff_not_or_not.mp h
    have hy : y = _ := update_open hne
    rw [hy]
    exact ⟨rfl, fun _ => ⟨rfl, rfl, hphase⟩, fun h0 h1 => absurd ⟨h0, h1⟩ h, hunder, by simp only [AbObj.malformed, hhigh]⟩

/-! ### Where the object lies (R171, R189) -/

theorem eq_ok_of_refused {c : Prop} [Decidable c] {e : Cause} {x : Except Cause Nat} {a : Nat} (h : (if c then .error e else x) = .ok a) :
    ¬c ∧ x = .ok a := by
  split at h
  next => cases h
  next hc => exact ⟨hc, h⟩

theorem eq_ok_of_allowed {c : Prop} [Decidable c] {e : Cause} {x : Except Cause Nat} {a : Nat} (h : (if c then x else .error e) = .ok a) :
    c ∧ x = .ok a := by
  split at h
  next hc => exact ⟨hc, h⟩
  next => cases h

theorem not_isFlat_of_target {s : State} {a pa : Nat} (h : s.target a = .ok pa) : isFlat pa = false := by
  have hplace : isHbm pa = true ∨ isFabric pa = true := by
    unfold State.target at h
    split at h
    next hhbm => exact .inl (Except.ok.inj h ▸ (Bool.and_eq_true_iff.mp hhbm).1)
    next =>
      obtain ⟨hfab, ha⟩ := eq_ok_of_allowed h
      simp only [State.fabricOk, Bool.and_eq_true] at hfab
      exact .inr (Except.ok.inj ha ▸ hfab.1.1.1.1.1)
  simp only [isHbm, isFabric, decide_eq_true_eq] at hplace
  rw [isFlat, decide_eq_false_iff_not, flatBase, flatStep]
  omega

/-- An address of flat SRAM that a tenant's access reaches stands in it as in the flat window (R307). -/
theorem flat_of_translate {s : State} {c tenant va pa : Nat} {need : Need} (h : s.translate c tenant va need = .ok pa)
    (hflat : isFlat pa = true) : pa = flatBase + (va - flatVa) := by
  unfold State.translate at h
  split at h
  · cases h
  · split at h
    · unfold State.flatAccess at h
      obtain ⟨-, h⟩ := eq_ok_of_refused h
      obtain ⟨-, h⟩ := eq_ok_of_refused h
      obtain ⟨-, h⟩ := eq_ok_of_refused h
      obtain ⟨-, h⟩ := eq_ok_of_refused h
      exact (Except.ok.inj h).symm
    · split at h
      · cases h
      · split at h
        · rw [not_isFlat_of_target h] at hflat
          cases hflat
        · cases h

theorem physical_eq {s : State} {c va pa : Nat} (h : s.physical c va = .ok pa) : pa = va := by
  unfold State.physical at h
  have hself (c : Prop) [Decidable c] {x : Except Cause Nat} (h : (if c then .ok va else x) = .ok pa) : pa = va ∨ x = .ok pa := by
    split at h
    next => exact .inl (Except.ok.inj h).symm
    next => exact .inr h
  rcases hself _ h with h | h
  · exact h
  · split at h
    next => exact (Except.ok.inj (eq_ok_of_refused h).2).symm
    next =>
      rcases hself _ h with h | h
      · exact h
      · exact (Except.ok.inj (eq_ok_of_allowed h).2).symm

/-- A flat access that passes its checks is on an address as far aligned as the one it names. -/
theorem aligned_of_reach {s : State} {need : Need} {mis : Cause} {va pa : Nat} (h : s.reach need 16 mis true va = .ok pa) :
    pa % 16 = 0 := by
  unfold State.reach at h
  split at h
  · cases h
  next hva =>
    split at h
    · cases h
    next a haccess =>
      obtain ⟨hflat, rfl⟩ : isFlat a = true ∧ a = pa := by
        cases hf : isFlat a <;> simp_all
      unfold State.access at haccess
      have hcase : a = flatBase + (va - flatVa) ∨ a = va := by
        split at haccess
        next =>
          dsimp only at haccess
          split at haccess
          next => exact .inl (flat_of_translate haccess hflat)
          next => exact .inr (physical_eq (eq_ok_of_allowed haccess).2)
        next => exact .inl (flat_of_translate haccess hflat)
      simp only [flatBase, flatVa] at hcase
      omega

/-! ### The write of an object at its home (R190, R311) -/

theorem rd8_foldl_wrWords {ws : List Nat} {v : Nat → List Byte} (hv : ∀ w ∈ ws, (v w).length = 4) {a : Nat}
    (ha : ∀ w ∈ ws, a < 4 * w ∨ 4 * w + 4 ≤ a) (m : List Host.Cell) :
    rd8 (ws.foldl (fun m w => wrBytes m (4 * w) (v w)) m) a = rd8 m a := by
  induction ws generalizing m with
  | nil => rfl
  | cons w ws ih =>
    rw [List.foldl_cons, ih (fun x hx => hv x (List.mem_cons_of_mem w hx)) fun x hx => ha x (List.mem_cons_of_mem w hx)]
    exact rd8_wrBytes_out _ _ _ _ (by rw [hv w List.mem_cons_self]; exact ha w List.mem_cons_self)

/-- A slice's words that 16 aligned bytes reach lie within them. -/
theorem rd8_takeBack (s : State) {pa a : Nat} (hpa : pa % 16 = 0) (ha : a < pa ∨ pa + 16 ≤ a) :
    rd8 (s.takeBack pa 16).mem a = rd8 s.mem a := by
  unfold State.takeBack
  split
  · refine rd8_foldl_wrWords (v := fun w => (List.range 4).map fun i => s.homeByte (4 * w + i)) (by simp) (fun w hw => ?_) s.mem
    have hw := (List.mem_filter.mp hw).1
    simp only [List.mem_cons, List.not_mem_nil, or_false] at hw
    omega
  · rfl

/-- A core that has given up ownership of the words of a range. -/
def Core.recalled (k : Core) (pa n : Nat) : Core :=
  { k with owned := k.owned.filter fun w => !inWords pa n w
           l1Bad := k.l1Bad.filter fun w => !(inWords pa n w && k.owned.contains w) }

theorem core_recall (s : State) (pa n c : Nat) : (s.recall pa n).core c = (s.core c).recalled pa n :=
  fget_map_key (d := ({} : Core)) (fun _ (k : Core) => k.recalled pa n) (fun _ => rfl) s.cores c

theorem takeBack_mem (s : State) (pa n : Nat) : s.takeBack pa n = { s with mem := (s.takeBack pa n).mem } := by
  unfold State.takeBack
  split <;> rfl

/-- A write at a home, of bytes that it neither discards nor keeps locked: nothing but the cores' ownership, the counted events,
memory, its lasting errors and what a switch slice owns may differ. -/
theorem homePart_spec {s : State} {pa : Nat} {bs : List Byte} (tenant va : Nat) (hlock : s.imageLocked pa bs.length = false)
    (hdis : s.discards pa bs.length = false) : let t := (s.homePart tenant va pa bs).1
    t.cores = (s.recall pa bs.length).cores ∧ t.cur = s.cur ∧ t.wgs = s.wgs ∧ t.full = s.full
      ∧ ∃ u : State, u.mem = s.mem ∧ t.mem = wrBytes (u.takeBack pa bs.length).mem pa bs := by
  simp only [State.homePart, hlock, hdis, Bool.false_eq_true, if_false]
  generalize hcounted : (if (!(s.die ((homeCore pa).getD 0 / 48)).ev.isEmpty && s.ownedIn pa bs.length) = true
    then s.countDie ((homeCore pa).getD 0 / 48) 4 tenant 1 else s) = u
  obtain ⟨hcores, hcur, hwgs, hfull, hmem⟩ :
      u.cores = s.cores ∧ u.cur = s.cur ∧ u.wgs = s.wgs ∧ u.full = s.full ∧ u.mem = s.mem := by
    rw [← hcounted]
    split <;> simp
  rw [takeBack_mem]
  refine ⟨?_, ?_, ?_, ?_, (u.recall pa bs.length).countHbm pa 3 tenant bs.length, ?_, rfl⟩
  · simp only [countHbm_cores, State.recall, hcores]
  · simp only [countHbm_cur, State.recall, hcur]
  · simp only [countHbm_wgs, State.recall, hwgs]
  · simp only [countHbm_full, State.recall, hfull]
  · simp only [countHbm_mem, State.recall, hmem]

theorem warp_of_recall {s t : State} {pa n : Nat} (hcores : t.cores = (s.recall pa n).cores) (hcur : t.cur = s.cur) :
    t.warp = s.warp := by
  rw [State.warp, hcur, State.warpAt, show t.core s.cur.core = (s.recall pa n).core s.cur.core from by rw [State.core, hcores]; rfl,
    core_recall]
  rfl

/-- An object has been written: its words read back, and the rest of memory, the acting warp, the workgroups and the full-empty
bits are as they were. -/
def State.WroteAb (s t : State) (pa : Nat) (o : AbObj) : Prop :=
  t.abRead pa = o ∧ (∀ a, a < pa ∨ pa + 16 ≤ a → rd8 t.mem a = rd8 s.mem a) ∧ t.warp = s.warp ∧ t.wgs = s.wgs ∧ t.full = s.full

theorem wroteAb_abWrite {s : State} {pa : Nat} (tenant va : Nat) (o : AbObj) (hlock : s.imageLocked pa 16 = false)
    (hdis : s.discards pa 16 = false) (hpa : pa % 16 = 0) : s.WroteAb (s.abWrite tenant va pa o) pa o := by
  have hlen := length_toBytes o
  obtain ⟨hcores, hcur, hwgs, hfull, u, hu, hmem⟩ :=
    homePart_spec tenant va (hlen.symm ▸ hlock) (hlen.symm ▸ hdis) (s := s) (pa := pa) (bs := o.toBytes)
  refine ⟨abRead_wrBytes hmem, fun a ha => ?_, warp_of_recall hcores hcur, hwgs, hfull⟩
  rw [State.abWrite, hmem, rd8_wrBytes_out _ _ _ _ (by rw [hlen]; exact ha), hlen, rd8_takeBack u hpa ha, hu]

/-! ### What makes no more errors than there were (R424) -/

theorem mem_fset {α : Type} {m : FMap α} {k : Nat} {v : α} {x : Nat × α} (h : x ∈ fset m k v) : x = (k, v) ∨ x ∈ m := by
  have hinsert (m : FMap α) (h : x ∈ finsert k v m) : x = (k, v) ∨ x ∈ m := by
    induction m with
    | nil => exact .inl (List.mem_singleton.mp h)
    | cons y m ih =>
      rw [finsert] at h
      split at h
      · exact List.mem_cons.mp h
      · rcases List.mem_cons.mp h with rfl | h
        · exact .inr List.mem_cons_self
        · exact (ih h).imp_right (List.mem_cons_of_mem _)
  refine (hinsert _ h).imp_right fun h => ?_
  rw [ferase_filter] at h
  exact (List.mem_filter.mp h).1

theorem mem_of_fget {α : Type} (d : α) (m : FMap α) (k : Nat) : fget d m k = d ∨ (k, fget d m k) ∈ m := by
  induction m with
  | nil => exact .inl rfl
  | cons x m ih =>
    obtain ⟨j, v⟩ := x
    rw [fget]
    split
    next h => exact .inr (h ▸ List.mem_cons_self)
    next => exact ih.imp_right (List.mem_cons_of_mem _)

/-- No core owns, of the words that q names, one with a lasting error. -/
def State.OwnsSound (s : State) (q : Nat → Bool) : Prop := ∀ x ∈ s.cores, ∀ w ∈ x.2.l1Bad, w ∈ x.2.owned → q w = false

/-- A state has no lasting error that another lacks. -/
def State.NoWorse (s t : State) : Prop := t.errs = s.errs ∧ ∀ q, s.OwnsSound q → t.OwnsSound q

theorem State.NoWorse.trans {s t u : State} (h : s.NoWorse t) (g : t.NoWorse u) : s.NoWorse u :=
  ⟨g.1.trans h.1, fun q hq => g.2 q (h.2 q hq)⟩

theorem noWorse_updCore (s : State) (c : Nat) {f : Core → Core} (howned : (f (s.core c)).owned = (s.core c).owned)
    (hbad : ∀ w ∈ (f (s.core c)).l1Bad, w ∈ (s.core c).l1Bad) : s.NoWorse (s.updCore c f) := by
  refine ⟨rfl, fun q hq x hx w hw hown => ?_⟩
  rcases mem_fset hx with rfl | hx
  · rcases mem_of_fget ({} : Core) s.cores c with hnone | hmem
    · have hw := hbad w hw
      rw [State.core, hnone] at hw
      exact absurd hw List.not_mem_nil
    · exact hq _ hmem w (hbad w hw) (howned ▸ hown)
  · exact hq x hx w hw hown

theorem noWorse_updWarp (s : State) (f : Warp → Warp) : s.NoWorse (s.updWarp f) := noWorse_updCore s _ rfl fun _ hw => hw

theorem ownsSound_iff (s : State) (q : Nat → Bool) :
    s.OwnsSound q ↔ (s.cores.any fun k => k.2.l1Bad.any fun w => q w && k.2.owned.contains w) = false := by
  simp only [State.OwnsSound, List.any_eq_false, Bool.not_eq_true, Bool.and_eq_false_imp, List.contains_eq_mem,
    decide_eq_false_iff_not]
  exact ⟨fun h x hx w hw hq hown => Bool.noConfusion (hq.symm.trans (h x hx w hw hown)),
    fun h x hx w hw hown => Bool.eq_false_iff.mpr fun hq => h x hx w hw hq hown⟩

theorem State.NoWorse.bad {s t : State} {pa n : Nat} (h : s.NoWorse t) (hs : s.bad pa n = false) : t.bad pa n = false := by
  simp only [State.bad, State.ownerBad, Bool.or_eq_false_iff, ← ownsSound_iff, h.1] at hs ⊢
  exact ⟨hs.1, h.2 _ hs.2⟩

theorem State.NoWorse.discards {s t : State} {pa n : Nat} (h : s.NoWorse t) (hs : s.discards pa n = false) :
    t.discards pa n = false := by
  simp only [State.discards, Bool.or_eq_false_iff, Bool.and_comm (List.contains _ _), ← ownsSound_iff, h.1] at hs ⊢
  exact ⟨hs.1, h.2 _ hs.2⟩

/-! ### The core keeps no older copy (R313) -/

theorem core_dropCopies (s : State) (c pa n : Nat) : (s.dropCopies c pa n).core c = (s.core c).dropWords (inWords pa n) :=
  core_updCore s c _

theorem warp_dropCopies (s : State) (c pa n : Nat) : (s.dropCopies c pa n).warp = s.warp := by
  rw [State.warp, State.warpAt, show (s.dropCopies c pa n).cur = s.cur from rfl]
  by_cases hc : s.cur.core = c
  · rw [hc, core_dropCopies, ← hc]
    rfl
  · rw [State.dropCopies, State.updCore, core_setCore_ne s _ hc]
    rfl

theorem mask_dropCopies (s : State) (pa n : Nat) : (s.dropCopies s.cur.core pa n).mask = s.mask := by
  rw [State.mask, warp_dropCopies]
  rfl

theorem lanes_dropCopies (s : State) (pa n : Nat) : (s.dropCopies s.cur.core pa n).lanes = s.lanes := by
  rw [State.lanes, mask_dropCopies]
  rfl

theorem noWorse_dropCopies (s : State) (c pa n : Nat) : s.NoWorse (s.dropCopies c pa n) :=
  noWorse_updCore s c rfl fun _ hw => (List.mem_filter.mp hw).1

theorem onlyReads_dropCopies (s : State) (pa n : Nat) : OnlyReads s (s.dropCopies s.cur.core pa n) := by
  have hcore := core_dropCopies s s.cur.core pa n
  refine ⟨rfl, .refl s, fun c hc => core_setCore_ne s _ hc, ?_, fun j _ => ?_, fun x hx => ?_, fun x hx => ?_,
    [], by simp [State.dropCopies]⟩
  · rw [hcore]
    rfl
  · rw [hcore]
    rfl
  · rw [hcore] at hx
    exact (List.mem_filter.mp hx).1
  · rw [hcore] at hx
    exact (List.mem_filter.mp hx).1

/-- An acquire drops what is left of the core's unowned words, so that dropping some of them before it makes no difference. -/
theorem acquire_dropCopies (s : State) (c pa n : Nat) : (s.dropCopies c pa n).acquire c = s.acquire c := by
  have hdrop (k : Core) (p : Nat → Bool) : (k.dropWords p).dropWords (fun _ => true) = k.dropWords fun _ => true := by
    simp only [Core.dropWords, List.filter_filter]
    congr 1
    refine List.filter_congr fun w _ => ?_
    cases k.owned.contains w <;> simp
  rw [State.acquire, State.updCore, core_dropCopies, hdrop]
  simp only [State.dropCopies, State.acquire, State.updCore, State.setCore, fset_fset]
  rfl

/-! ### The checks of an object (R189) -/

section
variable {o : VOps} {s : State} {pa : Nat} (hva : s.differing o.a.toNat 2 = []) (hb : s.differing o.b.toNat 1 = [])
  (hreach : s.reach .rw 16 .misaligned true (s.warp.reg64 o.a.toNat s.lowest) = .ok pa) (hfree : s.warp.conflicts s.mask pa 16 = false)
include hva hb hreach hfree

/-- The effect of an instruction on its object, where its checks pass. -/
theorem abObject_acts {init : Bool} (f : Nat → Nat → Word → State → State) (hbad : init = false → s.bad pa 16 = false)
    (hform : init = false → (s.abRead pa).malformed = false) : s.abObject o init f
      = f (s.warp.reg64 o.a.toNat s.lowest) pa (s.warp.reg o.b.toNat s.lowest) (s.dropCopies s.cur.core pa 16) := by
  simp only [State.abObject, hva, hb, hreach, hfree]
  cases init
  · simp [hbad rfl, hform rfl, withFaults_nil]
  · simp [withFaults_nil]

theorem abObject_bad (f : Nat → Nat → Word → State → State) (hbad : s.bad pa 16 = true) : s.abObject o false f
    = s.withFaults (s.lanes.map fun l => (l, .dataUncorrectable, s.warp.reg64 o.a.toNat s.lowest)) id := by
  have hall : s.lanes.filter (fun _ => true) = s.lanes := List.filter_eq_self.mpr fun _ _ => rfl
  simp only [State.abObject, hva, hb, hreach, hfree, hbad, List.filter_nil, List.append_nil, List.map_nil, List.any_nil, Bool.not_false,
    hall, List.nil_append, Bool.and_self, if_true, if_false, Bool.false_eq_true]

/-- An object that holds a lasting error faults the split, but for ABINIT (R424). -/
theorem reaches_abBad (hbad : s.bad pa 16 = true) : ∀ i ∈ [Instr.abexp o, .abarr o, .abwait o, .abtest o], Reaches i s fun t =>
    t = s.withFaults (s.lanes.map fun l => (l, .dataUncorrectable, s.warp.reg64 o.a.toNat s.lowest)) id := by
  have hfault (i : Instr) (f : Nat → Nat → Word → State → State) (hexec : exec i s = s.gated i (·.abObject o false f)) :
      Reaches i s fun t => t = s.withFaults (s.lanes.map fun l => (l, .dataUncorrectable, s.warp.reg64 o.a.toNat s.lowest)) id :=
    reaches_of (fun hR => by rw [hexec, gated_runs hR, abObject_bad hva hb hreach hfree f hbad]) rfl
  simp only [List.mem_cons, List.not_mem_nil, or_false, forall_eq_or_imp, forall_eq]
  exact ⟨hfault _ _ rfl, hfault _ _ rfl, hfault _ _ rfl, hfault _ _ rfl⟩

end

/-! ### Lanes that leave the split to wait (spec/04_encoding.md R80) -/

theorem thread_foldl_updThread {ls : List Nat} (f : Thread → Thread) (hls : ls.Nodup) (w : Warp) (l : Nat) :
    (ls.foldl (fun w l => w.updThread l f) w).thread l = if l ∈ ls then f (w.thread l) else w.thread l := by
  induction ls generalizing w with
  | nil => simp
  | cons k ls ih =>
    obtain ⟨hk, hls⟩ := List.nodup_cons.mp hls
    rw [List.foldl_cons, ih hls]
    by_cases h : l = k
    · subst h
      simp [hk]
    · simp [h, Warp.updThread, thread_setThread_ne]

theorem foldl_updThread_threads (ls : List Nat) (f : Thread → Thread) (w : Warp) :
    ls.foldl (fun w l => w.updThread l f) w = { w with th := (ls.foldl (fun w l => w.updThread l f) w).th } := by
  induction ls generalizing w with
  | nil => rfl
  | cons l ls ih => exact ih (w.updThread l f)

theorem leaveToWait_spec {ls : List Nat} (s : State) (f : Thread → Thread) (hls : ls.Nodup) : let t := s.leaveToWait ls f
    t.setWarp {} = s.setWarp {} ∧ t.warp = { s.warp with th := t.warp.th, run := t.warp.run } ∧ Waits s t.warp ls f := by
  intro t
  have hwarp : t.warp = _ := warp_updWarp s _
  rw [foldl_updThread_threads] at hwarp
  refine ⟨setWarp_setWarp s _ _, by rw [hwarp], by rw [hwarp], fun l _ => ?_⟩
  rw [hwarp]
  exact thread_foldl_updThread _ hls s.warp l

theorem waits_of_warp {s r : State} {w : Warp} {ls : List Nat} {f : Thread → Thread} (h : r.warp = s.warp) (hr : Waits r w ls f) :
    Waits s w ls f := by
  simpa only [Waits, State.here, State.nextPos, State.marked, h] using hr

/-! ### An arrival whose threads' stores have registered counts at once (R191) -/

theorem foldl_self {α β : Type} {f : β → α → β} {b : β} {l : List α} (h : ∀ a ∈ l, f b a = b) : l.foldl f b = b := by
  induction l with
  | nil => rfl
  | cons a l ih => rw [List.foldl_cons, h a List.mem_cons_self, ih fun x hx => h x (List.mem_cons_of_mem a hx)]

/-- The last of a warp's operations is an arrival, alone of its kind, and no store of the warp is unregistered. -/
theorem applyAb_last {s : State} {os : List Op} {x : Op} (hops : s.warp.ops = os ++ [x]) (hx : x.kind = .abArr)
    (hid : ∀ y ∈ os, y.id ≠ x.id) (hos : ∀ y ∈ os, y.kind ≠ .abArr ∧ y.unordered = false) (hbad : s.bad x.pa 16 = false)
    (hform : (s.abRead x.pa).malformed = false) :
    let u := s.updWarp fun w => { w with ops := os }
    s.applyAb s.cur.core s.cur.slot = (u.abWrite s.warp.tenant x.va x.pa
      ((s.abRead x.pa).update (BitVec.ofNat 32 x.data) (BitVec.ofNat 32 x.data2))).dropCopies s.cur.core x.pa 16 := by
  intro u
  have hregistered (l : Nat) : s.warp.unregistered l x.id = false := by
    rw [Warp.unregistered, hops, List.any_eq_false]
    intro y hy
    have hunordered : y.unordered = false := by
      rcases List.mem_append.mp hy with hy | hy
      · exact (hos y hy).2
      · rw [List.mem_singleton.mp hy, Op.unordered, hx]
    simp [hunordered]
  have hkeep : s.warp.ops.filter (·.id != x.id) = os := by
    rw [hops, List.filter_append, List.filter_eq_self.mpr fun y hy => by simp [hid y hy]]
    simp
  have hu : s.updWarpAt s.cur.core s.cur.slot (fun w => { w with ops := w.ops.filter (·.id != x.id) }) = u := by
    change s.setWarp { s.warp with ops := s.warp.ops.filter (·.id != x.id) } = s.setWarp { s.warp with ops := os }
    rw [hkeep]
  have hops' : (s.warpAt s.cur.core s.cur.slot).ops = os ++ [x] := hops
  have hcounts : (x.kind == .abArr && !(allLanes.any fun l => x.covers l && (s.warpAt s.cur.core s.cur.slot).unregistered l x.id))
      = true := by
    have hall : allLanes.any (fun l => x.covers l && (s.warpAt s.cur.core s.cur.slot).unregistered l x.id) = false :=
      List.any_eq_false.mpr fun l _ => by simp [show (s.warpAt s.cur.core s.cur.slot).unregistered l x.id = false from hregistered l]
    simp [hx, hall]
  have hubad : u.bad x.pa 16 = false := (noWorse_updWarp s _).bad hbad
  have huform : (u.abRead x.pa).malformed = false := hform
  unfold State.applyAb
  dsimp only
  rw [hops', List.foldl_append, List.foldl_cons, List.foldl_nil]
  rw [foldl_self (l := os) (b := s) fun y hy => by simp [(hos y hy).1], if_pos hcounts, hu]
  simp only [hubad, huform, Bool.false_eq_true, if_false]
  rfl

/-! ### The instructions (R190) -/

/-- An object that an instruction has written, on which the waiters whose phase has passed have gone on. -/
def State.WritesAb (s : State) (pa : Nat) (x : AbObj) (t : State) : Prop := ∃ u : State, t = u.wakeAb ∧ s.WroteAb u pa x

theorem State.WroteAb.dropCopies {s t : State} {pa : Nat} {x : AbObj} (h : s.WroteAb t pa x) (c n : Nat) :
    s.WroteAb (t.dropCopies c pa n) pa x := by
  rw [State.WroteAb, warp_dropCopies]
  exact h

/-- What a write leaves alone does not depend on what else differs in the state before it. -/
theorem State.WroteAb.of_same {s u t : State} {pa : Nat} {x : AbObj} (h : u.WroteAb t pa x) (hmem : u.mem = s.mem)
    (hwarp : u.warp = s.warp) (hwgs : u.wgs = s.wgs) (hfull : u.full = s.full) : s.WroteAb t pa x := by
  rw [State.WroteAb, hmem, hwarp, hwgs, hfull] at h
  exact h

theorem abtest_pred {o : VOps} (hw : (Instr.abtest o).wf = true) : o.d.toNat < 8 :=
  Nat.lt_succ_of_le (of_decide_eq_true (Bool.and_eq_true_iff.mp (plainV_fields hw)).1)

/-- The operation of an arrival (R191). -/
def arrivalOp (lane : Nat) (mask : Word) (va pa : Nat) (b : Word) (n : Nat) : Op :=
  { id := 0, lane := lane, kind := .abArr, mask := mask, va := va, pa := pa, size := 16, data := b.toNat, data2 := n, rel := true }

/-- An arrival with nothing before it that it waits for writes its object at once. -/
theorem wroteAb_arrival {s : State} {pa : Nat} (lane : Nat) (mask : Word) (va : Nat) (b : Word) (n : Nat) (hpa : pa % 16 = 0)
    (hdis : s.discards pa 16 = false) (hlock : s.imageLocked pa 16 = false) (hbad : s.bad pa 16 = false)
    (hform : (s.abRead pa).malformed = false)
    (hops : ∀ y ∈ s.warp.ops, y.id < s.nextId ∧ y.kind ≠ .abArr ∧ y.unordered = false) :
    s.WroteAb ((s.addOp (arrivalOp lane mask va pa b n)).applyAb s.cur.core s.cur.slot) pa
      ((s.abRead pa).update b (BitVec.ofNat 32 n)) := by
  have hwarp := (addOp_spec s (arrivalOp lane mask va pa b n)).2
  generalize ht : s.addOp (arrivalOp lane mask va pa b n) = t at hwarp ⊢
  have hworse : s.NoWorse t := ht ▸ noWorse_updWarp { s with nextId := s.nextId + 1 } _
  have hplaces : t.cur = s.cur ∧ t.mem = s.mem ∧ t.wgs = s.wgs ∧ t.full = s.full ∧ t.imageLocked pa 16 = s.imageLocked pa 16 := by
    subst ht
    exact ⟨rfl, rfl, rfl, rfl, rfl⟩
  obtain ⟨hcur, hmem, hwgs, hfull, himage⟩ := hplaces
  have hobj := abRead_congr hmem pa
  have hlast := applyAb_last (congrArg Warp.ops hwarp) rfl (fun y hy => Nat.ne_of_lt (hops y hy).1) (fun y hy => (hops y hy).2)
    (hworse.bad hbad) (hobj ▸ hform)
  rw [hcur, arrivalOp] at hlast
  dsimp only at hlast
  rw [hobj, BitVec.ofNat_toNat, BitVec.setWidth_eq] at hlast
  rw [hlast]
  generalize hu : t.updWarp (fun w => { w with ops := s.warp.ops }) = u
  have huwarp : u.warp = s.warp := by rw [← hu, warp_updWarp, hwarp]
  have huworse : s.NoWorse u := hu ▸ hworse.trans (noWorse_updWarp t _)
  have huplaces : u.mem = t.mem ∧ u.wgs = t.wgs ∧ u.full = t.full ∧ u.imageLocked pa 16 = t.imageLocked pa 16 := by
    subst hu
    exact ⟨rfl, rfl, rfl, rfl⟩
  obtain ⟨humem, huwgs, hufull, huimage⟩ := huplaces
  have hwrote := wroteAb_abWrite t.warp.tenant va ((s.abRead pa).update b (BitVec.ofNat 32 n))
    (huimage.trans (himage.trans hlock)) (huworse.discards hdis) hpa
  exact (hwrote.of_same (humem.trans hmem) huwarp (huwgs.trans hwgs) (hufull.trans hfull)).dropCopies _ _

/-- An instruction on a sound object does what it does in the state without the older copies. -/
theorem reaches_abObject {o : VOps} {s : State} {pa : Nat} {i : Instr} {init : Bool} {f : Nat → Nat → Word → State → State}
    {p : State → Prop} (hva : s.differing o.a.toNat 2 = []) (hb : s.differing o.b.toNat 1 = [])
    (hreach : s.reach .rw 16 .misaligned true (s.warp.reg64 o.a.toNat s.lowest) = .ok pa)
    (hfree : s.warp.conflicts s.mask pa 16 = false) (hexec : exec i s = s.gated i (·.abObject o init f))
    (hbad : init = false → s.bad pa 16 = false) (hform : init = false → (s.abRead pa).malformed = false)
    (hp : p (f (s.warp.reg64 o.a.toNat s.lowest) pa (s.warp.reg o.b.toNat s.lowest) (s.dropCopies s.cur.core pa 16))) :
    Reaches i s p :=
  reaches_of (fun hR => hexec.trans ((gated_runs hR _).trans (congrArg _ (abObject_acts hva hb hreach hfree f hbad hform)))) hp

section
variable {o : VOps} {s : State} {pa : Nat} (hva : s.differing o.a.toNat 2 = []) (hb : s.differing o.b.toNat 1 = [])
  (hreach : s.reach .rw 16 .misaligned true (s.warp.reg64 o.a.toNat s.lowest) = .ok pa) (hfree : s.warp.conflicts s.mask pa 16 = false)
  (hdis : s.discards pa 16 = false) (hlock : s.imageLocked pa 16 = false)

include hreach hdis hlock in
/-- A write of the object, in the state without the older copies. -/
theorem wroteAb_dropped (tenant va : Nat) (x : AbObj) : s.WroteAb ((s.dropCopies s.cur.core pa 16).abWrite tenant va pa x) pa x :=
  (wroteAb_abWrite tenant va x (s := s.dropCopies s.cur.core pa 16) hlock ((noWorse_dropCopies s _ pa 16).discards hdis)
    (aligned_of_reach hreach)).of_same rfl (warp_dropCopies s _ pa 16) rfl rfl

include hva hb hreach hfree

include hdis hlock in
theorem reaches_abinit : Reaches (.abinit o) s (s.WritesAb pa (abInit (s.warp.reg o.b.toNat s.lowest))) :=
  reaches_abObject hva hb hreach hfree rfl nofun nofun ⟨_, rfl, wroteAb_dropped hreach hdis hlock _ _ _⟩

variable (hbad : s.bad pa 16 = false) (hform : (s.abRead pa).malformed = false)
include hbad hform

include hdis hlock in
theorem reaches_abexp : Reaches (.abexp o) s (s.WritesAb pa ((s.abRead pa).update (s.warp.reg o.b.toNat s.lowest) 0#32)) :=
  reaches_abObject hva hb hreach hfree rfl (fun _ => hbad) (fun _ => hform) ⟨_, rfl, wroteAb_dropped hreach hdis hlock _ _ _⟩

include hdis hlock in
theorem reaches_abarr (hops : ∀ y ∈ s.warp.ops, y.id < s.nextId ∧ y.kind ≠ .abArr ∧ y.unordered = false) :
    Reaches (.abarr o) s (s.WritesAb pa
      ((s.abRead pa).update (s.warp.reg o.b.toNat s.lowest) (BitVec.ofNat 32 s.lanes.length))) := by
  rw [← lanes_dropCopies s pa 16]
  refine reaches_abObject (f := fun va pa b s => ((s.addOp (arrivalOp s.lowest s.mask va pa b s.lanes.length)).applyAb
    s.cur.core s.cur.slot).wakeAb) hva hb hreach hfree rfl (fun _ => hbad) (fun _ => hform) ⟨_, rfl, ?_⟩
  have hworse := noWorse_dropCopies s s.cur.core pa 16
  have hwarp := warp_dropCopies s s.cur.core pa 16
  have hwrote := wroteAb_arrival (s := s.dropCopies s.cur.core pa 16) (s.dropCopies s.cur.core pa 16).lowest
    (s.dropCopies s.cur.core pa 16).mask (s.warp.reg64 o.a.toNat s.lowest) (s.warp.reg o.b.toNat s.lowest)
    (s.dropCopies s.cur.core pa 16).lanes.length (aligned_of_reach hreach) (hworse.discards hdis) hlock (hworse.bad hbad) hform
    (by rw [hwarp]; exact hops)
  exact hwrote.of_same rfl hwarp rfl rfl

theorem reaches_abwait_open (hphase : (s.abRead pa).phase = (s.warp.reg o.b.toNat s.lowest).getLsbD 0) :
    Reaches (.abwait o) s fun t => (∃ r, OnlyReads s r ∧ t.setWarp {} = r.setWarp {})
      ∧ t.warp = { s.warp with th := t.warp.th, run := t.warp.run }
      ∧ Waits s t.warp s.lanes fun y => { y with wait := .abwait pa ((s.warp.reg o.b.toNat s.lowest).getLsbD 0) } := by
  refine reaches_abObject hva hb hreach hfree rfl (fun _ => hbad) (fun _ => hform) ?_
  have hwarp := warp_dropCopies s s.cur.core pa 16
  obtain ⟨hrest, hfields, hwaits⟩ := leaveToWait_spec (s.dropCopies s.cur.core pa 16)
    (fun y => { y with wait := .abwait pa ((s.warp.reg o.b.toNat s.lowest).getLsbD 0) }) (lanesOf_nodup s.mask)
  rw [if_pos (beq_iff_eq.mpr (abRead_congr (t := s.dropCopies s.cur.core pa 16) rfl pa ▸ hphase)), lanes_dropCopies]
  rw [hwarp] at hfields
  exact ⟨⟨_, onlyReads_dropCopies s pa 16, hrest⟩, hfields, waits_of_warp hwarp hwaits⟩

theorem reaches_abwait_passed (hphase : (s.abRead pa).phase ≠ (s.warp.reg o.b.toNat s.lowest).getLsbD 0) :
    Reaches (.abwait o) s fun t => t = s.acquire s.cur.core := by
  refine reaches_abObject hva hb hreach hfree rfl (fun _ => hbad) (fun _ => hform) ?_
  exact (if_neg (mt beq_iff_eq.mp hphase)).trans (acquire_dropCopies s s.cur.core pa 16)

theorem reaches_abtest : Reaches (.abtest o) s fun t => ∃ r u, OnlyReads s r
    ∧ Predicates r u o.d.toNat (fun _ => (s.abRead pa).phase != (s.warp.reg o.b.toNat s.lowest).getLsbD 0)
    ∧ t = if (s.abRead pa).phase != (s.warp.reg o.b.toNat s.lowest).getLsbD 0 then u.acquire s.cur.core else u := by
  intro hw
  refine reaches_abObject hva hb hreach hfree rfl (fun _ => hbad) (fun _ => hform) ?_ hw
  exact ⟨s.dropCopies s.cur.core pa 16, _, onlyReads_dropCopies s pa 16, predicates_perPred _ _ (abtest_pred hw), rfl⟩

end

/-- Settles O47: the checks of the object pass, so that each instruction acts on it in the state without the core's older copies of
it, which differs in nothing that the object's words, its errors or the warp depend on. -/
theorem asyncBarriers : Obligations.AsyncBarriers := by
  unfold Obligations.AsyncBarriers
  refine ⟨fun o s pa => ?_, update_spec⟩
  intro w va b x c n writes hva hb hreach hfree
  refine ⟨reaches_abBad hva hb hreach hfree, fun hdis hlock =>
    ⟨reaches_abinit hva hb hreach hfree hdis hlock, fun hbad hform => ?_⟩⟩
  exact ⟨reaches_abexp hva hb hreach hfree hdis hlock hbad hform, reaches_abarr hva hb hreach hfree hdis hlock hbad hform,
    reaches_abwait_open hva hb hreach hfree hbad hform, reaches_abwait_passed hva hb hreach hfree hbad hform,
    reaches_abtest hva hb hreach hfree hbad hform⟩

end Sys2Proof.Machine

/-! The operand buffer's tiles (spec/09_engine_isa.md R198 to R201). -/

namespace Sys2Proof.Machine

open Sys2Proof

/-! ### The lowest run of free rows (R200) -/

/-- A run of n unused rows from a base, below a limit, and from no lower base. -/
def LowestFree (used : Nat → Bool) (n limit base : Nat) : Prop :=
  base + n ≤ limit ∧ (∀ r, base ≤ r → r < base + n → used r = false)
  ∧ ∀ b, b < base → ∃ r, b ≤ r ∧ r < b + n ∧ used r = true

/-- The search at row i, the last `run` rows before it being unused and every run from a lower base broken. -/
theorem freeRun_go_lowest {used : Nat → Bool} {n base : Nat} (m i run : Nat) (hrun : run < n) (hle : run ≤ i)
    (hfree : ∀ r, i - run ≤ r → r < i → used r = false) (hlow : ∀ b, b < i - run → ∃ r, b ≤ r ∧ r < b + n ∧ used r = true)
    (h : Core.freeRun.go n ((List.range' i m).map fun r => !used r) i run = some base) : LowestFree used n (i + m) base := by
  induction m generalizing i run with
  | zero => simp [Core.freeRun.go] at h
  | succ m ih =>
    rw [List.range'_succ, List.map_cons, Core.freeRun.go] at h
    rw [show i + (m + 1) = i + 1 + m by omega]
    cases hi : used i with
    | false =>
      have hfree' : ∀ r, i - run ≤ r → r < i + 1 → used r = false := fun r hr hri => by
        rcases Nat.lt_succ_iff_lt_or_eq.mp hri with hlt | rfl
        · exact hfree r hr hlt
        · exact hi
      rw [hi, if_pos (by rfl)] at h
      have hstart : i + 1 - (run + 1) = i - run := by omega
      by_cases hn : run + 1 = n
      · rw [if_pos hn, Option.some.injEq, ← hn, hstart] at h
        subst h
        exact ⟨by omega, fun r hr hlt => hfree' r hr (by omega), hlow⟩
      · rw [if_neg hn] at h
        exact ih (i + 1) (run + 1) (by omega) (by omega) (hstart ▸ hfree') (hstart ▸ hlow) h
    | true =>
      rw [hi, if_neg (by simp)] at h
      refine ih (i + 1) 0 (by omega) (by omega) (fun r hr hlt => by omega) (fun b hb => ?_) h
      by_cases hbi : b < i - run
      · exact hlow b hbi
      · exact ⟨i, by omega, by omega, hi⟩

theorem freeRun_lowest {k : Core} {n base : Nat} (hn : 0 < n) (h : k.freeRun n = some base) : LowestFree k.rowUsed n 1024 base := by
  rw [Core.freeRun, List.range_eq_range'] at h
  have hlow := freeRun_go_lowest 1024 0 0 hn (Nat.le_refl 0) (fun r _ hr => absurd hr (Nat.not_lt_zero r))
    (fun b hb => absurd hb (Nat.not_lt_zero b)) h
  rwa [Nat.zero_add] at hlow

/-! ### The fields of a tile record (R199) -/

theorem toNat_tileMake (x : Nat) {base rows : Nat} (hbase : base < 1024) (hrows : rows ≤ 1024) : (tileMake x base rows).toNat =
    2 ^ 63 + bitsOf x 16 11 * 2 ^ 57 + base * 2 ^ 47 + rows * 2 ^ 36 + bitsOf x 17 17 * 2 ^ 35
    + (if bitOf x 17 then (base + bitsOf x 41 32) % 1024 else base) * 2 ^ 25 + bitsOf x 48 42 * 2 ^ 18 := by
  have hfmt : bitsOf x 16 11 < 64 := Nat.mod_lt _ (by decide)
  have hmx : bitsOf x 17 17 < 2 := Nat.mod_lt _ (by decide)
  have hbyte : bitsOf x 48 42 < 128 := Nat.mod_lt _ (by decide)
  have hrow : (if bitOf x 17 then (base + bitsOf x 41 32) % 1024 else base) < 1024 := by split <;> omega
  rw [tileMake, BitVec.toNat_ofNat]
  exact Nat.mod_eq_of_lt (by omega)

/-- The fields of a record made over rows of the operand buffer. -/
theorem tileMake_fields (x : Nat) {base rows : Nat} (hbase : base < 1024) (hrows : rows ≤ 1024) :
    (tileMake x base rows).getLsbD 63 = true ∧ tileRows (tileMake x base rows) = (base, rows)
    ∧ tileFmt (tileMake x base rows) = bitsOf x 16 11 ∧ tileMx (tileMake x base rows) = bitOf x 17 := by
  have hfmt : bitsOf x 16 11 < 64 := Nat.mod_lt _ (by decide)
  have hmx : bitsOf x 17 17 < 2 := Nat.mod_lt _ (by decide)
  have hbyte : bitsOf x 48 42 < 128 := Nat.mod_lt _ (by decide)
  have hrow : (if bitOf x 17 then (base + bitsOf x 41 32) % 1024 else base) < 1024 := by split <;> omega
  have hnat := toNat_tileMake x hbase hrows
  refine ⟨?_, Prod.ext ?_ ?_, ?_, ?_⟩
  · rw [BitVec.getLsbD, Nat.testBit_eq_decide_div_mod_eq, decide_eq_true_eq]
    omega
  · change (tileMake x base rows).toNat / 2 ^ 47 % 2 ^ 10 = base
    omega
  · change (tileMake x base rows).toNat / 2 ^ 36 % 2 ^ 11 = rows
    omega
  · change (tileMake x base rows).toNat / 2 ^ 57 % 2 ^ 6 = bitsOf x 16 11
    omega
  · rw [tileMx, BitVec.getLsbD, Nat.testBit_eq_decide_div_mod_eq, show bitOf x 17 = decide (bitsOf x 17 17 = 1) from rfl]
    congr 2
    omega

/-! ### The instructions (R200, R201) -/

/-- Tile register d holds v; nothing else differs. -/
def State.SetsTile (s : State) (d : Nat) (v : BitVec 64) (t : State) : Prop :=
  OnlyWarp s t ∧ t.warp = { s.warp with t := t.warp.t } ∧ ∀ j, t.warp.tile j = if j = d then v else s.warp.tile j

theorem setsTile_updWarp (s : State) (d : Nat) (v : BitVec 64) : s.SetsTile d v (s.updWarp fun w => w.setTile d v) := by
  refine ⟨onlyWarp_setWarp s _, ?_, fun j => ?_⟩
  · rw [warp_updWarp]
    rfl
  · rw [warp_updWarp]
    exact tile_setTile s.warp d j v

/-- An instruction reaches what its effect, past its checks, gives. -/
theorem reaches_gated {i : Instr} {s t : State} {out : Host.Outcome State Fault Refusal} {f : State → State} {p : State → Prop}
    (hexec : exec i s = out) (hout : out = s.gated i f) (hf : f s = t) (hp : p t) : Reaches i s p :=
  reaches_of (fun hR => hexec.trans (hout.trans ((gated_runs hR f).trans (congrArg _ hf)))) hp

section
variable {o : VOps} {s : State}

theorem reaches_obres (hres : resCheck (s.warp.reg64 o.a.toNat 0) (s.warp.reg64 o.a.toNat 0 % 2 ^ 11) true = none)
    (hold : (s.warp.tile o.d.toNat).getLsbD 63 = false) {base : Nat}
    (hrun : (s.core s.cur.core).freeRun (s.warp.reg64 o.a.toNat 0 % 2 ^ 11) = some base) : Reaches (.obres o) s
      (s.SetsTile o.d.toNat (tileMake (s.warp.reg64 o.a.toNat 0) base (s.warp.reg64 o.a.toNat 0 % 2 ^ 11))) :=
  reaches_gated (out := execObres o s) rfl rfl (by simp only [hres, hold, hrun, Bool.false_eq_true, if_false]) (setsTile_updWarp s _ _)

theorem reaches_obres_parked (hres : resCheck (s.warp.reg64 o.a.toNat 0) (s.warp.reg64 o.a.toNat 0 % 2 ^ 11) true = none)
    (hold : (s.warp.tile o.d.toNat).getLsbD 63 = false)
    (hrun : (s.core s.cur.core).freeRun (s.warp.reg64 o.a.toNat 0 % 2 ^ 11) = none) :
    Reaches (.obres o) s fun t => t = { s with flow := .park .obres } :=
  reaches_gated (out := execObres o s) rfl rfl (by simp only [hres, hold, hrun, Bool.false_eq_true, if_false]) rfl

theorem reaches_obset (hres : resCheck (s.warp.reg64 o.a.toNat 0) (tileRows (s.warp.tile o.d.toNat)).2 false = none)
    (hold : (s.warp.tile o.d.toNat).getLsbD 63 = true) : Reaches (.obset o) s (s.SetsTile o.d.toNat
      (tileMake (s.warp.reg64 o.a.toNat 0) (tileRows (s.warp.tile o.d.toNat)).1 (tileRows (s.warp.tile o.d.toNat)).2)) :=
  reaches_gated (out := execObset o s) rfl rfl (by simp only [hres, hold, Bool.not_true, Bool.false_eq_true, if_false]) (setsTile_updWarp s _ _)

theorem reaches_obrel (o : VOps) (s : State) : Reaches (.obrel o) s (s.SetsTile o.d.toNat 0#64) :=
  reaches_gated (out := execObrel o s) rfl rfl rfl (setsTile_updWarp s _ _)

end

/-- Settles O49: a run is found where the search has counted its rows free, and a record's fields lie at places of their own. -/
theorem operandBufferTiles : Obligations.OperandBufferTiles := by
  unfold Obligations.OperandBufferTiles
  refine ⟨fun o s => ⟨fun hres hold => ⟨fun base hrun => reaches_obres hres hold hrun, reaches_obres_parked hres hold⟩,
    reaches_obset, reaches_obrel o s⟩, fun k n base => freeRun_lowest, fun x base rows => tileMake_fields x⟩

end Sys2Proof.Machine

/-! Commands that take their place in a queue (spec/02_state.md R27; spec/09_engine_isa.md R202 to R209; spec/17_matrix_copy.md R334 to
R336). -/

namespace Sys2Proof.Machine

open Sys2Proof

/-! ### Places in the queues -/

/-- The commands of each core are the same ones in the same order, wherever they stand in their queues; memory, the acting place, the
flow and the warps are as they were. -/
structure State.Restamps (s t : State) : Prop where
  mem : t.mem = s.mem
  cur : t.cur = s.cur
  flow : t.flow = s.flow
  warps : ∀ c, (t.core c).warps = (s.core c).warps
  cmds : ∀ c, (t.core c).cmds.map Cmd.placed = (s.core c).cmds.map Cmd.placed

theorem State.Restamps.refl (s : State) : s.Restamps s := ⟨rfl, rfl, rfl, fun _ => rfl, fun _ => rfl⟩

theorem State.Restamps.trans {s t u : State} (h : s.Restamps t) (g : t.Restamps u) : s.Restamps u where
  mem := g.mem.trans h.mem
  cur := g.cur.trans h.cur
  flow := g.flow.trans h.flow
  warps c := (g.warps c).trans (h.warps c)
  cmds c := (g.cmds c).trans (h.cmds c)

theorem restamps_foldl {α : Type} {f : State → α → State} (hf : ∀ (s : State) x, s.Restamps (f s x)) (l : List α) (s : State) :
    s.Restamps (l.foldl f s) := by
  induction l generalizing s with
  | nil => exact .refl s
  | cons x l ih => exact (hf s x).trans (ih _)

theorem State.Restamps.warpAt_eq {s t : State} (h : s.Restamps t) (c w : Nat) : t.warpAt c w = s.warpAt c w := by
  rw [State.warpAt, Core.warp, h.warps c]
  rfl

theorem State.Restamps.warp_eq {s t : State} (h : s.Restamps t) : t.warp = s.warp := by
  rw [State.warp, h.cur]
  exact h.warpAt_eq _ _

theorem restamps_updCore (s : State) (c : Nat) {f : Core → Core} (hwarps : (f (s.core c)).warps = (s.core c).warps)
    (hcmds : (f (s.core c)).cmds.map Cmd.placed = (s.core c).cmds.map Cmd.placed) : s.Restamps (s.updCore c f) := by
  have hcore (e : Nat) : (s.updCore c f).core e = if e = c then f (s.core c) else s.core e := by
    split
    · next he => rw [he, core_updCore]
    · next he => exact core_setCore_ne s _ he
  refine ⟨rfl, rfl, rfl, fun e => ?_, fun e => ?_⟩ <;> rw [hcore] <;> split
  · next he => rw [he, hwarps]
  · rfl
  · next he => rw [he, hcmds]
  · rfl

theorem restamps_updCmd (s : State) (c id : Nat) {f : Cmd → Cmd} (hf : ∀ x, (f x).placed = x.placed) : s.Restamps (s.updCmd c id f) := by
  refine restamps_updCore s c rfl ?_
  rw [List.map_map]
  refine List.map_congr_left fun x _ => ?_
  simp only [Function.comp]
  split
  · exact hf x
  · rfl

theorem restamps_countCore (s : State) (c code tenant n : Nat) : s.Restamps (s.countCore c code tenant n) := by
  obtain ⟨m, hm⟩ := count_csr (s.core c) code tenant n
  exact restamps_updCore s c (by rw [hm]) (by rw [hm])

theorem restamps_newId (s : State) : s.Restamps s.newId.2 := ⟨rfl, rfl, rfl, fun _ => rfl, fun _ => rfl⟩

/-- A command goes to the end of another engine's queue (R336). -/
def Cmd.toEnd (x : Cmd) (e n : Nat) : Cmd := { x with eng := e, stamp := n }
def State.moveCmd (s : State) (c : Nat) (x : Cmd) (e : Nat) : State :=
  (s.newId.2.updCmd c x.id (·.toEnd e s.nextId)).countCore c 9 x.tenant 1

theorem restamps_moveCmd (s : State) (c : Nat) (x : Cmd) (e : Nat) : s.Restamps (s.moveCmd c x e) :=
  ((restamps_newId s).trans (restamps_updCmd _ c x.id (f := (·.toEnd e s.nextId)) fun _ => rfl)).trans (restamps_countCore _ _ _ _ _)

/-- Migration moves commands between the queues of the matrix engines. -/
theorem restamps_migrate (s : State) (c : Nat) : s.Restamps (s.migrate c) := by
  unfold State.migrate
  dsimp only
  split
  · exact .refl s
  · refine restamps_foldl (fun s x0 => ?_) _ s
    split
    · exact .refl s
    · split
      · split
        · split
          · exact restamps_moveCmd s c _ _
          · exact .refl s
        · exact .refl s
      · exact .refl s

/-! ### A command joins its core's -/

theorem Queues.restamps {s t u : State} {x : Cmd} {os : List Op} (h : Queues s t x os) (g : t.Restamps u) : Queues s u x os := by
  obtain ⟨hmem, hwarp, hcmds, hwarps⟩ := h
  exact ⟨fun a => by rw [g.mem, hmem], g.warp_eq.trans hwarp, (g.cmds _).trans hcmds, fun w hw => (g.warpAt_eq _ w).trans (hwarps w hw)⟩

theorem warp_addCmd (s : State) (y : Cmd) : (s.addCmd y).warp = s.warp.setCtr y.ctr (s.warp.ctr y.ctr + 1) := by
  rw [State.addCmd, warp_updWarp, State.warp, State.warpAt, updCore_cur, core_updCore]
  rfl

theorem cmds_addCmd (s : State) (y : Cmd) : ((s.addCmd y).core s.cur.core).cmds = (s.core s.cur.core).cmds ++ [y] := by
  rw [State.addCmd, State.updWarp, State.setWarp, State.setWarpAt, updCore_cur, core_updCore, core_updCore]
  rfl

theorem warpAt_addCmd_ne (s : State) (y : Cmd) {w : Nat} (h : w ≠ s.cur.slot) :
    (s.addCmd y).warpAt s.cur.core w = s.warpAt s.cur.core w := by
  rw [State.addCmd, State.updWarp, State.setWarp, updCore_cur, warpAt_setWarpAt_ne _ _ (.inr h), State.warpAt, core_updCore]
  rfl

theorem setCtr_append_nil (w : Warp) (k : Ctr) (n : Nat) : { w.setCtr k n with ops := w.ops ++ [] } = w.setCtr k n := by
  rw [List.append_nil]
  cases k <;> rfl

/-- A command that takes the next number joins the acting core's commands. -/
theorem queues_addCmd (s : State) {x y : Cmd} (hy : y.placed = ({ x with id := s.nextId } : Cmd).placed) :
    Queues s (s.newId.2.addCmd y) x [] := by
  have hctr : y.ctr = x.ctr := by
    have h := congrArg Cmd.ctr hy
    exact h
  refine ⟨fun _ => rfl, ?_, ?_, fun w hw => warpAt_addCmd_ne s.newId.2 y hw⟩
  · rw [setCtr_append_nil, ← hctr]
    exact warp_addCmd s.newId.2 y
  · refine (congrArg (List.map Cmd.placed) (cmds_addCmd s.newId.2 y)).trans ?_
    rw [List.map_append, List.map_append, List.map_singleton, List.map_singleton, hy]
    rfl

/-- A queue has room for a matrix command of the acting warp, and its counter too (R27, R207). -/
def State.matRoom (s : State) : Prop := ((s.core s.cur.core).queued (s.cur.slot % 4)).length < 8 ∧ s.warp.cmat < 63

theorem not_full_of_matRoom {s : State} (h : s.matRoom) :
    ¬ (8 ≤ ((s.core s.cur.core).queued (s.cur.slot % 4)).length ∨ s.warp.cmat = 63) := by
  obtain ⟨hqueue, hctr⟩ := h
  omega

/-- A matrix command with room takes its place. -/
theorem addMat_room {s : State} (h : s.matRoom) (x : Cmd) :
    Queues s (s.addMat x) x [] ∧ (s.addMat x).flow = s.flow ∧ (s.addMat x).cur = s.cur := by
  have hadd : s.addMat x = (s.newId.2.addCmd (({ x with id := s.nextId } : Cmd).toEnd (s.cur.slot % 4) s.nextId)).migrate s.cur.core :=
    if_neg (not_full_of_matRoom h)
  have hmig := restamps_migrate (s.newId.2.addCmd (({ x with id := s.nextId } : Cmd).toEnd (s.cur.slot % 4) s.nextId)) s.cur.core
  have hqueues := queues_addCmd s (x := x) (y := ({ x with id := s.nextId } : Cmd).toEnd (s.cur.slot % 4) s.nextId) rfl
  rw [hadd]
  exact ⟨hqueues.restamps hmig, hmig.flow, hmig.cur⟩

theorem addMat_full {s : State} (h : 8 ≤ ((s.core s.cur.core).queued (s.cur.slot % 4)).length ∨ s.warp.cmat = 63) (x : Cmd) :
    s.addMat x = s.stalled := if_pos h

/-! ### ACZ, ACWR and ACST (R202, R203) -/

/-- What walks have been started does not show in the place that a command takes. -/
theorem Queues.of_onlyWalks {s u t : State} {x : Cmd} {os : List Op} (h : s.OnlyWalks u) (hq : Queues u t x os) : Queues s t x os := by
  obtain ⟨hmem, hwarp, hcmds, hwarps⟩ := hq
  have hplaces : u.mem = s.mem ∧ u.nextId = s.nextId := by
    rw [h.1]
    exact ⟨rfl, rfl⟩
  rw [h.warp_eq] at hwarp
  rw [h.cur_eq, h.core_eq, hplaces.2] at hcmds
  rw [h.cur_eq] at hwarps
  exact ⟨fun a => by rw [hmem, hplaces.1], hwarp, hcmds, fun w hw => by rw [hwarps w hw, State.warpAt, h.core_eq]; rfl⟩

theorem matRoom_onlyWalks {s u : State} (h : s.OnlyWalks u) (hr : s.matRoom) : u.matRoom := by
  rwa [State.matRoom, h.core_eq, h.cur_eq, h.warp_eq]

theorem matCmd_onlyWalks {s u : State} (h : s.OnlyWalks u) (op acc : Nat) : u.matCmd op acc = s.matCmd op acc := by
  rw [State.matCmd, h.cur_eq, h.warp_eq, h.mask_eq]
  rfl

section
variable {o : VOps} {m : MOps} {s : State}

theorem reaches_acz (h : s.matRoom) : Reaches (.acz o) s fun t => Queues s t (s.matCmd 0x6C o.d.toNat) [] :=
  reaches_gated (out := execAcz o s) rfl rfl rfl (addMat_room h _).1

theorem reaches_acz_full (h : 8 ≤ ((s.core s.cur.core).queued (s.cur.slot % 4)).length ∨ s.warp.cmat = 63) :
    Reaches (.acz o) s fun t => t = { s with flow := .stall } :=
  reaches_gated (out := execAcz o s) rfl rfl (addMat_full h _) rfl

theorem reaches_acwr (h : s.matRoom) : Reaches (.acwr o) s fun t => Queues s t { s.matCmd 0x6E o.d.toNat with
    data := s.lanes.flatMap fun l => (List.range 16).map fun j => (l * 16 + j, s.warp.reg (o.a.toNat + j) l) } [] :=
  reaches_gated (out := execAcwr o s) rfl rfl rfl (addMat_room h _).1

theorem reaches_acst {va : Nat} {ps : List Nat} (h : s.matRoom) (hva : s.warp.ea m 128 s.lowest = va)
    (hsame : ∀ l ∈ s.lanes, s.warp.ea m 128 l = va) (halign : va % 128 = 0)
    (hlines : s.linesOf .wr va (if m.sz.toNat = 4 then 16 else 8) = .ok ps) :
    Reaches (.acst m) s fun t =>
      Queues s t { s.matCmd 0x6F m.d.toNat with sz := m.sz.toNat, va := va, lines := ps } [] := by
  have hwalks := onlyWalks_touch s va
  have hdiff : s.lanes.filter (fun l => s.warp.ea m 128 l != va) = [] :=
    List.filter_eq_nil_iff.mpr fun l hl => by simp [hsame l hl]
  have hfull : ¬ ((Except.ok ps : Except (Cause × Nat) (List Nat)).toOption.isSome = true
      ∧ (8 ≤ ((s.core s.cur.core).queued (s.cur.slot % 4)).length ∨ s.warp.cmat = 63)) := fun hn => not_full_of_matRoom h hn.2
  refine reaches_gated (out := execAcst m s) rfl rfl ?_
    (Queues.of_onlyWalks hwalks (addMat_room (matRoom_onlyWalks hwalks h) _).1)
  simp only [hva, hdiff, halign, hlines, ne_eq, not_true_eq_false, if_false, List.map_nil, withFaults_nil, if_neg hfull,
    matCmd_onlyWalks hwalks]

end

/-! ### ACRD (R202, R204) -/

/-- An accumulator read of the acting warp, made where no older command delays it. -/
def State.accRead (s : State) (x : Op) : Op :=
  let k := s.core s.cur.core
  if x.kind == .acrd && !x.done
      && !(k.cmds.any fun y => decide (y.eng < 4 ∧ y.id < x.id) && !y.ended && y.slot == s.cur.slot && y.acc == x.aop) then
    { x with done := true, val := s.warp.accVal x.aop, err := k.bufBad.contains (2048 + s.cur.slot * 16 + x.aop) }
  else x

theorem readAccs_eq (s : State) : s.readAccs s.cur.core s.cur.slot = s.updWarp fun w => { w with ops := w.ops.map s.accRead } := rfl

/-- A read that is made has the accumulator's elements, and all else of it is as it was. -/
theorem accRead_spec (s : State) (x : Op) :
    s.accRead x = { x with done := (s.accRead x).done, val := (s.accRead x).val, err := (s.accRead x).err }
      ∧ ((s.accRead x).done = true → x.done = true ∨ (s.accRead x).val = s.warp.accVal x.aop) := by
  unfold State.accRead
  dsimp only
  split
  · dsimp only
    exact ⟨rfl, fun _ => .inr rfl⟩
  · exact ⟨rfl, .inl⟩

/-- An operation joins the acting warp's, and those that are accumulator reads are made where they can be. -/
theorem addOp_readAccs_spec (s : State) (y : Op) : OnlyWarpIds s ((s.addOp y).readAccs s.cur.core s.cur.slot)
    ∧ ∃ g : Op → Op, ((s.addOp y).readAccs s.cur.core s.cur.slot).warp
        = { s.warp with ops := (s.warp.ops ++ [{ y with id := s.nextId }]).map g }
      ∧ ∀ x, g x = { x with done := (g x).done, val := (g x).val, err := (g x).err }
        ∧ ((g x).done = true → x.done = true ∨ (g x).val = s.warp.accVal x.aop) := by
  obtain ⟨hadd, hwarp⟩ := addOp_spec s y
  have hread : (s.addOp y).readAccs s.cur.core s.cur.slot
      = (s.addOp y).updWarp fun w => { w with ops := w.ops.map (s.addOp y).accRead } := readAccs_eq (s.addOp y)
  have hmade := accRead_spec (s.addOp y)
  rw [hwarp] at hmade
  rw [hread, warp_updWarp, hwarp]
  exact ⟨hadd.trans (onlyWarpIds_updWarp (s.addOp y) 0 _), (s.addOp y).accRead, rfl, hmade⟩

/-- The operation of an ACRD. -/
def State.readOp (s : State) (o : VOps) : Op :=
  { id := 0, lane := s.lowest, kind := .acrd, mask := s.mask, size := 0, aop := o.a.toNat, dest := some o.d }

theorem reaches_acrd (o : VOps) (s : State) : Reaches (.acrd o) s fun t => OnlyWarpIds s t ∧ t.warp = { s.warp with ops := t.warp.ops }
    ∧ t.warp.ops.map (·.id) = s.warp.ops.map (·.id) ++ [s.nextId]
    ∧ ∃ x ∈ t.warp.ops, x.id = s.nextId ∧ x.kind = .acrd ∧ x.mask = s.mask ∧ x.aop = o.a.toNat ∧ x.dest = some o.d
      ∧ (x.done = true → x.val = s.warp.accVal o.a.toNat) := by
  obtain ⟨hids, g, hwarp, hg⟩ := addOp_readAccs_spec s (s.readOp o)
  refine reaches_gated (out := execAcrd o s) (t := (s.addOp (s.readOp o)).readAccs s.cur.core s.cur.slot) rfl rfl rfl
    ⟨hids, by rw [hwarp], ?_, g { s.readOp o with id := s.nextId }, by simp [hwarp], ?_⟩
  · have hid (x : Op) : (g x).id = x.id := by rw [(hg x).1]
    rw [hwarp]
    simp only [List.map_map, Function.comp_def, hid, List.map_append, List.map_cons, List.map_nil]
  · obtain ⟨hshape, hval⟩ := hg { s.readOp o with id := s.nextId }
    refine ⟨?_, ?_, ?_, ?_, ?_, fun hdone => (hval hdone).resolve_left nofun⟩ <;> rw [hshape] <;> rfl

/-! ### MXLOOP and MXSTEP (R205 to R209) -/

/-- The format of B that a matrix command of several steps takes. -/
def Warp.formatB (w : Warp) (o : VOps) : Nat :=
  match o.x with | none => tileFmt (w.tile o.a.toNat) | some e => e.fmt.toNat

/-- What a matrix command of several steps captures. -/
def State.mxCmd (s : State) (o : VOps) (op n : Nat) : Cmd :=
  { s.matCmd op o.d.toNat with
    tile := s.warp.tile o.a.toNat, desc := BitVec.ofNat 64 (s.warp.reg64 o.b.toNat 0), fmtB := s.warp.formatB o, steps := n,
    wrow := bitsOf (s.warp.reg64 o.b.toNat 0) 28 20 }

theorem mx_eq (s : State) (o : VOps) (loop : Bool) (n : Nat) : s.mx o loop n =
    if !loopOk loop (s.warp.tile o.a.toNat) (s.warp.reg64 o.b.toNat 0) (s.warp.formatB o) n then s.faultOpen .recordInvalid
    else if ((s.core s.cur.core).wbOwner.getD s.warp.wg) ≠ s.warp.wg then s.faultOpen .protection
    else s.queueMx o (s.warp.tile o.a.toNat) (s.warp.reg64 o.b.toNat 0) (s.warp.formatB o) n loop := rfl

/-- A matrix command of several steps that passes its checks takes its place, and the weight buffer is its workgroup's. -/
theorem mx_queues {s : State} {o : VOps} {loop : Bool} {n : Nat} (h : s.matRoom) (hflow : s.flow = .advance)
    (hok : loopOk loop (s.warp.tile o.a.toNat) (s.warp.reg64 o.b.toNat 0) (s.warp.formatB o) n = true)
    (hown : (s.core s.cur.core).wbOwner.getD s.warp.wg = s.warp.wg) :
    Queues s (s.mx o loop n) (s.mxCmd o (if loop then 0x70 else 0x71) n) []
      ∧ ((s.mx o loop n).core s.cur.core).wbOwner = some s.warp.wg := by
  obtain ⟨hqueues, haddflow, hcur⟩ := addMat_room h (s.mxCmd o (if loop then 0x70 else 0x71) n)
  have hgo : (s.addMat (s.mxCmd o (if loop then 0x70 else 0x71) n)).flow ≠ .stall := by simp [haddflow, hflow]
  have hmx : s.mx o loop n = (s.addMat (s.mxCmd o (if loop then 0x70 else 0x71) n)).updCore s.cur.core
      fun k => { k with wbOwner := some s.warp.wg } := by
    rw [mx_eq, hok, hown, Bool.not_true, if_neg Bool.false_ne_true, if_neg (not_not_intro rfl), ← hcur]
    exact if_neg hgo
  rw [hmx, core_updCore]
  exact ⟨hqueues.restamps (restamps_updCore _ _ rfl rfl), rfl⟩

theorem reaches_mx {i : Instr} {s : State} {o : VOps} {loop : Bool} {n op : Nat} {out : Host.Outcome State Fault Refusal}
    (hexec : exec i s = out) (hout : out = s.gated i (·.mx o loop n)) (hop : (if loop then 0x70 else 0x71) = op)
    (h : s.matRoom) (hflow : s.flow = .advance)
    (hok : loopOk loop (s.warp.tile o.a.toNat) (s.warp.reg64 o.b.toNat 0) (s.warp.formatB o) n = true)
    (hown : (s.core s.cur.core).wbOwner.getD s.warp.wg = s.warp.wg) :
    Reaches i s fun t => Queues s t (s.mxCmd o op n) [] ∧ (t.core s.cur.core).wbOwner = some s.warp.wg :=
  reaches_gated hexec hout rfl (hop ▸ mx_queues h hflow hok hown)

/-- Settles O50: a matrix command joins its core's commands, and migration gives it another place but changes nothing else of it. -/
theorem matrixCommands : Obligations.MatrixCommands := by
  unfold Obligations.MatrixCommands
  intro o m s
  refine ⟨reaches_acz, reaches_acwr, fun ps h hsame halign hlines => reaches_acst h rfl hsame halign hlines, reaches_acrd o s, ?_, ?_,
    reaches_acz_full⟩
  · exact reaches_mx (i := .mxloop o) (out := execMxloop o s) rfl rfl rfl
  · exact reaches_mx (i := .mxstep o) (out := execMxstep o s) rfl rfl rfl

end Sys2Proof.Machine

/-! The end of a command, and all that it brings about, leaves the acting place as it is (spec/09_engine_isa.md R214). -/

namespace Sys2Proof.Machine

open Sys2Proof

theorem cur_foldl {α : Type} {f : State → α → State} (hf : ∀ s x, (f s x).cur = s.cur) (l : List α) (s : State) :
    (l.foldl f s).cur = s.cur := by
  induction l generalizing s with
  | nil => rfl
  | cons x l ih => exact (ih _).trans (hf s x)

/-! ### Requests to other devices (R447) -/

@[simp] theorem cur_toSwitch (s : State) (p : Packet) : (s.toSwitch p).cur = s.cur := by
  unfold State.toSwitch
  dsimp only
  split <;> rfl

@[simp] theorem cur_pump (s : State) (n : Nat) : (s.pump n).cur = s.cur := by
  unfold State.pump
  exact cur_foldl (fun s y => by simp) _ _

@[simp] theorem cur_transmit (s : State) (p : Packet) : (s.transmit p).cur = s.cur := by
  unfold State.transmit
  split
  · rfl
  · simp

@[simp] theorem cur_request (s : State) (src : Nat) (r : Sent) : (s.request src r).cur = s.cur := by
  unfold State.request
  dsimp only
  split
  · rfl
  · exact cur_transmit _ _

@[simp] theorem cur_postChunks (typ tenant : Nat) (quiet : Bool) (n : Nat) (s : State) (pa : Nat) (bs : List Byte) :
    (State.postChunks typ tenant quiet n s pa bs).cur = s.cur := by
  induction n generalizing s pa bs with
  | zero => rfl
  | succ n ih =>
    cases bs with
    | nil => rfl
    | cons b bs => exact (ih _ _ _).trans (cur_request _ _ _)

/-! ### Writes at the homes (R317, R426) -/

@[simp] theorem cur_takeSpare (s : State) (c : Nat) : (s.takeSpare c).cur = s.cur := by
  unfold State.takeSpare
  dsimp only
  split <;> rfl

@[simp] theorem cur_remapRow (s : State) (pa : Nat) : (s.remapRow pa).cur = s.cur := by
  unfold State.remapRow
  dsimp only
  split
  · rw [cur_takeSpare]
  · rfl

@[simp] theorem cur_meetsError (s : State) (tenant va pa : Nat) : (s.meetsError tenant va pa).cur = s.cur := by
  unfold State.meetsError
  dsimp only
  split
  · rw [cur_remapRow]
    rfl
  · rfl

@[simp] theorem cur_takeBack (s : State) (pa n : Nat) : (s.takeBack pa n).cur = s.cur := by
  unfold State.takeBack
  split <;> rfl

@[simp] theorem cur_homePart (s : State) (tenant va pa : Nat) (bs : List Byte) : (s.homePart tenant va pa bs).1.cur = s.cur := by
  have hrecall (s : State) (pa n : Nat) : (s.recall pa n).cur = s.cur := rfl
  unfold State.homePart
  split
  · rfl
  · split
    · exact cur_meetsError _ _ _ _
    · simp only [cur_takeBack, countHbm_cur, hrecall]
      split
      · exact countDie_cur _ _ _ _ _
      · rfl

@[simp] theorem cur_serveGo (g n : Nat) (s : State) : (State.serveGo g n s).cur = s.cur := by
  induction n generalizing s with
  | zero => rfl
  | succ n ih =>
    unfold State.serveGo
    split
    · rfl
    · split
      · rfl
      · dsimp only
        split
        · split
          · exact ih _
          · rfl
        · split
          all_goals
            split
            · exact ih _
            · split
              · rfl
              · exact ih _

@[simp] theorem cur_fillRange (s : State) (pa n : Nat) : (s.fillRange pa n).cur = s.cur := by
  unfold State.fillRange
  split
  · refine cur_foldl (fun s i => (cur_serveGo _ _ _).trans ?_) _ s
    split <;> rfl
  · rfl

@[simp] theorem cur_engineGo (tenant n : Nat) (s : State) (va pa : Nat) (bs : List Byte) :
    (State.engineGo tenant n s va pa bs).cur = s.cur := by
  induction n generalizing s va pa bs with
  | zero => rfl
  | succ n ih =>
    cases bs with
    | nil => rfl
    | cons b bs =>
      refine (ih _ _ _ _).trans ?_
      have hpart := cur_homePart s tenant va pa ((b :: bs).take (32 - pa % 32))
      split
      · next h => exact (cur_fillRange _ _ _).trans ((congrArg (·.1.cur) h).symm.trans hpart)
      · next h => exact (congrArg (·.1.cur) h).symm.trans hpart

@[simp] theorem cur_engineWrite (s : State) (tenant va pa : Nat) (bs : List Byte) (typ : Nat) (quiet : Bool) :
    (s.engineWrite tenant va pa bs typ quiet).cur = s.cur := by
  unfold State.engineWrite
  split <;> simp

@[simp] theorem cur_hubWrite (s : State) (tenant va : Nat) (bs : List Byte) : (s.hubWrite tenant va bs).cur = s.cur := by
  unfold State.hubWrite
  split <;> simp

@[simp] theorem cur_abDeliver (s : State) (tenant va pa n : Nat) : (s.abDeliver tenant va pa n).cur = s.cur := by
  unfold State.abDeliver State.abWrite
  dsimp only
  split
  · exact cur_meetsError _ _ _ _
  · split
    · rfl
    · exact cur_homePart _ _ _ _ _

/-! ### Threads that go on (R77, R80, R110, R264) -/

@[simp] theorem cur_resume (s : State) (c w : Nat) (ls : List Nat) : (s.resume c w ls).cur = s.cur := by
  unfold State.resume
  dsimp only
  split <;> rfl

@[simp] theorem cur_wakeBound (s : State) (c w : Nat) : (s.wakeBound c w).cur = s.cur := by
  unfold State.wakeBound
  dsimp only
  split <;> rfl

@[simp] theorem cur_settleMasks (s : State) (c w : Nat) : (s.settleMasks c w).cur = s.cur := by
  unfold State.settleMasks
  dsimp only
  split
  · rfl
  · split
    · rfl
    · rw [updWarpAt_cur, cur_resume]
      rfl

@[simp] theorem cur_grant (s : State) (c q : Nat) : (s.grant c q).cur = s.cur := by
  unfold State.grant
  split <;> rfl

@[simp] theorem cur_fragment (s : State) (c w addr pslot : Nat) (fs : List LaneFault) : (s.fragment c w addr pslot fs).1.cur = s.cur := by
  unfold State.fragment
  dsimp only
  split <;> rfl

@[simp] theorem cur_takePendGo (c w n : Nat) (s : State) : (State.takePendGo c w n s).cur = s.cur := by
  induction n generalizing s with
  | zero => rfl
  | succ n ih =>
    unfold State.takePendGo
    dsimp only
    split
    · rfl
    · split
      · rfl
      · split
        · rfl
        · split
          · exact ih _
          · split
            · rfl
            · split
              · next h => exact (ih _).trans ((congrArg (·.1.cur) h).symm.trans (cur_fragment _ _ _ _ _ _))
              · next h => exact (congrArg (·.1.cur) h).symm.trans (cur_fragment _ _ _ _ _ _)

@[simp] theorem cur_takePend (s : State) (c w : Nat) : (s.takePend c w).cur = s.cur := cur_takePendGo c w 32 s

@[simp] theorem cur_takeWpend (s : State) (c w : Nat) : (s.takeWpend c w).cur = s.cur := by
  unfold State.takeWpend
  dsimp only
  split
  · rfl
  · split <;> rfl

/-! ### Barriers (R117, R120) -/

@[simp] theorem cur_keepFreed (s : State) (g n : Nat) : (s.keepFreed g n).cur = s.cur := by
  unfold State.keepFreed
  dsimp only
  split <;> rfl

@[simp] theorem cur_releaseFrom (s : State) (c w : Nat) (p : Warp → Nat → Bool) : (s.releaseFrom c w p).cur = s.cur := by
  unfold State.releaseFrom
  dsimp only
  split
  · rfl
  · rw [cur_grant, cur_settleMasks, cur_resume]
    rfl

@[simp] theorem cur_settleBars (s : State) (g : Nat) : (s.settleBars g).cur = s.cur := by
  refine cur_foldl (fun s n => ?_) _ s
  unfold State.settleBar
  dsimp only
  split
  · rw [cur_foldl (fun s w => cur_releaseFrom _ _ _ _), cur_keepFreed]
    rfl
  · rfl

@[simp] theorem cur_settleCbar (s : State) (n coh : Nat) : (s.settleCbar n coh).cur = s.cur := by
  unfold State.settleCbar
  dsimp only
  split
  · rfl
  · split
    · rw [updLaunch_cur, cur_foldl (fun s x => cur_keepFreed _ _ _), cur_foldl fun s x => cur_foldl (fun s w => updWarpAt_cur _ _ _ _) _ s]
    · rfl

@[simp] theorem cur_settleCbars (s : State) (n : Nat) : (s.settleCbars n).cur = s.cur := by
  unfold State.settleCbars
  split
  · rfl
  · exact cur_foldl (fun s c => cur_settleCbar s n c) _ s

/-! ### The end of a workgroup and of a launch (R106, R296, R297, R432) -/

theorem cur_freeSlot (s : State) (g c w : Nat) : (s.freeSlot g c w).cur = s.cur := rfl

@[simp] theorem cur_vacate (s : State) (g : Nat) (st : WgState) : (s.vacate g st).cur = s.cur := by
  unfold State.vacate State.grantAll
  dsimp only
  rw [cur_foldl fun s q => cur_grant s _ q, updWg_cur, updCore_cur, cur_foldl fun s w => cur_freeSlot s g _ w]

@[simp] theorem cur_finishSave (s : State) (g : Nat) : (s.finishSave g).cur = s.cur := by
  unfold State.finishSave
  dsimp only
  split
  · exact cur_vacate _ _ _
  · rfl

@[simp] theorem cur_rereadAll (s : State) (t : Nat) : (s.rereadAll t).cur = s.cur := by
  refine cur_foldl (fun s q => ?_) _ s
  unfold State.reread
  dsimp only
  split
  · rfl
  · split <;> rfl

@[simp] theorem cur_addWord (s : State) (tenant va pa n : Nat) : (s.addWord tenant va pa n).cur = s.cur := by
  unfold State.addWord
  split <;> simp

@[simp] theorem cur_finishRecord (s : State) (tenant q recNo recVa donea status : Nat) :
    (s.finishRecord tenant q recNo recVa donea status).cur = s.cur := by
  unfold State.finishRecord
  dsimp only
  rw [cur_hubWrite, updQueue_cur]
  split
  · split
    · exact cur_hubWrite _ _ _ _
    · rw [cur_rereadAll, cur_addWord, cur_hubWrite]
  · exact cur_hubWrite _ _ _ _

@[simp] theorem cur_settleLaunch (s : State) (n : Nat) : (s.settleLaunch n).cur = s.cur := by
  unfold State.settleLaunch
  split
  · rfl
  · split
    · rw [cur_finishRecord, updLaunch_cur]
    · rfl

@[simp] theorem cur_settleEnd (s : State) (g : Nat) : (s.settleEnd g).cur = s.cur := by
  unfold State.settleEnd
  dsimp only
  split
  · rw [cur_settleLaunch, updLaunch_cur, cur_vacate]
  · rfl

@[simp] theorem cur_emptied (s : State) (c : Nat) (k : Core) : (s.emptied c k).cur = s.cur := by
  unfold State.emptied
  split
  · exact (restamps_migrate s c).cur
  · rfl

@[simp] theorem cur_freeArea (s : State) (tenant : Nat) (a : Option Nat) : (s.freeArea tenant a).cur = s.cur := by
  cases a <;> rfl

@[simp] theorem cur_settleHandler (s : State) (g : Nat) : (s.settleHandler g).cur = s.cur := by
  unfold State.settleHandler
  dsimp only
  split
  · rfl
  · rw [cur_settleLaunch, updLaunch_cur, updWg_cur, cur_vacate, cur_freeArea, cur_emptied]
    rfl

/-! ### The end of a command (R190, R214) -/

@[simp] theorem cur_settle (s : State) (c w : Nat) : (s.settle c w).cur = s.cur := by
  unfold State.settle
  simp only [cur_grant, cur_settleEnd, cur_finishSave, cur_settleCbars, cur_settleBars, cur_settleHandler, cur_settleMasks, cur_takeWpend,
    cur_takePend, cur_wakeBound]

@[simp] theorem cur_wakeAb (s : State) : s.wakeAb.cur = s.cur := by
  refine cur_foldl (fun s x => cur_foldl (fun s y => ?_) _ s) _ s
  dsimp only
  split
  · rfl
  · rw [cur_settle, cur_resume]
    rfl

@[simp] theorem cur_lower (s : State) (core tenant base off n : Nat) : (s.lower core tenant base off n).cur = s.cur := by
  unfold State.lower
  split
  · rfl
  · rw [cur_wakeAb, cur_abDeliver]

@[simp] theorem cur_lowerD (s : State) (c : Nat) (x : Cmd) (n : Nat) : (s.lowerD c x n).cur = s.cur := by
  unfold State.lowerD
  split
  · rfl
  · split
    · exact cur_foldl (fun s m => cur_lower _ _ _ _ _ _) _ s
    · exact cur_lower _ _ _ _ _ _

@[simp] theorem cur_lowerS (s : State) (c : Nat) (x : Cmd) (n : Nat) : (s.lowerS c x n).cur = s.cur := by
  unfold State.lowerS
  split
  · rfl
  · exact cur_lower _ _ _ _ _ _

@[simp] theorem cur_retire (s : State) (c : Nat) : (s.retire c).cur = s.cur := by
  refine cur_foldl (fun s x => ?_) _ s
  dsimp only
  split
  · rfl
  · split
    · exact cur_settle _ _ _
    · rfl

theorem cur_updCmd (s : State) (c id : Nat) (f : Cmd → Cmd) : (s.updCmd c id f).cur = s.cur := rfl

theorem cur_fetched (s : State) (f : FMap (FMap Byte)) (b : FMap Nat) : ({ s with fetched := f, fetchBad := b } : State).cur = s.cur := rfl

theorem cur_writeStatus (s : State) (x : Cmd) (c status : Nat) :
    (match statusOff x.op x.sub with
      | none => s
      | some off => s.engineWrite x.tenant (x.va + off) (localPa c (x.va - localVa c 0 0) off) (leBytes 2 status)).cur = s.cur := by
  split
  · rfl
  · exact cur_engineWrite _ _ _ _ _ _ _

@[simp] theorem cur_endCmd (s : State) (c id status : Nat) : (s.endCmd c id status).cur = s.cur := by
  unfold State.endCmd
  split
  · rfl
  · rw [cur_retire, cur_updCmd]
    refine (cur_fetched _ _ _).trans ((cur_lowerS _ _ _ _).trans ((cur_lowerD _ _ _ _).trans ?_))
    exact cur_writeStatus _ _ _ _

@[simp] theorem cur_discard (s : State) (c : Nat) (x : Cmd) : (s.discard c x).cur = s.cur := by
  unfold State.discard
  dsimp only
  split
  · rfl
  · exact cur_endCmd _ _ _ _

end Sys2Proof.Machine

/-! Engine commands and guards (spec/09_engine_isa.md R211 to R228; spec/05_control.md R121, R122). -/

namespace Sys2Proof.Machine

open Sys2Proof

/-! ### Collectives that enter their die's queue (R122, R369) -/

theorem restamps_updDie (s : State) (d : Nat) (f : Die → Die) : s.Restamps (s.updDie d f) :=
  ⟨rfl, rfl, rfl, fun _ => rfl, fun _ => rfl⟩

theorem restamps_started (s : State) (c id : Nat) : s.Restamps (s.updCmd c id fun x => { x with started := true }) :=
  restamps_updCmd s c id fun _ => rfl

theorem restamps_post (s : State) (c : Nat) (x : Cmd) : s.Restamps (s.post c x) :=
  (restamps_updDie s _ _).trans (restamps_updCmd _ c x.id (f := fun x => { x with started := true, statedD := 128 }) fun _ => rfl)

theorem restamps_postGo (xs : List (Nat × Cmd)) (s : State) : s.Restamps (State.postGo xs s) := by
  induction xs generalizing s with
  | nil => exact .refl s
  | cons y xs ih =>
    obtain ⟨c, x⟩ := y
    unfold State.postGo
    split
    · exact .refl s
    · split
      · exact (restamps_post s c x).trans (ih _)
      · exact (restamps_started s c x.id).trans (ih _)

theorem restamps_postAll (s : State) (d : Nat) : s.Restamps (s.postAll d) := restamps_postGo _ s

/-! ### The command that an engine instruction makes (R211, R212) -/

/-- The guard slot that the acting split's clause names, and the state a command under it takes (R76, R122). -/
def Warp.guardSlot (w : Warp) : Option Nat :=
  let h := match w.run with | none => 0#32 | some r => r.hdr
  if hdrCls h = 2 ∧ hdrGe h = true then some (hdrGslot h) else none
def Warp.guardState (w : Warp) : Guard :=
  match w.guardSlot with | none => .yes | some n => fget Guard.yes w.g n

/-- What an engine command takes from the acting warp, its block and its operand. -/
def State.engCmd (s : State) (op sub : Nat) (k : Ctr) (va block dest : Nat) : Cmd :=
  { id := 0, slot := s.cur.slot, wg := s.warp.wg, tenant := s.warp.tenant, ctr := k, op := op, sub := sub, guard := s.warp.guardSlot,
    gst := s.warp.guardState, va := va, block := block, mask := s.mask, tile := if op = 0x72 then s.warp.copyTile block else 0#64,
    local_ := (s.wg s.warp.wg).lbase, lsize := (s.wg s.warp.wg).lsize, dest := dest }

/-- The operation that a query leaves outstanding (R222). -/
def State.statusOp (s : State) (dest : Nat) : Op :=
  { id := s.nextId, lane := s.lowest, kind := .status, mask := s.mask, size := 0, dest := some (BitVec.ofNat 7 (96 + dest)) }

theorem mask_addCmd (s : State) (y : Cmd) : (s.addCmd y).mask = s.mask := by
  rw [State.mask, warp_addCmd]
  cases y.ctr <;> rfl

theorem lowest_addCmd (s : State) (y : Cmd) : (s.addCmd y).lowest = s.lowest := by rw [State.lowest, State.lanes, mask_addCmd]; rfl

/-- An operation joins the acting warp's after a command has taken its place. -/
theorem Queues.addOp {s u : State} {x : Cmd} {os : List Op} (h : Queues s u x os) (hcur : u.cur = s.cur) (y : Op) :
    Queues s (u.updWarp fun w => { w with ops := w.ops ++ [y] }) x (os ++ [y]) := by
  obtain ⟨hmem, hwarp, hcmds, hwarps⟩ := h
  refine ⟨hmem, ?_, ?_, fun w hw => ?_⟩
  · rw [warp_updWarp, hwarp]
    simp only [List.append_assoc]
  · rw [← hcmds, State.updWarp, State.setWarp, State.setWarpAt, hcur, core_updCore]
    rfl
  · rw [← hwarps w hw, State.updWarp, State.setWarp, hcur, warpAt_setWarpAt_ne _ _ (.inr hw)]

section
variable (s : State) (op sub eng : Nat) (k : Ctr) (va block dest : Nat)

/-- The command with its number and its place, and the state in which it has joined its core's. -/
def State.newCmd : Cmd := ({ s.engCmd op sub k va block dest with id := s.nextId } : Cmd).toEnd eng s.nextId
def State.withCmd : State := s.newId.2.addCmd (s.newCmd op sub eng k va block dest)

theorem queues_withCmd : Queues s (s.withCmd op sub eng k va block dest) (s.engCmd op sub k va block dest) [] :=
  queues_addCmd s (x := s.engCmd op sub k va block dest) (y := s.newCmd op sub eng k va block dest) rfl

theorem enqueue_eq : s.enqueue op sub eng k va block dest =
    let u := s.withCmd op sub eng k va block dest
    let v := if op = 0x75 ∧ sub = 0 ∧ s.warp.guardState ≠ .no then
      u.updWarp fun w => { w with ops := w.ops ++ [{ id := s.nextId, lane := u.lowest, kind := .status, mask := u.mask, size := 0,
                                                     dest := some (BitVec.ofNat 7 (96 + dest)) }] } else u
    let v := if s.warp.guardState = .no then v.discard v.cur.core (s.newCmd op sub eng k va block dest) else v
    if eng = 5 then v.postAll (v.cur.core / 48) else v := rfl

variable {op sub}

/-- A command whose guard is not false takes its place; collectives are then posted. -/
theorem queues_enqueue (hgst : s.warp.guardState ≠ .no) (hquery : ¬ (op = 0x75 ∧ sub = 0)) :
    Queues s (s.enqueue op sub eng k va block dest) (s.engCmd op sub k va block dest) [] := by
  have hno : ¬ (op = 0x75 ∧ sub = 0 ∧ s.warp.guardState ≠ .no) := fun h => hquery ⟨h.1, h.2.1⟩
  have hplace := queues_withCmd s op sub eng k va block dest
  rw [enqueue_eq]
  simp only [if_neg hno, if_neg hgst]
  split
  · exact hplace.restamps (restamps_postAll _ _)
  · exact hplace

/-- A query whose guard is not false leaves its result outstanding. -/
theorem queues_enqueue_query (hgst : s.warp.guardState ≠ .no) :
    Queues s (s.enqueue 0x75 0 eng k va block dest) (s.engCmd 0x75 0 k va block dest) [s.statusOp dest] := by
  have hop : ({ id := s.nextId, lane := (s.withCmd 0x75 0 eng k va block dest).lowest, kind := .status,
                mask := (s.withCmd 0x75 0 eng k va block dest).mask, size := 0, dest := some (BitVec.ofNat 7 (96 + dest)) } : Op)
      = s.statusOp dest := by
    rw [State.withCmd, mask_addCmd, lowest_addCmd]
    rfl
  have hquery_op := (queues_withCmd s 0x75 0 eng k va block dest).addOp rfl (s.statusOp dest)
  rw [enqueue_eq]
  simp only [hgst, hop, ne_eq, not_false_eq_true, and_self, if_true, if_false]
  split
  · exact hquery_op.restamps (restamps_postAll _ _)
  · exact hquery_op

/-- A command whose guard is false is discarded once it has joined its core's. -/
theorem enqueue_discarded (hgst : s.warp.guardState = .no) : s.enqueue op sub eng k va block dest =
    let v := (s.withCmd op sub eng k va block dest).discard s.cur.core (s.newCmd op sub eng k va block dest)
    if eng = 5 then v.postAll (s.cur.core / 48) else v := by
  have hcur : (s.withCmd op sub eng k va block dest).cur = s.cur := rfl
  rw [enqueue_eq]
  simp only [hgst, ne_eq, not_true_eq_false, and_false, if_false, if_true, cur_discard, hcur]

end

/-! ### The issue of an engine command (R212) -/

/-- The address of the block that an engine instruction names, and the start of the workgroup's allocation. -/
def State.blockVa (s : State) (o : EOps) : Nat := s.warp.reg64 (96 + o.sp.toNat) 0
def State.allocVa (s : State) : Nat := flatVa + s.cur.core * flatStep + (s.wg s.warp.wg).lbase

/-- A block's place in flat SRAM. -/
def blockPa (va : Nat) : Nat := flatBase + (va - flatVa)

theorem localPa_of_localVa {s : State} {va : Nat} (h : s.allocVa ≤ va) : localPa s.cur.core 0 (va - localVa s.cur.core 0 0) = blockPa va := by
  unfold State.allocVa at h
  unfold localPa localVa blockPa
  omega

/-- The split's earlier stores and home operations are ordered (R315). -/
def State.ordered (s : State) : Prop := ∀ l ∈ s.lanes, s.warp.unregistered l s.nextId = false

theorem released_of_ordered {s : State} (h : s.ordered) : s.released = true :=
  List.all_eq_true.mpr fun l hl => by rw [h l hl]; rfl

/-- The block of an engine instruction is in the workgroup's allocation, aligned and readable, and its queue and counter have room. -/
structure State.CanPost (s : State) (o : EOps) (op sub n : Nat) (k : Ctr) : Prop where
  ordered : s.ordered
  aligned : s.blockVa o % n = 0
  above : s.allocVa ≤ s.blockVa o
  below : s.blockVa o + n ≤ s.allocVa + (s.wg s.warp.wg).lsize
  sound : s.bad (blockPa (s.blockVa o)) n = false
  queue : s.queueFull s.cur.core op = false
  counter : s.warp.ctr k < 63
  tenant : op = 0x76 → sub ≠ 0 → bitsOf (s.rdN (blockPa (s.blockVa o)) n) 31 28 = s.warp.tenant

theorem eng_enqueues {s : State} {o : EOps} {op sub n eng : Nat} {k : Ctr} (hn : blockSize op sub = n) (hop : op ≠ 0x75)
    (h : s.CanPost o op sub n k) :
    s.eng o op sub eng k = s.enqueue op sub eng k (s.blockVa o) (s.rdN (blockPa (s.blockVa o)) n) o.m.toNat := by
  subst hn
  have hpa := localPa_of_localVa h.above
  have hin : localVa s.cur.core (s.wg s.warp.wg).lbase 0 ≤ s.blockVa o
      ∧ s.blockVa o + blockSize op sub ≤ localVa s.cur.core (s.wg s.warp.wg).lbase 0 + (s.wg s.warp.wg).lsize := ⟨h.above, h.below⟩
  have htenant : ¬ (op = 0x76 ∧ sub ≠ 0 ∧ bitsOf (s.rdN (blockPa (s.blockVa o)) (blockSize op sub)) 31 28 ≠ s.warp.tenant) :=
    fun ⟨h1, h2, h3⟩ => h3 (h.tenant h1 h2)
  have hroom : ¬ (s.queueFull s.cur.core op = true ∨ s.warp.ctr k = 63) := by
    rw [h.queue]
    have := h.counter
    simp only [Bool.false_eq_true, false_or]
    omega
  have hsound : ¬ (op ≠ 0x75 ∧ s.bad (blockPa (s.blockVa o)) (blockSize op sub) = true) := by simp [h.sound]
  have hva : s.warp.reg64 (96 + o.sp.toNat) 0 = s.blockVa o := rfl
  simp only [State.eng, hva, hpa, released_of_ordered h.ordered, Bool.not_true, Bool.false_eq_true, if_false, if_neg hop]
  rw [if_neg (not_not_intro h.aligned), if_neg fun hout => hout.2 hin, if_neg hsound, if_neg htenant, if_neg hroom]

theorem eng_enqueues_control {s : State} {o : EOps} {sub eng : Nat} (hordered : s.ordered) (haligned : s.blockVa o % 128 = 0)
    (hctr : s.warp.cclr < 63) : s.eng o 0x75 sub eng .clr = s.enqueue 0x75 sub eng .clr (s.blockVa o) 0 o.m.toNat := by
  have hroom : ¬ (s.queueFull s.cur.core 0x75 = true ∨ s.warp.ctr .clr = 63) := by
    change ¬ (false = true ∨ s.warp.cclr = 63)
    simp only [Bool.false_eq_true, false_or]
    omega
  have hva : s.warp.reg64 (96 + o.sp.toNat) 0 = s.blockVa o := rfl
  simp only [State.eng, hva, released_of_ordered hordered, Bool.not_true, Bool.false_eq_true, if_false, if_neg hroom, ne_eq,
    not_true_eq_false, false_and, if_true, Nat.reduceEqDiff]
  exact if_neg (not_not_intro haligned)

/-- What an engine instruction does with its block: the command takes its place, or, its guard being false, is discarded there. -/
theorem reaches_engine {i : Instr} {s : State} {o : EOps} {op sub n eng : Nat} {k : Ctr} {out : Host.Outcome State Fault Refusal}
    (hexec : exec i s = out) (hout : out = s.gated i (·.eng o op sub eng k)) (hn : blockSize op sub = n) (hop : op ≠ 0x75)
    (hclr : k = .clr ↔ eng = 5) (h : s.CanPost o op sub n k) :
    let x := s.engCmd op sub k (s.blockVa o) (s.rdN (blockPa (s.blockVa o)) n) o.m.toNat
    (s.warp.guardState ≠ .no → Reaches i s fun t => Queues s t x [])
    ∧ (s.warp.guardState = .no → Reaches i s fun t => ∃ u y, Queues s u x [] ∧ y.placed = ({ x with id := s.nextId } : Cmd).placed
        ∧ t = if k = .clr then (u.discard s.cur.core y).postAll (s.cur.core / 48) else u.discard s.cur.core y) := by
  have heng := eng_enqueues (eng := eng) hn hop h
  refine ⟨fun hgst => reaches_gated hexec hout heng (queues_enqueue s eng k _ _ _ hgst fun h => hop h.1),
    fun hgst => reaches_gated hexec hout (heng.trans (enqueue_discarded s eng k _ _ _ hgst)) ?_⟩
  exact ⟨_, s.newCmd op sub eng k (s.blockVa o) (s.rdN (blockPa (s.blockVa o)) n) o.m.toNat, queues_withCmd s op sub eng k _ _ _, rfl,
    by simp only [hclr]⟩

section
variable {s : State} {o : EOps} (hordered : s.ordered) (haligned : s.blockVa o % 128 = 0) (hctr : s.warp.cclr < 63)
  (hgst : s.warp.guardState ≠ .no)
include hordered haligned hctr hgst

theorem reaches_query : Reaches (.clctlQuery o) s fun t =>
    Queues s t (s.engCmd 0x75 0 .clr (s.blockVa o) 0 o.m.toNat) [s.statusOp o.m.toNat] :=
  reaches_gated (out := execClctlQuery o s) rfl rfl (eng_enqueues_control hordered haligned hctr)
    (queues_enqueue_query s 5 .clr _ _ _ hgst)

theorem reaches_abort : Reaches (.clctlAbort o) s fun t => Queues s t (s.engCmd 0x75 1 .clr (s.blockVa o) 0 o.m.toNat) [] :=
  reaches_gated (out := execClctlAbort o s) rfl rfl (eng_enqueues_control hordered haligned hctr)
    (queues_enqueue s 5 .clr _ _ _ hgst (by decide))

end

/-! ### Guard slots (R121, R122) -/

/-- A guard slot of a warp holds a state, and the other slots theirs. -/
def Warp.guardIs (w : Warp) (n : Nat) (x : Guard) (g : FMap Guard) : Prop :=
  ∀ j, fget Guard.yes g j = if j = n then x else fget Guard.yes w.g j

theorem guardIs_fset (w : Warp) (n : Nat) (x : Guard) : w.guardIs n x (fset w.g n x) := fun _ => fget_fset _ _ _ _ _

theorem reaches_gopen (o : VOps) (s : State) : Reaches (.gopen o) s fun t =>
    OnlyWarp s t ∧ t.warp = { s.warp with g := t.warp.g } ∧ s.warp.guardIs o.d.toNat .unresolved t.warp.g := by
  refine reaches_gated (out := execGopen o s) rfl rfl rfl ⟨onlyWarp_setWarp s _, ?_⟩
  rw [warp_updWarp]
  exact ⟨rfl, guardIs_fset _ _ _⟩

/-- A command of the acting warp is held on a guard slot. -/
def State.holds (s : State) (n : Nat) (y : Cmd) : Prop :=
  y.slot = s.cur.slot ∧ y.guard = some n ∧ y.gst = .unresolved ∧ y.ended = false

/-- The commands that are held on a slot, in issue order. -/
def State.heldOn (s : State) (n : Nat) : List Cmd :=
  (s.core s.cur.core).cmds.filter fun y => y.slot == s.cur.slot && y.guard == some n && y.gst == .unresolved && !y.ended

theorem mem_heldOn {s : State} {n : Nat} {y : Cmd} : y ∈ s.heldOn n ↔ y ∈ (s.core s.cur.core).cmds ∧ s.holds n y := by
  simp [State.heldOn, State.holds, and_assoc]

/-- A command held on a slot takes the slot's state. -/
def State.takeGuard (s : State) (n : Nat) (x : Guard) (y : Cmd) : Cmd :=
  if (s.heldOn n).any (·.id == y.id) then { y with gst := x } else y

/-- The slot and the commands held on it have their state. -/
def State.resolve (s : State) (n : Nat) (x : Guard) : State :=
  (s.updWarp fun w => { w with g := fset w.g n x }).updCore s.cur.core fun k => { k with cmds := k.cmds.map (s.takeGuard n x) }

/-- The commands held on a slot that resolved false end, a query without its word (R222). -/
def State.discardHeld (s : State) (c : Nat) (ys : List Cmd) : State :=
  ys.foldl (fun v y => (v.discard c y).updWarp fun w => { w with ops := w.ops.filter fun x => !(x.kind == .status && x.id == y.id) }) s

theorem gset_yes (s : State) (n : Nat) : s.gset n .yes = (s.resolve n .yes).postAll (s.cur.core / 48) := rfl
theorem gset_no (s : State) (n : Nat) :
    s.gset n .no = ((s.resolve n .no).discardHeld s.cur.core (s.heldOn n)).postAll (s.cur.core / 48) := rfl

theorem warp_resolve (s : State) (n : Nat) (x : Guard) : (s.resolve n x).warp = { s.warp with g := fset s.warp.g n x } := by
  have hcore (u : State) (c : Nat) (g : Cmd → Cmd) :
      (u.updCore c fun k => { k with cmds := k.cmds.map g }).warpAt c u.cur.slot = u.warpAt c u.cur.slot := by
    rw [State.warpAt, core_updCore]
    rfl
  exact (hcore (s.updWarp fun w => { w with g := fset w.g n x }) s.cur.core (s.takeGuard n x)).trans (warp_updWarp s _)

theorem cmds_resolve (s : State) (n : Nat) (x : Guard) :
    ((s.resolve n x).core s.cur.core).cmds = (s.core s.cur.core).cmds.map (s.takeGuard n x) := by
  rw [State.resolve, core_updCore, State.updWarp, State.setWarp, State.setWarpAt, core_updCore]
  rfl

/-- Each command that the slot holds is there with the slot's state. -/
theorem held_resolve {s : State} {n : Nat} (x : Guard) {y : Cmd} (hy : y ∈ (s.core s.cur.core).cmds) (hh : s.holds n y) :
    { y with gst := x } ∈ ((s.resolve n x).core s.cur.core).cmds := by
  have hany : (s.heldOn n).any (·.id == y.id) = true :=
    List.any_eq_true.mpr ⟨y, mem_heldOn.mpr ⟨hy, hh⟩, beq_self_eq_true y.id⟩
  have htake : s.takeGuard n x y = { y with gst := x } := if_pos hany
  rw [cmds_resolve, ← htake]
  exact List.mem_map_of_mem hy

theorem resolve_spec (s : State) (n : Nat) (x : Guard) : (s.resolve n x).mem = s.mem
    ∧ (s.resolve n x).warp = { s.warp with g := (s.resolve n x).warp.g } ∧ s.warp.guardIs n x (s.resolve n x).warp.g
    ∧ ∀ y ∈ (s.core s.cur.core).cmds, s.holds n y →
        ∃ z ∈ ((s.resolve n x).core s.cur.core).cmds, z.placed = ({ y with gst := x } : Cmd).placed := by
  refine ⟨rfl, ?_, ?_, fun y hy hh => ⟨_, held_resolve x hy hh, rfl⟩⟩
  · rw [warp_resolve]
  · rw [warp_resolve]
    exact guardIs_fset _ _ _

theorem State.Restamps.exists_placed {s t : State} (h : s.Restamps t) {c : Nat} {p : Cmd}
    (hs : ∃ z ∈ (s.core c).cmds, z.placed = p) : ∃ z ∈ (t.core c).cmds, z.placed = p := by
  rw [← List.mem_map] at hs ⊢
  rwa [h.cmds c]

section
variable {o : VOps} {s : State}

theorem reaches_gset {t : State} {p : State → Prop} {x : Guard} (hx : (if s.warp.reg o.a.toNat 0 = 0#32 then Guard.no else .yes) = x)
    (ht : s.gset o.d.toNat x = t) (hp : p t) : Reaches (.gset o) s p :=
  reaches_gated (out := execGset o s) rfl rfl (by rw [hx, ht]) hp

theorem reaches_gset_yes (h : s.warp.reg o.a.toNat 0 ≠ 0#32) : Reaches (.gset o) s fun t =>
    t.warp = { s.warp with g := t.warp.g } ∧ s.warp.guardIs o.d.toNat .yes t.warp.g ∧ (∀ a, rd8 t.mem a = rd8 s.mem a)
    ∧ ∀ y ∈ (s.core s.cur.core).cmds, s.holds o.d.toNat y →
        ∃ z ∈ (t.core s.cur.core).cmds, z.placed = ({ y with gst := .yes } : Cmd).placed := by
  obtain ⟨hmem, hwarp, hguard, hcmds⟩ := resolve_spec s o.d.toNat .yes
  have hpost := restamps_postAll (s.resolve o.d.toNat .yes) (s.cur.core / 48)
  refine reaches_gset (if_neg h) (gset_yes s _) ?_
  rw [hpost.warp_eq]
  exact ⟨hwarp, hguard, fun a => by rw [hpost.mem, hmem], fun y hy hh => hpost.exists_placed (hcmds y hy hh)⟩

theorem reaches_gset_free (hfree : ∀ y ∈ (s.core s.cur.core).cmds, ¬ s.holds o.d.toNat y) (h : s.warp.reg o.a.toNat 0 = 0#32) :
    Reaches (.gset o) s fun t =>
      t.warp = { s.warp with g := t.warp.g } ∧ s.warp.guardIs o.d.toNat .no t.warp.g ∧ ∀ a, rd8 t.mem a = rd8 s.mem a := by
  obtain ⟨hmem, hwarp, hguard, -⟩ := resolve_spec s o.d.toNat .no
  have hpost := restamps_postAll (s.resolve o.d.toNat .no) (s.cur.core / 48)
  have hnone : s.heldOn o.d.toNat = [] := List.eq_nil_iff_forall_not_mem.mpr fun y hy => (mem_heldOn.mp hy).elim (hfree y)
  refine reaches_gset (if_pos h) (t := (s.resolve o.d.toNat .no).postAll (s.cur.core / 48)) ?_ ?_
  · rw [gset_no, hnone]
    rfl
  · rw [hpost.warp_eq]
    exact ⟨hwarp, hguard, fun a => by rw [hpost.mem, hmem]⟩

theorem reaches_gset_no (h : s.warp.reg o.a.toNat 0 = 0#32) : Reaches (.gset o) s fun t => ∃ u : State,
    u.warp = { s.warp with g := u.warp.g } ∧ s.warp.guardIs o.d.toNat .no u.warp.g ∧ u.mem = s.mem
    ∧ (∀ y ∈ (s.core s.cur.core).cmds, s.holds o.d.toNat y →
        ∃ z ∈ (u.core s.cur.core).cmds, z.placed = ({ y with gst := .no } : Cmd).placed)
    ∧ t = (u.discardHeld s.cur.core (s.heldOn o.d.toNat)).postAll (s.cur.core / 48) := by
  obtain ⟨hmem, hwarp, hguard, hcmds⟩ := resolve_spec s o.d.toNat .no
  exact reaches_gset (if_pos h) (gset_no s _) ⟨_, hwarp, hguard, hmem, hcmds, rfl⟩

end

/-- A packed-vector copy whose stated count still needs a header of another unit waits for it (R353). -/
theorem discard_waits {s : State} {c : Nat} {y : Cmd} (hop : y.op = 0x72) (hexpand : (CopyReq.parse y.block).expand = true)
    (hneed : s.expandNeed c y.tenant (CopyReq.parse y.block) ≠ none) : s.discard c y = s := by
  have hsome := Option.isSome_iff_ne_none.mpr hneed
  exact if_pos (by rw [hop, hexpand, hsome]; rfl)

theorem discard_ends {s : State} {c : Nat} {y : Cmd} (h : y.op ≠ 0x72 ∨ (CopyReq.parse y.block).expand = false
    ∨ s.expandNeed c y.tenant (CopyReq.parse y.block) = none) : s.discard c y = s.endCmd c y.id stDiscarded := by
  refine if_neg fun hwait => ?_
  obtain ⟨⟨hop, hexpand⟩, hsome⟩ := (Bool.and_eq_true_iff.mp hwait).imp_left Bool.and_eq_true_iff.mp
  rcases h with h | h | h
  · exact h (beq_iff_eq.mp hop)
  · rw [h] at hexpand
    exact Bool.false_ne_true hexpand
  · rw [h] at hsome
    exact Bool.false_ne_true hsome

/-- Settles O51: the block passes its checks and the command joins its core's, where posting gives it no more than its place; a slot's
state is written with that of the commands held on it, which end where it is false. -/
theorem engineCommands : Obligations.EngineCommands := by
  unfold Obligations.EngineCommands
  refine ⟨fun o s => ?_, fun o s => ?_⟩
  · intro w c va g base h guard gst cmd engine control
    have takes {i : Instr} {op sub n eng : Nat} {k : Ctr} {out : Host.Outcome State Fault Refusal} (hexec : exec i s = out)
        (hout : out = s.gated i (·.eng o op sub eng k)) (hn : blockSize op sub = n) (hop : op ≠ 0x75) (hclr : k = .clr ↔ eng = 5) :
        engine i op sub n k := fun hordered haligned habove hbelow hsound hqueue hctr htenant =>
      reaches_engine hexec hout hn hop hclr ⟨hordered, haligned, habove, hbelow, hsound, hqueue, hctr, htenant⟩
    exact ⟨takes (out := execCpyq o s) rfl rfl rfl (by decide) (by decide),
      takes (out := execGthq o s) rfl rfl rfl (by decide) (by decide),
      takes (out := execClpost o s) rfl rfl rfl (by decide) (by decide),
      reaches_query, reaches_abort,
      takes (out := execEpopen o s) rfl rfl rfl (by decide) (by decide),
      takes (out := execEpstep o s) rfl rfl rfl (by decide) (by decide),
      takes (out := execEpclose o s) rfl rfl rfl (by decide) (by decide),
      takes (out := execRwsend o s) rfl rfl rfl (by decide) (by decide),
      takes (out := execLqtake o s) rfl rfl rfl (by decide) (by decide)⟩
  · exact ⟨reaches_gopen o s, reaches_gset_yes, reaches_gset_free, reaches_gset_no, fun u y => ⟨discard_waits, discard_ends⟩⟩

end Sys2Proof.Machine

/-! A clearing processor's turn and an event's turn (spec/10_system_clearing_isa.md R249, R250; spec/21_collectives.md R383). -/

namespace Sys2Proof.Machine

open Sys2Proof

/-! ### What the step runs -/

theorem isEvent_of_formOf {e : Instr} (h : formOf e = .event) : isEvent e = true := by
  cases e <;> simp only [formOf, reduceCtorEq] at h <;> rfl

theorem step_of_clear {s u v : State} {d p : Nat} {i : Instr} (hnext : s.nextTurn = (.clear d p, u)) (hpower : u.power.down = false)
    (hturn : u.clearTurn d p = (v, some i)) : step s = match exec i v with
      | .next t => .next (u.clearOut t d p)
      | .fault f => .fault f
      | .refused e => .refused e := by
  unfold step State.oneStep
  simp only [hnext, hpower, State.doTurn, hturn, Bool.false_and, Bool.false_eq_true, if_false]
  cases exec i v <;> rfl

/-- An event happens, but for one of a core whose die has stopped. -/
theorem step_of_event {s u : State} {e : Instr} {a : Arg} (hnext : s.nextTurn = (.event e a, u)) (hpower : u.power.down = false)
    (hform : formOf e = .event) : step s =
      if Instr.onCore e = true ∧ (u.die (a.core / 48)).halted = true then .next u else exec e { u with arg := a, cur := {} } := by
  unfold step State.oneStep
  simp only [hnext, hpower, State.doTurn, isEvent_of_formOf hform, Bool.false_and, Bool.not_true, Bool.false_or, Bool.false_eq_true,
    if_false, Bool.and_eq_true]

/-! ### The instruction that is due at a clearing processor -/

/-- A read of this device's memory that no switch slice and no lasting error stands before. -/
theorem jobRead_local {s : State} {pa n : Nat} (hhere : isFabric pa = false) (hheld : s.swHeld pa n = false)
    (hgood : s.bad pa n = false) : s.jobRead pa n = .ok (s.rdN pa n) := by
  simp only [State.jobRead, hhere, hheld, hgood, Bool.false_eq_true, if_false]

/-- A processor whose program runs decodes the word that its program counter points to. -/
theorem clearTurn_fetched {s : State} {d p pa : Nat} {x : Coll} (hcoll : (s.clearActs d p).clear.coll = some x)
    (hended : (s.clearActs d p).clear.ended = none) (hdie : ((s.clearActs d p).die d).halted = false)
    (hposted : (s.clearActs d p).posted x.cmd = false) (habort : x.abort = false) (hprog : x.fAlgo = 3)
    (hmap : (s.clearActs d p).hubTranslate x.tenant (s.clearActs d p).clear.pc .ex = .ok pa)
    (hread : (s.clearActs d p).jobRead pa 4 = .ok ((s.clearActs d p).rdN pa 4)) :
    s.clearTurn d p = match Decode.clr (BitVec.ofNat 32 ((s.clearActs d p).rdN pa 4)) with
      | .ok i => (s.clearActs d p, some i)
      | .error _ => ((s.clearActs d p).clearEnd stRange, none) := by
  have hlive : ((s.clearActs d p).clear.ended.isSome || ((s.clearActs d p).die d).halted || (s.clearActs d p).posted x.cmd) = false := by
    rw [hended, hdie, hposted]
    rfl
  unfold State.clearTurn
  simp only [hcoll, hlive, habort, hprog, hmap, hread, Bool.false_eq_true, if_false, ne_eq, not_true_eq_false]
  cases Decode.clr (BitVec.ofNat 32 ((s.clearActs d p).rdN pa 4)) <;> rfl

/-- Settles O16: the turn that comes next runs what it has found, and a clearing processor finds the word its program counter
points to. -/
theorem stepRunsClearingAndEvents : Obligations.StepRunsClearingAndEvents := by
  unfold Obligations.StepRunsClearingAndEvents
  refine ⟨fun s u v d p i hnext hpower hturn => step_of_clear hnext hpower hturn,
    fun s u e a hnext hpower hform => step_of_event hnext hpower hform,
    fun s d p pa x => ?fetched⟩
  intro u hcoll hended hdie hposted habort hprog hmap hhere hheld hgood
  exact clearTurn_fetched hcoll hended hdie hposted habort hprog hmap (jobRead_local hhere hheld hgood)

end Sys2Proof.Machine

/-! What a clearing processor reads and writes of its tenant's space, and what no write of an engine touches
(spec/10_system_clearing_isa.md R249, R251; spec/15_memory_model.md R317). -/

namespace Sys2Proof.Machine

open Sys2Proof

/-! ### Counting what was read (spec/28_system.md R466) -/

theorem State.OnlyWalks.clear_eq {s t : State} (h : s.OnlyWalks t) : t.clear = s.clear := by
  rw [State.clear, State.proc, h.cur_eq, h.2]
  rfl

theorem State.OnlyWalks.group_eq {s t : State} (h : s.OnlyWalks t) (x : Coll) : t.group x = s.group x := by
  rw [h.1]
  rfl

theorem State.OnlyWalks.swHeld_eq {s t : State} (h : s.OnlyWalks t) (pa n : Nat) : t.swHeld pa n = s.swHeld pa n := by
  rw [h.1]
  rfl

theorem State.OnlyWalks.hubTranslate_eq {s t : State} (h : s.OnlyWalks t) (tenant va : Nat) (need : Need) :
    t.hubTranslate tenant va need = s.hubTranslate tenant va need := by
  have hltlb : (t.die (noCore / 48)).ltlb = (s.die (noCore / 48)).ltlb := by rw [h.2]
  obtain ⟨ws, ds, rfl⟩ : ∃ ws ds, t = { s with walks := ws, dies := ds } := ⟨_, _, h.1⟩
  have hleaf : State.leaf { s with walks := ws, dies := ds } noCore tenant va = s.leaf noCore tenant va := by
    rw [State.leaf, hltlb]
    rfl
  rw [State.hubTranslate, State.translate, hleaf]
  rfl

theorem onlyWalks_countHbm (s : State) (pa code tenant n : Nat) : s.OnlyWalks (s.countHbm pa code tenant n) := by
  unfold State.countHbm
  split
  · exact onlyWalks_countDie ..
  · exact .refl s

theorem onlyWalks_spaceHasRead (s : State) (tenant va n : Nat) : s.OnlyWalks (s.spaceHasRead tenant va n) := by
  unfold State.spaceHasRead
  split
  · exact .refl s
  · exact onlyWalks_countHbm ..

theorem spaceHasRead_eq {s : State} {tenant va pa : Nat} (h : s.hubTranslate tenant va .rd = .ok pa) (n : Nat) :
    s.spaceHasRead tenant va n = s.countRead pa tenant n := by
  rw [State.spaceHasRead, h]

/-! ### Reads and writes within one page (R324) -/

theorem spaceRead_page {s : State} {tenant va n pa v : Nat} (hn : 0 < n) (hpage : n ≤ 65536 - va % 65536)
    (hmap : s.hubTranslate tenant va .rd = .ok pa) (hread : s.jobRead pa n = .ok v) :
    s.spaceRead tenant va n = .ok (leBytes n v) := by
  simp [State.spaceRead, State.spaceGo, Nat.ne_of_gt hn, Nat.min_eq_left hpage, hmap, hread]

theorem spaceWrite_page {s : State} {tenant va pa typ : Nat} {bs : List Byte} (hbs : bs ≠ []) (hpage : bs.length ≤ 65536 - va % 65536)
    (hmap : s.hubTranslate tenant va .wr = .ok pa) (hheld : isFabric pa = true ∨ s.swHeld pa bs.length = false) :
    s.spaceWrite tenant va bs typ = (s.engineWrite tenant va pa bs typ, none) := by
  have hfree : (!isFabric pa && s.swHeld pa bs.length) = false := by
    rcases hheld with h | h <;> rw [h]
    · rfl
    · exact Bool.and_false _
  simp [State.spaceWrite, State.spaceWGo, hbs, hmap, hfree, Nat.min_eq_right hpage, List.take_of_length_le hpage,
    List.drop_of_length_le hpage]

theorem leNat_lt (bs : List Byte) : leNat bs < 256 ^ bs.length := by
  rw [← leBytes_leNat bs, leNat_leBytes, leBytes_length]
  exact Nat.mod_lt _ (Nat.pow_pos (by decide))

theorem rdN_lt (s : State) (pa n : Nat) : s.rdN pa n < 256 ^ n := by
  have h := leNat_lt (rdBytes s.mem pa n)
  rwa [rdBytes_length] at h

theorem leNat_leBytes_rdN (s : State) (pa n : Nat) : leNat (leBytes n (s.rdN pa n)) = s.rdN pa n := by
  rw [leNat_leBytes, Nat.mod_eq_of_lt (rdN_lt s pa n)]

/-! ### Elements -/

theorem elemsOf_length (w n off : Nat) (bs : List Byte) : (elemsOf w n off bs).length = n := by
  simp [elemsOf]

theorem elemRead_length {s : State} {tenant base w i n : Nat} {es : List Nat} (h : s.elemRead tenant base w i n = .ok es) :
    es.length = n := by
  unfold State.elemRead at h
  dsimp only at h
  split at h
  · cases h
  · cases h
    exact elemsOf_length ..

theorem Coll.bytes_zero (x : Coll) : x.bytes 0 = 0 := by
  simp [Coll.bytes]

/-- Elements of whole bytes that lie within one page. -/
theorem elemWrite_page {s : State} {x : Coll} {va pa typ : Nat} {zs : List Nat} (hw : x.width % 8 = 0) (hbytes : 0 < x.bytes zs.length)
    (hpage : x.bytes zs.length ≤ 65536 - va % 65536) (hmap : s.hubTranslate x.tenant va .wr = .ok pa)
    (hheld : isFabric pa = true ∨ s.swHeld pa (x.bytes zs.length) = false) :
    s.elemWrite x.tenant va x.width 0 zs typ
      = (s.engineWrite x.tenant va pa (leBytes (x.bytes zs.length) (packElems x.width zs)) typ, none) := by
  have hlen := leBytes_length (x.bytes zs.length) (packElems x.width zs)
  rw [State.elemWrite, if_pos hw]
  simp only [Nat.zero_mul, Nat.zero_div, Nat.zero_add, Nat.add_zero, Nat.sub_zero]
  refine spaceWrite_page (List.ne_nil_of_length_pos ?_) ?_ hmap ?_
  all_goals rw [← Coll.bytes, hlen]
  all_goals assumption

/-! ### Writes leave the registered groups (R383) -/

theorem groups_foldl {α : Type} {f : State → α → State} (hf : ∀ s x, (f s x).groups = s.groups) (l : List α) (s : State) :
    (l.foldl f s).groups = s.groups := by
  induction l generalizing s with
  | nil => rfl
  | cons x l ih => exact (ih _).trans (hf s x)

theorem groups_toSwitch (s : State) (p : Packet) : (s.toSwitch p).groups = s.groups := by
  unfold State.toSwitch
  dsimp only
  split <;> rfl

theorem groups_transmit (s : State) (p : Packet) : (s.transmit p).groups = s.groups := by
  unfold State.transmit State.pump
  split
  · rfl
  · exact groups_foldl (fun s y => (groups_toSwitch _ _).trans (by simp)) _ _

theorem groups_request (s : State) (src : Nat) (r : Sent) : (s.request src r).groups = s.groups := by
  unfold State.request
  dsimp only
  split
  · rfl
  · exact groups_transmit _ _

theorem groups_postChunks (typ tenant : Nat) (quiet : Bool) (n : Nat) (s : State) (pa : Nat) (bs : List Byte) :
    (State.postChunks typ tenant quiet n s pa bs).groups = s.groups := by
  induction n generalizing s pa bs with
  | zero => rfl
  | succ n ih =>
    cases bs with
    | nil => rfl
    | cons b bs => exact (ih _ _ _).trans (groups_request _ _ _)

theorem groups_remapRow (s : State) (pa : Nat) : (s.remapRow pa).groups = s.groups := by
  have htake (c : Nat) : (s.takeSpare c).groups = s.groups := by
    unfold State.takeSpare
    dsimp only
    split <;> rfl
  unfold State.remapRow
  dsimp only
  split
  · rw [htake]
  · rfl

theorem groups_homePart (s : State) (tenant va pa : Nat) (bs : List Byte) : (s.homePart tenant va pa bs).1.groups = s.groups := by
  have hmeets : (s.meetsError tenant va pa).groups = s.groups := by
    unfold State.meetsError
    dsimp only
    split
    · exact groups_remapRow _ _
    · rfl
  have hback (s : State) : (s.takeBack pa bs.length).groups = s.groups := by
    unfold State.takeBack
    split <;> rfl
  unfold State.homePart
  split
  · rfl
  · split
    · exact hmeets
    · refine (hback _).trans ((countHbm_groups _ _ _ _ _).trans ?_)
      show (ite _ _ _ : State).groups = s.groups
      split
      · exact countDie_groups _ _ _ _ _
      · rfl

theorem groups_serveGo (g n : Nat) (s : State) : (State.serveGo g n s).groups = s.groups := by
  induction n generalizing s with
  | zero => rfl
  | succ n ih =>
    unfold State.serveGo
    split
    · rfl
    · split
      · rfl
      · dsimp only
        split
        · split
          · exact ih _
          · rfl
        · split
          all_goals
            split
            · exact ih _
            · split
              · rfl
              · exact ih _

theorem groups_fillRange (s : State) (pa n : Nat) : (s.fillRange pa n).groups = s.groups := by
  unfold State.fillRange
  split
  · refine groups_foldl (fun s i => (groups_serveGo _ _ _).trans ?_) _ s
    split <;> rfl
  · rfl

theorem groups_engineGo (tenant n : Nat) (s : State) (va pa : Nat) (bs : List Byte) :
    (State.engineGo tenant n s va pa bs).groups = s.groups := by
  induction n generalizing s va pa bs with
  | zero => rfl
  | succ n ih =>
    cases bs with
    | nil => rfl
    | cons b bs =>
      refine (ih _ _ _ _).trans ?_
      have hpart := groups_homePart s tenant va pa ((b :: bs).take (32 - pa % 32))
      split
      · next h => exact (groups_fillRange _ _ _).trans ((congrArg (·.1.groups) h).symm.trans hpart)
      · next h => exact (congrArg (·.1.groups) h).symm.trans hpart

theorem groups_engineWrite (s : State) (tenant va pa : Nat) (bs : List Byte) (typ : Nat) :
    (s.engineWrite tenant va pa bs typ).groups = s.groups := by
  unfold State.engineWrite
  split
  · exact groups_postChunks ..
  · exact groups_engineGo ..

/-- A state with the same acting processor and the same groups registered. -/
def State.SameGroups (s t : State) : Prop := t.cur = s.cur ∧ t.groups = s.groups

theorem State.SameGroups.group_eq {s t : State} (h : s.SameGroups t) (x : Coll) : t.group x = s.group x := by
  rw [State.group, h.2]
  rfl

theorem State.SameGroups.trans {s t u : State} (h : s.SameGroups t) (g : t.SameGroups u) : s.SameGroups u :=
  ⟨g.1.trans h.1, g.2.trans h.2⟩

theorem State.OnlyWalks.sameGroups {s t : State} (h : s.OnlyWalks t) : s.SameGroups t := ⟨h.cur_eq, by rw [h.1]⟩

theorem sameGroups_spaceWGo (typ tenant n : Nat) (s : State) (va : Nat) (bs : List Byte) :
    s.SameGroups (State.spaceWGo typ tenant n s va bs).1 := by
  induction n generalizing s va bs with
  | zero => exact ⟨rfl, rfl⟩
  | succ n ih =>
    unfold State.spaceWGo
    split
    · exact ⟨rfl, rfl⟩
    · dsimp only
      split
      · exact ⟨rfl, rfl⟩
      · split
        · exact ⟨rfl, rfl⟩
        · exact State.SameGroups.trans ⟨cur_engineWrite _ _ _ _ _ _ _, groups_engineWrite _ _ _ _ _ _⟩ (ih _ _ _)

theorem sameGroups_elemWrite (s : State) (tenant base w i : Nat) (xs : List Nat) (typ : Nat) :
    s.SameGroups (s.elemWrite tenant base w i xs typ).1 := by
  unfold State.elemWrite
  dsimp only
  split
  · exact sameGroups_spaceWGo ..
  · split
    · exact ⟨rfl, rfl⟩
    · exact sameGroups_spaceWGo ..

theorem State.SameGroups.of_elemWrite {s t : State} {tenant base w i typ : Nat} {xs : List Nat} {r : Option Nat}
    (h : s.elemWrite tenant base w i xs typ = (t, r)) : s.SameGroups t := by
  simpa only [h] using sameGroups_elemWrite s tenant base w i xs typ

/-- Coding writes residuals, and nothing of the groups. -/
theorem sameGroups_code (s : State) (x : Coll) (k role va m base : Nat) : s.SameGroups (s.code x k role va m base).1 := by
  unfold State.code
  split
  · exact ⟨rfl, rfl⟩
  · dsimp only
    split
    · exact ⟨rfl, rfl⟩
    · split
      · have hread (a b : Nat) := ((onlyWalks_spaceHasRead s x.tenant va a).trans (onlyWalks_spaceHasRead _ x.tenant b a)).sameGroups
        split
        · next h => exact (hread _ _).trans (.of_elemWrite h)
        · next h => exact (hread _ _).trans (.of_elemWrite h)
      · exact ⟨rfl, rfl⟩
      · exact ⟨rfl, rfl⟩

end Sys2Proof.Machine

/-! The instructions of a clearing processor that runs a collective (spec/10_system_clearing_isa.md R250 to R252;
spec/21_collectives.md R369, R379, R383, R384). -/

namespace Sys2Proof.Machine

open Sys2Proof

/-! ### The acting processor's registers -/

theorem clear_setClear (s : State) (c : Clear) : (s.setClear c).clear = c := by
  simp [State.clear, State.setClear, State.setProc, State.proc]

theorem clear_clearEnd (s : State) (st : Nat) : (s.clearEnd st).clear = { s.clear with ended := some st, asked := false } :=
  clear_setClear s _

theorem immK_eq (i : BitVec 15) : immK i = i.toNat / 8192 := by
  have := i.isLt
  simp only [immK, bitsOf]
  omega

/-! ### Whether a message step goes on (R383, R384) -/

theorem stepEnds_of_live {s : State} {c : Clear} {x : Coll} {g : CGroup} (hgone : c.gone = none) (hg : s.group x = some g)
    (hlost : g.lost = false) : s.stepEnds c x = none := by
  simp only [State.stepEnds, hgone, hg, hlost, Bool.false_eq_true, if_false]

theorem stepEnds_of_gone {s : State} {c : Clear} {x : Coll} {st : Nat}
    (h : c.gone = some st ∨ c.gone = none ∧ (s.group x = none ∧ st = stRange ∨ ∃ g, s.group x = some g ∧ g.lost = true ∧ st = stLost)) :
    s.stepEnds c x = some st := by
  rcases h with hgone | ⟨hgone, ⟨hg, rfl⟩ | ⟨g, hg, hlost, rfl⟩⟩
  · simp only [State.stepEnds, hgone]
  · simp only [State.stepEnds, hgone, hg]
  · simp only [State.stepEnds, hgone, hg, hlost, if_true]

/-! ### A message's way out (R369) -/

/-- The message of some elements to a rank of a group. -/
def CGroup.message (g : CGroup) (x : Coll) (rank rk chan kind count : Nat) (data : List Byte) : Msg :=
  { dev := (g.members.getD rk (0, 0)).1, die := (g.members.getD rk (0, 0)).2, tenant := x.tenant, group := x.fGroup,
    stream := x.fStream, seq := x.seq, src := rank, chan := chan, kind := kind, count := count, data := data }

theorem sendMsg_eq {s : State} {x : Coll} {g : CGroup} (hg : s.group x = some g) (rank rk chan kind count typ : Nat) (data : List Byte) :
    s.sendMsg x rank rk chan kind count typ data = s.emit s.cur.core typ (g.message x rank rk chan kind count data) := by
  rw [State.sendMsg, hg]
  rfl

theorem sendElems_raw {s : State} {x : Coll} {g : CGroup} (hg : s.group x = some g) {va m : Nat} {es : List Nat}
    (hes : s.elemRead x.tenant va x.width 0 m = .ok es) (rank rk chan role base : Nat) :
    s.sendElems x rank rk va 0 m 0 chan role base = ((s.spaceHasRead x.tenant va (x.bytes m)).emit s.cur.core (typOf x.fDtype)
      (g.message x rank rk chan 0 m (leBytes (x.bytes m) (packElems x.width es))), none) := by
  have hread := onlyWalks_spaceHasRead s x.tenant va (x.bytes m)
  simp only [State.sendElems, if_true, hes, Coll.bytes_zero, Nat.add_zero, sendMsg_eq ((hread.group_eq x).trans hg), hread.cur_eq]

theorem sendElems_coded {s u : State} {x : Coll} {g : CGroup} (hg : s.group x = some g) {k role va m base : Nat} {img : List Byte}
    {ds : List Word} (hk : k ≠ 0) (hcode : s.code x k role va m base = (u, .ok (img, ds))) (rank rk chan : Nat) :
    s.sendElems x rank rk va 0 m k chan role base = (u.emit s.cur.core 0 (g.message x rank rk chan k m img), none) := by
  have hsame : s.SameGroups u := by simpa only [hcode] using sameGroups_code s x k role va m base
  simp only [State.sendElems, if_neg hk, Nat.mul_zero, Nat.add_zero, hcode, sendMsg_eq ((hsame.group_eq x).trans hg), hsame.1]

theorem emit_local {u : State} {y : Msg} (h : y.dev = u.dev) (d typ : Nat) :
    u.emit d typ y = ({ u with msgs := u.msgs ++ [y] } : State).countDie d 8 y.tenant 1 := by
  rw [State.emit, if_pos h]

/-- A message within one block leaves as one request. -/
theorem blocksOf_one {α : Type} {n k : Nat} {xs : List α} (hne : xs ≠ []) (hlen : xs.length ≤ n) : blocksOf n (k + 2) xs = [xs] := by
  obtain ⟨a, as, rfl⟩ := List.exists_cons_of_ne_nil hne
  simp [blocksOf, List.take_of_length_le hlen, List.drop_of_length_le hlen]

theorem emit_request {u : State} {y : Msg} (hdev : y.dev ≠ u.dev) (hkind : y.kind ≠ 3) (hlen : (msgBytes y).length ≤ 4096) (d typ : Nat) :
    u.emit d typ y = (({ u with nextId := u.nextId + 1, msgs := u.msgs ++ [{ y with req := u.nextId }] } : State).request (192 + d)
      { tenant := y.tenant, dest := y.dev, kind := 5, op := u.nextId, typ := typ, data := msgBytes y,
        arg := 1 + 2 ^ 8 * y.die }).countDie d 8 y.tenant 1 := by
  have hne : msgBytes y ≠ [] := fun h => by simpa [msgBytes] using congrArg List.length h
  rw [State.emit, if_neg hdev, if_neg hkind]
  simp only [State.newId, blocksOf_one hne hlen]
  rfl

/-! ### A message's way in (R251) -/

/-- A raw message of whole bytes within one page is written as it came. -/
theorem applyMsg_raw {u : State} {x : Coll} {y : Msg} {va m pa : Nat} (hkind : y.kind = 0) (hcount : y.count = m)
    (hbytes : 0 < x.bytes m) (hw : x.width % 8 = 0) (hpage : x.bytes m ≤ 65536 - va % 65536)
    (hmap : u.hubTranslate x.tenant va .wr = .ok pa) (hheld : isFabric pa = true ∨ u.swHeld pa (x.bytes m) = false) :
    u.applyMsg x y va 0 m 0 false = (u.engineWrite x.tenant va pa
      (leBytes (x.bytes m) (packElems x.width (elemsOf x.width m 0 y.data))) (typOf x.fDtype), none) := by
  have hlen := elemsOf_length x.width m 0 y.data
  have hwrite := elemWrite_page (zs := elemsOf x.width m 0 y.data) (typ := typOf x.fDtype) hw (by rwa [hlen]) (by rwa [hlen]) hmap
    (by rwa [hlen])
  rw [hlen] at hwrite
  simp only [State.applyMsg, hkind, hcount, ne_eq, not_true_eq_false, or_self, false_and, if_false, if_true, Bool.false_eq_true, hwrite]

/-- Or its sums with what is there. -/
theorem applyMsg_rawAdd {u : State} {x : Coll} {y : Msg} {va m pa : Nat} {ys : List Nat} (hkind : y.kind = 0) (hcount : y.count = m)
    (hbytes : 0 < x.bytes m) (hw : x.width % 8 = 0) (hpage : x.bytes m ≤ 65536 - va % 65536)
    (hmap : u.hubTranslate x.tenant va .wr = .ok pa) (hheld : isFabric pa = true ∨ u.swHeld pa (x.bytes m) = false)
    (hys : u.elemRead x.tenant va x.width 0 m = .ok ys) :
    u.applyMsg x y va 0 m 0 true = ((u.spaceHasRead x.tenant va (x.bytes m)).engineWrite x.tenant va pa
      (leBytes (x.bytes m) (packElems x.width (((elemsOf x.width m 0 y.data).zip ys).map fun z => redAdd x.fDtype z.1 z.2)))
      (typOf x.fDtype), none) := by
  have hread := onlyWalks_spaceHasRead u x.tenant va (x.bytes m)
  have hlen : (((elemsOf x.width m 0 y.data).zip ys).map fun z => redAdd x.fDtype z.1 z.2).length = m := by
    rw [List.length_map, List.length_zip, elemsOf_length, elemRead_length hys, Nat.min_self]
  have hwrite := elemWrite_page (s := u.spaceHasRead x.tenant va (x.bytes m)) (typ := typOf x.fDtype) hw (by rwa [hlen]) (by rwa [hlen])
    ((hread.hubTranslate_eq _ _ _).trans hmap) (by rwa [hlen, hread.swHeld_eq])
  rw [hlen] at hwrite
  simp only [State.applyMsg, hkind, hcount, ne_eq, not_true_eq_false, or_self, false_and, if_false, if_true, elemsOf_length, hys,
    Coll.bytes_zero, Nat.add_zero, hlen, hwrite, Bool.false_eq_true]

/-- What a receive does with the message that it has taken, if one has come. -/
def State.received (s : State) (x : Coll) (va m k : Nat) (add : Bool) : Option (Msg × State) → State
  | none => s
  | some (y, u) => match u.applyMsg x y va 0 m k add with
    | (v, some st) => v.clearEnd st
    | (v, none) => v.updClear Clear.step

theorem received_applied {s u v : State} {x : Coll} {y : Msg} {va m k : Nat} {add : Bool}
    (h : u.applyMsg x y va 0 m k add = (v, none)) : s.received x va m k add (some (y, u)) = v.updClear Clear.step := by
  rw [State.received, h]

theorem received_failed {s u v : State} {x : Coll} {y : Msg} {va m k st : Nat} {add : Bool}
    (h : u.applyMsg x y va 0 m k add = (v, some st)) : s.received x va m k add (some (y, u)) = v.clearEnd st := by
  rw [State.received, h]

theorem takeMsg_msgs {s u : State} {x : Coll} {frm chan : Nat} {y : Msg} (h : s.takeMsg x frm chan = some (y, u)) :
    u = { s with msgs := s.msgs.erase y } := by
  unfold State.takeMsg at h
  split at h
  · cases h
  · split at h
    · cases h
      rfl
    · cases h

/-! ### Switch reductions (R379) -/

/-- A packet's header holds the last bits of a collective's number alone. -/
theorem low_tagSeq (t : Tag) : ({ t with seq := tagSeq t.seq } : Tag).low = t.low := by
  simp only [Tag.low, tagSeq, Nat.mod_mod]

theorem contribute_eq {s w : State} {x : Coll} {g : CGroup} (hw : s.OnlyWalks w) (hg : s.group x = some g) (chunk : Nat) (bs : List Byte) :
    let c := s.clear
    let v := w.setClear { c with sent := c.sent ++ [chunk] }
    let root := rootOf x.fOp x.fCount c.size chunk
    let tag : Tag := { group := x.fGroup, stream := x.fStream, seq := tagSeq x.seq, chunk := chunk, who := c.rank, root := root, op := x.fOp }
    w.contribute x c chunk bs =
      if s.planes = [] then
        { v with pushes := v.pushes ++ [{ tenant := x.tenant, group := x.fGroup, stream := x.fStream, seq := tagSeq x.seq, chunk := chunk,
                                          rank := c.rank, dtype := x.fDtype, size := c.size, op := x.fOp, root := root, data := bs }] }
      else v.request (192 + s.cur.core)
        { tenant := x.tenant, dest := (g.members.getD root (s.dev, 0)).1, kind := 4, op := x.cmd, addr := tag.addr, opn := tag.opn,
          bmask := tag.bmask, arg := tag.arg, typ := typOf x.fDtype, data := bs } := by
  intro c v root tag
  have hv : w.updClear (fun c => { c with sent := c.sent ++ [chunk] }) = v := by rw [State.updClear, hw.clear_eq]
  have hgroup : v.group x = some g := (hw.group_eq x).trans hg
  have hplanes : v.planes = s.planes := show w.planes = s.planes by rw [hw.1]
  have hdev : v.dev = s.dev := show w.dev = s.dev by rw [hw.1]
  have hcur : v.cur = s.cur := hw.cur_eq
  have hlow := low_tagSeq { tag with seq := x.seq }
  rw [State.contribute, hv]
  simp only [hgroup, hplanes, hdev, hcur, List.isEmpty_iff, tag, Tag.addr, Tag.opn, Tag.bmask, Tag.arg] at hlow ⊢
  rw [hlow]

/-! ### The instructions -/

section
variable {s : State} {x : Coll} (hcoll : s.clear.coll = some x) (hended : s.clear.ended = none)
include hcoll hended

theorem clearing_live (f : Clear → Coll → State) : s.clearing f = .next (f s.clear x) := by
  simp only [State.clearing, hcoll, hended, Option.isSome_none, Bool.false_eq_true, if_false]

theorem clearRegs_live (f : Clear → Clear) : s.clearRegs f = .next (s.setClear (f s.clear)) := clearing_live hcoll hended _

theorem clearStep_ends {st : Nat} (h : s.stepEnds s.clear x = some st) (f : Clear → Coll → State) :
    s.clearStep f = .next (s.clearEnd st) := by
  rw [State.clearStep, clearing_live hcoll hended, h]

theorem clearStep_goes (h : s.stepEnds s.clear x = none) (f : Clear → Coll → State) : s.clearStep f = .next (f s.clear x) := by
  rw [State.clearStep, clearing_live hcoll hended, h]

section
variable {i : Instr} {out : Host.Outcome State Fault Refusal}

theorem exec_registers {f : Clear → Clear} (hexec : exec i s = out) (hout : out = s.clearRegs f) :
    exec i s = .next (s.setClear (f s.clear)) :=
  (hexec.trans hout).trans (clearRegs_live hcoll hended f)

theorem exec_stepEnds {f : Clear → Coll → State} {st : Nat} (h : s.stepEnds s.clear x = some st) (hexec : exec i s = out)
    (hout : out = s.clearStep f) : exec i s = .next (s.clearEnd st) :=
  (hexec.trans hout).trans (clearStep_ends hcoll hended h f)

end

variable (o : C1Ops) (p : C2Ops)

theorem exec_cbnz : exec (.cbnz p) s =
    .next (s.setClear (if s.clear.reg p.rd = 0 then s.clear.step else s.clear.branch p.imm)) := by
  rw [← ite_not]
  exact exec_registers hcoll hended (out := execCbnz p s) rfl rfl

/-! Memory -/

theorem exec_cld {pa : Nat} (halign : s.clear.ea o % 8 = 0) (hmap : s.hubTranslate x.tenant (s.clear.ea o) .rd = .ok pa)
    (hread : s.jobRead pa 8 = .ok (s.rdN pa 8)) : exec (.cld o) s =
      .next ((s.countRead pa x.tenant 8).setClear (s.clear.setReg o.rd (s.rdN pa 8)).step) := by
  have hspace := spaceRead_page (by decide) (by omega) hmap hread
  show execCld o s = _
  simp only [execCld, clearing_live hcoll hended, halign, ne_eq, not_true_eq_false, if_false, hspace, leNat_leBytes_rdN,
    spaceHasRead_eq hmap]

theorem exec_clearingCst {pa : Nat} (halign : s.clear.ea o % 8 = 0) (hmap : s.hubTranslate x.tenant (s.clear.ea o) .wr = .ok pa)
    (hheld : isFabric pa = true ∨ s.swHeld pa 8 = false) : exec (.clearingCst o) s =
      .next ((s.engineWrite x.tenant (s.clear.ea o) pa (leBytes 8 (s.clear.reg o.rb))).updClear Clear.step) := by
  have hlen := leBytes_length 8 (s.clear.reg o.rb)
  have hspace := spaceWrite_page (typ := 0) (List.ne_nil_of_length_pos (by rw [hlen]; decide)) (by rw [hlen]; omega) hmap
    (by rwa [hlen])
  show execClearingCst o s = _
  simp only [execClearingCst, clearing_live hcoll hended, halign, ne_eq, not_true_eq_false, if_false, hspace]

theorem exec_cld_misaligned (h : s.clear.ea o % 8 ≠ 0) : exec (.cld o) s = .next (s.clearEnd stRange) := by
  show execCld o s = _
  simp only [execCld, clearing_live hcoll hended, ne_eq, h, not_false_eq_true, if_true]

theorem exec_clearingCst_misaligned (h : s.clear.ea o % 8 ≠ 0) : exec (.clearingCst o) s = .next (s.clearEnd stRange) := by
  show execClearingCst o s = _
  simp only [execClearingCst, clearing_live hcoll hended, ne_eq, h, not_false_eq_true, if_true]

/-! Signals and waits -/

omit hcoll hended in
theorem clearFlat_ok {va align pa : Nat} {need : Need} (halign : va % align = 0) (hmap : s.hubTranslate x.tenant va need = .ok pa)
    (hflat : isFlat pa = true) : s.clearFlat x va align need = .ok pa := by
  simp only [State.clearFlat, halign, ne_eq, not_true_eq_false, if_false, hmap, hflat, if_true]

theorem exec_csigFe {pa : Nat} (h : s.clearFlat x (s.clear.reg o.ra) 4 .wr = .ok pa) : exec (.csigFe o) s =
    .next ((s.engineWrite x.tenant (s.clear.reg o.ra) pa (leBytes 4 (s.clear.reg o.rb))).updClear Clear.step) := by
  show execCsigFe o s = _
  simp only [execCsigFe, clearing_live hcoll hended, h]

theorem exec_csigAb {pa : Nat} (h : s.clearFlat x (s.clear.reg o.ra) 16 .wr = .ok pa) : exec (.csigAb o) s =
    .next (if s.bad pa 16 = true then s.clearEnd stData
      else (s.abDeliver x.tenant (s.clear.reg o.ra) pa (s.clear.reg o.rb)).wakeAb.updClear Clear.step) := by
  show execCsigAb o s = _
  simp only [execCsigAb, clearing_live hcoll hended, h]

theorem exec_cend : ∃ t, exec (.cend p) s = .next t ∧ t.mem = s.mem ∧ t.clear = { s.clear with asked := false, ended := some (
    if p.imm.toNat % 2 ^ 16 ≤ stMismatch then p.imm.toNat % 2 ^ 16 else stRange) } :=
  ⟨_, (show execCend p s = _ from clearing_live hcoll hended _), rfl, clear_clearEnd s _⟩

/-! Copies of a collective's data (R251) -/

theorem exec_ccomp_raw {u : State} {es : List Nat} (hsrc : x.inSrc (s.clear.reg o.ra) (s.clear.reg o.rb) = true) (hk : immK o.imm = 0)
    (hes : s.elemRead x.tenant (s.clear.reg o.ra) x.width 0 (s.clear.reg o.rb) = .ok es)
    (hwrite : (s.spaceHasRead x.tenant (s.clear.reg o.ra) (x.bytes (s.clear.reg o.rb))).spaceWrite x.tenant (s.clear.reg o.rd)
      (leBytes (x.bytes (s.clear.reg o.rb)) (packElems x.width es)) (typOf x.fDtype) = (u, none)) :
    exec (.ccomp o) s = .next (u.updClear Clear.step) := by
  show execCcomp o s = _
  simp only [execCcomp, clearing_live hcoll hended, hsrc, hk, hes, hwrite, Bool.not_true, Bool.false_eq_true, if_false, if_true]

theorem exec_ccomp_coded {u v : State} {img : List Byte} {ds : List Word}
    (hsrc : x.inSrc (s.clear.reg o.ra) (s.clear.reg o.rb) = true) (hk : immK o.imm ≠ 0)
    (hcode : s.code x (immK o.imm) (immRole o.imm) (s.clear.reg o.ra) (s.clear.reg o.rb) x.fSrc = (u, .ok (img, ds)))
    (hwrite : u.spaceWrite x.tenant (s.clear.reg o.rd) img 0 = (v, none)) : exec (.ccomp o) s = .next (v.updClear Clear.step) := by
  show execCcomp o s = _
  simp only [execCcomp, clearing_live hcoll hended, hsrc, hk, hcode, hwrite, Bool.not_true, Bool.false_eq_true, if_false]

/-! Message steps and waits that go on -/

variable (hstep : s.stepEnds s.clear x = none)
include hstep

theorem exec_cwaitFe {pa : Nat} (hgot : s.clear.got = none) (hasked : s.clear.asked = false)
    (h : s.clearFlat x (s.clear.reg o.ra) 4 .rd = .ok pa) (hgood : s.bad pa 4 = false) : exec (.cwaitFe o) s =
      .next (if s.isFull (pa / 16) then
          (s.empty (pa / 16)).setClear { (s.clear.setReg o.rd (s.rdN pa 4)).step with got := none, asked := false }
        else { s.setClear { s.clear with asked := true } with
               ldfq := s.ldfq ++ [⟨pa / 16, clearKey s.cur.core s.cur.slot, pa, true⟩] }) := by
  have hword : s.rdN pa 4 ≠ 2 ^ 32 := Nat.ne_of_lt (rdN_lt s pa 4)
  show execCwaitFe o s = _
  simp only [execCwaitFe, clearStep_goes hcoll hended hstep, hgot, hasked, h, hgood, hword, Bool.false_eq_true, if_false]
  rfl

theorem exec_cwaitPh {pa : Nat} (h : s.clearFlat x (s.clear.reg o.ra) 16 .rd = .ok pa)
    (hform : s.bad pa 16 = true ∨ (s.abRead pa).malformed = false) : exec (.cwaitPh o) s =
      .next (if s.bad pa 16 = true then s.clearEnd stData
        else if (s.abRead pa).phase = bitOf (s.clear.reg o.rd) 0 then s else s.setClear s.clear.step) := by
  show execCwaitPh o s = _
  simp only [execCwaitPh, clearStep_goes hcoll hended hstep, h, beq_iff_eq]
  rcases hform with hbad | hform
  · simp only [hbad, if_true]
  · simp only [hform, Bool.false_eq_true, if_false]

theorem exec_csend {u : State} (hrank : s.clear.reg o.rd < s.clear.size)
    (hsrc : x.inSrc (s.clear.reg o.ra) (s.clear.reg o.rb) = true)
    (hsend : s.sendElems x s.clear.rank (s.clear.reg o.rd) (s.clear.reg o.ra) 0 (s.clear.reg o.rb) (immK o.imm) (immChan o.imm)
      (immRole o.imm) x.fSrc = (u, none)) : exec (.csend o) s = .next (u.updClear Clear.step) := by
  show execCsend o s = _
  simp only [execCsend, clearStep_goes hcoll hended hstep, Nat.not_le.mpr hrank, hsrc, Bool.not_true, Bool.false_eq_true, or_self, if_false,
    hsend]

theorem clearRecv_eq {add : Bool} (hrank : s.clear.reg o.rd < s.clear.size)
    (hsrc : x.inSrc (s.clear.reg o.ra) (s.clear.reg o.rb) = true) (hadd : add = true → redType x.fDtype = true)
    (hcode : immK o.imm = 0 ∨ x.fDtype = 0 ∧ x.fComp = immK o.imm ∧ s.clear.reg o.rb % x.fB = 0) : s.clearRecv o add =
      .next (s.received x (s.clear.reg o.ra) (s.clear.reg o.rb) (immK o.imm) add (s.takeMsg x (s.clear.reg o.rd) (immChan o.imm))) := by
  have hpass : ¬ (s.clear.size ≤ s.clear.reg o.rd ∨ (!x.inSrc (s.clear.reg o.ra) (s.clear.reg o.rb)) = true
      ∨ add = true ∧ (!redType x.fDtype) = true
      ∨ immK o.imm ≠ 0 ∧ (x.fDtype ≠ 0 ∨ x.fComp ≠ immK o.imm ∨ s.clear.reg o.rb % x.fB ≠ 0)) := by
    rw [hsrc, Bool.not_eq_true']
    rintro (h | h | ⟨ha, h⟩ | ⟨hk, h⟩)
    · omega
    · cases h
    · rw [hadd ha] at h
      cases h
    · rcases hcode with h0 | ⟨h1, h2, h3⟩
      · exact hk h0
      · exact h.elim (· h1) (·.elim (· h2) (· h3))
  rw [State.clearRecv, clearStep_goes hcoll hended hstep]
  simp only [if_neg hpass]
  rfl

theorem exec_cswred_contributes {bs : List Byte} (hred : redType x.fDtype = true)
    (hsrc : x.inSrc (s.clear.reg o.ra) (s.clear.reg o.rb) = true) (hm : s.clear.reg o.rb ≤ 256)
    (hsent : s.clear.sent.contains (s.clear.reg o.rd) = false)
    (hbs : s.spaceRead x.tenant (s.clear.reg o.ra) (x.bytes (s.clear.reg o.rb)) = .ok bs) :
    let u := (s.spaceHasRead x.tenant (s.clear.reg o.ra) (x.bytes (s.clear.reg o.rb))).contribute x s.clear (s.clear.reg o.rd) bs
    exec (.cswred o) s = .next (if x.getsResult s.clear.size s.clear.rank (s.clear.reg o.rd) = true then u else u.updClear Clear.step) := by
  show execCswred o s = _
  simp only [execCswred, clearStep_goes hcoll hended hstep, hred, hsrc, Nat.not_lt.mpr hm, hsent, hbs, Bool.not_true, Bool.not_false,
    Bool.false_eq_true, or_self, if_false, if_true]

theorem exec_cswred_takes {bs : List Byte} {u v : State} (hred : redType x.fDtype = true)
    (hsrc : x.inSrc (s.clear.reg o.ra) (s.clear.reg o.rb) = true) (hm : s.clear.reg o.rb ≤ 256)
    (hsent : s.clear.sent.contains (s.clear.reg o.rd) = true) (hres : s.takeResult x (s.clear.reg o.rd) = some (bs, u))
    (hwrite : u.spaceWrite x.tenant (s.clear.reg o.ra) (bs.take (x.bytes (s.clear.reg o.rb))) (typOf x.fDtype) = (v, none)) :
    exec (.cswred o) s = .next (v.setClear { s.clear.step with sent := s.clear.sent.erase (s.clear.reg o.rd) }) := by
  show execCswred o s = _
  simp only [execCswred, clearStep_goes hcoll hended hstep, hred, hsrc, Nat.not_lt.mpr hm, hsent, hres, hwrite, Bool.not_true,
    Bool.false_eq_true, or_self, if_false]

end

/-- Settles O54: a live collective's instruction acts on its processor, and each access, message and reduction is given by its own
lemma; what another unit has to bring is a premise. -/
theorem clearingInstructions : Obligations.ClearingInstructions := by
  unfold Obligations.ClearingInstructions
  intro o p s x hcoll hended c R next set goes jump a va m k chan role map
  have hk : immK o.imm = k := immK_eq o.imm
  refine ⟨exec_registers hcoll hended (out := execCadd o s) rfl rfl, exec_registers hcoll hended (out := execCsub o s) rfl rfl,
    exec_registers hcoll hended (out := execCmov o s) rfl rfl, exec_registers hcoll hended (out := execCmovi p s) rfl rfl,
    exec_cbnz hcoll hended p, exec_registers hcoll hended (out := execCbra p s) rfl rfl,
    fun pa halign hmap hhere hheld hgood => exec_cld hcoll hended o halign hmap (jobRead_local hhere hheld hgood),
    fun pa halign hmap hheld => exec_clearingCst hcoll hended o halign hmap hheld,
    fun h => ⟨exec_cld_misaligned hcoll hended o h, exec_clearingCst_misaligned hcoll hended o h⟩,
    fun pa halign hmap hflat => exec_csigFe hcoll hended o (clearFlat_ok halign hmap hflat),
    fun pa halign hmap hflat => exec_csigAb hcoll hended o (clearFlat_ok halign hmap hflat),
    fun st h => ?ends, fun g hg hlost hgone => ?steps,
    fun es u hsrc hk0 hes hwrite => exec_ccomp_raw hcoll hended o hsrc (hk.trans hk0) hes hwrite,
    fun u v img ds hsrc hk0 hcode hwrite => exec_ccomp_coded hcoll hended o hsrc (by rwa [hk]) (by rwa [hk]) hwrite,
    fun u d typ y => ⟨fun hdev => emit_local hdev d typ, fun hdev hkind hlen => emit_request hdev hkind hlen d typ⟩,
    exec_cend hcoll hended p⟩
  case ends =>
    have hgone := stepEnds_of_gone h
    exact ⟨exec_stepEnds hcoll hended hgone (out := execCwaitFe o s) rfl rfl, exec_stepEnds hcoll hended hgone (out := execCsend o s) rfl rfl,
      exec_stepEnds hcoll hended hgone (out := s.clearRecv o false) rfl rfl, exec_stepEnds hcoll hended hgone (out := s.clearRecv o true) rfl rfl,
      exec_stepEnds hcoll hended hgone (out := execCswred o s) rfl rfl, exec_stepEnds hcoll hended hgone (out := execCwaitPh o s) rfl rfl⟩
  case steps =>
    have hstep := stepEnds_of_live hgone hg hlost
    refine ⟨fun pa hgot hasked halign hmap hflat hgood =>
        exec_cwaitFe hcoll hended o hstep hgot hasked (clearFlat_ok halign hmap hflat) hgood,
      fun pa halign hmap hflat hform => exec_cwaitPh hcoll hended o hstep (clearFlat_ok halign hmap hflat) hform,
      fun hrank hsrc => ?send, fun add i hi hrank hsrc hcode => ?receive, fun hred hsrc hm => ?reduce⟩
    case send =>
      intro sent
      have hsent (data : List Byte) : sent data = g.message x c.rank (R o.rd) chan k m data := rfl
      exact ⟨fun es hk0 hes => exec_csend hcoll hended o hstep hrank hsrc (by
          rw [hk, hsent, hk0]
          exact sendElems_raw hg hes c.rank (R o.rd) chan role x.fSrc),
        fun u img ds hk0 hcode => exec_csend hcoll hended o hstep hrank hsrc (by
          rw [hk]
          exact sendElems_coded hg hk0 hcode c.rank (R o.rd) chan)⟩
    case receive =>
      have hexec : exec i s = .next (s.received x va m k add (s.takeMsg x (R o.rd) chan)) := by
        rw [← hk] at hcode ⊢
        rcases hi with ⟨rfl, rfl⟩ | ⟨rfl, rfl, hred⟩
        · exact clearRecv_eq hcoll hended o hstep hrank hsrc (fun h => by cases h) hcode
        · exact clearRecv_eq hcoll hended o hstep hrank hsrc (fun _ => hred) hcode
      refine ⟨fun hnone => ?_, fun y u v htake happly => ?_, fun y u v st htake happly => ?_,
        fun y u pa htake hk0 hkind hcount hbytes hw hpage hmap hheld => ?raw⟩
      · rw [hexec, hnone]
        rfl
      · rw [hexec, htake, received_applied happly]
      · rw [hexec, htake, received_failed happly]
      case raw =>
        intro xs write
        have hu := takeMsg_msgs htake
        have hmapU : u.hubTranslate x.tenant va .wr = .ok pa := by
          rw [hu]
          exact hmap
        have hheldU : isFabric pa = true ∨ u.swHeld pa (x.bytes m) = false := by
          rw [hu]
          exact hheld
        rw [hexec, htake, hk0]
        refine ⟨fun hadd => ?_, fun ys hadd hys => ?_⟩ <;> subst hadd
        · rw [received_applied (applyMsg_raw hkind hcount hbytes hw hpage hmapU hheldU)]
        · rw [received_applied (applyMsg_rawAdd hkind hcount hbytes hw hpage hmapU hheldU hys)]
    case reduce =>
      refine ⟨fun bs hsent hbs => ?_, fun bs u v hsent hres hwrite =>
        exec_cswred_takes hcoll hended o hstep hred hsrc hm hsent hres hwrite⟩
      intro root v tag u
      rw [exec_cswred_contributes hcoll hended o hstep hred hsrc hm hsent hbs,
        contribute_eq (onlyWalks_spaceHasRead s x.tenant va (x.bytes m)) hg]

end Sys2Proof.Machine

/-! CSRs, fragments, SVCWAIT and PMCTL (spec/10_system_clearing_isa.md R236 to R243, R248; spec/12_divergence.md R268 to R270). -/

namespace Sys2Proof.Machine

open Sys2Proof

/-! ### CSRs (R236) -/

theorem rawCsr_setCsr (k : Core) (n j : Nat) (v : Word) : (k.setCsr n v).rawCsr j = if j = n then v else k.rawCsr j := by
  simp only [Core.rawCsr, Core.setCsr, fget_fset]

theorem reaches_csrwr (o : SOps) (s : State) : let k := s.core s.cur.core
    let n := sNum o.x % 2 ^ 12
    Reaches (.csrwr o) s (fun t => t = s.setCore s.cur.core (k.setCsr n (csrWritten n (k.rawCsr n) (s.warp.reg o.a.toNat 0)))
      ∧ (t.core s.cur.core).rawCsr n = csrWritten n (k.rawCsr n) (s.warp.reg o.a.toNat 0)
      ∧ ∀ j, j ≠ n → (t.core s.cur.core).rawCsr j = k.rawCsr j) := by
  intro k n
  refine reaches_gated (out := execCsrwr o s) rfl rfl rfl ⟨rfl, ?_, fun j hj => ?_⟩ <;> rw [core_updCore, rawCsr_setCsr]
  · exact if_pos rfl
  · exact if_neg hj

/-! ### A fragment's words (R240) -/

/-- Updates of one lane each, which leave the other lanes' registers alone. -/
theorem reg_foldl_lanes {g : Warp → Nat → Warp} {f : Nat → Nat → Option Word}
    (hg : ∀ w c k l, k < 32 → l < 32 → (g w k).reg c l = if l = k then (f c l).getD (w.reg c l) else w.reg c l) {ls : List Nat}
    (hls : ∀ k ∈ ls, k < 32) (w : Warp) (c : Nat) {l : Nat} (hl : l < 32) :
    (ls.foldl g w).reg c l = if l ∈ ls then (f c l).getD (w.reg c l) else w.reg c l := by
  induction ls generalizing w with
  | nil => rfl
  | cons k ls ih =>
    rw [List.foldl_cons, ih (fun j hj => hls j (List.mem_cons_of_mem k hj)), hg w c k l (hls k List.mem_cons_self) hl]
    by_cases hk : l = k
    · rw [if_pos hk, if_pos (List.mem_cons.mpr (.inl hk))]
      cases f c l <;> simp
    · rw [if_neg hk]
      simp only [List.mem_cons, hk, false_or]

theorem regsOnly_foldl {α : Type} {g : Warp → α → Warp} (hg : ∀ (w : Warp) a, w.RegsOnly (g w a)) (ls : List α) (w : Warp) :
    w.RegsOnly (ls.foldl g w) := by
  induction ls generalizing w with
  | nil => exact .refl w
  | cons a ls ih => exact (hg w a).trans (ih _)

/-- Four words in four registers of a lane. -/
def Warp.setReg4 (w : Warp) (d l : Nat) (ws : List Nat) : Warp :=
  (ws.zip (List.range 4)).foldl (fun w x => w.setReg (d + x.2) l (BitVec.ofNat 32 x.1)) w

theorem regsOnly_setReg4 (w : Warp) (d l : Nat) (ws : List Nat) : w.RegsOnly (w.setReg4 d l ws) :=
  regsOnly_foldl (fun w _ => regsOnly_setReg w _ l _) _ w

theorem reg_setReg4 (w : Warp) {c d k l : Nat} {ws : List Nat} (hws : ws.length = 4) (hd : d ≤ 92) (hk : k < 32) (hl : l < 32) :
    (w.setReg4 d k ws).reg c l =
      if l = k then (if d ≤ c ∧ c < d + 4 then some (BitVec.ofNat 32 (ws.getD (c - d) 0)) else none).getD (w.reg c l) else w.reg c l := by
  obtain ⟨a0, a1, a2, a3, rfl⟩ : ∃ a0 a1 a2 a3, ws = [a0, a1, a2, a3] := by
    match ws, hws with
    | [a0, a1, a2, a3], _ => exact ⟨a0, a1, a2, a3, rfl⟩
  show ((((w.setReg (d + 0) k _).setReg (d + 1) k _).setReg (d + 2) k _).setReg (d + 3) k _).reg c l = _
  rw [reg_setReg_vec _ _ (by omega) hl hk, reg_setReg_vec _ _ (by omega) hl hk, reg_setReg_vec _ _ (by omega) hl hk,
    reg_setReg_vec _ _ (by omega) hl hk]
  by_cases hlane : l = k
  · by_cases hc : d ≤ c ∧ c < d + 4
    · obtain ⟨n, rfl⟩ := Nat.exists_eq_add_of_le hc.1
      have hn : n < 4 := by omega
      rw [if_pos hlane, if_pos hc, Nat.add_sub_cancel_left]
      have hcases : n = 0 ∨ n = 1 ∨ n = 2 ∨ n = 3 := by omega
      rcases hcases with rfl | rfl | rfl | rfl <;> simp [hlane]
    · have hne (j : Nat) (hj : j < 4) : c ≠ d + j := by omega
      simp [hlane, hc, hne 1, hne 2, hne 3, show c ≠ d from hne 0 (by decide)]
  · simp [hlane]

/-- Four words for each lane of the split, in four vector registers. -/
theorem results_setReg4 (s : State) {d : Nat} (hd : d ≤ 92) {words : Nat → List Nat} (hwords : ∀ l, (words l).length = 4) :
    Results s (s.setWarp (s.lanes.foldl (fun w l => w.setReg4 d l (words l)) s.warp)) fun c l =>
      if s.mask.getLsbD l = true ∧ d ≤ c ∧ c < d + 4 then some (BitVec.ofNat 32 ((words l).getD (c - d) 0)) else none := by
  refine results_of (regsOnly_foldl (fun w l => regsOnly_setReg4 w d l (words l)) _ _) fun c l _ hl => ?_
  rw [reg_foldl_lanes (f := fun c l => if d ≤ c ∧ c < d + 4 then some (BitVec.ofNat 32 ((words l).getD (c - d) 0)) else none)
    (fun w c k l hk hl => ?lane) (ls := s.lanes) (fun k hk => lanesOf_lt hk) _ _ hl]
  case lane =>
    rw [reg_setReg4 w (hwords k) hd hk hl]
    by_cases hlane : l = k
    · rw [hlane]
    · rw [if_neg hlane, if_neg hlane]
  simp only [State.lanes, mem_lanesOf, hl, true_and]
  by_cases hm : s.mask.getLsbD l = true <;> simp [hm]

theorem fragWords_length (k : Core) (r : Option Ref) (l : Nat) : (k.fragWords r l).length = 4 := by
  rcases r with _ | _ | _ <;> rfl

theorem fragrd_dest {o : SOps} (hw : (Instr.fragrd o).wf = true) : o.d.toNat ≤ 92 := by
  rw [Instr.wf, WellFormed.check, Option.isNone_iff_eq_none, verdict_none] at hw
  simp only [Bool.and_eq_true, decide_eq_true_eq] at hw
  obtain ⟨⟨⟨⟨-, hd⟩, -⟩, -⟩, -⟩ := hw
  exact hd

theorem computes_fragrd (o : SOps) (s : State) : let k := s.core s.cur.core
    Computes (.fragrd o) s (fun d l => if s.mask.getLsbD l = true ∧ o.d.toNat ≤ d ∧ d < o.d.toNat + 4 then
      some (BitVec.ofNat 32 ((k.fragWords (k.ref (s.warp.reg o.a.toNat 0)) l).getD (d - o.d.toNat) 0)) else none) :=
  computes_of _ (show execFragrd o s = _ from rfl) fun hw => results_setReg4 s (fragrd_dest hw) (fragWords_length _ _)

/-! ### Lanes leave a fragment (R241, R242, R269) -/

theorem maskOf_lanesOf (m : Word) : maskOf (lanesOf m) = m := by
  refine BitVec.eq_of_getLsbD_eq fun j hj => ?_
  rw [getLsbD_maskOf]
  simp only [mem_lanesOf, hj, true_and, Bool.decide_eq_true]

/-- A fragment without some lanes, free once it has none. -/
def Frag.without (f : Frag) (m : Word) : Frag :=
  let m' := f.mask &&& ~~~m
  if m' = 0#32 then { f with mask := m', valid := false, pend := false } else { f with mask := m' }

theorem Frag.without_without (f : Frag) (m : Word) : (f.without m).without m = f.without m := by
  have hmask : (f.without m).mask = f.mask &&& ~~~m := by
    unfold Frag.without
    dsimp only
    split <;> rfl
  have hagain : (f.mask &&& ~~~m) &&& ~~~m = f.mask &&& ~~~m := by rw [BitVec.and_assoc, BitVec.and_self]
  rw [Frag.without.eq_1 (f.without m)]
  simp only [hmask, hagain]
  unfold Frag.without
  dsimp only
  split <;> rfl

def Core.leaveFrag (k : Core) (i : Nat) (m : Word) : Core :=
  { k with frags := fset k.frags i ((fget ({} : Frag) k.frags i).without m) }

theorem leaveFrag_eq (s : State) (c i : Nat) (m : Word) : s.leaveFrag c i m = s.updCore c (·.leaveFrag i m) := by
  simp only [State.leaveFrag, Core.leaveFrag, Frag.without]
  congr 1
  funext k
  split
  · next h => rw [h]
  · rfl

theorem frags_leaveFrag (s : State) (c i j : Nat) (m : Word) : fget ({} : Frag) ((s.leaveFrag c i m).core c).frags j =
    if j = i then (fget ({} : Frag) (s.core c).frags i).without m else fget ({} : Frag) (s.core c).frags j := by
  rw [leaveFrag_eq, core_updCore]
  exact fget_fset _ _ _ _ _

theorem warpAt_leaveFrag (s : State) (c i : Nat) (m : Word) (w : Nat) : (s.leaveFrag c i m).warpAt c w = s.warpAt c w := by
  rw [leaveFrag_eq, State.warpAt, core_updCore]
  rfl

theorem frags_updWarpAt (s : State) (c w : Nat) (f : Warp → Warp) : ((s.updWarpAt c w f).core c).frags = (s.core c).frags := by
  rw [State.updWarpAt, State.setWarpAt, core_updCore]
  rfl

/-! ### Threads of a fragment go on (R241) -/

/-- A thread stands at a position, without its fault. -/
def Thread.resumedAt (t : Thread) (pos : Nat × Nat) : Thread :=
  { t with st := .active, cause := none, faddr := 0, findex := 0, addr := pos.1, slot := pos.2 }

/-- Lanes of fragment i have left it and stand at a position. -/
def State.outOfFrag (s : State) (c i : Nat) (ls : List Nat) (pos : Nat × Nat) : State :=
  (s.leaveFrag c i (maskOf ls)).updWarpAt c (fget ({} : Frag) (s.core c).frags i).slot fun w =>
    ls.foldl (fun w l => w.updThread l (·.resumedAt pos)) w

theorem resumeFrag_eq (s : State) (c i : Nat) (m : Word) (pos : Option (Nat × Nat)) :
    let f := fget ({} : Frag) (s.core c).frags i
    let ls := lanesOf (f.mask &&& m)
    let p := pos.getD (f.addr, f.pslot)
    s.resumeFrag c i m pos = ((s.outOfFrag c i ls p).arriveLanes c f.slot (ls.map fun l => (l, p.1, p.2))).settle c f.slot := rfl

theorem frags_outOfFrag (s : State) (c i : Nat) (ls : List Nat) (pos : Nat × Nat) :
    fget ({} : Frag) ((s.outOfFrag c i ls pos).core c).frags i = (fget ({} : Frag) (s.core c).frags i).without (maskOf ls) := by
  rw [State.outOfFrag, frags_updWarpAt, frags_leaveFrag, if_pos rfl]

theorem thread_outOfFrag (s : State) (c i : Nat) {ls : List Nat} (hls : ls.Nodup) (pos : Nat × Nat) (l : Nat) :
    let w := (fget ({} : Frag) (s.core c).frags i).slot
    ((s.outOfFrag c i ls pos).warpAt c w).thread l =
      if l ∈ ls then ((s.warpAt c w).thread l).resumedAt pos else (s.warpAt c w).thread l := by
  intro w
  rw [State.outOfFrag, warpAt_updWarpAt, warpAt_leaveFrag]
  exact thread_foldl_updThread _ hls _ l

/-! ### A warp's fault slot (R241, R242, R270) -/

theorem slotEv_clearWfault (s : State) (c x : Nat) : x ∉ ((s.clearWfault c x).core c).slotEv := by
  rw [State.clearWfault, core_updCore]
  simp

theorem frags_clearWfault (s : State) (c x : Nat) : ((s.clearWfault c x).core c).frags = (s.core c).frags := by
  rw [State.clearWfault, core_updCore]
  exact frags_updWarpAt s c x _

theorem warpAt_clearWfault (s : State) (c x : Nat) : (s.clearWfault c x).warpAt c x = { s.warpAt c x with wfault := none } := by
  rw [State.clearWfault, State.warpAt, core_updCore]
  exact warpAt_updWarpAt s c x _

theorem warpAt_clearWfault_ne (s : State) {c x w : Nat} (h : w ≠ x) : (s.clearWfault c x).warpAt c w = s.warpAt c w := by
  rw [State.clearWfault, State.warpAt, core_updCore]
  exact warpAt_setWarpAt_ne s _ (.inr h)

/-! ### A warp leaves all its fragments (R242) -/

section
variable (c : Nat) (m : Word) (p : Nat × Frag → Bool) (fs : List (Nat × Frag)) (s : State)

/-- Lanes leave each fragment of a list that passes a test. -/
def State.leaveFrags : State := fs.foldl (fun s f => if p f then s.leaveFrag c f.1 m else s) s

theorem mem_leaveFrags : (s.leaveFrags c m p fs).mem = s.mem := by
  induction fs generalizing s with
  | nil => rfl
  | cons f fs ih =>
    refine (ih _).trans ?_
    dsimp only
    split <;> rfl

theorem warpAt_leaveFrags (w : Nat) : (s.leaveFrags c m p fs).warpAt c w = s.warpAt c w := by
  induction fs generalizing s with
  | nil => rfl
  | cons f fs ih =>
    refine (ih _).trans ?_
    dsimp only
    split
    · exact warpAt_leaveFrag s c f.1 m w
    · rfl

/-- A fragment that passes loses the lanes, as often as it is listed. -/
theorem frags_leaveFrags (i : Nat) : fget ({} : Frag) ((s.leaveFrags c m p fs).core c).frags i =
    if ∃ f ∈ fs, f.1 = i ∧ p f = true then (fget ({} : Frag) (s.core c).frags i).without m else fget ({} : Frag) (s.core c).frags i := by
  induction fs generalizing s with
  | nil => simp [State.leaveFrags]
  | cons f fs ih =>
    refine (ih _).trans ?_
    simp only [List.mem_cons, or_and_right, exists_or, exists_eq_left]
    by_cases hp : p f = true
    · rw [if_pos hp, frags_leaveFrag]
      by_cases hi : i = f.1
      · subst hi
        simp only [if_true, Frag.without_without, ite_self, hp, and_self, true_or]
      · simp only [if_neg hi, Ne.symm hi, false_and, false_or]
    · simp only [hp, Bool.false_eq_true, if_false, and_false, false_or]

end

theorem killWarp_eq (s : State) (c x : Nat) : let m := (s.warpAt c x).liveMask
    s.killWarp c x = ((s.leaveFrags c m (fun f => f.2.valid && f.2.slot == x) (s.core c).frags).clearWfault c x).exitLanes c x m := rfl

/-- A fragment of the warp is listed. -/
theorem exists_frag {k : Core} {i x : Nat} (hvalid : (fget ({} : Frag) k.frags i).valid = true)
    (hslot : (fget ({} : Frag) k.frags i).slot = x) : ∃ f ∈ k.frags, f.1 = i ∧ (f.2.valid && f.2.slot == x) = true := by
  refine ⟨(i, fget {} k.frags i), (mem_of_fget {} k.frags i).resolve_left fun h => ?_, rfl, ?_⟩
  · rw [h] at hvalid
    cases hvalid
  · exact Bool.and_eq_true_iff.mpr ⟨hvalid, beq_iff_eq.mpr hslot⟩

/-! ### FRAGRES and FRAGKILL (R241, R242) -/

section
variable {o : SOps} {s : State}

theorem reaches_fragres_stale (href : (s.core s.cur.core).ref (s.warp.reg o.a.toNat 0) = none) :
    Reaches (.fragres o) s fun t => t = s :=
  reaches_gated (out := execFragres o s) rfl rfl (by simp only [href]) rfl

theorem reaches_fragkill_stale (href : (s.core s.cur.core).ref (s.warp.reg o.a.toNat 0) = none) :
    Reaches (.fragkill o) s fun t => t = s :=
  reaches_gated (out := execFragkill o s) rfl rfl (by simp only [href]) rfl

theorem reaches_fragres_entry {i : Nat} (href : (s.core s.cur.core).ref (s.warp.reg o.a.toNat 0) = some (.entry i)) :
    let c := s.cur.core
    let f := fget ({} : Frag) (s.core c).frags i
    let ls := lanesOf (f.mask &&& s.warp.reg o.b.toNat 0)
    let pos := if o.d = 0#7 then (f.addr, f.pslot) else (s.warp.reg64 o.d.toNat 0 % 2 ^ 55, 0)
    Reaches (.fragres o) s fun t =>
      t = ((s.outOfFrag c i ls pos).arriveLanes c f.slot (ls.map fun l => (l, pos.1, pos.2))).settle c f.slot := by
  intro c f ls pos
  refine reaches_gated (out := execFragres o s) rfl rfl (by simp only [href]; rfl) ?_
  have hpos : (if o.d = 0#7 then none else some (s.warp.reg64 o.d.toNat 0 % 2 ^ 55, 0)).getD (f.addr, f.pslot) = pos := by
    simp only [pos]
    split <;> rfl
  rw [← hpos]
  exact resumeFrag_eq ..

theorem reaches_fragkill_entry {i : Nat} (href : (s.core s.cur.core).ref (s.warp.reg o.a.toNat 0) = some (.entry i)) :
    let c := s.cur.core
    let f := fget ({} : Frag) (s.core c).frags i
    let m := maskOf (lanesOf (f.mask &&& s.warp.reg o.b.toNat 0))
    Reaches (.fragkill o) s fun t => t = (s.leaveFrag c i m).exitLanes c f.slot m := by
  intro c f m
  refine reaches_gated (out := execFragkill o s) rfl rfl (by simp only [href]; rfl) ?_
  simp only [m, maskOf_lanesOf]
  rfl

/-- The fault slot of a warp that such a cause has stopped is cleared, and the warp goes on (R241). -/
theorem reaches_fragres_warp {x : Nat} (href : (s.core s.cur.core).ref (s.warp.reg o.a.toNat 0) = some (.warp x)) :
    let c := s.cur.core
    Reaches (.fragres o) s fun t => t =
      if (s.warpAt c x).wfault = some .fragFull ∨ (s.warpAt c x).wfault = some .dataUncorrectable
          ∨ (s.warpAt c x).wfault = some .recordInvalid then (s.clearWfault c x).settle c x
      else s := by
  intro c
  refine reaches_gated (out := execFragres o s) rfl rfl (by simp only [href]; rfl) ?_
  show (match (s.warpAt c x).wfault with
    | some .fragFull | some .dataUncorrectable | some .recordInvalid => (s.clearWfault c x).settle c x
    | _ => s) = _
  split
  · next h => exact (if_pos (.inl h)).symm
  · next h => exact (if_pos (.inr (.inl h))).symm
  · next h => exact (if_pos (.inr (.inr h))).symm
  · next hfull hdata hrecord => exact (if_neg fun h => h.elim hfull (·.elim hdata hrecord)).symm

theorem reaches_fragkill_warp {x : Nat} (href : (s.core s.cur.core).ref (s.warp.reg o.a.toNat 0) = some (.warp x)) :
    Reaches (.fragkill o) s fun t => t = s.killWarp s.cur.core x :=
  reaches_gated (out := execFragkill o s) rfl rfl (by simp only [href]) rfl

end

/-! ### SVCWAIT (R238, R419) -/

theorem report_parts (k : Core) (e : Word) : k.report e = { k with
    mbox := (k.report e).mbox, slotEv := (k.report e).slotEv, dogEv := (k.report e).dogEv, frags := (k.report e).frags,
    reported := (k.report e).reported } := by
  unfold Core.report
  dsimp only
  split <;> rfl

theorem report_mailbox {k : Core} {e : Word} (h : e.toNat / 2 ^ 24 = 3) : k.report e = { k with mbox := k.mbox.drop 1 } := by
  simp only [Core.report, h, if_true]

theorem report_listed {k : Core} {e : Word} (h : e.toNat / 2 ^ 24 ≠ 3) : (k.report e).reported = k.reported ++ [e.toNat] := by
  simp only [Core.report, if_neg h]
  split <;> rfl

theorem report_slot {k : Core} {e : Word} (h : e.toNat / 2 ^ 24 = 2) :
    k.report e = { k with slotEv := k.slotEv.erase (e.toNat % 64), reported := (k.report e).reported } := by
  simp only [Core.report, h]

theorem report_dog {k : Core} {e : Word} (h : e.toNat / 2 ^ 24 = 5) :
    k.report e = { k with dogEv := k.dogEv.erase (e.toNat % 64), reported := (k.report e).reported } := by
  simp only [Core.report, h]

theorem report_frag {k : Core} {e : Word} (h : e.toNat / 2 ^ 24 = 1) : fget ({} : Frag) (k.report e).frags (e.toNat % 64) =
    { fget ({} : Frag) k.frags (e.toNat % 64) with pend := false } := by
  simp only [Core.report, h]
  exact fget_fset_self _ _ _ _

/-- A core that differs in no warp leaves the split as it is. -/
theorem inEither_setCore {s : State} {k : Core} (h : k.warps = (s.core s.cur.core).warps) (d : BitVec 7) (v : Word) :
    inEither (s.setCore s.cur.core k) d v = inEither s d v := by
  have hwarp : (s.setCore s.cur.core k).warp = s.warp := by
    rw [State.warp, State.warpAt, setCore_cur, core_setCore, Core.warp, h]
    rfl
  have hmask : (s.setCore s.cur.core k).mask = s.mask := by rw [State.mask, hwarp]; rfl
  unfold inEither inLanes
  rw [hmask]

theorem results_report (s : State) (d : BitVec 7) (e : Word) : let k := s.core s.cur.core
    Results (s.setCore s.cur.core (k.report e)) ((s.setCore s.cur.core (k.report e)).oneValue d e) (inEither s d e) := by
  intro k
  rw [← inEither_setCore (k := k.report e) (by rw [report_parts])]
  exact results_oneValue _ d e

theorem reaches_svcwait_parked {o : SOps} {s : State} (hnone : (s.core s.cur.core).nextEvent = none) :
    Reaches (.svcwait o) s fun t => t = { s with flow := .park .svcwait } :=
  reaches_gated (out := execSvcwait o s) rfl rfl (by simp only [hnone]) rfl

theorem reaches_svcwait_reports {o : SOps} {s : State} {e : Word} (hsome : (s.core s.cur.core).nextEvent = some e) :
    Reaches (.svcwait o) s fun t => t = (s.setCore s.cur.core ((s.core s.cur.core).report e)).oneValue o.d e :=
  reaches_gated (out := execSvcwait o s) rfl rfl (by simp only [hsome]) rfl

/-! ### PMCTL (R248) -/

section
variable {o : SOps} {s : State}

theorem computes_pmctl_clock (hb : s.warp.reg o.b.toNat 0 = 0#32) :
    Computes (.pmctl o) s (inEither s o.d (BitVec.ofNat 32 (fget 1050 s.power.cur (islandOf s.cur.core)))) := by
  refine computes_of _ (show execPmctl o s = _ from rfl) fun _ => ?_
  rw [hb]
  exact results_oneValue ..

theorem reaches_pmctl_energy (hb : s.warp.reg o.b.toNat 0 = 1#32) : Reaches (.pmctl o) s fun t =>
    Results { s with fresh := s.fresh + 1 } t (inEither s o.d (Config.freeValue s.fresh)) := by
  refine reaches_gated (out := execPmctl o s) rfl rfl rfl ?_
  rw [hb]
  exact results_oneValue { s with fresh := s.fresh + 1 } ..

theorem computes_pmctl_other (hb : 2 ≤ (s.warp.reg o.b.toNat 0).toNat) : Computes (.pmctl o) s (inEither s o.d 0xFFFFFFFF#32) := by
  refine computes_of _ (show execPmctl o s = _ from rfl) fun _ => ?_
  obtain ⟨n, hn⟩ := Nat.exists_eq_add_of_le' hb
  rw [hn]
  exact results_oneValue ..

end

/-- Settles O52: each instruction's effect is that of one operation on the acting core, its fragments or a warp's fault slot, and the
state that it leaves is named by that operation. -/
theorem supervisorRegistersAndFragments : Obligations.SupervisorRegistersAndFragments := by
  unfold Obligations.SupervisorRegistersAndFragments
  intro o s c k n a b entry left
  have hleft {i : Nat} {ls : List Nat} {u : State} (h : fget ({} : Frag) (u.core c).frags i = (entry i).without (maskOf ls)) :
      left i ls u := h
  refine ⟨computes_of _ (show execCsrrd o s = _ from rfl) fun _ => results_oneValue .., reaches_csrwr o s, computes_fragrd o s,
    fun href => ⟨reaches_fragres_stale href, reaches_fragkill_stale href⟩, fun i href => ?entry, fun x href => ?warp,
    reaches_svcwait_parked, fun e hsome => ?reports, computes_pmctl_clock, reaches_pmctl_energy, computes_pmctl_other⟩
  case entry =>
    intro ls w pos
    refine ⟨(reaches_fragres_entry href).imp fun t ht => ⟨s.outOfFrag c i ls pos, _, hleft (frags_outOfFrag ..), rfl,
        fun l _ => thread_outOfFrag s c i (lanesOf_nodup _) pos l, rfl, ht⟩,
      (reaches_fragkill_entry href).imp fun t ht => ⟨s.leaveFrag c i (maskOf ls), hleft ?_, rfl, warpAt_leaveFrag .., ht⟩⟩
    rw [frags_leaveFrag, if_pos rfl]
  case warp =>
    intro cleared
    refine ⟨(reaches_fragres_warp href).imp fun t ht => ?_, (reaches_fragkill_warp href).imp fun t ht =>
      ⟨_, ?_, ?_, slotEv_clearWfault _ _ _, fun i hvalid hslot => hleft ?_, fun w hw => ?_, ht.trans (killWarp_eq s c x)⟩⟩
    · by_cases h : (s.warpAt c x).wfault = some .fragFull ∨ (s.warpAt c x).wfault = some .dataUncorrectable
          ∨ (s.warpAt c x).wfault = some .recordInvalid
      · rw [if_pos h] at ht ⊢
        exact ⟨s.clearWfault c x, rfl, warpAt_clearWfault .., slotEv_clearWfault _ _ _, frags_clearWfault ..,
          fun w hw => warpAt_clearWfault_ne s hw, ht⟩
      · rw [if_neg h] at ht ⊢
        exact ht
    · exact mem_leaveFrags ..
    · rw [warpAt_clearWfault, warpAt_leaveFrags]
    · rw [frags_clearWfault, frags_leaveFrags, if_pos (exists_frag hvalid hslot), maskOf_lanesOf]
    · rw [warpAt_clearWfault_ne _ hw, warpAt_leaveFrags]
  case reports =>
    exact (reaches_svcwait_reports hsome).imp fun t ht => ⟨k.report e, by rw [ht]; exact results_report s o.d e, report_parts k e,
      report_mailbox, report_listed, report_slot, report_dog, report_frag⟩

end Sys2Proof.Machine

/-! Homes of bytes and the flat window (spec/15_memory_model.md R307, R309, R324). -/

namespace Sys2Proof.Machine

open Sys2Proof

/-! ### The home of a byte (R309) -/

theorem isFlat_iff {pa : Nat} : isFlat pa = true ↔ 0x010000000000 ≤ pa ∧ pa < 0x010030000000 := decide_eq_true_iff

theorem homeCore_flat {pa : Nat} (hlo : 0x010000000000 ≤ pa) (hhi : pa < 0x010030000000) :
    homeCore pa = some ((pa - 0x010000000000) / 2 ^ 22) := by
  have hflat : isFlat pa = true := by rw [isFlat_iff]; omega
  rw [homeCore, if_pos hflat]
  rfl

/-- The line number of a local address: what the home is made of. -/
theorem bitsOf_line {pa : Nat} (h : pa < 0x010000000000) : bitsOf pa 39 7 = pa / 2 ^ 7 := by
  rw [bitsOf]
  omega

/-- Bytes of one line have one line number. -/
theorem bitsOf_line_start (pa : Nat) : bitsOf (pa / 128 * 128) 39 7 = bitsOf pa 39 7 := by
  rw [bitsOf, bitsOf]
  omega

theorem homeCore_hbm {pa : Nat} (h : pa < 0x010000000000) :
    homeCore pa = some ((pa / 2 ^ 7 ^^^ pa / 2 ^ 23 ^^^ pa / 2 ^ 39) % 2 ^ 16 * 192 / 2 ^ 16) := by
  have hflat : isFlat pa = false := by rw [Bool.eq_false_iff, ne_eq, isFlat_iff]; omega
  have hhbm : isHbm pa = true := decide_eq_true h
  have h23 : pa / 2 ^ 7 / 2 ^ 16 = pa / 2 ^ 23 := by omega
  have h39 : pa / 2 ^ 7 / 2 ^ 32 = pa / 2 ^ 39 := by omega
  simp only [homeCore, hflat, hhbm, bitsOf_line h, h23, h39, Bool.false_eq_true, if_false, if_true]

theorem homeCore_lt {pa c : Nat} (h : homeCore pa = some c) : c < 192 := by
  unfold homeCore at h
  split at h
  case isTrue hflat =>
    rw [isFlat_iff] at hflat
    simp only [Option.some.injEq, flatCore, flatBase, flatStep] at h
    omega
  case isFalse =>
    split at h
    · simp only [Option.some.injEq] at h
      omega
    · simp at h

theorem homePlane_lt (pa : Nat) {m : Nat} (h : 0 < m) : homePlane pa m < m := by
  rw [homePlane, Nat.div_lt_iff_lt_mul (by decide), Nat.mul_comm m]
  exact Nat.mul_lt_mul_of_pos_right (Nat.mod_lt _ (by decide)) h

/-- Settles O11: the slices of the window lie one after another, and below it the home is a function of the line's number. -/
theorem homeOfEveryByte : Obligations.HomeOfEveryByte := by
  refine ⟨fun pa => homeCore_flat, fun pa h => ⟨homeCore_hbm h, ?_⟩, fun pa c => homeCore_lt,
    fun pa m h => ⟨homePlane_lt pa h, ?_⟩, rfl, rfl⟩
  · have hline : pa / 128 * 128 < 0x010000000000 := by omega
    have h7 : pa / 128 * 128 / 2 ^ 7 = pa / 2 ^ 7 := by omega
    have h23 : pa / 128 * 128 / 2 ^ 23 = pa / 2 ^ 23 := by omega
    have h39 : pa / 128 * 128 / 2 ^ 39 = pa / 2 ^ 39 := by omega
    rw [homeCore_hbm h, homeCore_hbm hline, h7, h23, h39]
  · rw [homePlane, homePlane, bitsOf_line_start]

/-! ### The flat window (R307, R324) -/

theorem bitsOf_window {off : Nat} (h : off < 2 ^ 42) : bitsOf (0x40000000000000 + off) 54 42 = 0x1000 := by
  rw [bitsOf]
  omega

theorem translate_window (s : State) (core tenant : Nat) {off : Nat} (need : Need) (h : off < 2 ^ 42) :
    s.translate core tenant (0x40000000000000 + off) need = s.flatAccess tenant (0x40000000000000 + off) need := by
  rw [State.translate, if_neg (by omega), if_pos (bitsOf_window h)]

/-- Settles O12: in the window the access is the flat one, whose checks come in the stated order; outside the space, and past the
window's last core, there is no translation. -/
theorem flatWindowTranslation : Obligations.FlatWindowTranslation := by
  refine ⟨fun s core tenant c off need hc hoff => ?window, fun s core tenant va need hva => ?outside⟩
  case window =>
    have hlt : c * 2 ^ 22 + off < 0x30000000 := by omega
    have hsub : 0x40000000000000 + (c * 2 ^ 22 + off) - flatVa = c * 2 ^ 22 + off := Nat.add_sub_cancel_left ..
    have hcore : (c * 2 ^ 22 + off) / flatStep = c := by rw [flatStep]; omega
    have hbyte : (c * 2 ^ 22 + off) % flatStep = off := by rw [flatStep]; omega
    simp only [Nat.add_assoc]
    rw [translate_window s core tenant need (by omega)]
    simp only [State.flatAccess, hsub, hcore, hbyte, if_neg (Nat.not_le.mpr hlt), bne_iff_ne]
    rfl
  case outside =>
    rcases hva with hva | ⟨hlo, hhi⟩
    · rw [State.translate, if_pos hva]
    · obtain ⟨off, rfl⟩ := Nat.exists_eq_add_of_le (Nat.le_trans (by decide : 0x40000000000000 ≤ 0x40000030000000) hlo)
      have hpast : 0x30000000 ≤ 0x40000000000000 + off - flatVa := by rw [flatVa]; omega
      rw [translate_window s core tenant need (by omega), State.flatAccess, if_pos hpast]

/-! The outcome of a step (spec/28_system.md R473). -/

/-- An instruction of the cores has its effect or faults its split (`gated`); a clearing instruction and an event have an effect. -/
theorem exec_next (i : Instr) (s : State) : ∃ t, exec i s = .next t := by
  have hgated (f : State → State) := gated_next i s f
  cases i with
  | cld | clearingCst | cadd | csub | cmov | cmovi | cbnz | cbra | csend | crecv | cred | ccomp | csigFe | csigAb | cwaitFe
  | cwaitPh | cswred | cend => exact ⟨_, rfl⟩
  | clauseWaitMet | clauseWordsArrive | longResultReturn | cbarCompletion | pageWalk | storeRegistration | homeWriteQueueApply
  | loadServe | matrixCommandStart | matrixStep | matrixCommandEnd | copyCommandStart | copyDelivery | commandEnd
  | collectiveStart | clearingMessageArrival | collectiveEnd | switchSlotTimeout | reductionPush | heldEndApply
  | rewardMessage | escrowAgeExpiry | joinTimeout | episodeScan | queueTailPoll | queueAdvance | doorbell | dependenceReread
  | recordStart | workgroupPlacement | gangPlacement | saveHandlerEntry | drainComplete | restorePlacement | verUpdate
  | watchdogExpiry | mailboxMessage | faultRecordWrite | scrub | tenantReset | registerWrite | qcfgWrite | portcfgWrite
  | portTraining | freplayWrite | islfreqWrite | islbudgetWrite | plimitWrite | telemetrySample | thermalShutdown
  | eventSnapshot | packageReset | imageInstall | coreRelease | extend | attestationRequest | fabricRequestArrival
  | fabricReplyArrival | acknowledgement | fabricReplayTimeout | contextQuietExpiry | contextClose | flitReceive
  | retryGapExpiry | retryRequest | linkFailure | portRetrain | ueRmaWrite | ueQueueAdvance | ueRewardSend
  | ueUnsupportedRequest | dieStopsAnswering | planeReportsUnreachable => exact ⟨_, rfl⟩
  | _ =>
    dsimp only [exec]
    exact hgated _

theorem issue_next (r : State × Bool) : ∃ t, State.issue r = .next t := by
  unfold State.issue
  split
  · exact ⟨_, rfl⟩
  · split
    · exact ⟨_, rfl⟩
    · exact ⟨_, rfl⟩
    · next i _ =>
      obtain ⟨t, ht⟩ := exec_next i r.1.issuing
      rw [ht]
      exact ⟨_, rfl⟩

theorem ite_next {c : Prop} [Decidable c] {x y : Host.Outcome State Fault Refusal} (hx : ∃ t, x = .next t) (hy : ∃ t, y = .next t) :
    ∃ t, (if c then x else y) = .next t := by
  split <;> assumption

theorem clearTurn_next (s : State) (d p : Nat) : ∃ u, s.doTurn (.clear d p) = .next u := by
  simp only [State.doTurn]
  split
  · exact ⟨_, rfl⟩
  · next u i _ =>
    obtain ⟨v, hv⟩ := exec_next i u
    rw [hv]
    exact ⟨_, rfl⟩

theorem doTurn_next (s : State) (t : Turn) : ∃ u, s.doTurn t = .next u := by
  cases t with
  | issue c q =>
    simp only [State.doTurn]
    exact ite_next (issue_next _) ⟨_, rfl⟩
  | service c =>
    simp only [State.doTurn]
    exact ite_next (issue_next _) ⟨_, rfl⟩
  | clear d p => exact clearTurn_next s d p
  | event e a =>
    simp only [State.doTurn]
    exact ite_next ⟨_, rfl⟩ (exec_next e _)
  | cycles cls u n =>
    simp only [State.doTurn]
    split <;> exact ⟨_, rfl⟩
  | _ => exact ⟨_, rfl⟩

/-- Settles O13: with power, or at a package reset, the step is its turn, and every turn answers a next state. -/
theorem stepStopsOnlyWithoutPower : Obligations.StepStopsOnlyWithoutPower := by
  refine ⟨exec_next, fun s => ?_⟩
  have hstep : Sys2Proof.Machine.step s = if s.power.down = true ∧ isReset s.nextTurn.1 = false then .fault .poweredOff
      else s.nextTurn.2.doTurn s.nextTurn.1 := by
    have hpower : s.nextTurn.2.power = s.power := by unfold State.nextTurn; split <;> rfl
    simp only [step, State.oneStep, hpower, Bool.and_eq_true, Bool.not_eq_true']
  rw [hstep]
  split
  · rfl
  · exact doTurn_next _ _

end Sys2Proof.Machine

/-! Entry into an exception, and the faults that stop a warp (spec/12_divergence.md R268, R270). -/

namespace Sys2Proof.Machine

open Sys2Proof

theorem OnlyCore.cur_eq {s t : State} {c : Nat} (h : OnlyCore s t c) : t.cur = s.cur := by rw [h.1]

theorem onlyCore_setCore (s : State) (c : Nat) (k : Core) : OnlyCore s (s.setCore c k) c := ⟨rfl, fun _ hj => core_setCore_ne s k hj⟩

/-! ### The entry of an exception at any position (R268) -/

section
variable (s : State) (addr pslot i : Nat) (fs : List LaneFault)

/-- The entry that lanes of the issuing warp take. -/
def State.fragTaken : Frag :=
  { valid := true, pend := true, gen := ((fget ({} : Frag) (s.core s.cur.core).frags i).gen + 1) % 1024, tenant := s.warp.tenant,
    slot := s.cur.slot, mask := maskOf (fs.map (·.1)), addr := addr, pslot := pslot }

/-- The acting core with that entry in its table, and the lanes parked under it. -/
def State.fragCore : Core :=
  { s.core s.cur.core with frags := fset (s.core s.cur.core).frags i (s.fragTaken addr pslot i fs) }.setWarp s.cur.slot
    (s.warp.parkLanes s.cur.core s.cur.slot i addr pslot fs)

/-- The state with that core, where the event is counted. -/
def State.fragState : State :=
  (s.setCore s.cur.core (s.fragCore addr pslot i fs)).countCore s.cur.core 6 s.warp.tenant 1

/-- The state after the entry: the lanes have left the split. -/
def State.afterEntry : State :=
  (s.fragState addr pslot i fs).updWarpAt s.cur.core s.cur.slot (·.without (maskOf (fs.map (·.1))))

variable {s i fs}

theorem takeFaults_entry (hslot : s.cur.slot ≠ 64) (hmode : s.warp.mode = .tenant) (hfs : fs ≠ [])
    (hfree : (s.core s.cur.core).freeFrag = some i) :
    s.takeFaults addr pslot fs = (s.afterEntry addr pslot i fs, true) := by
  cases fs with
  | nil => exact absurd rfl hfs
  | cons f fs =>
    simp only [State.takeFaults, if_neg hslot, hmode, ne_eq, not_true_eq_false, if_false, State.fragment, hfree]
    rfl

variable (s i fs)

theorem core_fragState : ∃ m, (s.fragState addr pslot i fs).core s.cur.core = { s.fragCore addr pslot i fs with csr := m } := by
  obtain ⟨m, hm⟩ := count_csr (s.fragCore addr pslot i fs) 6 s.warp.tenant 1
  exact ⟨m, by rw [State.fragState, State.countCore, core_updCore, core_setCore, hm]⟩

theorem onlyCore_fragState : OnlyCore s (s.fragState addr pslot i fs) s.cur.core :=
  (onlyCore_setCore s s.cur.core (s.fragCore addr pslot i fs)).trans (onlyCore_updCore _ s.cur.core (·.count 6 s.warp.tenant 1))

theorem frags_fragState : ((s.fragState addr pslot i fs).core s.cur.core).frags
    = fset (s.core s.cur.core).frags i (s.fragTaken addr pslot i fs) := by
  obtain ⟨m, hm⟩ := core_fragState s addr pslot i fs
  rw [hm]
  rfl

theorem warpAt_fragState (w : Nat) : (s.fragState addr pslot i fs).warpAt s.cur.core w
    = if w = s.cur.slot then s.warp.parkLanes s.cur.core s.cur.slot i addr pslot fs else s.warpAt s.cur.core w := by
  obtain ⟨m, hm⟩ := core_fragState s addr pslot i fs
  rw [State.warpAt, hm]
  exact fget_fset _ _ _ _ _

theorem onlyWarpAt_afterEntry : OnlyWarpAt (s.fragState addr pslot i fs) (s.afterEntry addr pslot i fs) s.cur.core s.cur.slot :=
  onlyWarpAt_updWarpAt _ _ _ _

theorem onlyCore_afterEntry : OnlyCore s (s.afterEntry addr pslot i fs) s.cur.core :=
  (onlyCore_fragState s addr pslot i fs).trans (onlyWarpAt_afterEntry s addr pslot i fs).1

theorem frags_afterEntry : ((s.afterEntry addr pslot i fs).core s.cur.core).frags
    = fset (s.core s.cur.core).frags i (s.fragTaken addr pslot i fs) :=
  (frags_updWarpAt _ _ _ _).trans (frags_fragState s addr pslot i fs)

theorem warpAt_afterEntry_ne {w : Nat} (hw : w ≠ s.cur.slot) :
    (s.afterEntry addr pslot i fs).warpAt s.cur.core w = s.warpAt s.cur.core w := by
  rw [(onlyWarpAt_afterEntry s addr pslot i fs).2.2 w hw, warpAt_fragState, if_neg hw]

theorem warp_afterEntry : (s.afterEntry addr pslot i fs).warp
    = (s.warp.parkLanes s.cur.core s.cur.slot i addr pslot fs).without (maskOf (fs.map (·.1))) := by
  rw [State.warp, (onlyCore_afterEntry s addr pslot i fs).cur_eq, State.afterEntry, warpAt_updWarpAt, warpAt_fragState, if_pos rfl]

end

/-- Settles O19: the lowest free entry takes the lanes, which park under it and leave the split. -/
theorem exceptionEntry : Obligations.ExceptionEntry := by
  intro s addr pslot i fs hslot hmode hfs hnodup _ hfree
  rw [takeFaults_entry addr pslot hslot hmode hfs hfree]
  have hframe := onlyCore_afterEntry s addr pslot i fs
  refine ⟨rfl, ?entry, fun l c a hl => ?gone, fun l hl => ?stays, ?run, ?rest, fun j hj => ?otherEntries, hframe.1,
    fun w hw => warpAt_afterEntry_ne s addr pslot i fs hw, hframe.2⟩
  case entry => rw [frags_afterEntry, fget_fset_self]; rfl
  case otherEntries => rw [frags_afterEntry, fget_fset_ne _ _ _ hj]
  all_goals rw [warp_afterEntry]
  case gone => exact thread_parkLanes_of_mem _ _ _ _ _ hnodup hl s.warp
  case stays => exact thread_parkLanes_of_notMem _ _ _ _ _ hl s.warp
  all_goals rw [parkLanes_threads]
  case run => rfl
  case rest => rfl

/-! ### Faults that stop (R235, R246, R270) -/

theorem setWfault_eq (s : State) (c slot : Nat) (x : Cause) (a : Nat) : s.setWfault c slot x a =
    (s.updWarpAt c slot fun w => { w with wfault := some x, wfaddr := a }).updCore c fun k =>
      { k with slotEv := if x = .warpAbort ∨ slot ∈ k.slotEv then k.slotEv else k.slotEv ++ [slot] } := by
  unfold State.setWfault
  congr 1
  funext k
  simp only [List.contains_iff_mem]
  split <;> rfl

theorem onlyCore_setWfault (s : State) (c slot : Nat) (x : Cause) (a : Nat) : OnlyCore s (s.setWfault c slot x a) c :=
  (onlyCore_updCore s c _).trans (onlyCore_updCore _ _ _)

theorem core_setWfault (s : State) (c slot : Nat) (x : Cause) (a : Nat) : (s.setWfault c slot x a).core c =
    { (s.core c).setWarp slot { s.warpAt c slot with wfault := some x, wfaddr := a } with
      slotEv := if x = .warpAbort ∨ slot ∈ (s.core c).slotEv then (s.core c).slotEv else (s.core c).slotEv ++ [slot] } := by
  rw [setWfault_eq, core_updCore, State.updWarpAt, State.setWarpAt, core_updCore]
  rfl

theorem warpAt_setWfault (s : State) (c slot : Nat) (x : Cause) (a : Nat) :
    (s.setWfault c slot x a).warpAt c slot = { s.warpAt c slot with wfault := some x, wfaddr := a } := by
  rw [State.warpAt, core_setWfault]
  exact fget_fset_self _ _ _ _

/-- A fault of the issuing warp that leaves no lane: the warp fault slot takes it and the warp stalls. -/
def State.warpStops (s : State) (x : Cause) (a : Nat) : State := { s.setWfault s.cur.core s.cur.slot x a with flow := .stall }

theorem warp_warpStops (s : State) (x : Cause) (a : Nat) : (s.warpStops x a).warp = { s.warp with wfault := some x, wfaddr := a } := by
  have hcur := (onlyCore_setWfault s s.cur.core s.cur.slot x a).cur_eq
  exact (congrArg (fun u : Cur => (s.setWfault s.cur.core s.cur.slot x a).warpAt u.core u.slot) hcur).trans (warpAt_setWfault ..)

theorem warpStops_eq (s : State) (x : Cause) (a : Nat) :
    s.warpStops x a = { s with cores := (s.warpStops x a).cores, flow := .stall } := by
  have h := (onlyCore_setWfault s s.cur.core s.cur.slot x a).1
  rw [State.warpStops, h]

theorem core_warpStops (s : State) (x : Cause) (a : Nat) :
    (s.warpStops x a).core s.cur.core = (s.setWfault s.cur.core s.cur.slot x a).core s.cur.core := rfl

theorem withFaults_full {s : State} {fs : List LaneFault} (f : State → State) (hslot : s.cur.slot ≠ 64)
    (hmode : s.warp.mode = .tenant) (hfs : fs ≠ []) (hfree : (s.core s.cur.core).freeFrag = none) :
    s.withFaults fs f = s.warpStops .fragFull 0 := by
  cases fs with
  | nil => exact absurd rfl hfs
  | cons x fs =>
    simp only [State.withFaults, State.takeFaults, if_neg hslot, hmode, ne_eq, not_true_eq_false, if_false, State.fragment, hfree]
    rfl

theorem withFaults_handler {s : State} {x : LaneFault} (fs : List LaneFault) (f : State → State) (hslot : s.cur.slot ≠ 64)
    (hmode : s.warp.mode ≠ .tenant) : s.withFaults (x :: fs) f = s.warpStops x.2.1 x.2.2 := by
  simp only [State.withFaults, State.takeFaults, if_neg hslot, hmode, ne_eq, not_false_eq_true, if_true]
  rfl

/-- Settles O20: in each case the state is that of the issue, with the fault noted where the rule puts it. -/
theorem stoppingFaults : Obligations.StoppingFaults := by
  refine ⟨fun s fs f hslot hmode hfs hfree => ?full, fun s l c a fs f => ⟨fun hslot => ?service, fun hslot hmode _ => ?handler⟩⟩
  case full =>
    rw [withFaults_full f hslot hmode hfs hfree]
    refine ⟨rfl, warp_warpStops s _ _, ?_, warpStops_eq s _ _⟩
    rw [core_warpStops, core_setWfault]
    simp
  case service =>
    simp only [State.withFaults, State.takeFaults, if_pos hslot]
    rfl
  case handler =>
    rw [withFaults_handler fs f hslot hmode]
    refine ⟨rfl, warp_warpStops s _ _, warpStops_eq s _ _, ?_⟩
    rw [core_warpStops, core_setWfault]
    rfl

end Sys2Proof.Machine

/-! What writes to memory leave unchanged: at a home, of an engine, of the hub, and of a packet that leaves (spec/15_memory_model.md
R310 to R317, spec/27_fabric.md R447). -/

namespace Sys2Proof.Machine

open Sys2Proof

/-- Nothing differs but what writes may change: memory and what stands at its homes, the cores' words, what leaves over the
fabric, and what counts or reports these. -/
def State.Written (s t : State) : Prop :=
  t = { s with mem := t.mem, full := t.full, ldfq := t.ldfq, errs := t.errs, spare := t.spare, outCores := t.outCores, told := t.told,
               recs := t.recs, cores := t.cores, dies := t.dies, ports := t.ports, ctxs := t.ctxs, nextId := t.nextId,
               pushes := t.pushes, swOwned := t.swOwned, swAsked := t.swAsked, hubEv := t.hubEv }

theorem State.Written.refl (s : State) : s.Written s := rfl
theorem State.Written.trans {s t u : State} (h : s.Written t) (g : t.Written u) : s.Written u := by
  unfold State.Written
  rw [g, h]
/-- The last change first: what it starts from is then known. -/
theorem State.Written.after {s t u : State} (g : t.Written u) (h : s.Written t) : s.Written u := h.trans g

theorem State.Written.foldl {α : Type} {f : State → α → State} (hf : ∀ (s : State) x, s.Written (f s x)) (l : List α) (s : State) :
    s.Written (l.foldl f s) := by
  induction l generalizing s with
  | nil => exact .refl s
  | cons x l ih => exact (hf s x).trans (ih _)

theorem State.Written.ite {c : Prop} [Decidable c] {s t u : State} (ht : s.Written t) (hu : s.Written u) :
    s.Written (if c then t else u) := by
  split
  · exact ht
  · exact hu

theorem State.Written.arg_eq {s t : State} (h : s.Written t) : t.arg = s.arg := by rw [h]
theorem State.Written.cur_eq {s t : State} (h : s.Written t) : t.cur = s.cur := by rw [h]
theorem State.Written.tenants_eq {s t : State} (h : s.Written t) : t.tenants = s.tenants := by rw [h]
theorem State.Written.tenant_eq {s t : State} (h : s.Written t) (n : Nat) : t.tenant n = s.tenant n := by
  rw [State.tenant, h.tenants_eq]
  rfl
theorem State.Written.episodes_eq {s t : State} (h : s.Written t) : t.episodes = s.episodes := by rw [h]

/-! ### Counters -/

theorem written_countDie (s : State) (d e t n : Nat) : s.Written (s.countDie d e t n) := .ite (.refl s) rfl
theorem written_countHbm (s : State) (pa e t n : Nat) : s.Written (s.countHbm pa e t n) := .ite (written_countDie ..) (.refl s)

/-! ### Packets that leave (R447) -/

theorem written_toSwitch (s : State) (p : Packet) : s.Written (s.toSwitch p) := .ite rfl (.refl s)

theorem written_pump (s : State) (n : Nat) : s.Written (s.pump n) :=
  State.Written.trans (t := { s with ports := fset s.ports n ((s.port n).pumpGo (s.port n).waiting.length).1 }) rfl
    (.foldl (fun s _ => ((written_countDie s ..).trans (written_countDie ..)).trans (written_toSwitch ..)) _ _)

theorem written_transmit (s : State) (p : Packet) : s.Written (s.transmit p) := by
  unfold State.transmit
  split
  · exact .refl s
  · next n _ => exact State.Written.trans (t := s.updPort n fun x => { x with waiting := x.waiting ++ [p] }) rfl (written_pump _ _)

theorem written_request (s : State) (src : Nat) (r : Sent) : s.Written (s.request src r) := by
  unfold State.request
  dsimp only
  split
  · exact rfl
  · exact (written_transmit _ _).after rfl

theorem written_postChunks (typ tenant : Nat) (quiet : Bool) (n : Nat) (s : State) (pa : Nat) (bs : List Byte) :
    s.Written (State.postChunks typ tenant quiet n s pa bs) := by
  induction n generalizing s pa bs with
  | zero => exact .refl s
  | succ n ih =>
    cases bs with
    | nil => exact .refl s
    | cons b bs => exact (written_request s _ _).trans (ih _ _ _)

/-! ### Writes at a home (R310, R426) -/

theorem written_bytes (s : State) (mem : List Host.Cell) (sw errs : List Nat) :
    s.Written { s with mem := mem, swOwned := sw, errs := errs } := rfl

theorem written_takeSpare (s : State) (c : Nat) : s.Written (s.takeSpare c) := .ite rfl rfl

theorem written_remapRow (s : State) (pa : Nat) : s.Written (s.remapRow pa) := by
  unfold State.remapRow
  dsimp only
  split
  · exact (written_takeSpare s _).trans (written_bytes _ _ _ _)
  · exact .refl s

theorem written_meetsError (s : State) (tenant va pa : Nat) : s.Written (s.meetsError tenant va pa) := by
  have hrec : s.Written (s.asyncRec tenant va ((homeCore pa).getD 0xFF)) := rfl
  exact .ite (hrec.trans (written_remapRow _ _)) hrec

theorem written_takeBack (s : State) (pa n : Nat) : s.Written (s.takeBack pa n) := .ite rfl (.refl s)

theorem written_homePart (s : State) (tenant va pa : Nat) (bs : List Byte) : s.Written (s.homePart tenant va pa bs).1 := by
  unfold State.homePart
  split
  · exact .refl s
  split
  · exact written_meetsError ..
  · have hcounted (s : State) (d : Nat) (b : Bool) : s.Written (if b then s.countDie d 4 tenant 1 else s) :=
      .ite (written_countDie ..) (.refl s)
    have hrecalled : s.Written (State.recall (if !(s.die ((homeCore pa).getD 0 / 48)).ev.isEmpty && s.ownedIn pa bs.length then
        s.countDie ((homeCore pa).getD 0 / 48) 4 tenant 1 else s) pa bs.length) := (hcounted s _ _).trans rfl
    have hback := (hrecalled.trans (written_countHbm _ pa 3 tenant bs.length)).trans (written_takeBack _ pa bs.length)
    exact hback.trans (written_bytes _ _ _ _)

theorem written_serveGo (g n : Nat) (s : State) : s.Written (State.serveGo g n s) := by
  induction n generalizing s with
  | zero => exact .refl s
  | succ n ih =>
    unfold State.serveGo
    split
    · exact .refl s
    split
    · exact .refl s
    dsimp only
    split
    · split
      · exact (ih _).after rfl
      · exact rfl
    split
    all_goals
      split
      · exact (ih _).after rfl
      split
      · exact rfl
      · exact (ih _).after rfl

theorem written_fill (s : State) (g : Nat) : s.Written (s.fill g) := by
  have hfull : s.Written (if s.isFull g then s else { s with full := g :: s.full }) := .ite (.refl s) rfl
  exact hfull.trans (written_serveGo _ _ _)

theorem written_fillRange (s : State) (pa n : Nat) : s.Written (s.fillRange pa n) :=
  .ite (.foldl (fun _ _ => written_fill _ _) _ _) (.refl s)

theorem written_engineGo (tenant n : Nat) (s : State) (va pa : Nat) (bs : List Byte) :
    s.Written (State.engineGo tenant n s va pa bs) := by
  induction n generalizing s va pa bs with
  | zero => exact .refl s
  | succ n ih =>
    cases bs with
    | nil => exact .refl s
    | cons b bs =>
      refine State.Written.trans ?_ (ih _ _ _ _)
      have hpart := written_homePart s tenant va pa ((b :: bs).take (32 - pa % 32))
      split
      · next h => exact State.Written.trans (by rw [h] at hpart; exact hpart) (written_fillRange _ _ _)
      · next h => rw [h] at hpart; exact hpart

theorem written_engineWrite (s : State) (tenant va pa : Nat) (bs : List Byte) (typ : Nat) (quiet : Bool) :
    s.Written (s.engineWrite tenant va pa bs typ quiet) :=
  .ite (written_postChunks ..) (written_engineGo ..)

theorem written_hubWrite (s : State) (tenant va : Nat) (bs : List Byte) : s.Written (s.hubWrite tenant va bs) := by
  unfold State.hubWrite
  split
  · exact .refl s
  · exact written_engineWrite ..

theorem written_joinWrite {s u : State} {tenant va : Nat} {bs : List Byte} {e : Option Nat} (h : s.joinWrite tenant va bs = (u, e)) :
    s.Written u := by
  unfold State.joinWrite at h
  split at h
  · cases h
    exact .refl s
  · cases h
    exact written_engineWrite ..

end Sys2Proof.Machine

/-! The events of the episode join and scan unit (spec/23_episodes.md R392 to R401). -/

namespace Sys2Proof.Machine

open Sys2Proof

/-! ### Entries and queues -/

theorem episode_setEpisode (s : State) (i : Nat) (e : Episode) : (s.setEpisode i e).episode i = e := fget_fset_self _ _ _ _

theorem mem_freeEpisode (s : State) (i : Nat) : (s.freeEpisode i).mem = s.mem := rfl
theorem mem_showRecords (s : State) (tenant q n : Nat) : (s.showRecords tenant q n).mem = s.mem := rfl
theorem mem_countDrop (s : State) (tenant i : Nat) : (s.countDrop tenant i).mem = s.mem := rfl
theorem escrow_countDrop (s : State) (tenant i : Nat) : (s.countDrop tenant i).escrow = s.escrow := rfl

theorem episode_freeEpisode (s : State) (i : Nat) : (s.freeEpisode i).episode i = { gen := (s.episode i).gen } :=
  fget_fset_self _ _ _ _

theorem State.Written.episode_eq {s t : State} (h : s.Written t) (i : Nat) : t.episode i = s.episode i := by
  rw [State.episode, h.episodes_eq]
  rfl

theorem soundEntry_sound {s : State} {i : Nat} (h : (s.episode i).bad = false) : s.soundEntry (some i) = s := by
  rw [State.soundEntry, h]
  rfl

theorem lqTail_showRecords (s : State) (tenant q n : Nat) :
    fget 0 ((s.showRecords tenant q n).tenant tenant).lqTail q = fget 0 (s.tenant tenant).lqTail q + n := by
  rw [State.showRecords, tenant_updTenant]
  exact fget_fset_self _ _ _ _

theorem lqTail_of_lq {t : Tenant} {q base size head tail : Nat} (h : t.lq q = (base, size, head, tail)) : fget 0 t.lqTail q = tail :=
  congrArg (·.2.2.2) h

theorem drops_countDrop (s : State) (tenant i : Nat) :
    fget 0 ((s.countDrop tenant i).tenant tenant).drops i = (fget 0 (s.tenant tenant).drops i + 1) % 2 ^ 32 := by
  rw [State.countDrop, tenant_updTenant]
  exact fget_fset_self _ _ _ _

/-! ### An entry reaches JOINED (R399) -/

theorem reachJoined_old {s : State} {i : Nat}
    (h : ((s.tenant (s.episode i).tenant).eplag : Int) < ((s.tenant (s.episode i).tenant).epver - (s.episode i).ver).toInt) :
    s.reachJoined i = (s.freeEpisode i).countDrop (s.episode i).tenant dropStale := if_pos h

theorem reachJoined_young {s : State} {i : Nat}
    (h : ¬ ((s.tenant (s.episode i).tenant).eplag : Int) < ((s.tenant (s.episode i).tenant).epver - (s.episode i).ver).toInt) :
    s.reachJoined i = { s.setEpisode i { s.episode i with st := .joined } with joinedQ := s.joinedQ ++ [i] } := if_neg h

theorem reachJoined_keeps (s : State) (i : Nat) : (s.reachJoined i).mem = s.mem ∧ (s.reachJoined i).escrow = s.escrow := by
  unfold State.reachJoined
  dsimp only
  split
  · exact ⟨by rw [mem_countDrop, mem_freeEpisode], by rw [escrow_countDrop]; rfl⟩
  · exact ⟨rfl, rfl⟩

/-! ### Rewards (R395, R396) -/

theorem reward_resetting {s : State} {m : Reward} (h : (s.tenant m.tenant).resetting = true) : s.reward m = s := if_pos h

theorem reward_unknown {s : State} {m : Reward} (hreset : (s.tenant m.tenant).resetting = false) (hflags : m.flags < 2)
    (hentry : s.entryOf m.tenant m.key = none) (hesc : (s.tenant m.tenant).epesc ≠ 0) (hroom : s.escrow.length < 131072) :
    s.reward m = ({ s with escrow := s.escrow ++ [{ m with at_ := s.joinCycle }] } : State).countHub 5 m.tenant 1 := by
  have hmal : m.flags / 2 = 0 := by omega
  simp only [State.reward, hreset, hmal, hentry, State.soundEntry, State.toEscrow, hesc, Nat.not_le.mpr hroom, ne_eq,
    not_true_eq_false, Bool.false_eq_true, if_false]

theorem reward_known {s : State} {m : Reward} {i : Nat} (hreset : (s.tenant m.tenant).resetting = false) (hflags : m.flags < 2)
    (hentry : s.entryOf m.tenant m.key = some i) (hbad : (s.episode i).bad = false) (hcap : m.step < (s.episode i).cap)
    (hstep : m.step < (s.episode i).nstep) (hlen : (s.episode i).st = .closed → m.step < (s.episode i).len) :
    s.reward m = s.placeReward i (s.episode i) m := by
  have hmal : m.flags / 2 = 0 := by omega
  have hstray : ¬ ((s.episode i).cap ≤ m.step ∨ (s.episode i).st = .closed ∧ (s.episode i).len ≤ m.step) := by
    rintro (h | ⟨hst, h⟩)
    · omega
    · have := hlen hst
      omega
  simp only [State.reward, hreset, hmal, hentry, soundEntry_sound hbad, hstray, Nat.not_le.mpr hstep, ne_eq, not_true_eq_false,
    Bool.false_eq_true, if_false]

/-- The number of records whose reward is missing, once one more has come. -/
def Episode.oneLess (e : Episode) : Nat := (e.missing + (2 ^ 17 - 1)) % 2 ^ 17

theorem placeReward_written {s u : State} {i r : Nat} {e : Episode} {m : Reward}
    (hread : s.joinRead e.tenant (e.buf + 16 * m.step) 16 = .ok r) (hone : bitOf (blockField r 4 4) 1 = false)
    (htwo : bitOf (blockField r 4 4) 2 = false)
    (hwrite : s.joinWrite e.tenant (e.buf + 16 * m.step + 4)
      (leBytes 4 (blockField r 4 4 ||| 4 ||| (if bitOf m.flags 0 then 1 else 0)) ++ leBytes 4 m.reward.toNat) = (u, none)) :
    s.placeReward i e m = (if e.st = .closed ∧ e.oneLess = 0 then
      ((u.setEpisode i { e with missing := e.oneLess }).countHub 4 e.tenant 1).reachJoined i
      else (u.setEpisode i { e with missing := e.oneLess }).countHub 4 e.tenant 1) := by
  have hless : (e.missing + 2 ^ 17 - 1) % 2 ^ 17 = e.oneLess := by rw [Episode.oneLess, Nat.add_sub_assoc (by decide)]
  simp only [State.placeReward, hread, hone, htwo, hwrite, hless, Bool.false_eq_true, if_false]

theorem arg_reachJoined (s : State) (i : Nat) : (s.reachJoined i).arg = s.arg := by
  unfold State.reachJoined
  dsimp only
  split <;> rfl

theorem arg_toEscrow (s : State) (m : Reward) : (s.toEscrow m).arg = s.arg := by
  unfold State.toEscrow
  split
  · rfl
  · split <;> rfl

theorem arg_dropEntry (s : State) (i : Nat) : (s.dropEntry i).arg = s.arg := by
  have htake : (s.takeSpare 192).arg = s.arg := (written_takeSpare s 192).arg_eq
  have hdrop (s : State) (j : Nat) : (if (s.episode j).st = .free then s.updEpisode j fun e => { e with bad := false }
      else (s.freeEpisode j).hubRecord (s.episode j).tenant).arg = s.arg := by
    split <;> rfl
  exact (hdrop _ _).trans ((hdrop _ _).trans htake)

theorem arg_soundEntry (s : State) (o : Option Nat) : (s.soundEntry o).arg = s.arg := by
  unfold State.soundEntry
  split
  · rfl
  · split
    · exact arg_dropEntry _ _
    · rfl

theorem arg_placeReward (s : State) (i : Nat) (e : Episode) (m : Reward) : (s.placeReward i e m).arg = s.arg := by
  unfold State.placeReward
  dsimp only
  split
  · rfl
  split
  · rfl
  split
  · rfl
  split
  · next h => exact (written_joinWrite h).arg_eq
  · next u h =>
    split
    · exact (arg_reachJoined _ _).trans (written_joinWrite h).arg_eq
    · exact (written_joinWrite h).arg_eq

theorem arg_reward (s : State) (m : Reward) : (s.reward m).arg = s.arg := by
  unfold State.reward
  dsimp only
  split
  · rfl
  split
  · rfl
  refine Eq.trans ?_ (arg_soundEntry s (s.entryOf m.tenant m.key))
  split
  · exact arg_toEscrow _ _
  split
  · rfl
  split
  · exact arg_toEscrow _ _
  · exact arg_placeReward _ _ _ _

/-- Messages from elsewhere are those of the tenant that the event names. -/
theorem rewardsIn_eq (s : State) (n : Nat) (bs : List Byte) (h : s.arg.slot = n) : s.rewardsIn n bs =
    (blocksOf 24 (bs.length / 24) bs).foldl (fun s b => s.reward (rewardOf s.arg.slot b)) s := by
  unfold State.rewardsIn
  generalize blocksOf 24 (bs.length / 24) bs = l
  induction l generalizing s with
  | nil => rfl
  | cons b l ih =>
    rw [List.foldl_cons, List.foldl_cons, h]
    exact ih _ (by rw [arg_reward, h])

/-! ### Time-outs, scans and releases (R397 to R401) -/

theorem joinTimeout_due {s : State} {i : Nat} (harg : s.arg.idx = i) (hbad : (s.episode i).bad = false)
    (hst : (s.episode i).st = .closed) (hlim : (s.tenant (s.episode i).tenant).epjto ≠ 0)
    (hdue : (s.tenant (s.episode i).tenant).epjto ≤ (s.joinCycle % 2 ^ 32 + 2 ^ 32 - (s.episode i).tclose) % 2 ^ 32) :
    exec .joinTimeout s = .next (s.timeout i) ∧ s.timedOut (s.episode i) = true := by
  refine ⟨?_, ?_⟩
  · show Host.Outcome.next ((s.soundEntry (some s.arg.idx)).timeout s.arg.idx) = _
    rw [harg, soundEntry_sound hbad]
  · simp only [State.timedOut, hst, Bool.and_eq_true, bne_iff_ne, decide_eq_true_eq]
    exact ⟨⟨rfl, hlim⟩, hdue⟩

theorem timeout_drops {s : State} {i : Nat} (hdue : s.timedOut (s.episode i) = true) (hpolicy : bitOf (s.episode i).policy 0 = true) :
    s.timeout i = (s.freeEpisode i).countDrop (s.episode i).tenant dropTimeout := by
  simp only [State.timeout, hdue, hpolicy, Bool.not_true, Bool.false_eq_true, if_false, if_true]

theorem timeout_truncates {s : State} {i t0 : Nat} {v : Word} (hdue : s.timedOut (s.episode i) = true)
    (hpolicy : bitOf (s.episode i).policy 0 = false)
    (hfirst : s.firstMissing (s.episode i) 0 (s.episode i).len = .ok (some (t0, v))) (h0 : t0 ≠ 0) :
    s.timeout i = ((s.setEpisode i { s.episode i with len := t0, vl := v, term := false, trunc := true }).countDrop
      (s.episode i).tenant dropTrunc).reachJoined i := by
  obtain ⟨t, rfl⟩ := Nat.exists_eq_succ_of_ne_zero h0
  simp only [State.timeout, hdue, hpolicy, hfirst, Bool.not_true, Bool.false_eq_true, if_false]

section
variable {s : State} {i : Nat} {q : List Nat} (hq : s.joinedQ = i :: q) (hbad : (s.episode i).bad = false)
include hq hbad

theorem scan_first {rs : List StepRec} (hst : (s.episode i).st ≠ .scan)
    (hrecs : s.stepRecs (s.episode i) 0 (s.episode i).len = .ok rs) :
    exec .episodeScan s =
      .next ((s.setEpisode i { s.episode i with st := .scan, outs := releaseRecs (s.episode i) rs }).release i) := by
  show Host.Outcome.next s.scan = _
  simp only [State.scan, hq, hbad, hst, hrecs, Bool.false_eq_true, if_false]

theorem scan_release (hst : (s.episode i).st = .scan) : exec .episodeScan s = .next (s.release i) := by
  show Host.Outcome.next s.scan = _
  simp only [State.scan, hq, hbad, hst, Bool.false_eq_true, if_false, if_true]

end

section
variable {s : State} {i base size head tail : Nat} {r : List Byte} {rest : List (List Byte)}
  (houts : (s.episode i).outs = r :: rest) (hlq : (s.tenant (s.episode i).tenant).lq (bitsOf (s.episode i).policy 4 1) = (base, size, head, tail))
  (hbase : base ≠ 0)
include houts hlq hbase

theorem release_full (hfull : size ≤ tail + (s.episode i).hid - head) (hhid : (s.episode i).hid ≠ 0) :
    s.release i = (s.setEpisode i { s.episode i with hid := 0 }).showRecords (s.episode i).tenant (bitsOf (s.episode i).policy 4 1)
      (s.episode i).hid := by
  simp only [State.release, houts, hlq, hbase, hfull, hhid, if_true, if_false]

theorem release_written {u : State} (hroom : tail + (s.episode i).hid - head < size)
    (hwrite : s.joinWrite (s.episode i).tenant (base + 32 * ((tail + (s.episode i).hid) % size)) r = (u, none)) :
    s.release i = if rest.isEmpty then ((u.freeEpisode i).showRecords (s.episode i).tenant (bitsOf (s.episode i).policy 4 1)
        ((s.episode i).hid + 1)).countHub 6 (s.episode i).tenant 1
      else u.setEpisode i { s.episode i with outs := rest, hid := (s.episode i).hid + 1 } := by
  simp only [State.release, houts, hlq, hbase, Nat.not_le.mpr hroom, hwrite, if_false]

/-- Once the record is written, the learner is shown the episode's records if it was the last. -/
theorem release_next {u : State} (hroom : tail + (s.episode i).hid - head < size)
    (hwrite : s.joinWrite (s.episode i).tenant (base + 32 * ((tail + (s.episode i).hid) % size)) r = (u, none)) :
    (s.release i).mem = u.mem
      ∧ (rest ≠ [] → (s.release i).episode i = { s.episode i with outs := rest, hid := (s.episode i).hid + 1 }
        ∧ fget 0 ((s.release i).tenant (s.episode i).tenant).lqTail (bitsOf (s.episode i).policy 4 1) = tail)
      ∧ (rest = [] → (s.release i).episode i = { gen := (s.episode i).gen }
        ∧ fget 0 ((s.release i).tenant (s.episode i).tenant).lqTail (bitsOf (s.episode i).policy 4 1)
          = tail + ((s.episode i).hid + 1)) := by
  have hu := written_joinWrite hwrite
  have htail : fget 0 (u.tenant (s.episode i).tenant).lqTail (bitsOf (s.episode i).policy 4 1) = tail := by
    rw [hu.tenant_eq, lqTail_of_lq hlq]
  rw [release_written houts hlq hbase hroom hwrite]
  cases rest with
  | nil =>
    rw [List.isEmpty_nil, if_pos rfl]
    refine ⟨by rw [countHub_mem, mem_showRecords, mem_freeEpisode], fun h => absurd rfl h, fun _ => ⟨?_, ?_⟩⟩
    · exact (episode_freeEpisode u i).trans (by rw [hu.episode_eq])
    · exact (lqTail_showRecords (u.freeEpisode i) _ _ _).trans (congrArg (· + _) htail)
  | cons r' rest =>
    rw [List.isEmpty_cons, if_neg Bool.false_ne_true]
    exact ⟨rfl, fun _ => ⟨episode_setEpisode u i _, htail⟩, fun h => absurd h (List.cons_ne_nil _ _)⟩

end

/-- Settles O57: each event goes the way its entry, its message and its queue say. -/
theorem joinUnitEvents : Obligations.JoinUnitEvents := by
  refine ⟨fun s m => ⟨fun hm hdata => ?sent, fun hdata => ?brought, fun hm hbad hold => ?expired, reward_resetting,
    fun hreset hflags => ⟨fun hentry hesc hroom => ?waits, fun i r u hentry => ?placed⟩⟩, fun s i => ?entries, fun _ _ _ _ _ _ => rfl⟩
  case sent =>
    show Host.Outcome.next (ite _ _ _) = _
    rw [hdata, hm]
    rfl
  case brought =>
    show Host.Outcome.next (ite _ _ _) = _
    rw [if_neg (by rwa [List.isEmpty_iff]), rewardsIn_eq s _ _ rfl]
  case expired =>
    refine ⟨({ s with escrow := s.escrow.eraseIdx s.arg.idx } : State).countDrop m.tenant dropOrphan, ?_, rfl, rfl,
      drops_countDrop _ _ _⟩
    show execEscrowAgeExpiry s = _
    simp only [execEscrowAgeExpiry, hm, hbad, State.escrowOld, decide_eq_true hold, Bool.false_eq_true, if_false, if_true]
  case waits =>
    rw [reward_unknown hreset hflags hentry hesc hroom]
    exact ⟨rfl, rfl, rfl⟩
  case placed =>
    intro e va fl hbad hcap hstep hlen hread hone htwo hwrite left
    rw [reward_known hreset hflags hentry hbad hcap hstep hlen, placeReward_written hread hone htwo hwrite]
    refine ⟨fun hst => ?_, fun hst hleft => ?_⟩
    · rw [if_neg]
      · exact ⟨episode_setEpisode u i _, rfl⟩
      · rintro ⟨hclosed, hleft⟩
        rcases hst with hopen | ⟨-, hne⟩
        · rw [hclosed] at hopen
          cases hopen
        · exact hne hleft
    · rw [if_pos ⟨hst, hleft⟩]
      obtain ⟨hmem, hescrow⟩ := reachJoined_keeps ((u.setEpisode i { e with missing := e.oneLess }).countHub 4 e.tenant 1) i
      exact ⟨hmem, hescrow, rfl⟩
  case entries =>
    intro e t lqn hbad
    refine ⟨fun harg hst hlim hdue => ?_, fun q hq => ⟨fun rs => scan_first hq hbad, fun r rest base size head tail hst houts hlq hbase => ⟨?_, ?_⟩⟩, reachJoined_old, fun hyoung => ?_⟩
    · obtain ⟨hexec, hout⟩ := joinTimeout_due harg hbad hst hlim hdue
      refine ⟨fun hpolicy => ?_, fun t0 v hpolicy hfirst h0 => ?_⟩
      · rw [hexec, timeout_drops hout hpolicy]
        rfl
      · rw [hexec, timeout_truncates hout hpolicy hfirst h0]
        rfl
    · exact fun u hroom hwrite => ⟨_, scan_release hq hbad hst, release_next houts hlq hbase hroom hwrite⟩
    · intro hfull hhid
      refine ⟨_, scan_release hq hbad hst, ?_⟩
      rw [release_full houts hlq hbase hfull hhid]
      exact ⟨rfl, episode_setEpisode s i _, (lqTail_showRecords (s.setEpisode i { e with hid := 0 }) _ _ _).trans
        (congrArg (· + _) (lqTail_of_lq hlq))⟩
    · rw [reachJoined_young hyoung]
      exact ⟨rfl, episode_setEpisode s i _⟩

end Sys2Proof.Machine

/-! What a tenant reset sets, the rest of the reset leaves as it is (spec/28_system.md R463). -/

namespace Sys2Proof.Machine

open Sys2Proof

/-! ### The switches of the tenants, and the messages in escrow -/

/-- Whether a tenant is active, whether it is being reset, and which of its queues are enabled. -/
def Tenant.switches (x : Tenant) : Bool × Bool × (Nat → Bool) := (x.active, x.resetting, fun q => (x.queue q).en)

/-- The switches of each tenant, and the messages in escrow. -/
def State.switches (s : State) : List Reward × (Nat → Bool × Bool × (Nat → Bool)) := (s.escrow, fun n => (s.tenant n).switches)

theorem switches_updTenant {s : State} {n : Nat} {f : Tenant → Tenant} (h : (f (s.tenant n)).switches = (s.tenant n).switches) :
    (s.updTenant n f).switches = s.switches := by
  refine Prod.ext rfl (funext fun k => ?_)
  show Tenant.switches (fget {} (fset _ _ _) _) = _
  rw [fget_fset]
  split
  · next hk => rw [hk, h]; rfl
  · rfl

theorem switches_updQueue {s : State} {n q : Nat} {f : Queue → Queue}
    (h : (f ((s.tenant n).queue q)).en = ((s.tenant n).queue q).en) : (s.updQueue n q f).switches = s.switches := by
  refine switches_updTenant (Prod.ext rfl (Prod.ext rfl (funext fun k => ?_)))
  show Queue.en (fget {} (fset _ _ _) _) = _
  rw [fget_fset]
  split
  · next hk => rw [hk, h]; rfl
  · rfl

theorem State.Written.switches_eq {s t : State} (h : s.Written t) : t.switches = s.switches := by
  rw [h]
  rfl

theorem switches_foldl {α : Type} {f : State → α → State} (hf : ∀ (s : State) x, (f s x).switches = s.switches) (l : List α) (s : State) :
    (l.foldl f s).switches = s.switches := by
  induction l generalizing s with
  | nil => rfl
  | cons x l ih => exact (ih _).trans (hf s x)

theorem switches_ite {c : Prop} [Decidable c] {s t u : State} (ht : t.switches = s.switches) (hu : u.switches = s.switches) :
    (if c then t else u).switches = s.switches := by
  split
  · exact ht
  · exact hu

theorem switches_updCore (s : State) (c : Nat) (f : Core → Core) : (s.updCore c f).switches = s.switches := rfl
theorem switches_updWarpAt (s : State) (c w : Nat) (f : Warp → Warp) : (s.updWarpAt c w f).switches = s.switches := rfl
theorem switches_updWg (s : State) (g : Nat) (f : Wg → Wg) : (s.updWg g f).switches = s.switches := rfl

theorem switches_updLaunch (s : State) (n : Nat) (f : Launch → Launch) : (s.updLaunch n f).switches = s.switches := by
  unfold State.updLaunch
  split <;> rfl

/-! ### Threads, their faults and their masks -/

theorem switches_resume (s : State) (c w : Nat) (ls : List Nat) : (s.resume c w ls).switches = s.switches := by
  unfold State.resume
  dsimp only
  split <;> rfl

theorem switches_wakeBound (s : State) (c w : Nat) : (s.wakeBound c w).switches = s.switches := switches_ite rfl rfl

theorem switches_settleMasks (s : State) (c w : Nat) : (s.settleMasks c w).switches = s.switches := by
  unfold State.settleMasks
  dsimp only
  split
  · rfl
  split
  · rfl
  · exact (switches_updWarpAt _ _ _ _).trans ((switches_resume _ _ _ _).trans rfl)

theorem switches_grant (s : State) (c q : Nat) : (s.grant c q).switches = s.switches := switches_ite rfl rfl

theorem switches_fragment (s : State) (c w addr pslot : Nat) (fs : List LaneFault) :
    (s.fragment c w addr pslot fs).1.switches = s.switches := by
  unfold State.fragment
  dsimp only
  split <;> rfl

theorem switches_takePendGo (c w n : Nat) (s : State) : (State.takePendGo c w n s).switches = s.switches := by
  induction n generalizing s with
  | zero => rfl
  | succ n ih =>
    unfold State.takePendGo
    dsimp only
    split
    · rfl
    split
    · rfl
    split
    · rfl
    split
    · exact ih _
    split
    · rfl
    split
    · next h => exact (ih _).trans ((congrArg (·.1.switches) h).symm.trans (switches_fragment _ _ _ _ _ _))
    · next h => exact (congrArg (·.1.switches) h).symm.trans (switches_fragment _ _ _ _ _ _)

theorem switches_takeWpend (s : State) (c w : Nat) : (s.takeWpend c w).switches = s.switches := by
  unfold State.takeWpend
  dsimp only
  split
  · rfl
  · exact switches_ite rfl rfl

/-! ### Barriers -/

theorem switches_keepFreed (s : State) (g n : Nat) : (s.keepFreed g n).switches = s.switches := switches_ite rfl rfl

theorem switches_releaseFrom (s : State) (c w : Nat) (p : Warp → Nat → Bool) : (s.releaseFrom c w p).switches = s.switches := by
  unfold State.releaseFrom
  dsimp only
  split
  · rfl
  · rw [switches_grant, switches_settleMasks, switches_resume]
    rfl

theorem switches_settleBars (s : State) (g : Nat) : (s.settleBars g).switches = s.switches := by
  refine switches_foldl (fun s n => ?_) _ s
  unfold State.settleBar
  dsimp only
  split
  · rw [switches_foldl fun s w => switches_releaseFrom _ _ _ _, switches_keepFreed]
    rfl
  · rfl

theorem switches_settleCbars (s : State) (n : Nat) : (s.settleCbars n).switches = s.switches := by
  unfold State.settleCbars
  split
  · rfl
  refine switches_foldl (fun s c => ?_) _ s
  unfold State.settleCbar
  dsimp only
  split
  · rfl
  split
  · rw [switches_updLaunch, switches_foldl fun s x => switches_keepFreed _ _ _,
      switches_foldl fun s x => switches_foldl (fun s w => switches_updWarpAt _ _ _ _) _ s]
  · rfl

/-! ### The end of a workgroup and of a launch -/

theorem switches_vacate (s : State) (g : Nat) (st : WgState) : (s.vacate g st).switches = s.switches := by
  unfold State.vacate State.grantAll
  dsimp only
  rw [switches_foldl fun s q => switches_grant s _ q, switches_updWg, switches_updCore,
    switches_foldl fun s w => (show (s.freeSlot g _ w).switches = s.switches from rfl)]

theorem switches_finishSave (s : State) (g : Nat) : (s.finishSave g).switches = s.switches := by
  unfold State.finishSave
  exact switches_ite (switches_vacate _ _ _) rfl

theorem switches_freeArea (s : State) (n : Nat) (a : Option Nat) : (s.freeArea n a).switches = s.switches := by
  cases a with
  | none => rfl
  | some k => exact switches_updTenant rfl

theorem switches_reread (s : State) (n q : Nat) : (s.reread n q).switches = s.switches := by
  unfold State.reread
  dsimp only
  split
  · rfl
  split
  · exact switches_updQueue rfl
  · exact switches_updQueue rfl

theorem switches_addWord (s : State) (tenant va pa n : Nat) : (s.addWord tenant va pa n).switches = s.switches :=
  switches_ite (written_request ..).switches_eq (written_homePart ..).switches_eq

theorem switches_finishRecord (s : State) (tenant q recNo recVa donea status : Nat) :
    (s.finishRecord tenant q recNo recVa donea status).switches = s.switches := by
  unfold State.finishRecord
  dsimp only
  rw [(written_hubWrite ..).switches_eq, switches_updQueue rfl, ← (written_hubWrite s tenant (recVa + 0x16) (leBytes 2 status)).switches_eq]
  split
  · split
    · rfl
    · exact (switches_foldl (fun s (q : Nat × Queue) => switches_reread s tenant q.1) _ _).trans (switches_addWord _ _ _ _ _)
  · rfl

theorem switches_settleLaunch (s : State) (n : Nat) : (s.settleLaunch n).switches = s.switches := by
  unfold State.settleLaunch
  split
  · rfl
  · exact switches_ite ((switches_finishRecord ..).trans (switches_updLaunch ..)) rfl

theorem switches_settleEnd (s : State) (g : Nat) : (s.settleEnd g).switches = s.switches :=
  switches_ite ((switches_settleLaunch ..).trans ((switches_updLaunch ..).trans (switches_vacate ..))) rfl

theorem switches_migrate (s : State) (c : Nat) : (s.migrate c).switches = s.switches := by
  unfold State.migrate
  dsimp only
  split
  · rfl
  refine switches_foldl (fun s x => ?_) _ s
  split
  · rfl
  split
  · split
    · exact switches_ite rfl rfl
    · rfl
  · rfl

theorem switches_settleHandler (s : State) (g : Nat) : (s.settleHandler g).switches = s.switches := by
  unfold State.settleHandler
  dsimp only
  split
  · rfl
  · rw [switches_settleLaunch, switches_updLaunch, switches_updWg, switches_vacate, switches_freeArea]
    exact switches_ite (switches_migrate _ _) rfl

theorem switches_settle (s : State) (c w : Nat) : (s.settle c w).switches = s.switches := by
  unfold State.settle State.takePend
  simp only [switches_grant, switches_settleEnd, switches_finishSave, switches_settleCbars, switches_settleBars, switches_settleHandler,
    switches_settleMasks, switches_takeWpend, switches_takePendGo, switches_wakeBound]

/-! ### The end of a command -/

theorem switches_wakeAb (s : State) : s.wakeAb.switches = s.switches := by
  refine switches_foldl (fun s x => switches_foldl (fun s y => ?_) _ s) _ s
  dsimp only
  split
  · rfl
  · rw [switches_settle, switches_resume]
    rfl

theorem switches_lower (s : State) (core tenant base off n : Nat) : (s.lower core tenant base off n).switches = s.switches := by
  have hdeliver (va pa : Nat) : (s.abDeliver tenant va pa n).switches = s.switches :=
    switches_ite (written_meetsError ..).switches_eq (switches_ite rfl (written_homePart ..).switches_eq)
  exact switches_ite rfl ((switches_wakeAb _).trans (hdeliver _ _))

theorem switches_lowerD (s : State) (c : Nat) (x : Cmd) (n : Nat) : (s.lowerD c x n).switches = s.switches := by
  unfold State.lowerD
  split
  · rfl
  · exact switches_ite (switches_foldl (fun s m => switches_lower ..) _ s) (switches_lower ..)

theorem switches_lowerS (s : State) (c : Nat) (x : Cmd) (n : Nat) : (s.lowerS c x n).switches = s.switches := by
  unfold State.lowerS
  split
  · rfl
  · exact switches_lower ..

theorem switches_retire (s : State) (c : Nat) : (s.retire c).switches = s.switches := by
  refine switches_foldl (fun s x => ?_) _ s
  dsimp only
  split
  · rfl
  · exact switches_ite (switches_settle _ _ _) rfl

theorem switches_updCmd (s : State) (c id : Nat) (f : Cmd → Cmd) : (s.updCmd c id f).switches = s.switches := rfl

theorem switches_fetched (s : State) (f : FMap (FMap Byte)) (b : FMap Nat) :
    ({ s with fetched := f, fetchBad := b } : State).switches = s.switches := rfl

theorem switches_endCmd (s : State) (c id status : Nat) : (s.endCmd c id status).switches = s.switches := by
  unfold State.endCmd
  split
  · rfl
  · dsimp only
    rw [switches_retire, switches_updCmd, switches_fetched, switches_lowerS, switches_lowerD]
    split
    · rfl
    · exact (written_engineWrite ..).switches_eq

/-! ### The steps of a reset (R463) -/

theorem switches_abortWarp (s : State) (c w : Nat) : (s.abortWarp c w).switches = s.switches := rfl

theorem switches_abortColls (s : State) (t : Nat) (gs : List Nat) : (s.abortColls t gs).switches = s.switches := rfl

theorem switches_abortWg (s : State) (t g : Nat) : (s.abortWg t g).switches = s.switches := by
  unfold State.abortWg
  dsimp only
  split
  · rfl
  · rw [switches_updWg, switches_vacate, switches_freeArea]

theorem switches_abortLaunch (s : State) (n : Nat) : (s.abortLaunch n).switches = s.switches := by
  unfold State.abortLaunch
  split
  · rfl
  · exact switches_ite rfl ((switches_settleLaunch _ _).trans (switches_updLaunch _ _ _))

/-- A tenant that is not active, is being reset, and has no queue enabled. -/
def Tenant.isOff (x : Tenant) : Prop := x.switches = (false, true, fun _ => false)

theorem fget_map_val {α : Type} (d : α) (f : α → α) (m : FMap α) (k : Nat) (hd : f d = d) :
    fget d (m.map fun x => (x.1, f x.2)) k = f (fget d m k) := by
  induction m with
  | nil => exact hd.symm
  | cons x m ih =>
    obtain ⟨j, v⟩ := x
    rw [List.map_cons, fget, fget, ih]
    split <;> rfl

/-- Step 1: the tenant is switched off. -/
def State.switchOff (s : State) (t : Nat) : State :=
  s.updTenant t fun x => { x with active := false, resetting := true, queues := x.queues.map fun q => (q.1, { q.2 with en := false }) }

theorem isOff_switchOff (s : State) (t : Nat) : ((s.switchOff t).tenant t).isOff := by
  rw [State.switchOff, tenant_updTenant]
  refine Prod.ext rfl (Prod.ext rfl (funext fun q => ?_))
  exact congrArg Queue.en (fget_map_val {} (fun q : Queue => { q with en := false }) (s.tenant t).queues q rfl)

/-- A reset leaves the tenant switched off, and none of its messages in escrow. -/
theorem startReset_switches {s : State} {t : Nat} (ht : t < 16) (hreset : (s.tenant t).resetting = false) :
    ((s.startReset t).tenant t).isOff ∧ ∀ m ∈ (s.startReset t).escrow, m.tenant ≠ t := by
  have hgo : ¬ ((s.tenant t).resetting = true ∨ 16 ≤ t) := by
    rintro (h | h)
    · rw [hreset] at h
      cases h
    · omega
  suffices h : ∃ v : State, v.switches = (s.switchOff t).switches ∧
      (s.startReset t).switches = ({ v with escrow := v.escrow.filter (·.tenant != t) } : State).switches by
    obtain ⟨v, hv, hstart⟩ := h
    refine ⟨?_, fun m hm => ?_⟩
    · have htenant : ((s.startReset t).tenant t).switches = ((s.switchOff t).tenant t).switches :=
        (congrFun (congrArg Prod.snd hstart) t).trans (congrFun (congrArg Prod.snd hv) t)
      exact htenant.trans (isOff_switchOff s t)
    · have hesc : (s.startReset t).escrow = v.escrow.filter (·.tenant != t) := congrArg Prod.fst hstart
      rw [hesc, List.mem_filter] at hm
      simpa using hm.2
  unfold State.startReset
  rw [if_neg hgo]
  refine ⟨_, ?_, (switches_foldl (fun s n => switches_abortLaunch s n) _ _).trans (switches_updTenant rfl)⟩
  rw [switches_foldl fun (s : State) (i : Nat) => (show (s.freeEpisode i).switches = s.switches from rfl),
    switches_foldl fun s g => switches_abortWg s t g, switches_abortColls,
    switches_foldl fun s (x : Nat × Nat) => switches_endCmd s x.1 x.2 stAborted,
    switches_foldl fun s g => switches_foldl (fun s w => switches_abortWarp s (s.wg g).core w) _ s,
    switches_foldl fun s n => switches_updLaunch s n _]
  rfl

end Sys2Proof.Machine

/-! Register accesses of the system cores (spec/28_system.md R456, R457, R470, R472). -/

namespace Sys2Proof.Machine

open Sys2Proof

/-! ### Who makes an access (R456) -/

/-- The core of an access is noted not to have faulted, or to have. -/
def State.noted (s : State) (h : Nat) (b : Bool) : State := { s with sys := fset s.sys h { s.sysCore h with faulted := b } }

theorem mmio_idle {s : State} (f : State → State) (h : (s.sysCore s.arg.hart).released = false) : s.mmio f = s :=
  (mmio_cases s f).1 h

theorem mmio_refused {s : State} (f : State → State) (h : (s.sysCore s.arg.hart).released = true)
    (hmode : (s.sysCore s.arg.hart).mode = .vs ∨ (s.sysCore s.arg.hart).mode = .u) : s.mmio f = s.noted s.arg.hart true :=
  (mmio_cases s f).2.1 h hmode

theorem mmio_runs {s : State} (f : State → State) (h : (s.sysCore s.arg.hart).released = true)
    (hmode : (s.sysCore s.arg.hart).mode = .m ∨ (s.sysCore s.arg.hart).mode = .hs) : s.mmio f = f (s.noted s.arg.hart false) := by
  refine (mmio_cases s f).2.2 h ?_
  rcases hmode with hmode | hmode <;> rw [hmode] <;> decide

theorem sysCore_noted (s : State) (h : Nat) (b : Bool) : (s.noted h b).sysCore h = { s.sysCore h with faulted := b } :=
  fget_fset_self _ _ _ _

/-- An access that runs and finds an access fault. -/
theorem accessFault_noted {s : State} : (s.noted s.arg.hart false).accessFault = s.noted s.arg.hart true := by
  simp only [State.accessFault, State.updSys, State.noted, State.sysCore, fget_fset_self, fset_fset]

/-- The accesses that a system core makes by a register's own event. -/
def accessInstrs : List Instr :=
  [.registerWrite, .qcfgWrite, .portcfgWrite, .freplayWrite, .islfreqWrite, .islbudgetWrite, .plimitWrite, .extend]

theorem exec_access {e : Instr} (he : e ∈ accessInstrs) (s : State) : ∃ f, exec e s = .next (s.mmio f) := by
  simp only [accessInstrs, List.mem_cons, List.not_mem_nil, or_false] at he
  rcases he with rfl | rfl | rfl | rfl | rfl | rfl | rfl | rfl
  all_goals exact ⟨_, rfl⟩

/-! ### Registers by offset (R456, R458, R472) -/

theorem mmioWrite_plimit (s : State) (v : Nat) : s.mmioWrite 0x10400 v = s.writePlimit v := rfl

theorem mmioWrite_tenant (s : State) {o : Nat} (v : Nat) (hlo : 0x100000 ≤ o) (hhi : o < 0x200000) :
    s.mmioWrite o v = s.writeTenant ((o - 0x100000) / 0x10000) (o % 0x10000) v := by
  unfold State.mmioWrite
  rw [if_neg (by omega), if_neg (by omega), if_neg (by omega), if_neg (by omega), if_neg (by omega), if_neg (by omega),
    if_neg (by omega), if_neg (by omega), if_pos ⟨hlo, hhi⟩]

theorem mmioWrite_unassigned (s : State) {o : Nat} (v : Nat) (h : 0x2000000 ≤ o) : s.mmioWrite o v = s.accessFault := by
  unfold State.mmioWrite
  rw [if_neg (by omega), if_neg (by omega), if_neg (by omega), if_neg (by omega), if_neg (by omega), if_neg (by omega),
    if_neg (by omega), if_neg (by omega), if_neg (by omega), if_neg (by omega)]

theorem mmioRead_plimit (s : State) : s.mmioRead 0x10400 = some s.power.plimit := by
  unfold State.mmioRead
  rw [if_pos (by decide)]
  rfl

theorem mmioRead_unassigned (s : State) {o : Nat} (h : 0x2000000 ≤ o) : s.mmioRead o = none := by
  unfold State.mmioRead
  rw [if_neg (by omega), if_neg (by omega), if_neg (by omega), if_neg (by omega), if_neg (by omega), if_neg (by omega),
    if_neg (by omega)]

theorem mmioRead_noted (s : State) (a : Arg) (h : Nat) (b : Bool) (o : Nat) :
    (({ s with arg := a } : State).noted h b).mmioRead o = s.mmioRead o := by
  simp only [State.mmioRead, State.readTenant, State.tenant, State.port, State.die, State.rdN, State.noted]

/-- The state in which a core's read takes effect. -/
def State.reading (s : State) (h : Nat) : State := ({ s with arg := { hart := h } } : State).noted h false

/-- What a read gives the core, or that it faults. -/
theorem sysRead_runs {s : State} {h : Nat} (o : Nat) (hrel : (s.sysCore h).released = true)
    (hmode : (s.sysCore h).mode = .m ∨ (s.sysCore h).mode = .hs) :
    (∀ v, s.mmioRead o = some v → s.sysRead h 0 o = (s.reading h).updSys h fun k => { k with data := v })
    ∧ (s.mmioRead o = none → s.sysRead h 0 o = ({ s with arg := { hart := h } } : State).noted h true) := by
  have hrun := mmio_runs (s := { s with arg := { hart := h } }) (fun s => match (if 0 = 0 then s.mmioRead o else s.namedRead 0 o) with
    | none => s.accessFault
    | some v => s.updSys h fun k => { k with data := v }) hrel hmode
  rw [if_pos rfl, mmioRead_noted] at hrun
  refine ⟨fun v hv => ?_, fun hv => ?_⟩
  · rw [hv] at hrun
    exact hrun
  · rw [hv] at hrun
    exact hrun.trans accessFault_noted

/-! ### Clocks and budgets (R470) -/

theorem mhz_setMhz (p : Power) (i n : Nat) : (p.setMhz i n).mhz i = n := fget_fset_self _ _ _ _

/-- The clock target that a write of ISLFREQ gives an island. -/
theorem mhz_writeFreq (s : State) (i v : Nat) : (s.writeFreq i v).power.mhz i =
    if isQuarter i then roundMhz (bitsOf v 10 0) (Config.freeValue s.fresh).toNat else bitsOf v 10 0 :=
  mhz_setMhz _ _ _

theorem roundMhz_of_le {n : Nat} (free : Nat) (h : 400 ≤ n) : roundMhz n free = min 1050 (n / 25 * 25) := if_neg (by omega)

theorem pwrlim_flags (p : Power) : p.flags.pwrlim = true ↔ ∃ j, j < 16 ∧ p.budgetOf j < p.swBudgetOf j := by
  simp only [Power.flags, quarters, List.any_eq_true, List.mem_range, decide_eq_true_eq]

/-- A foldl over cores that sets one register of each. -/
theorem rawCsr_foldl_setCsr (n : Nat) (v : Word) (cs : List Nat) (s : State) (c : Nat) :
    ((cs.foldl (fun s c => s.updCore c (·.setCsr n v)) s).core c).rawCsr n = if c ∈ cs then v else (s.core c).rawCsr n := by
  induction cs generalizing s with
  | nil => rfl
  | cons d cs ih =>
    rw [List.foldl_cons, ih]
    by_cases hcd : c = d
    · subst hcd
      have hset : ((s.updCore c (·.setCsr n v)).core c).rawCsr n = v := by
        rw [core_updCore]
        exact fget_fset_self _ _ _ _
      rw [hset, ite_self, if_pos List.mem_cons_self]
    · have hother : (s.updCore d (·.setCsr n v)).core c = s.core c := core_setCore_ne s _ hcd
      simp only [hother, List.mem_cons, hcd, false_or]

/-- Nothing differs but budgets, and the cores that are told theirs. -/
def State.OnlyBudgets (s t : State) : Prop := t = { s with power := { s.power with budget := t.power.budget }, cores := t.cores }

theorem State.OnlyBudgets.refl (s : State) : s.OnlyBudgets s := rfl
theorem State.OnlyBudgets.trans {s t u : State} (h : s.OnlyBudgets t) (g : t.OnlyBudgets u) : s.OnlyBudgets u := by
  unfold State.OnlyBudgets
  rw [g, h]

/-- A quarter's budget is set, and its cores are told it. -/
theorem setBudget_eq (s : State) (i n : Nat) : s.setBudget i n =
    { s with power := { s.power with budget := fset s.power.budget i n }, cores := (s.setBudget i n).cores } := by
  have hfold (cs : List Nat) (s : State) : cs.foldl (fun s c => s.updCore c (·.setCsr 2 (BitVec.ofNat 32 n))) s =
      { s with cores := (cs.foldl (fun s c => s.updCore c (·.setCsr 2 (BitVec.ofNat 32 n))) s).cores } := by
    induction cs generalizing s with
    | nil => rfl
    | cons c cs ih => exact ih _
  exact hfold _ _

theorem onlyBudgets_setBudget (s : State) (i n : Nat) : s.OnlyBudgets (s.setBudget i n) := by
  unfold State.OnlyBudgets
  rw [setBudget_eq]

theorem setBudget_csr (s : State) (i n : Nat) {c : Nat} (hc : c < 192) :
    ((s.setBudget i n).core c).rawCsr 2 = if islandOf c = i then BitVec.ofNat 32 n else (s.core c).rawCsr 2 := by
  refine (rawCsr_foldl_setCsr 2 (BitVec.ofNat 32 n) _ _ c).trans ?_
  simp only [List.mem_filter, List.mem_range, hc, true_and, beq_iff_eq]
  rfl

theorem writeBudget_quarter {s : State} {i v : Nat} (hi : i < 16) (hv : v < 256) : s.writeBudget i v =
    { s.setBudget i v with power := ({ (s.setBudget i v).power with
      swBudget := fset (s.setBudget i v).power.swBudget i v } : Power).flags } := by
  have hbits : bitsOf v 7 0 = v := by
    rw [bitsOf]
    omega
  have hq : isQuarter i = true := decide_eq_true hi
  rw [State.writeBudget, if_pos hq, hbits]

/-! ### Measurements (R459) -/

theorem measure_extend (m : Mint) (i : Nat) (d : List Byte) :
    (m.extend i d).measure i = leBytes 32 (leNat (Sha.sha256 (m.measure i ++ d))) := by
  rw [Mint.measure, Mint.extend]
  exact congrArg (leBytes 32) (fget_fset_self _ _ _ _)

theorem measure_extend_ne (m : Mint) {i j : Nat} (d : List Byte) (h : j ≠ i) : (m.extend i d).measure j = m.measure j :=
  congrArg (leBytes 32) (fget_fset_ne _ _ _ h)

theorem writeExtend_digest {s : State} {i : Nat} {d : List Byte} (hlo : 4 ≤ i) (hhi : i < 8) (hd : d.length = 32) :
    s.writeExtend i d = s.updMint (·.extend i d) := by
  have htake : (d ++ List.replicate 32 0#8).take 32 = d := by rw [← hd, List.take_left]
  rw [State.writeExtend, if_neg (by omega), if_pos hhi, htake]

end Sys2Proof.Machine

/-! Telemetry, snapshots, boot, release and attestation (spec/28_system.md R459 to R473), and the hub's events. -/

namespace Sys2Proof.Machine

open Sys2Proof

/-! ### MINTSTAT (R473) -/

theorem bitOf_mintSet (n i : Nat) : bitOf (mintSet n i) i = true := by
  unfold mintSet
  split
  · assumption
  · next h =>
    have hpos : 0 < 2 ^ i := Nat.two_pow_pos i
    simp only [bitOf, beq_iff_eq] at h ⊢
    rw [Nat.add_div_right _ hpos]
    omega

/-! ### Telemetry (R471, R473) -/

/-- The last samples, their average, the rail current, and the budgets in force and as software set them. -/
abbrev Meters := List Nat × Nat × Nat × FMap Nat × FMap Nat

/-- What a sample's readings and the budgets say, apart from the clocks. -/
def Power.meters (p : Power) : Meters := (p.samples, p.ppower, p.amps, p.budget, p.swBudget)

theorem samples_of_meters {p q : Power} (h : p.meters = q.meters) : p.samples = q.samples := congrArg (·.1) h
theorem ppower_of_meters {p q : Power} (h : p.meters = q.meters) : p.ppower = q.ppower := congrArg (·.2.1) h
theorem amps_of_meters {p q : Power} (h : p.meters = q.meters) : p.amps = q.amps := congrArg (·.2.2.1) h
theorem budgetOf_of_meters {p q : Power} (h : p.meters = q.meters) (i : Nat) : p.budgetOf i = q.budgetOf i :=
  congrArg (fun m : Meters => fget 64 m.2.2.2.1 i) h
theorem swBudgetOf_of_meters {p q : Power} (h : p.meters = q.meters) (i : Nat) : p.swBudgetOf i = q.swBudgetOf i :=
  congrArg (fun m : Meters => fget 64 m.2.2.2.2 i) h

theorem meters_foldl {α : Type} {f : Power → α → Power} (hf : ∀ (p : Power) x, (f p x).meters = p.meters) (l : List α) (p : Power) :
    (l.foldl f p).meters = p.meters := by
  induction l generalizing p with
  | nil => rfl
  | cons x l ih => exact (ih _).trans (hf p x)

/-- The flags are those of the budgets. -/
def Power.limited (p : Power) : Prop := p.pwrlim = true ↔ ∃ i, i < 16 ∧ p.budgetOf i < p.swBudgetOf i

theorem meters_throttle (p : Power) : p.throttle.meters = p.meters ∧ p.throttle.pwrlim = p.pwrlim := by
  have hfold (l : List Nat) (p : Power) :
      let q := l.foldl (fun (p : Power) i => if 400 < p.mhz i then p.setMhz i (max 400 (p.mhz i - 25)) else p) p
      q.meters = p.meters ∧ q.pwrlim = p.pwrlim := by
    induction l generalizing p with
    | nil => exact ⟨rfl, rfl⟩
    | cons i l ih =>
      obtain ⟨hmeters, hlim⟩ := ih (if 400 < p.mhz i then p.setMhz i (max 400 (p.mhz i - 25)) else p)
      refine ⟨hmeters.trans ?_, hlim.trans ?_⟩ <;> split <;> rfl
  exact hfold _ p

theorem limited_throttle {p : Power} (h : p.limited) : p.throttle.limited := by
  obtain ⟨hmeters, hlim⟩ := meters_throttle p
  rw [Power.limited, hlim]
  simp only [budgetOf_of_meters hmeters, swBudgetOf_of_meters hmeters]
  exact h

theorem meters_sampleCurrent (p : Power) (amps steps : Nat) :
    (p.sampleCurrent amps steps).meters = ({ p with amps := amps % 2 ^ 16 } : Power).meters ∧ (p.sampleCurrent amps steps).limited := by
  refine ⟨?_, pwrlim_flags _⟩
  refine meters_foldl (fun p i => ?_) quarters { p with amps := amps % 2 ^ 16 }
  dsimp only
  split
  · split <;> rfl
  · split <;> rfl

/-- The state with its samples, before the budgets follow. -/
def State.sampled (s : State) (mw : Nat) : State :=
  { s with power := { s.power with samples := (mw :: s.power.samples).take 64,
                                   ppower := ((mw :: s.power.samples).take 64).foldl (· + ·) 0 / ((mw :: s.power.samples).take 64).length } }

theorem samplePower_sampled (s : State) (mw : Nat) : ∃ t : State, (s.sampled mw).OnlyBudgets t
    ∧ s.samplePower mw = { t with power := t.power.flags } := by
  refine ⟨_, ?_, rfl⟩
  have hfold (f : State → Nat → State) (hf : ∀ (s : State) i, s.OnlyBudgets (f s i)) (l : List Nat) (s : State) :
      s.OnlyBudgets (l.foldl f s) := by
    induction l generalizing s with
    | nil => exact .refl s
    | cons i l ih => exact (hf s i).trans (ih _)
  have hstep (s : State) (i n : Nat) (c : Prop) [Decidable c] : s.OnlyBudgets (if c then s else s.setBudget i n) := by
    split
    · exact .refl s
    · exact onlyBudgets_setBudget _ _ _
  exact hfold _ (fun s i => hstep s i _ _) quarters _

/-- What a sample leaves, whatever the junctions say: its readings, and memory as it was. -/
theorem samplePower_readings (s : State) (mw : Nat) :
    (s.samplePower mw).mem = s.mem ∧ (s.samplePower mw).power.samples = (s.sampled mw).power.samples
      ∧ (s.samplePower mw).power.ppower = (s.sampled mw).power.ppower := by
  obtain ⟨t, hbudgets, heq⟩ := samplePower_sampled s mw
  rw [heq]
  refine ⟨?_, ?_, ?_⟩
  · show t.mem = s.mem
    rw [hbudgets]
    rfl
  · show t.power.samples = _
    rw [hbudgets]
  · show t.power.ppower = _
    rw [hbudgets]

theorem shutdown_effect (s : State) : s.shutdown.power.down = true ∧ bitOf s.shutdown.mint.stat 16 = true ∧ s.shutdown.mem = s.mem :=
  ⟨rfl, bitOf_mintSet _ _, rfl⟩

/-- The controller has counted some cycles since the last sample. -/
def State.withCycles (s : State) (n : Nat) : State := { s with power := { s.power with cycles := n } }

theorem exec_telemetrySample_due {s : State} (h : 4096 ≤ s.power.cycles) : exec .telemetrySample s =
    .next ((s.withCycles (s.power.cycles - 4096)).sample s.arg.a s.arg.b s.arg.idx s.arg.data) := by
  show execTelemetrySample s = _
  rw [execTelemetrySample, if_neg (Nat.not_lt.mpr h), State.withCycles]

/-- A sample without readings of the junctions. -/
theorem sample_cool (s : State) (watts amps steps : Nat) : s.sample watts amps steps [] =
    { s.samplePower watts with power := ((s.samplePower watts).power.sampleCurrent amps steps).throttle } := rfl

theorem sample_cool_effect (s : State) {mw amps steps : Nat} (hroom : (mw :: s.power.samples).length ≤ 64) :
    let t := s.sample mw amps steps []
    t.mem = s.mem ∧ t.power.samples = mw :: s.power.samples
      ∧ t.power.ppower = (mw :: s.power.samples).foldl (· + ·) 0 / (mw :: s.power.samples).length
      ∧ t.power.amps = amps % 2 ^ 16 ∧ t.power.limited := by
  rw [sample_cool]
  dsimp only
  obtain ⟨hmem, hsamples, hpower⟩ := samplePower_readings s mw
  obtain ⟨hcurrent, hlim⟩ := meters_sampleCurrent (s.samplePower mw).power amps steps
  have hmeters := (meters_throttle ((s.samplePower mw).power.sampleCurrent amps steps)).1.trans hcurrent
  have htake : (mw :: s.power.samples).take 64 = mw :: s.power.samples := List.take_of_length_le hroom
  refine ⟨hmem, ?_, ?_, amps_of_meters hmeters, limited_throttle hlim⟩
  · exact (samples_of_meters hmeters).trans (hsamples.trans htake)
  · refine (ppower_of_meters hmeters).trans (hpower.trans ?_)
    rw [State.sampled, htake]

theorem sample_withCycles_cool (s : State) (n : Nat) {mw amps steps : Nat} (hroom : (mw :: s.power.samples).length ≤ 64) :
    let t := (s.withCycles n).sample mw amps steps []
    t.mem = s.mem ∧ t.power.samples = mw :: s.power.samples
      ∧ t.power.ppower = (mw :: s.power.samples).foldl (· + ·) 0 / (mw :: s.power.samples).length
      ∧ t.power.amps = amps % 2 ^ 16 ∧ t.power.limited :=
  sample_cool_effect (s.withCycles n) hroom

theorem sample_hot {s : State} {watts amps steps : Nat} {data : List Byte} (h : ∃ j, j < 16 ∧ 115 ≤ (data.getD j 0#8).toNat) :
    ∃ t : State, s.sample watts amps steps data = t.shutdown := by
  obtain ⟨j, hj, hhot⟩ := h
  have hlen : j < data.length := by
    by_contra hlen
    rw [List.getD_eq_default _ _ (Nat.le_of_not_lt hlen)] at hhot
    exact absurd hhot (by decide)
  have hany : ((data.take 16).any fun t => decide (115 ≤ t.toNat)) = true := by
    rw [List.any_eq_true]
    have hget : data.getD j 0#8 = data[j] := by rw [List.getD_eq_getElem?_getD, List.getElem?_eq_getElem hlen]; rfl
    refine ⟨data[j], ?_, decide_eq_true (hget ▸ hhot)⟩
    exact List.mem_take_iff_getElem.mpr ⟨j, by omega, rfl⟩
  exact ⟨_, if_pos hany⟩

/-! ### Snapshots (R468) -/

theorem evseq_snapshot {s : State} {t : Nat} (h : (s.tenant t).evpage ≠ 0) :
    ((s.snapshot t).tenant t).evseq = (s.tenant t).evseq + 1 := by
  have hwritten : ∃ u, s.Written u ∧ s.snapshot t = u.updTenant t fun x => { x with evseq := x.evseq + 1 } := by
    rw [State.snapshot, if_neg h]
    exact ⟨_, (State.Written.foldl (fun s y => written_hubWrite s _ _ _) _ s).trans (written_hubWrite _ _ _ _), rfl⟩
  obtain ⟨u, hu, heq⟩ := hwritten
  rw [heq, tenant_updTenant, hu.tenant_eq]

/-! ### Boot and release (R17, R459, R460) -/

theorem measure_image (m : Mint) (i : Nat) (img : List Byte) (good : Bool) :
    (m.image i img good).measure i = leBytes 32 (leNat (Sha.sha256 (m.measure i ++ Sha.sha256 img))) := by
  rw [← measure_extend]
  unfold Mint.image
  dsimp only
  split <;> rfl

/-- The mint and the state once image i has been installed or has failed: registers lock with the last one. -/
def Mint.taking (m : Mint) (i : Nat) (img : List Byte) (good : Bool) : Mint :=
  { m.image i img good with locked := (List.range 4).all (m.image i img good).installed.contains,
                            step := if (List.range 4).all (m.image i img good).installed.contains then 6 else 4 }

theorem measure_taking (m : Mint) (i : Nat) (img : List Byte) (good : Bool) :
    (m.taking i img good).measure i = leBytes 32 (leNat (Sha.sha256 (m.measure i ++ Sha.sha256 img))) :=
  measure_image m i img good

theorem exec_imageInstall_ignored {s : State} (h : s.mint.stopped = true ∨ s.mint.locked = true) : exec .imageInstall s = .next s := by
  show Host.Outcome.next (s.installImage s.arg.idx s.arg.data (s.arg.a == 1) s.arg.b) = _
  unfold State.installImage
  dsimp only
  rw [if_pos]
  rcases h with h | h <;> simp [Mint.halted, h]

section
variable {s : State} (hstopped : s.mint.stopped = false) (hlocked : s.mint.locked = false) (hboot : 0 ∈ s.mint.installed)
  (hnew : s.arg.idx ∉ s.mint.installed) (hlo : 1 ≤ s.arg.idx) (hhi : s.arg.idx ≤ 3)
include hstopped hlocked hboot hnew hlo hhi

theorem installImage_takes (img : List Byte) (good : Bool) (base : Nat) : s.installImage s.arg.idx img good base =
    let t : State := { s with mint := s.mint.taking s.arg.idx img good }
    if !good then t
    else if s.arg.idx = 1 then
      (({ t with mem := wrBytes t.mem base img } : State).updMint fun m => { m with supBase := base, supLen := img.length }).installEntries img
    else t.updMint fun m => { m with images := fset m.images s.arg.idx img } := by
  unfold State.installImage
  dsimp only
  rw [if_neg]
  · rfl
  · simp only [Mint.halted, hstopped, hlocked, List.contains_iff_mem, hnew, Bool.or_eq_true, Bool.not_eq_true', decide_eq_true_eq,
      Bool.false_eq_true, false_or, or_false]
    simp only [← Bool.not_eq_true, List.contains_iff_mem, hboot, not_true_eq_false, false_or]
    omega

/-- A verified image is installed. -/
theorem exec_imageInstall_good (ha : s.arg.a = 1) : ∃ t : State, exec .imageInstall s = .next t
    ∧ t.mint.meas = (s.mint.taking s.arg.idx s.arg.data true).meas
    ∧ t.mint.locked = (s.mint.taking s.arg.idx s.arg.data true).locked ∧ t.mint.installed = s.mint.installed ++ [s.arg.idx]
    ∧ t.mem = (if s.arg.idx = 1 then wrBytes s.mem s.arg.b s.arg.data else s.mem)
    ∧ (s.arg.idx ≠ 1 → fget [] t.mint.images s.arg.idx = s.arg.data) := by
  have heq := installImage_takes hstopped hlocked hboot hnew hlo hhi s.arg.data true s.arg.b
  refine ⟨_, congrArg Host.Outcome.next ((congrArg (s.installImage s.arg.idx s.arg.data · s.arg.b) (by rw [ha]; rfl)).trans heq), ?_⟩
  dsimp only
  rw [if_neg (by decide)]
  split
  · exact ⟨rfl, rfl, rfl, rfl, fun h => absurd ‹_› h⟩
  · exact ⟨rfl, rfl, rfl, rfl, fun _ => fget_fset_self _ _ _ _⟩

/-- An image that fails is named in MINTSTAT, and boot stops. -/
theorem exec_imageInstall_bad (ha : s.arg.a ≠ 1) :
    exec .imageInstall s = .next { s with mint := s.mint.taking s.arg.idx s.arg.data false } := by
  have heq := installImage_takes hstopped hlocked hboot hnew hlo hhi s.arg.data false s.arg.b
  exact congrArg Host.Outcome.next ((congrArg (s.installImage s.arg.idx s.arg.data · s.arg.b) (beq_eq_false_iff_ne.mpr ha)).trans heq)

end

/-- A core that is released runs, and memory and the other cores stay. -/
theorem releaseCore_effect (s : State) (c : Nat) :
    (s.releaseCore c).mem = s.mem ∧ ((s.releaseCore c).core c).released = true ∧ ∀ j, j ≠ c → (s.releaseCore c).core j = s.core j := by
  refine ⟨rfl, ?_, fun j hj => ?_⟩
  · unfold State.releaseCore State.grant
    dsimp only
    rw [if_pos rfl, State.updWarpAt, State.setWarpAt, core_updCore, core_updCore]
    rfl
  · unfold State.releaseCore State.grant
    dsimp only
    rw [if_pos rfl, State.updWarpAt, State.setWarpAt, State.updCore, core_setCore_ne _ _ hj, State.updCore, core_setCore_ne _ _ hj]
    rfl

/-- A core is released, unless it runs. -/
def State.releaseNew (s : State) (c : Nat) : State := if (s.core c).released then s else s.releaseCore c

theorem releaseNew_effect (s : State) (c : Nat) : (s.releaseNew c).mem = s.mem ∧ ((s.releaseNew c).core c).released = true
    ∧ ∀ j, (s.core j).released = true → ((s.releaseNew c).core j).released = true := by
  obtain ⟨hmem, hcore, hothers⟩ := releaseCore_effect s c
  unfold State.releaseNew
  split
  · next h => exact ⟨rfl, h, fun _ hj => hj⟩
  · refine ⟨hmem, hcore, fun j hj => ?_⟩
    by_cases hjc : j = c
    · exact hjc ▸ hcore
    · rw [hothers j hjc, hj]

theorem releaseAll_effect (cs : List Nat) (s : State) :
    let t := cs.foldl State.releaseNew s
    t.mem = s.mem ∧ (∀ c ∈ cs, (t.core c).released = true) ∧ ∀ c, (s.core c).released = true → (t.core c).released = true := by
  induction cs generalizing s with
  | nil => exact ⟨rfl, fun c hc => absurd hc List.not_mem_nil, fun _ h => h⟩
  | cons d cs ih =>
    obtain ⟨hmem, hcore, hkept⟩ := releaseNew_effect s d
    obtain ⟨ihmem, ihcores, ihkept⟩ := ih (s.releaseNew d)
    refine ⟨ihmem.trans hmem, fun c hc => ?_, fun c hc => ihkept c (hkept c hc)⟩
    rcases List.mem_cons.mp hc with rfl | hc
    · exact ihkept _ hcore
    · exact ihcores c hc

theorem exec_coreRelease (s : State) : exec .coreRelease s = .next s.coreRelease := rfl

theorem coreRelease_all {s : State} (hlocked : s.mint.locked = true) (hidx : s.arg.idx = 0) :
    s.coreRelease = (List.range 192).foldl State.releaseNew s := by
  rw [State.coreRelease, hlocked, hidx]
  rfl

theorem coreRelease_endBoot {s : State} (hlocked : s.mint.locked = true) (hidx : s.arg.idx = 1) (hboot : s.booted = false) :
    s.coreRelease = s.endBoot := by
  rw [State.coreRelease, hlocked, hidx]
  simp only [Bool.not_true, Bool.false_eq_true, if_false, hboot]

/-! ### Attestation (R461) -/

theorem ask_room {m : Mint} (way nonce : Nat) (h : m.queue.length < 8) : m.ask way nonce = { m with queue := m.queue ++ [(way, nonce)] } :=
  if_neg (Nat.not_le.mpr h)

theorem ask_full {m : Mint} (way nonce : Nat) (h : 8 ≤ m.queue.length) : m.ask way nonce = { m with busy := m.busy ++ [(way, nonce)] } :=
  if_pos h

/-- A request as it comes. -/
theorem exec_attestationRequest_ask {s : State} (hb : s.arg.b = 0) :
    exec .attestationRequest s = .next (if s.arg.a = 0 then s.mmio fun s => s.updMint (·.ask s.arg.a (leNat (s.arg.data.take 32)))
      else s.updMint (·.ask s.arg.a (leNat (s.arg.data.take 32)))) := by
  show execAttestationRequest s = _
  rw [execAttestationRequest, hb]
  rfl

theorem exec_attestationRequest_begin {s : State} (hb : s.arg.b = 1) : exec .attestationRequest s = .next (s.updMint (·.begin_)) := by
  show execAttestationRequest s = _
  rw [execAttestationRequest, hb]
  rfl

theorem exec_attestationRequest_sign {s : State} (hb : s.arg.b = 2) : exec .attestationRequest s = .next s.sign := by
  show execAttestationRequest s = _
  rw [execAttestationRequest, hb]
  rfl

end Sys2Proof.Machine

/-! The events of the hub (spec/28_system.md R456 to R473). -/

namespace Sys2Proof.Machine

open Sys2Proof

/-! ### Register accesses that run -/

section
variable {s : State} (hrel : (s.sysCore s.arg.hart).released = true)
  (hmode : (s.sysCore s.arg.hart).mode = .m ∨ (s.sysCore s.arg.hart).mode = .hs)
include hrel hmode

theorem exec_registerWrite_offset (hi : s.arg.idx = 0) :
    exec .registerWrite s = .next ((s.noted s.arg.hart false).mmioWrite s.arg.a s.arg.b) :=
  congrArg Host.Outcome.next ((mmio_runs _ hrel hmode).trans (if_pos hi))

theorem exec_qcfgWrite_runs : exec .qcfgWrite s = .next (if s.arg.slot < 32 ∧ s.arg.idx < 16 then
    (s.noted s.arg.hart false).updQueue s.arg.idx s.arg.slot fun q => q.writeCfg s.arg.b else s.noted s.arg.hart false) :=
  congrArg Host.Outcome.next (mmio_runs _ hrel hmode)

theorem exec_portcfgWrite_runs (hi : s.arg.idx < 72) :
    exec .portcfgWrite s = .next ((s.noted s.arg.hart false).updPort s.arg.idx fun x => x.writeCfg s.arg.b) :=
  congrArg Host.Outcome.next ((mmio_runs _ hrel hmode).trans (if_pos hi))

theorem exec_freplayWrite_runs :
    exec .freplayWrite s = .next ((s.noted s.arg.hart false).writeTiming s.arg.core s.arg.idx s.arg.b) :=
  congrArg Host.Outcome.next (mmio_runs _ hrel hmode)

theorem exec_islfreqWrite_runs (hi : s.arg.idx < 24) :
    exec .islfreqWrite s = .next ((s.noted s.arg.hart false).writeFreq s.arg.idx s.arg.b) :=
  congrArg Host.Outcome.next ((mmio_runs _ hrel hmode).trans (if_pos hi))

theorem exec_islbudgetWrite_runs :
    exec .islbudgetWrite s = .next ((s.noted s.arg.hart false).writeBudget s.arg.idx s.arg.b) :=
  congrArg Host.Outcome.next (mmio_runs _ hrel hmode)

theorem exec_plimitWrite_runs : exec .plimitWrite s = .next ((s.noted s.arg.hart false).writePlimit s.arg.b) :=
  congrArg Host.Outcome.next (mmio_runs _ hrel hmode)

theorem exec_extend_runs : exec .extend s = .next ((s.noted s.arg.hart false).writeExtend s.arg.idx s.arg.data) :=
  congrArg Host.Outcome.next (mmio_runs _ hrel hmode)

/-- A write of ISLFREQ: a quarter takes the step below, another island the value. -/
theorem exec_islfreqWrite_target (hv : s.arg.b < 2048) (hi : s.arg.idx < 24) : ∃ t : State, exec .islfreqWrite s = .next t ∧ t.mem = s.mem
    ∧ t.power.mhz s.arg.idx = if isQuarter s.arg.idx then roundMhz s.arg.b (Config.freeValue s.fresh).toNat else s.arg.b := by
  refine ⟨_, exec_islfreqWrite_runs hrel hmode hi, rfl, (mhz_writeFreq _ _ _).trans ?_⟩
  have hbits : bitsOf s.arg.b 10 0 = s.arg.b := by
    rw [bitsOf]
    omega
  rw [hbits]
  rfl

/-- A write of ISLBUDGET for a quarter. -/
theorem exec_islbudgetWrite_quarter (hi : s.arg.idx < 16) (hv : s.arg.b < 256) : ∃ t : State, exec .islbudgetWrite s = .next t
    ∧ t.mem = s.mem ∧ t.power.budgetOf s.arg.idx = s.arg.b ∧ t.power.limited
    ∧ ∀ c, c < 192 → (t.core c).rawCsr 2 = if islandOf c = s.arg.idx then BitVec.ofNat 32 s.arg.b else (s.core c).rawCsr 2 := by
  refine ⟨_, (exec_islbudgetWrite_runs hrel hmode).trans (congrArg _ (writeBudget_quarter hi hv)), ?_, ?_, pwrlim_flags _, fun c hc => ?_⟩
  · show ((s.noted s.arg.hart false).setBudget s.arg.idx s.arg.b).mem = s.mem
    rw [setBudget_eq]
    rfl
  · show ((s.noted s.arg.hart false).setBudget s.arg.idx s.arg.b).power.budgetOf s.arg.idx = s.arg.b
    rw [setBudget_eq]
    exact fget_fset_self _ _ _ _
  · exact setBudget_csr (s.noted s.arg.hart false) s.arg.idx s.arg.b hc

theorem exec_plimitWrite_limit (hv : s.arg.b < 8192) : ∃ t : State, exec .plimitWrite s = .next t
    ∧ t.power.plimit = min 6000 (max 1000 s.arg.b) := by
  have hbits : bitsOf s.arg.b 12 0 = s.arg.b := by
    rw [bitsOf]
    omega
  refine ⟨_, exec_plimitWrite_runs hrel hmode, ?_⟩
  rw [State.writePlimit, hbits]

theorem exec_extend_digest (hlo : 4 ≤ s.arg.idx) (hhi : s.arg.idx < 8) (hd : s.arg.data.length = 32) : ∃ t : State,
    exec .extend s = .next t
    ∧ t.mint.measure s.arg.idx = leBytes 32 (leNat (Sha.sha256 (s.mint.measure s.arg.idx ++ s.arg.data)))
    ∧ ∀ j, j ≠ s.arg.idx → t.mint.measure j = s.mint.measure j := by
  refine ⟨_, (exec_extend_runs hrel hmode).trans (congrArg _ (writeExtend_digest hlo hhi hd)), ?_, fun j hj => ?_⟩
  · exact measure_extend _ _ _
  · exact measure_extend_ne _ _ hj

theorem exec_extend_ignored (hi : s.arg.idx < 4) : ∃ t : State, exec .extend s = .next t ∧ t.mint.meas = s.mint.meas := by
  refine ⟨_, exec_extend_runs hrel hmode, ?_⟩
  rw [State.writeExtend, if_pos hi]
  rfl

end

/-! ### Reads (R456) -/

theorem sysCore_reading (s : State) (h : Nat) : (s.reading h).sysCore h = { s.sysCore h with faulted := false } := sysCore_noted _ _ _

/-- A read gives the core the register's value. -/
theorem sysCore_read (s : State) (h v : Nat) :
    ((s.reading h).updSys h fun k => { k with data := v }).sysCore h = { s.sysCore h with faulted := false, data := v } := by
  refine (fget_fset_self _ _ _ _).trans ?_
  rw [sysCore_reading]

/-! ### The end of a tenant reset (R463) -/

theorem exec_tenantReset_start {s : State} (ha : s.arg.a = 0) : exec .tenantReset s = .next (s.mmio fun s => s.startReset s.arg.idx) :=
  congrArg Host.Outcome.next (if_pos ha)

theorem exec_tenantReset_end {s : State} (ha : s.arg.a ≠ 0) : exec .tenantReset s = .next (s.endReset s.arg.idx) :=
  congrArg Host.Outcome.next (if_neg ha)

theorem endReset_done {s : State} {t : Nat} (hreset : (s.tenant t).resetting = true)
    (h : ∀ l ∈ s.launches, l.2.tenant = t → l.2.done = true) :
    s.endReset t = s.updTenant t fun x => { x with resetting := false, rgen := (x.rgen + 1) % 256 } := by
  refine if_pos ?_
  rw [hreset, Bool.true_and, List.all_eq_true]
  intro l hl
  by_cases ht : l.2.tenant = t
  · rw [h l hl ht, Bool.or_true]
  · rw [bne_iff_ne.mpr ht, Bool.true_or]

theorem endReset_waits {s : State} {t : Nat} (h : ∃ l ∈ s.launches, l.2.tenant = t ∧ l.2.done = false) : s.endReset t = s := by
  obtain ⟨l, hl, ht, hdone⟩ := h
  refine if_neg ?_
  rw [Bool.and_eq_true, List.all_eq_true]
  rintro ⟨-, hall⟩
  have := hall l hl
  rw [hdone, ht] at this
  simp at this

end Sys2Proof.Machine

/-! The events of the hub, put together (spec/28_system.md). -/

namespace Sys2Proof.Machine

open Sys2Proof

theorem measure_boot (m : Mint) (h : m.meas = []) : m.measure 0 = List.replicate 32 0#8 := by
  rw [Mint.measure, h]
  decide

/-- A package reset: the reset state, with the boot firmware measured. -/
theorem packageReset_effect (s : State) : let x := s.arg
    ∃ t : State, exec .packageReset s = .next t ∧ t.mem = [] ∧ t.cores = [] ∧ t.tenants = [] ∧ t.dies = []
        ∧ t.power = State.reset.power ∧ t.booted = false ∧ t.mint.boots = s.mint.boots + 1
        ∧ t.mint.measure 0 = leBytes 32 (leNat (Sha.sha256 (List.replicate 32 0#8 ++ Sha.sha256 x.data)))
        ∧ (x.a = 1 → t.mint.installed = [0] ∧ t.mint.stat = (if x.b = 0 then 0 else s.mint.stat)
            ∧ t.sys = [(0, { released := true })])
        ∧ (x.a ≠ 1 → t.mint.installed = [] ∧ bitOf t.mint.stat 8 = true ∧ t.mint.stopped = true ∧ t.sys = []) := by
  intro x
  have hmeas (m : Mint) (good : Bool) (hm : m.meas = []) : (m.image 0 x.data good).measure 0 =
      leBytes 32 (leNat (Sha.sha256 (List.replicate 32 0#8 ++ Sha.sha256 x.data))) := by
    rw [measure_image, measure_boot m hm]
  refine ⟨_, rfl, rfl, rfl, rfl, rfl, rfl, rfl, ?_, hmeas _ _ rfl, fun ha => ?_, fun ha => ?_⟩
  · dsimp only [Mint.image]
    split <;> rfl
  · have hgood : (s.arg.a == 1) = true := beq_iff_eq.mpr ha
    simp only [hgood, Mint.image, if_true]
    exact ⟨rfl, rfl, if_pos ha⟩
  · have hbad : (s.arg.a == 1) = false := beq_eq_false_iff_ne.mpr ha
    simp only [hbad, Mint.image, Bool.false_eq_true, if_false]
    exact ⟨rfl, bitOf_mintSet _ _, trivial, if_neg ha⟩

/-- An image that is taken is measured; a verified one is installed, another stops the boot. -/
theorem imageInstall_effect {s : State} (hstopped : s.mint.stopped = false) (hlocked : s.mint.locked = false)
    (hboot : 0 ∈ s.mint.installed) (hnew : s.arg.idx ∉ s.mint.installed) (hlo : 1 ≤ s.arg.idx) (hhi : s.arg.idx ≤ 3) : let x := s.arg
    ∃ t : State, exec .imageInstall s = .next t
        ∧ t.mint.measure x.idx = leBytes 32 (leNat (Sha.sha256 (s.mint.measure x.idx ++ Sha.sha256 x.data)))
        ∧ t.mint.locked = (List.range 4).all t.mint.installed.contains
        ∧ (x.a = 1 → x.idx ∈ t.mint.installed ∧ t.mem = (if x.idx = 1 then wrBytes s.mem x.b x.data else s.mem)
            ∧ (x.idx ≠ 1 → fget [] t.mint.images x.idx = x.data))
        ∧ (x.a ≠ 1 → t.mint.installed = s.mint.installed ∧ bitOf t.mint.stat (8 + x.idx) = true ∧ t.mint.stopped = true
            ∧ t.mem = s.mem) := by
  intro x
  by_cases ha : s.arg.a = 1
  · obtain ⟨t, ht, hmeas, hlock, hinst, hmem, himg⟩ := exec_imageInstall_good hstopped hlocked hboot hnew hlo hhi ha
    refine ⟨t, ht, ?_, ?_, fun _ => ⟨?_, hmem, himg⟩, fun h => absurd ha h⟩
    · exact (congrArg (fun m => leBytes 32 (fget 0 m s.arg.idx)) hmeas).trans (measure_taking _ _ _ _)
    · rw [hlock, hinst]
      rfl
    · rw [hinst]
      exact List.mem_append_right _ (List.mem_singleton_self _)
  · exact ⟨_, exec_imageInstall_bad hstopped hlocked hboot hnew hlo hhi ha, measure_taking _ _ _ _, rfl, fun h => absurd h ha,
      fun _ => ⟨rfl, bitOf_mintSet _ _, rfl, rfl⟩⟩

/-- Settles O59: each register's write, each read, and each event of the hub by the lemma about it. -/
theorem hubEvents : Obligations.HubEvents := by
  refine ⟨fun s => ⟨fun hidle e he => ?idle, fun hrel hmode e he => ?refused, fun hrel hmode => ?runs⟩,
    fun s h o => ⟨fun hrel hmode => ?reads, fun hrel hmode => ?readRefused, mmioRead_plimit s, mmioRead_unassigned s⟩,
    fun s => ⟨fun ha ht hreset hrel hmode => ?resets, fun ha hreset => ⟨fun hall => ?ends, fun hsome => ?waits⟩⟩,
    fun s => ⟨fun hearly => congrArg Host.Outcome.next (if_pos hearly), fun hdata hdue hroom => ?cool, fun hdue hhot => ?hot, s.shutdown, rfl, shutdown_effect s⟩,
    fun s => ⟨fun hearly => congrArg Host.Outcome.next (if_pos hearly), fun hdue => congrArg Host.Outcome.next (if_neg (Nat.not_lt.mpr hdue))⟩,
    fun s t => ⟨fun hpage => if_pos hpage, evseq_snapshot⟩, fun s => ?boot⟩
  case idle =>
    obtain ⟨f, hf⟩ := exec_access he s
    rw [hf, mmio_idle f hidle]
  case refused =>
    obtain ⟨f, hf⟩ := exec_access he s
    rw [hf, mmio_refused f hrel hmode]
    rfl
  case runs =>
    refine ⟨fun hi ha => ?_, fun hi hlo hhi => ?_, fun hi ha => ?_, fun hi hslot => ?_, fun hout => ?_, exec_portcfgWrite_runs hrel hmode,
      fun hi => ?_, fun hi => ?_, fun hi => ?_, fun hi hlo hhi => ?_, fun hlo hhi hv => ?_, exec_islbudgetWrite_quarter hrel hmode,
      exec_plimitWrite_limit hrel hmode, exec_extend_digest hrel hmode, exec_extend_ignored hrel hmode⟩
    · rw [exec_registerWrite_offset hrel hmode hi, ha, mmioWrite_plimit]
      rfl
    · rw [exec_registerWrite_offset hrel hmode hi, mmioWrite_tenant _ _ hlo hhi]
      rfl
    · rw [exec_registerWrite_offset hrel hmode hi, mmioWrite_unassigned _ _ ha, accessFault_noted]
      rfl
    · rw [exec_qcfgWrite_runs hrel hmode, if_pos ⟨hslot, hi⟩]
      rfl
    · rw [exec_qcfgWrite_runs hrel hmode, if_neg (by omega)]
      rfl
    · rw [exec_freplayWrite_runs hrel hmode, hi]
      rfl
    · rw [exec_freplayWrite_runs hrel hmode, hi]
      rfl
    · rw [exec_freplayWrite_runs hrel hmode, hi]
      rfl
    · obtain ⟨t, ht, hmem, hmhz⟩ := exec_islfreqWrite_target hrel hmode hhi (by omega)
      exact ⟨t, ht, hmem, by rw [hmhz, if_pos (show isQuarter s.arg.idx = true from decide_eq_true hi), roundMhz_of_le _ hlo]⟩
    · obtain ⟨t, ht, hmem, hmhz⟩ := exec_islfreqWrite_target hrel hmode hv (by omega)
      exact ⟨t, ht, hmem, by rw [hmhz, if_neg (by simpa [isQuarter] using hlo)]⟩
  case reads =>
    obtain ⟨hsome, hnone⟩ := sysRead_runs o hrel hmode
    refine ⟨fun v hv => ⟨_, congrArg Host.Outcome.next (hsome v hv), ?_, rfl⟩, fun hv => ⟨_, congrArg Host.Outcome.next (hnone hv), ?_, rfl⟩⟩
    · exact sysCore_read s h v
    · exact sysCore_noted _ _ _
  case readRefused =>
    exact ⟨_, congrArg Host.Outcome.next (mmio_refused (s := { s with arg := { hart := h } }) _ hrel hmode), sysCore_noted _ _ _, rfl⟩
  case resets =>
    have hrun := mmio_runs (fun s => s.startReset s.arg.idx) hrel hmode
    obtain ⟨hoff, hescrow⟩ := startReset_switches (s := s.noted s.arg.hart false) ht hreset
    refine ⟨_, (exec_tenantReset_start ha).trans (congrArg _ hrun), ?_, ?_, ?_, hescrow⟩
    · exact congrArg (·.1) hoff
    · exact congrArg (·.2.1) hoff
    · exact congrFun (congrArg (·.2.2) hoff)
  case ends => rw [exec_tenantReset_end ha, endReset_done hreset hall]
  case waits => rw [exec_tenantReset_end ha, endReset_waits hsome]
  case cool =>
    rw [exec_telemetrySample_due hdue, hdata]
    exact ⟨_, rfl, sample_withCycles_cool s _ hroom⟩
  case hot =>
    obtain ⟨t, ht⟩ := sample_hot (s := s.withCycles (s.power.cycles - 4096)) hhot
    obtain ⟨hdown, hstat, -⟩ := shutdown_effect t
    exact ⟨_, (exec_telemetrySample_due hdue).trans (congrArg _ ht), hdown, hstat⟩
  case boot =>
    refine ⟨?reset, exec_imageInstall_ignored, fun hstopped hlocked hboot hnew hlo hhi => ?install, fun hlocked => ?locked,
      fun hlocked hi => ?release, fun hlocked hi hboot => ?ended, fun hb => ?ask, fun w n q hb hlatched hqueue => ?begin,
      fun w n m hb hlatched => ?sign⟩
    case reset => exact packageReset_effect s
    case install => exact imageInstall_effect hstopped hlocked hboot hnew hlo hhi
    case locked =>
      rw [exec_coreRelease, State.coreRelease, hlocked]
      rfl
    case release =>
      obtain ⟨hmem, hall, -⟩ := releaseAll_effect (List.range 192) s
      exact ⟨_, congrArg Host.Outcome.next (coreRelease_all hlocked hi), hmem, fun c hc => hall c (List.mem_range.mpr hc)⟩
    case ended => exact ⟨_, congrArg Host.Outcome.next (coreRelease_endBoot hlocked hi hboot), rfl, rfl⟩
    case ask =>
      have hasked (u : State) (hmint : u.mint = s.mint)
          (hexec : exec .attestationRequest s = .next (u.updMint (·.ask s.arg.a (leNat (s.arg.data.take 32))))) :
          (s.mint.queue.length < 8 → exec .attestationRequest s =
            .next { u with mint := { s.mint with queue := s.mint.queue ++ [(s.arg.a, leNat (s.arg.data.take 32))] } })
          ∧ (8 ≤ s.mint.queue.length → exec .attestationRequest s =
            .next { u with mint := { s.mint with busy := s.mint.busy ++ [(s.arg.a, leNat (s.arg.data.take 32))] } }) :=
        ⟨fun h => by rw [hexec, State.updMint, hmint, ask_room _ _ h], fun h => by rw [hexec, State.updMint, hmint, ask_full _ _ h]⟩
      have hexec := exec_attestationRequest_ask hb
      refine ⟨fun ha => hasked s rfl ?_, fun ha hrel hmode => hasked (s.noted s.arg.hart false) rfl ?_, fun ha hrel hmode => ?_⟩
      · rw [hexec, if_neg ha]
      · rw [hexec, if_pos ha, mmio_runs _ hrel hmode]
        rfl
      · rw [hexec, if_pos ha, mmio_refused _ hrel hmode]
        rfl
    case begin =>
      rw [exec_attestationRequest_begin hb, State.updMint, Mint.begin_, hlatched, hqueue]
    case sign =>
      refine ⟨_, exec_attestationRequest_sign hb, ?_, ?_⟩
      · rw [State.sign, hlatched]
        rfl
      · rw [State.sign, hlatched]
        rfl

end Sys2Proof.Machine

/-! The launch unit's queues and records (spec/13_scheduling.md R281 to R288). -/

namespace Sys2Proof.Machine

open Sys2Proof

/-! ### TAIL and the dependences (R281, R283) -/

/-- The registers of the system cores are set: nothing that the launch unit reads. -/
def State.withSys (s : State) (m : FMap SysCore) : State := { s with sys := m }

theorem noted_eq_withSys (s : State) (h : Nat) (b : Bool) : s.noted h b = s.withSys (fset s.sys h { s.sysCore h with faulted := b }) := rfl

theorem reread_withSys (s : State) (m : FMap SysCore) (t q : Nat) : (s.withSys m).reread t q = (s.reread t q).withSys m := by
  have htenant : (s.withSys m).tenant t = s.tenant t := rfl
  have hrecord (i : Nat) : (s.withSys m).recordAt t q i = s.recordAt t q i := rfl
  have hdep (d : Bool × Nat × Nat) : (s.withSys m).depRead t d = s.depRead t d := rfl
  simp only [State.reread, htenant, hrecord, hdep]
  split
  · rfl
  · split <;> rfl

theorem rereadAll_withSys (s : State) (m : FMap SysCore) (t : Nat) : (s.withSys m).rereadAll t = (s.rereadAll t).withSys m := by
  have hfold (qs : FMap Queue) (s : State) :
      qs.foldl (fun s q => s.reread t q.1) (s.withSys m) = (qs.foldl (fun s q => s.reread t q.1) s).withSys m := by
    induction qs generalizing s with
    | nil => rfl
    | cons q qs ih => rw [List.foldl_cons, List.foldl_cons, reread_withSys, ih]
  exact hfold _ s

theorem readTail_withSys (s : State) (m : FMap SysCore) (t q : Nat) : (s.withSys m).readTail t q = (s.readTail t q).withSys m := by
  have htenant : (s.withSys m).tenant t = s.tenant t := rfl
  have hread (va : Nat) : (s.withSys m).hubRead t va 8 = s.hubRead t va 8 := rfl
  have htail (v : Nat) : ((s.withSys m).updQueue t q fun x => { x with tail := v })
      = (s.updQueue t q fun x => { x with tail := v }).withSys m := rfl
  simp only [State.readTail, htenant, hread, htail, rereadAll_withSys]
  split
  · rfl
  split
  · rfl
  · split <;> rfl

/-- The launch unit's read of TAIL is refused: the queue is behind its own TAIL, or holds more than its ring. -/
def Queue.badTail (q : Queue) (v : Nat) : Prop := v < q.tail ∨ 2 ^ q.log2n < v - q.head

section
variable {s : State} {t n : Nat}

theorem readTail_off (h : ((s.tenant t).queue n).en = false) : s.readTail t n = s := by
  rw [State.readTail, h]
  rfl

variable {v : Nat} (hen : ((s.tenant t).queue n).en = true) (hread : s.hubRead t ((s.tenant t).queue n).ctla 8 = .ok v)
include hen hread

theorem readTail_bad (hbad : ((s.tenant t).queue n).badTail v) : s.readTail t n = s.queueError t n := by
  simp only [State.readTail, hen, hread, Bool.not_true, Bool.false_eq_true, if_false]
  exact if_pos hbad

theorem readTail_good (hgood : ¬ ((s.tenant t).queue n).badTail v) :
    s.readTail t n = (s.updQueue t n fun x => { x with tail := v }).rereadAll t := by
  simp only [State.readTail, hen, hread, Bool.not_true, Bool.false_eq_true, if_false]
  exact if_neg hgood

end

theorem reread_reads {s : State} {t n r : Nat} {a b : Bool} (hen : ((s.tenant t).queue n).en = true)
    (hnext : ((s.tenant t).queue n).next < ((s.tenant t).queue n).tail)
    (hrec : s.recordAt t n ((s.tenant t).queue n).next = .ok r) (ha : s.depRead t (depOf r 0) = .ok a)
    (hb : s.depRead t (depOf r 1) = .ok b) : s.reread t n = s.updQueue t n fun x =>
      { x with met := some ((((s.tenant t).queue n).met.getD (false, false)).1 || a, (((s.tenant t).queue n).met.getD (false, false)).2 || b) } := by
  have hsome : ¬ ((!((s.tenant t).queue n).en) = true ∨ ((s.tenant t).queue n).tail ≤ ((s.tenant t).queue n).next) := by
    rw [hen]
    simpa using hnext
  simp only [State.reread, hsome, hrec, ha, hb, if_false]

/-- A reread changes nothing but a queue. -/
theorem reread_keeps (s : State) (t q : Nat) : (s.reread t q).mem = s.mem ∧ (s.reread t q).rrTenant = s.rrTenant
    ∧ (s.reread t q).launches = s.launches := by
  unfold State.reread
  dsimp only
  split
  · exact ⟨rfl, rfl, rfl⟩
  split
  · exact ⟨rfl, rfl, rfl⟩
  · exact ⟨rfl, rfl, rfl⟩

/-! ### The start of a record (R287, R288) -/

/-- A record's start takes its queue's next place, and its tenant is the last of the round. -/
def State.taken (s : State) (t n : Nat) : State :=
  { (s.updQueue t n fun x => { x with next := ((s.tenant t).queue n).next + 1, met := none }) with
    rrTenant := fset s.rrTenant ((s.tenant t).queue n).prio t }

section
variable {s : State} {t n r : Nat} (hnext : s.startNext = some (t, n))
  (hrec : (s.taken t n).recordAt t n ((s.tenant t).queue n).next = .ok r)
include hnext hrec

theorem recordStart_launches {l : Launch}
    (hmake : (s.taken t n).makeLaunch t n ((s.tenant t).queue n).next r ((s.tenant t).queue n).met = .ok l) : ∃ v : State,
      exec .recordStart s = .next v ∧ v.mem = s.mem ∧ v.rrTenant = fset s.rrTenant ((s.tenant t).queue n).prio t
      ∧ v.launches = fset s.launches s.nextId l := by
  have hstart : s.recordStart = ((({ (s.taken t n).newId.2 with launches := fset s.launches s.nextId l } : State).countHub 2 t 1).reread t n) := by
    rw [State.taken] at hrec hmake
    simp only [State.recordStart, hnext, hrec, hmake]
    rfl
  obtain ⟨hmem, hrr, hlaunches⟩ :=
    reread_keeps (({ (s.taken t n).newId.2 with launches := fset s.launches s.nextId l } : State).countHub 2 t 1) t n
  exact ⟨_, congrArg Host.Outcome.next hstart, hmem, hrr, hlaunches⟩

theorem recordStart_fails {e : Nat}
    (hmake : (s.taken t n).makeLaunch t n ((s.tenant t).queue n).next r ((s.tenant t).queue n).met = .error e) :
    exec .recordStart s = .next (((s.taken t n).finishRecord t n ((s.tenant t).queue n).next
      (((s.tenant t).queue n).ring + 64 * (((s.tenant t).queue n).next % 2 ^ ((s.tenant t).queue n).log2n)) (blockField r 0x38 8) e).reread t n) := by
  show Host.Outcome.next s.recordStart = _
  rw [State.taken] at hrec hmake ⊢
  simp only [State.recordStart, hnext, hrec, hmake]

end

/-! ### Offers, and what is asked to go for them (R288 to R295) -/

section
variable {s t : State} {n i : Nat} {l : Launch} {gs : List Nat} {rest : List Cand} (hl : s.launch n = some l)

theorem placeNext_head {x : Cand} (hcands : s.cands = x :: rest) (hplaced : s.tryCand x = some t) : s.placeNext = some (x, t) := by
  rw [State.placeNext, hcands, List.findSome?_cons, hplaced]
  rfl

include hl

theorem tryCand_fresh (h : s.placeNew n l i = some t) :
    s.tryCand (.fresh n i) = some (t.updLaunch n fun l => { l with next := i + 1 }) := by
  simp only [State.tryCand, hl, h, Option.map_some]

theorem tryCand_gang (h : s.placeGang n l l.gang = some t) :
    s.tryCand (.gang n) = some (t.updLaunch n fun l => { l with next := skipGang l.gang l.gang.length l.next }) := by
  simp only [State.tryCand, hl, h, Option.map_some]

theorem tryCand_restore (h : s.placeSavedAll l gs = some t) : s.tryCand (.restore n gs) = some t := by
  simp only [State.tryCand, hl, h]

theorem stuck_fresh_waits (h : s.placeNew n l i = none) : s.stuck (.fresh n i) = some (l, s) := by
  simp only [State.stuck, hl, State.stuckAt, h, Option.map_some]

theorem stuck_fresh_placed (h : s.placeNew n l i = some t) : s.stuck (.fresh n i) = none := by
  simp only [State.stuck, hl, State.stuckAt, h, Option.map_none]

theorem preemptGo_waits (h : s.placeNew n l i = none) :
    preemptGo (.fresh n i :: rest) s = if s.preemptFor l = [] then preemptGo rest s else s.preemptFor l := by
  simp only [preemptGo, stuck_fresh_waits hl h]
  split
  · next hnil => rw [if_pos hnil]
  · next hgs => rw [if_neg hgs]

theorem preemptGo_placed (h : s.placeNew n l i = some t) :
    preemptGo (.fresh n i :: rest) s = preemptGo rest (t.updLaunch n fun l => { l with next := i + 1 }) := by
  simp only [preemptGo, stuck_fresh_placed hl h, tryCand_fresh hl h, Option.getD_some]

theorem exec_workgroupPlacement_first (hcands : s.cands = .fresh n i :: rest) (h : s.placeNew n l i = some t) (hb : s.arg.b ≠ 1) :
    exec .workgroupPlacement s = .next (t.updLaunch n fun l => { l with next := i + 1 }) := by
  show execWorkgroupPlacement s = _
  rw [execWorkgroupPlacement, if_neg hb, placeNext_head hcands (tryCand_fresh hl h)]

theorem exec_gangPlacement_first (hcands : s.cands = .gang n :: rest) (h : s.placeGang n l l.gang = some t) :
    exec .gangPlacement s = .next (t.updLaunch n fun l => { l with next := skipGang l.gang l.gang.length l.next }) := by
  show execGangPlacement s = _
  rw [execGangPlacement, placeNext_head hcands (tryCand_gang hl h)]

theorem exec_restorePlacement_first (hcands : s.cands = .restore n gs :: rest) (h : s.placeSavedAll l gs = some t) :
    exec .restorePlacement s = .next t := by
  show execRestorePlacement s = _
  rw [execRestorePlacement, placeNext_head hcands (tryCand_restore hl h)]

end

theorem exec_workgroupPlacement_preempt {s : State} (hb : s.arg.b = 1) :
    exec .workgroupPlacement s = .next (s.requestSaves (preemptGo s.cands s.relieved)) :=
  congrArg Host.Outcome.next (if_pos hb)

theorem requestSaves_unsavable {s : State} {gs : List Nat} (h : s.savable gs = false) : s.requestSaves gs = s := by
  rw [State.requestSaves, h]
  rfl

end Sys2Proof.Machine

/-! The save handler's entry, the end of its drain, and fault records (spec/12_divergence.md R275; spec/26_faults_checkpoint.md R422,
R428 to R430). -/

namespace Sys2Proof.Machine

open Sys2Proof

/-! ### Entering the save handler (R275, R428) -/

theorem Warp.updThread_movesOnly (w : Warp) (l : Nat) (f : Thread → Thread) : w.MovesOnly (w.updThread l f) := rfl

theorem Warp.foldl_movesOnly {α : Type} {f : Warp → α → Warp} (hf : ∀ (w : Warp) x, w.MovesOnly (f w x)) (l : List α) (w : Warp) :
    w.MovesOnly (l.foldl f w) := by
  induction l generalizing w with
  | nil => exact .refl w
  | cons x l ih => exact (hf w x).trans (ih _)

theorem Warp.standDown_v (w : Warp) : w.standDown.v = w.v := by
  have hends {u : Warp} (h : w.MovesOnly u) : u.v = w.v := by rw [h]
  unfold Warp.standDown
  dsimp only
  refine hends ((foldl_movesOnly (fun w p => w.updThread_movesOnly _ _) _ w).trans (foldl_movesOnly (fun w b => ?_) _ _))
  split
  · rfl
  · exact w.unmeet_movesOnly _ _

theorem tellCore_none {s : State} {c w : Nat}
    (h : ∀ l, s.launch (s.wg (s.warpAt c w).wg).launch = some l → l.told.filter (·.2 == c) = []) : s.tellCore c w = s := by
  unfold State.tellCore
  dsimp only
  split
  · rfl
  · next l hl => rw [h l hl, List.foldl_nil]

/-- What is kept with workgroup g may differ, and nothing else; its slots stay. -/
def State.Keeps (g : Nat) (s t : State) : Prop := t = { s with wgs := t.wgs } ∧ (t.wg g).slots = (s.wg g).slots

theorem State.Keeps.refl (g : Nat) (s : State) : State.Keeps g s s := ⟨rfl, rfl⟩
theorem State.Keeps.trans {g : Nat} {s t u : State} (h : State.Keeps g s t) (k : State.Keeps g t u) : State.Keeps g s u :=
  ⟨by rw [k.1, h.1], k.2.trans h.2⟩

theorem keeps_updWg (s : State) (g : Nat) {f : Wg → Wg} (hf : (f (s.wg g)).slots = (s.wg g).slots) : State.Keeps g s (s.updWg g f) :=
  ⟨rfl, by rw [wg_updWg, hf]⟩

theorem keeps_foldl {α : Type} (g : Nat) (f : α → Wg → Wg) (hf : ∀ x y, (f x y).slots = y.slots) (l : List α) (s : State) :
    State.Keeps g s (l.foldl (fun s x => s.updWg g (f x)) s) := by
  induction l generalizing s with
  | nil => exact .refl g s
  | cons x l ih => exact (keeps_updWg s g (hf x _)).trans (ih _)

/-- The warp as it enters its save handler. -/
def Warp.entersSave (w : Warp) (area n : Nat) : Warp :=
  { w.standDown with
    wfault := none, mode := .save, drained := false, eret := false, sv := [], sp := []
    ss := [(28, BitVec.ofNat 32 area), (29, BitVec.ofNat 32 (area / 2 ^ 32)), (30, BitVec.ofNat 32 w.index), (31, BitVec.ofNat 32 n)] }

/-- A core as a warp enters its save handler: the warp's fragments wait for no one, and it is on no list of events. -/
def Core.keptBy (k : Core) (w : Nat) : Core :=
  { k with frags := k.frags.map fun f => if f.2.valid && f.2.slot == w then (f.1, { f.2 with pend := false, kept := true }) else f,
           slotEv := k.slotEv.filter (· != w) }

section
variable {s : State} {c w : Nat} {l : Launch} (hl : s.launch (s.wg (s.warpAt c w).wg).launch = some l)
  (htold : l.told.filter (·.2 == c) = []) (hsave : s.canSave c w = true)
include hl htold hsave

theorem enterSave_eq : ∃ u : State, State.Keeps (s.warpAt c w).wg s u ∧
    s.enterSave c w = (u.setWarpAt c w ((s.warpAt c w).entersSave ((s.tenant l.tenant).area ((s.wg (s.warpAt c w).wg).area.getD 0))
      (u.wg (s.warpAt c w).wg).slots.length)).updCore c (·.keptBy w) := by
  have hquiet : s.tellCore c w = s := tellCore_none fun l' hl' => by
    rw [hl] at hl'
    cases hl'
    exact htold
  unfold State.enterSave
  simp only [hquiet, hsave, Bool.not_true, Bool.false_eq_true, if_false, hl]
  refine ⟨_, ?_, rfl⟩
  refine State.Keeps.trans ?_ (keeps_foldl _ (fun (y : Nat × Bool) x => { x with waits := fset x.waits y.1 y.2 }) (fun _ _ => rfl) _ _)
  split
  · exact .refl _ s
  · exact keeps_updWg s _ rfl

theorem enterSave_enters : (s.enterSave c w).mem = s.mem ∧ (s.enterSave c w).warpAt c w = (s.warpAt c w).entersSave
    ((s.tenant l.tenant).area ((s.wg (s.warpAt c w).wg).area.getD 0)) (s.wg (s.warpAt c w).wg).slots.length := by
  obtain ⟨u, ⟨hu, hslots⟩, heq⟩ := enterSave_eq hl htold hsave
  rw [heq, hslots]
  refine ⟨?_, ?_⟩
  · rw [updCore_mem, setWarpAt_mem, hu]
  · rw [State.warpAt, core_updCore]
    exact warpAt_setWarpAt _ _ _ _

end

theorem exec_saveHandlerEntry {s : State} (hsave : s.canSave s.arg.core s.arg.slot = true) :
    exec .saveHandlerEntry s = .next (s.enterSave s.arg.core s.arg.slot) := by
  refine congrArg Host.Outcome.next (if_pos ?_)
  unfold State.canSave at hsave
  simp only [Bool.and_eq_true] at hsave ⊢
  obtain ⟨⟨⟨⟨-, hsaving⟩, hmode⟩, -⟩, -⟩ := hsave
  exact ⟨hsaving, hmode⟩

/-! ### The end of the drain (R229, R429) -/

/-- The slots of a core's commands. -/
def State.cmdSlots (s : State) (c : Nat) : List Nat := (s.core c).cmds.map (·.slot)

theorem State.Restamps.cmdSlots_eq {s t : State} (h : s.Restamps t) (c : Nat) : t.cmdSlots c = s.cmdSlots c := by
  have hplaced (k : Core) : k.cmds.map (·.slot) = (k.cmds.map Cmd.placed).map (·.slot) := by rw [List.map_map]; rfl
  rw [State.cmdSlots, State.cmdSlots, hplaced, hplaced, h.cmds]

theorem cmdSlots_setWarpAt (s : State) (c w : Nat) (x : Warp) : (s.setWarpAt c w x).cmdSlots c = s.cmdSlots c := by
  rw [State.cmdSlots, State.setWarpAt, core_updCore]
  rfl

theorem cmds_grantGo (q n : Nat) (k : Core) : (Core.grantGo q n k).cmds = k.cmds := by
  induction n generalizing k with
  | zero => rfl
  | succ n ih =>
    unfold Core.grantGo
    split
    · rfl
    · exact ih _

theorem cmdSlots_grant (s : State) (c q : Nat) : (s.grant c q).cmdSlots c = s.cmdSlots c := by
  unfold State.grant
  split
  · exact cmdSlots_setWarpAt _ _ _ _
  · rw [State.cmdSlots, core_updCore, cmds_grantGo]
    rfl

theorem cmdSlots_emptied (s : State) (c : Nat) (k : Core) : (s.emptied c k).cmdSlots c = s.cmdSlots c := by
  unfold State.emptied
  split
  · exact (restamps_migrate s c).cmdSlots_eq c
  · rfl

/-- The warp's waiting LDFs are cancelled, and the barriers of its stopped commands lowered by what they have done. -/
def State.stopped (s : State) (c w : Nat) : State :=
  (((s.cancelLdfs c w).core c).cmds.filter (·.slot == w)).foldl (fun s x => s.lowerDone c x) (s.cancelLdfs c w)

/-- Once the drain has ended no command of the warp is left. -/
theorem slot_ne_of_drained {s : State} {c w : Nat} (hdone : s.drainDone c w = true) (hquiet : s.tellCore c w = s) {y : Cmd}
    (hy : y ∈ ((s.drained c w).core c).cmds) : y.slot ≠ w := by
  have hslots : ∃ u : State, (s.drained c w).cmdSlots c = (u.updCore c fun k => { k with cmds := k.cmds.filter (·.slot != w) }).cmdSlots c := by
    unfold State.drained
    simp only [hquiet, ite_self, hdone, Bool.not_true, Bool.false_eq_true, if_false]
    refine ⟨(s.stopped c w).newId.2, ?_⟩
    rw [cmdSlots_grant, (restamps_postAll _ _).cmdSlots_eq, cmdSlots_setWarpAt, cmdSlots_emptied]
    rfl
  obtain ⟨u, hu⟩ := hslots
  have hmem : y.slot ∈ (s.drained c w).cmdSlots c := List.mem_map_of_mem hy
  rw [hu, State.cmdSlots, core_updCore, List.mem_map] at hmem
  obtain ⟨z, hz, hzy⟩ := hmem
  rw [← hzy]
  simpa using (List.mem_filter.mp hz).2

/-! ### Fault records (R422) -/

theorem exec_faultRecordWrite_none {s : State} (h : s.recs = []) : exec .faultRecordWrite s = .next s := by
  show Host.Outcome.next s.faultRecordWrite = _
  rw [State.faultRecordWrite, h]

section
variable {s : State} {r : FaultRec} {rs : List FaultRec} (h : s.recs = r :: rs)

/-- The oldest record takes its tenant's next number. -/
def State.numbered (s : State) (r : FaultRec) (rs : List FaultRec) : State :=
  ({ s with recs := rs } : State).updTenant r.tenant fun t => { t with faultSeq := ((s.tenant r.tenant).faultSeq + 1) % 2 ^ 32 }

include h

theorem exec_faultRecordWrite_dropped (hslot : (s.numbered r rs).ringSlot r.tenant (((s.tenant r.tenant).faultSeq + 1) % 2 ^ 32) = none) :
    exec .faultRecordWrite s = .next (s.numbered r rs) := by
  show Host.Outcome.next s.faultRecordWrite = _
  rw [State.faultRecordWrite, h]
  dsimp only
  rw [State.writeRecord]
  dsimp only
  rw [show (({ s with recs := rs } : State).tenant r.tenant) = s.tenant r.tenant from rfl, ← State.numbered, hslot]

theorem exec_faultRecordWrite_written {va : Nat}
    (hslot : (s.numbered r rs).ringSlot r.tenant (((s.tenant r.tenant).faultSeq + 1) % 2 ^ 32) = some va) :
    exec .faultRecordWrite s = .next ((((s.numbered r rs).hubWrite r.tenant va (leBytes 0x2C r.body)).hubWrite r.tenant (va + 0x30)
      (List.replicate 16 0#8)).hubWrite r.tenant (va + 0x2C) (leBytes 4 (((s.tenant r.tenant).faultSeq + 1) % 2 ^ 32))) := by
  show Host.Outcome.next s.faultRecordWrite = _
  rw [State.faultRecordWrite, h]
  dsimp only
  rw [State.writeRecord]
  dsimp only
  rw [show (({ s with recs := rs } : State).tenant r.tenant) = s.tenant r.tenant from rfl, ← State.numbered, hslot]

end

end Sys2Proof.Machine

/-! Collectives from start to end, messages and reduction slots (spec/21_collectives.md R369 to R381; spec/09_engine_isa.md R232). -/

namespace Sys2Proof.Machine

open Sys2Proof

/-! ### A collective starts (R255, R369) -/

/-- The state in which a processor of die d takes a collective: it has left the queue. -/
def State.taking (s : State) (d p : Nat) (x : Coll) : State :=
  ({ s with dies := fset s.dies d { s.die d with queue := (s.die d).queue.erase x } } : State).acts d p (192 + d) x.cmd

theorem proc_setProc (s : State) (d p : Nat) (c : Clear) : (s.setProc d p c).proc d p = c := by
  rw [State.proc, State.setProc, die_updDie]
  exact fget_fset_self _ _ _ _

theorem proc_setClear_taking (s : State) (d p : Nat) (x : Coll) (c : Clear) : ((s.taking d p x).setClear c).proc d p = c :=
  proc_setProc (s.taking d p x) d p c

theorem queue_setClear_taking (s : State) (d p : Nat) (x : Coll) (c : Clear) :
    (((s.taking d p x).setClear c).die d).queue = (s.die d).queue.erase x := by
  have hdie : (s.taking d p x).die d = { s.die d with queue := (s.die d).queue.erase x } := fget_fset_self _ _ _ _
  show (((s.taking d p x).setProc d p c).die d).queue = _
  rw [State.setProc, die_updDie, hdie]

/-- The registers, the place and the steps of a collective that runs: member m of n. -/
def Coll.begun (x : Coll) (n m : Nat) : Clear :=
  { coll := some x, c := (List.range 6).map fun i => (i, BitVec.ofNat 64 ([x.va, m, n, x.fSrc, x.fDst, x.fCount].getD i 0)),
    pc := x.fProg, rank := m, size := n, todo := if x.fAlgo = 3 then [] else x.steps n m }

section
variable {s : State} {d p : Nat} {x : Coll} (hrun : (s.die d).halted = false) (hproc : (s.die d).freeProc = some p)
  (hnext : (s.die d).nextColl = some x)
include hrun hproc hnext

theorem collectiveStart_eq : s.collectiveStart d = (match s.group x with
    | none => (s.taking d p x).setClear { coll := some x, ended := some (if WellFormed.fmtAssigned x.fDtype then stRange else stFormat) }
    | some g =>
      if g.members.length ≤ g.members.findIdx (· == (s.dev, d)) then
        (s.taking d p x).setClear { coll := some x, ended := some (if WellFormed.fmtAssigned x.fDtype then stRange else stFormat) }
      else match s.collCheck x g.members.length with
        | some st => (s.taking d p x).setClear { coll := some x, ended := some st }
        | none => if g.lost then (s.taking d p x).setClear { coll := some x, ended := some stLost }
          else (s.taking d p x).setClear (x.begun g.members.length (g.members.findIdx (· == (s.dev, d))))) := by
  unfold State.collectiveStart
  dsimp only
  rw [if_neg (by rw [hrun]; decide), hproc, hnext]
  rfl

/-- A die that is no member of the group ends the collective. -/
theorem collectiveStart_outside (h : s.group x = none ∨ ∃ g, s.group x = some g ∧ (s.dev, d) ∉ g.members) : s.collectiveStart d =
    (s.taking d p x).setClear { coll := some x, ended := some (if WellFormed.fmtAssigned x.fDtype then stRange else stFormat) } := by
  rw [collectiveStart_eq hrun hproc hnext]
  rcases h with h | ⟨g, hg, hout⟩
  · rw [h]
  · have hidx : g.members.length ≤ g.members.findIdx (· == (s.dev, d)) := by
      refine Nat.le_of_not_lt fun hlt => hout ?_
      have hfound := List.findIdx_getElem (w := hlt)
      rw [beq_iff_eq] at hfound
      exact hfound ▸ List.getElem_mem hlt
    rw [hg]
    exact if_pos hidx

variable {g : CGroup} (hg : s.group x = some g) (hm : g.members.findIdx (· == (s.dev, d)) < g.members.length)
include hg hm

theorem collectiveStart_checked {st : Nat} (hcheck : s.collCheck x g.members.length = some st) :
    s.collectiveStart d = (s.taking d p x).setClear { coll := some x, ended := some st } := by
  rw [collectiveStart_eq hrun hproc hnext, hg]
  dsimp only
  rw [if_neg (Nat.not_le.mpr hm), hcheck]

theorem collectiveStart_lost (hcheck : s.collCheck x g.members.length = none) (hlost : g.lost = true) :
    s.collectiveStart d = (s.taking d p x).setClear { coll := some x, ended := some stLost } := by
  rw [collectiveStart_eq hrun hproc hnext, hg]
  dsimp only
  rw [if_neg (Nat.not_le.mpr hm), hcheck]
  dsimp only
  rw [if_pos hlost]

theorem collectiveStart_runs (hcheck : s.collCheck x g.members.length = none) (hlost : g.lost = false) :
    s.collectiveStart d = (s.taking d p x).setClear (x.begun g.members.length (g.members.findIdx (· == (s.dev, d)))) := by
  rw [collectiveStart_eq hrun hproc hnext, hg]
  dsimp only
  rw [if_neg (Nat.not_le.mpr hm), hcheck]
  dsimp only
  rw [if_neg (by rw [hlost]; decide)]

/-- A member's start takes the collective from the queue, whatever comes of it. -/
theorem collectiveStart_takes : ∃ c, s.collectiveStart d = (s.taking d p x).setClear c := by
  rw [collectiveStart_eq hrun hproc hnext, hg]
  dsimp only
  rw [if_neg (Nat.not_le.mpr hm)]
  split
  · exact ⟨_, rfl⟩
  · split <;> exact ⟨_, rfl⟩

end

theorem fget_begun (x : Coll) (n m : Nat) {i : Nat} (hi : i < 16) :
    fget 0#64 (x.begun n m).c i = BitVec.ofNat 64 ([x.va, m, n, x.fSrc, x.fDst, x.fCount].getD i 0) := by
  interval_cases i <;> rfl

/-- A halted die starts and ends nothing, and applies no held end. -/
theorem halted_acts {s : State} (h : (s.die s.arg.core).halted = true) :
    exec .collectiveStart s = .next s ∧ exec .collectiveEnd s = .next s ∧ exec .heldEndApply s = .next s :=
  ⟨congrArg Host.Outcome.next (if_pos h), congrArg Host.Outcome.next (if_pos h), congrArg Host.Outcome.next (if_pos h)⟩

/-! ### Messages and ends (R232, R255, R369) -/

theorem exec_clearingMessageArrival_room {s : State} {m : Msg} (hdata : s.arg.data = []) (hm : s.msgs[s.arg.idx]? = some m)
    (hnew : m.arrived = false) (hdev : m.dev = s.dev) (hroom : s.msgLive m = true ∨ s.inbox m.die + m.data.length ≤ inboxSize) :
    exec .clearingMessageArrival s = .next { s with msgs := s.msgs.set s.arg.idx { m with arrived := true } } := by
  have hfits : (s.msgLive m || decide (s.inbox m.die + m.data.length ≤ inboxSize)) = true := by
    rw [Bool.or_eq_true, decide_eq_true_eq]
    exact hroom
  show execClearingMessageArrival s = _
  rw [execClearingMessageArrival]
  simp only [hdata, hm, hnew, hdev, hfits, List.isEmpty_nil, bne_self_eq_false, Bool.not_true, Bool.or_self, if_true, Bool.false_eq_true,
    if_false]

section
variable {s : State} {x : Coll} {st : Nat} (hrun : (s.die s.arg.core).halted = false)
  (hcoll : (s.proc s.arg.core s.arg.idx).coll = some x) (hended : (s.proc s.arg.core s.arg.idx).ended = some st)
include hrun hcoll hended

/-- The processor is free; its registers hold their last values. -/
def State.freed (s : State) : State := s.setProc s.arg.core s.arg.idx { c := (s.proc s.arg.core s.arg.idx).c }

theorem collectiveEnd_posted (h : s.posted x.cmd = true) : exec .collectiveEnd s = .next s := by
  show Host.Outcome.next (s.collectiveEnd s.arg.core s.arg.idx) = _
  unfold State.collectiveEnd
  dsimp only
  rw [if_neg (by rw [hrun]; decide), hcoll, hended]
  dsimp only
  rw [if_pos h]

variable (h : s.posted x.cmd = false)
include h

theorem collectiveEnd_eq : exec .collectiveEnd s = .next (match (s.freed.wg x.wg).st with
    | .saving | .saved | .restoring => s.freed.updDie s.arg.core fun k => { k with held := k.held ++
        [{ wg := x.wg, slot := x.slot, cmd := x.cmd, status := st, off := x.va - localVa x.core x.local_ 0, bar := x.fBar }] }
    | _ => s.freed.endCmd (s.freed.wg x.wg).core x.cmd st) := by
  show Host.Outcome.next (s.collectiveEnd s.arg.core s.arg.idx) = _
  unfold State.collectiveEnd
  dsimp only
  rw [if_neg (by rw [hrun]; decide), hcoll, hended]
  dsimp only
  rw [if_neg (by rw [h]; decide)]
  rfl

theorem collectiveEnd_resident (hst : (s.freed.wg x.wg).st = .resident) :
    exec .collectiveEnd s = .next (s.freed.endCmd (s.freed.wg x.wg).core x.cmd st) := by
  rw [collectiveEnd_eq hrun hcoll hended h, hst]

theorem collectiveEnd_saved (hst : (s.freed.wg x.wg).st = .saved) : exec .collectiveEnd s = .next (s.freed.updDie s.arg.core fun k =>
    { k with held := k.held ++ [{ wg := x.wg, slot := x.slot, cmd := x.cmd, status := st, off := x.va - localVa x.core x.local_ 0, bar := x.fBar }] }) := by
  rw [collectiveEnd_eq hrun hcoll hended h, hst]

end

theorem exec_heldEndApply_ready {s : State} {h : Held} (hrun : (s.die s.arg.core).halted = false)
    (hready : s.heldReady s.arg.core = some h) : exec .heldEndApply s = .next (s.applyHeld s.arg.core h) := by
  show execHeldEndApply s = _
  rw [execHeldEndApply, if_neg (by rw [hrun]; decide), hready]

/-! ### Contributions (R380, R447) -/

theorem exec_reductionPush_own {s : State} {p : Push} (hdata : s.arg.data = []) (hp : s.pushes[s.arg.idx]? = some p) :
    exec .reductionPush s = .next (({ s with pushes := s.pushes.eraseIdx s.arg.idx } : State).pushIn p (s.arg.b == 1) s.arg.a) := by
  show execReductionPush s = _
  rw [execReductionPush, hdata, hp]
  rfl

theorem exec_reductionPush_packet {s : State} (hdata : s.arg.data ≠ []) :
    exec .reductionPush s = .next (s.pushIn (s.pushOf (packetOf s.arg.data)) (s.arg.b == 1) s.arg.a) := by
  show execReductionPush s = _
  rw [execReductionPush, if_neg (by rwa [List.isEmpty_iff])]

theorem Tag.low_lt (t : Tag) : t.low < 2 ^ 32 := by
  simp only [Tag.low, tagSeq]
  omega

/-- A tag reads back from a header that carries it. -/
theorem tag_of_header {p : Packet} {t : Tag} (hgroup : t.group < 2 ^ 32) (hstream : t.stream < 2 ^ 32) (hseq : t.seq < 8)
    (hchunk : t.chunk < 2 ^ 32) (hwho : t.who < 2 ^ 14) (hroot : t.root < 2 ^ 14) (hop : t.op < 2) (haddr : p.addr = t.addr)
    (hopn : p.opn = t.opn) (hbmask : p.bmask = t.bmask) (harg : p.arg = t.arg) : p.tag = t := by
  have hlow := t.low_lt
  have hn : p.addr / 2 ^ 32 % 2 ^ 8 + 2 ^ 8 * (p.opn % 2 ^ 8) + 2 ^ 16 * (p.bmask % 2 ^ 16) = t.low := by
    rw [haddr, hopn, hbmask, Tag.addr, Tag.opn, Tag.bmask]
    omega
  have hfields : t.low = t.who + 2 ^ 14 * t.root + 2 ^ 28 * t.op + 2 ^ 29 * t.seq := by
    rw [Tag.low, tagSeq, Nat.mod_eq_of_lt hwho, Nat.mod_eq_of_lt hroot, Nat.mod_eq_of_lt hop, Nat.mod_eq_of_lt hseq]
  simp only [Packet.tag, hn, harg]
  rw [hfields, haddr, Tag.addr, Tag.arg]
  obtain ⟨group, stream, seq, chunk, who, root, op⟩ := t
  simp only [Tag.mk.injEq] at *
  refine ⟨?_, ?_, ?_, ?_, ?_, ?_, ?_⟩ <;> omega

/-! ### Slots and roots (R380, R381) -/

theorem merge_counted {x y : Slot} (h : ∃ r ∈ y.bitmap, r ∈ x.bitmap) : x.merge y = x := by
  refine if_pos ?_
  obtain ⟨r, hy, hx⟩ := h
  exact List.any_eq_true.mpr ⟨r, hy, List.contains_iff_mem.mpr hx⟩

theorem add_counted {x : Slot} {p : Push} (h : x.bitmap.contains p.rank = true) : x.add p = x := if_pos h

section
variable {s : State} {x : Slot} (hx : s.slots[s.arg.idx]? = some x) (hroot : x.atRoot = false)
include hx hroot

theorem exec_switchSlotTimeout_early (h : x.age < s.slotLimit x) : exec .switchSlotTimeout s = .next s := by
  show execSwitchSlotTimeout s = _
  rw [execSwitchSlotTimeout, hx]
  dsimp only
  rw [if_pos (by rw [hroot, Bool.false_or, decide_eq_true h])]

theorem exec_switchSlotTimeout_due (h : s.slotLimit x ≤ x.age) : exec .switchSlotTimeout s = .next (s.slotForward x) := by
  show execSwitchSlotTimeout s = _
  rw [execSwitchSlotTimeout, hx]
  dsimp only
  rw [if_neg (by rw [hroot, Bool.false_or, decide_eq_true_eq]; exact Nat.not_lt.mpr h)]

end

/-- With no root among the slots, what is forwarded makes its root. -/
theorem rootTake_first {s : State} {x : Slot} (h : ∀ y ∈ s.slots, y.atRoot = false) : s.rootTake x =
    if (s.dieOf x.tenant x.group x.root).isSome then
      ({ s with slots := s.slots ++ [{ x with atRoot := true }] } : State).slotDone { x with atRoot := true }
    else { s with slots := if x.size ≤ x.bitmap.length then s.slots else s.slots ++ [{ x.shell with atRoot := true }] } := by
  have hfind (z : Slot) : s.slots.find? (fun y => y.same z && y.atRoot) = none := by
    rw [List.find?_eq_none]
    intro y hy
    rw [h y hy, Bool.and_false]
    decide
  have hfilter (z : Slot) : s.slots.filter (fun y => !(y.same z && y.atRoot)) = s.slots := by
    rw [List.filter_eq_self]
    intro y hy
    rw [h y hy, Bool.and_false]
    rfl
  unfold State.rootTake
  simp only [hfind, hfilter]
  split
  · rfl
  · rfl

section
variable {s : State} {x : Slot} (h : ∀ y ∈ s.slots, y.atRoot = false)
include h

theorem slotForward_first : s.slotForward x =
    if (s.dieOf x.tenant x.group x.root).isSome then
      ({ s with slots := s.slots.erase x ++ [{ x with atRoot := true }] } : State).slotDone { x with atRoot := true }
    else { s with slots := s.slots.erase x ++ if x.size ≤ x.bitmap.length then [] else [{ x.shell with atRoot := true }] } := by
  have herased : ∀ y ∈ ({ s with slots := s.slots.erase x } : State).slots, y.atRoot = false := fun y hy => h y (List.mem_of_mem_erase hy)
  rw [State.slotForward, rootTake_first herased]
  have hdie : ({ s with slots := s.slots.erase x } : State).dieOf x.tenant x.group x.root = s.dieOf x.tenant x.group x.root := rfl
  rw [hdie]
  split
  · rfl
  · split
    · rw [List.append_nil]
    · rfl

end

end Sys2Proof.Machine

/-! The events of the launch unit and of the clearing engines, put together (spec/13_scheduling.md; spec/21_collectives.md). -/

namespace Sys2Proof.Machine

open Sys2Proof

/-- An event that reads a queue's TAIL: what it does where the queue is off, where TAIL is bad, and where it is good (R281). -/
theorem polls_readTail {s : State} {t n : Nat} {e : Instr} {f : State → State} (he : exec e s = .next (f (s.readTail t n))) :
    (((s.tenant t).queue n).en = false → exec e s = .next (f s))
    ∧ ∀ v, ((s.tenant t).queue n).en = true → s.hubRead t ((s.tenant t).queue n).ctla 8 = .ok v →
      (((s.tenant t).queue n).badTail v → exec e s = .next (f (s.queueError t n)))
      ∧ (¬ ((s.tenant t).queue n).badTail v → exec e s = .next (f ((s.updQueue t n fun x => { x with tail := v }).rereadAll t))) := by
  refine ⟨fun hen => ?_, fun v hen hread => ⟨fun hbad => ?_, fun hgood => ?_⟩⟩
  · rw [he, readTail_off hen]
  · rw [he, readTail_bad hen hread hbad]
  · rw [he, readTail_good hen hread hgood]

/-- A doorbell that a core may ring reads TAIL (R456, R457). -/
theorem exec_doorbell_runs {s : State} (h : (s.sysCore s.arg.hart).released = true)
    (hmode : (s.sysCore s.arg.hart).mode = .m ∨ (s.sysCore s.arg.hart).mode = .hs) : exec .doorbell s = .next
      ((s.readTail s.arg.idx s.arg.slot).withSys (fset s.sys s.arg.hart { s.sysCore s.arg.hart with faulted := false })) := by
  show Host.Outcome.next (s.mmio fun s => s.readTail s.arg.idx s.arg.slot) = _
  rw [mmio_runs _ h hmode, noted_eq_withSys]
  exact congrArg Host.Outcome.next (readTail_withSys _ _ _ _)

/-- With a die of this device as the root, or another device's, what a slot sends on first makes its root there (R380). -/
theorem exec_switchSlotTimeout_first {s : State} {x : Slot} (hx : s.slots[s.arg.idx]? = some x) (hroot : x.atRoot = false)
    (hdue : s.slotLimit x ≤ x.age) (hfirst : ∀ y ∈ s.slots, y.atRoot = false) :
    (s.dieOf x.tenant x.group x.root = none → exec .switchSlotTimeout s = .next { s with
      slots := s.slots.erase x ++ if x.size ≤ x.bitmap.length then [] else [{ x.shell with atRoot := true }] })
    ∧ (s.dieOf x.tenant x.group x.root ≠ none → exec .switchSlotTimeout s =
      .next (({ s with slots := s.slots.erase x ++ [{ x with atRoot := true }] } : State).slotDone { x with atRoot := true })) := by
  rw [exec_switchSlotTimeout_due hx hroot hdue, slotForward_first hfirst]
  refine ⟨fun hdie => ?_, fun hdie => ?_⟩
  · rw [if_neg (by rw [hdie]; decide)]
  · rw [if_pos (Option.isSome_iff_ne_none.mpr hdie)]

theorem slotDone_partial {s : State} {x : Slot} (h : x.bitmap.length < x.size) : s.slotDone x = s := if_pos h

/-- Settles O58: what each event finds in the state decides which of its lemmas says what it does. -/
theorem launchAndCollectiveEvents : Obligations.LaunchAndCollectiveEvents := by
  refine ⟨fun s => ⟨polls_readTail (f := id) rfl, polls_readTail (f := id) rfl, ⟨fun h => ?_, fun h hmode => ?_, fun h hmode => ?_⟩,
      fun r a b hen hnext hrec ha hb => ?_⟩, fun s t n r hnext hrec => ⟨fun l hmake => ?_, fun e hmake => ?_⟩,
    fun s t n i l gs rest hl => ⟨fun hc hp hb => ?_, exec_workgroupPlacement_preempt, rfl, preemptGo_waits hl, preemptGo_placed hl,
      requestSaves_unsavable, exec_gangPlacement_first hl, exec_restorePlacement_first hl⟩,
    fun s => ⟨fun l _ hl htold hsave => ?_, fun hdone htold => ?_, exec_faultRecordWrite_none, fun r rs hrecs =>
      ⟨exec_faultRecordWrite_dropped hrecs, fun va => exec_faultRecordWrite_written hrecs⟩⟩,
    fun s => ⟨halted_acts, fun p x hrun hproc hcoll hout => ?_, fun p x g hrun hproc hcoll hg hm => ?_, fun m =>
        exec_clearingMessageArrival_room, fun x st hrun hcoll hended => ⟨collectiveEnd_posted hrun hcoll hended, fun h =>
          ⟨collectiveEnd_resident hrun hcoll hended h, collectiveEnd_saved hrun hcoll hended h⟩⟩,
      fun h => exec_heldEndApply_ready, fun p => exec_reductionPush_own, exec_reductionPush_packet,
      fun p t hgroup hstream hseq hchunk hwho hroot hop haddr hopn hbmask harg => ?_, fun x y => merge_counted, fun x p => add_counted,
      fun x hx hroot => ⟨exec_switchSlotTimeout_early hx hroot, fun hdue hfirst => ?_⟩⟩⟩
  · exact congrArg Host.Outcome.next (mmio_idle _ h)
  · exact congrArg Host.Outcome.next (mmio_refused _ h hmode)
  · exact polls_readTail (f := fun u => u.withSys _) (exec_doorbell_runs h hmode)
  · exact congrArg Host.Outcome.next (reread_reads hen hnext hrec ha hb)
  · exact recordStart_launches hnext hrec hmake
  · exact recordStart_fails hnext hrec hmake
  · exact exec_workgroupPlacement_first hl hc hp hb
  · obtain ⟨hmem, hwarp⟩ := enterSave_enters hl htold hsave
    refine ⟨_, exec_saveHandlerEntry hsave, hmem, ?_⟩
    rw [hwarp]
    exact ⟨rfl, rfl, rfl, rfl, rfl, Warp.standDown_v _, rfl⟩
  · exact ⟨rfl, fun y => slot_ne_of_drained hdone (tellCore_none htold)⟩
  · exact ⟨_, congrArg Host.Outcome.next (collectiveStart_outside hrun hproc hcoll hout), rfl, proc_setClear_taking ..⟩
  · obtain ⟨c, hc⟩ := collectiveStart_takes hrun hproc hcoll hg hm
    have hfixed {c' : Clear} (h : s.collectiveStart s.arg.core = (s.taking s.arg.core p x).setClear c') :
        ((s.taking s.arg.core p x).setClear c).proc s.arg.core p = c' := by
      rw [← hc, h]
      exact proc_setClear_taking ..
    refine ⟨_, congrArg Host.Outcome.next hc, rfl, queue_setClear_taking .., fun st hst => ?_, fun hok hlost => ?_,
      fun hok hlost => ?_⟩
    · exact hfixed (collectiveStart_checked hrun hproc hcoll hg hm hst)
    · exact hfixed (collectiveStart_lost hrun hproc hcoll hg hm hok hlost)
    · rw [hfixed (collectiveStart_runs hrun hproc hcoll hg hm hok hlost)]
      exact ⟨rfl, rfl, rfl, rfl, rfl, fun i => fget_begun _ _ _⟩
  · have htag := tag_of_header hgroup hstream hseq hchunk hwho hroot hop haddr hopn hbmask harg
    subst htag
    exact ⟨rfl, rfl, rfl, rfl, rfl, rfl, rfl, rfl, rfl⟩
  · obtain ⟨hfar, hhere⟩ := exec_switchSlotTimeout_first hx hroot hdue hfirst
    refine ⟨hfar, fun hdie => ⟨fun hpart => ?_, fun _ => hhere hdie⟩⟩
    exact (hhere hdie).trans (congrArg Host.Outcome.next (slotDone_partial (x := { x with atRoot := true }) hpart))

end Sys2Proof.Machine

/-! Ports: training, links and flits (spec/27_fabric.md R443, R444; spec/19_compression.md R359 to R361). -/

namespace Sys2Proof.Machine

open Sys2Proof

theorem updPort_eq {s : State} {i : Nat} {f : Port → Port} {y : Port} (h : f (s.port i) = y) : s.updPort i f = s.updPort i fun _ => y := by
  rw [State.updPort, h, State.updPort]

/-! ### A port that sends (R359) -/

/-- Sending changes nothing of a port but what waits, and what of it the far end has not accepted. -/
def Port.Sends (x y : Port) : Prop :=
  y = { x with waiting := y.waiting, txTab := y.txTab, txSeq := y.txSeq, retry := y.retry, unacked := y.unacked }

theorem pumpGo_sends (n : Nat) (x : Port) : x.Sends (x.pumpGo n).1 := by
  induction n generalizing x with
  | zero => rfl
  | succ n ih =>
    unfold Port.pumpGo
    split
    · rfl
    split
    · rfl
    dsimp only
    split
    · rfl
    · next p _ _ _ =>
      have hrest := ih { x with
        waiting := x.waiting.erase p
        txTab := if p.typ = 0 then x.txTab else fset x.txTab p.vc (codePayload p.typ (x.txTable p.vc) p.data).2.2
        txSeq := (x.txSeq + (flitsOf x.live x.txSeq (({ p with coded := (codePayload p.typ (x.txTable p.vc) p.data).2.1 } : Packet).header
          ++ (codePayload p.typ (x.txTable p.vc) p.data).1)).length) % 65536
        retry := x.retry ++ flitsOf x.live x.txSeq (({ p with coded := (codePayload p.typ (x.txTable p.vc) p.data).2.1 } : Packet).header
          ++ (codePayload p.typ (x.txTable p.vc) p.data).1)
        unacked := x.unacked ++ [p] }
      rw [Port.Sends] at hrest ⊢
      rw [hrest]

theorem pumpGo_untrained {x : Port} (n : Nat) (h : x.st ≠ 2) : x.pumpGo n = (x, []) := by
  cases n with
  | zero => rfl
  | succ n =>
    unfold Port.pumpGo
    split
    · rfl
    · rw [if_pos (Or.inl h)]

theorem pumpGo_idle {x : Port} (n : Nat) (h : x.waiting = []) : x.pumpGo n = (x, []) := by
  cases n with
  | zero => rfl
  | succ n =>
    unfold Port.pumpGo
    rw [h, List.find?_nil]

/-- What a port sends is counted, and the switch takes contributions: no port's state differs, and no memory. -/
theorem ports_sent (ys : List (Packet × Nat × Nat)) (d : Nat) (s : State) :
    let u := ys.foldl (fun (s : State) y => ((s.countDie d 5 y.1.tenant y.2.1).countDie d 6 y.1.tenant y.2.2).toSwitch y.1) s
    u.ports = s.ports ∧ u.mem = s.mem := by
  have hcount (s : State) (c t n : Nat) : (s.countDie d c t n).ports = s.ports ∧ (s.countDie d c t n).mem = s.mem := by
    unfold State.countDie
    split <;> exact ⟨rfl, rfl⟩
  have hswitch (s : State) (p : Packet) : (s.toSwitch p).ports = s.ports ∧ (s.toSwitch p).mem = s.mem := by
    unfold State.toSwitch
    dsimp only
    split <;> exact ⟨rfl, rfl⟩
  induction ys generalizing s with
  | nil => exact ⟨rfl, rfl⟩
  | cons y ys ih =>
    refine ⟨(ih _).1.trans ?_, (ih _).2.trans ?_⟩
    · rw [(hswitch _ _).1, (hcount _ _ _ _).1, (hcount _ _ _ _).1]
    · rw [(hswitch _ _).2, (hcount _ _ _ _).2, (hcount _ _ _ _).2]

theorem port_pump (s : State) (n : Nat) : (s.pump n).port n = ((s.port n).pumpGo (s.port n).waiting.length).1 := by
  rw [State.port, State.pump, (ports_sent _ _ _).1]
  exact fget_fset_self _ _ _ _

theorem mem_pump (s : State) (n : Nat) : (s.pump n).mem = s.mem := (ports_sent _ _ _).2

/-! ### Training (R443, R444) -/

/-- The links that a training finds live: none for a Mbovas port at a leaf switch of another number of planes. -/
def State.trainedLinks (s : State) : Nat :=
  if s.arg.slot = 1 ∧ s.booted = true ∧ (!(s.port s.arg.idx).ue) = true then 0 else s.arg.a

/-- The port once its training has ended. -/
def State.trained (s : State) : Port := (s.port s.arg.idx).train s.trainedLinks s.arg.b

theorem exec_portTraining (s : State) : ∃ t : State, exec .portTraining s = .next t ∧ t.mem = s.mem
    ∧ t.port s.arg.idx = (s.trained.pumpGo s.trained.waiting.length).1 := by
  refine ⟨_, rfl, mem_pump _ _, ?_⟩
  rw [port_pump, port_updPort]
  rfl

section
variable {x : Port} {live slots : Nat} (hen : x.en = true) (hst : x.st = 1)
include hen hst

theorem train_fails (h : live % 16 = 0) : x.train live slots = { x with fails := x.fails + 1, st := if 8 ≤ x.fails + 1 then 3 else 1 } := by
  rw [Port.train, hen, hst]
  exact if_pos h

theorem train_succeeds (h : live % 16 ≠ 0) : x.train live slots = { x.retrain with
    st := 2, live := live % 16, fails := 0, retrains := (x.retrains + 1) % 256, slotLimit := if x.ue then 0 else slots % 2 ^ 32 } := by
  rw [Port.train, hen, hst]
  exact if_neg h

end

section
variable {s : State} (hen : (s.port s.arg.idx).en = true) (hst : (s.port s.arg.idx).st = 1)
include hen hst

theorem portTraining_fails (h : s.trainedLinks % 16 = 0) : ∃ t : State, exec .portTraining s = .next t ∧ t.mem = s.mem
    ∧ t.port s.arg.idx = { s.port s.arg.idx with
      fails := (s.port s.arg.idx).fails + 1, st := if 8 ≤ (s.port s.arg.idx).fails + 1 then 3 else 1 } := by
  obtain ⟨t, ht, hmem, hport⟩ := exec_portTraining s
  have htrained := train_fails (slots := s.arg.b) hen hst h
  have hst' : s.trained.st ≠ 2 := by
    rw [State.trained, htrained]
    dsimp only
    split <;> decide
  refine ⟨t, ht, hmem, ?_⟩
  rw [hport, pumpGo_untrained _ hst']
  exact htrained

theorem portTraining_succeeds (h : s.trainedLinks % 16 ≠ 0) : ∃ t : State, exec .portTraining s = .next t ∧ t.mem = s.mem
    ∧ (t.port s.arg.idx).st = 2 ∧ (t.port s.arg.idx).live = s.trainedLinks % 16 ∧ (t.port s.arg.idx).fails = 0
    ∧ (t.port s.arg.idx).retrains = ((s.port s.arg.idx).retrains + 1) % 256
    ∧ (t.port s.arg.idx).slotLimit = (if (s.port s.arg.idx).ue = true then 0 else s.arg.b % 2 ^ 32)
    ∧ (t.port s.arg.idx).rxSeq = 0 ∧ (t.port s.arg.idx).rxTab = [] ∧ (t.port s.arg.idx).part = []
    ∧ ((s.port s.arg.idx).waiting = [] → (s.port s.arg.idx).unacked = [] →
      (t.port s.arg.idx).txSeq = 0 ∧ (t.port s.arg.idx).retry = []) := by
  obtain ⟨t, ht, hmem, hport⟩ := exec_portTraining s
  have htrained : s.trained = _ := train_succeeds (slots := s.arg.b) hen hst h
  have hsends : s.trained.Sends (t.port s.arg.idx) := hport ▸ pumpGo_sends _ _
  have hidle (hw : (s.port s.arg.idx).waiting = []) (hu : (s.port s.arg.idx).unacked = []) : t.port s.arg.idx = s.trained := by
    rw [hport, pumpGo_idle]
    rw [htrained]
    show (s.port s.arg.idx).unacked ++ (s.port s.arg.idx).waiting = []
    rw [hw, hu]
    rfl
  refine ⟨t, ht, hmem, ?_, ?_, ?_, ?_, ?_, ?_, ?_, ?_, fun hw hu => ?_⟩
  case refine_9 =>
    rw [hidle hw hu, htrained]
    exact ⟨rfl, rfl⟩
  all_goals rw [hsends, htrained, Port.retrain]

end

theorem trainedLinks_none {s : State} (h : ¬ (s.arg.a % 16 ≠ 0 ∧ ¬ (s.arg.slot = 1 ∧ s.booted = true ∧ (s.port s.arg.idx).ue = false))) :
    s.trainedLinks % 16 = 0 := by
  unfold State.trainedLinks
  simp only [Bool.not_eq_true']
  split
  · rfl
  · next hplanes => exact of_not_not fun ha => h ⟨ha, hplanes⟩

theorem trainedLinks_some {s : State} (h : ¬ (s.arg.slot = 1 ∧ s.booted = true ∧ (s.port s.arg.idx).ue = false)) :
    s.trainedLinks = s.arg.a := by
  unfold State.trainedLinks
  simp only [Bool.not_eq_true']
  exact if_neg h

/-! ### Links lost, and retries (R360, R361) -/

section
variable {s : State} (hlink : s.arg.a < 4)
include hlink

theorem linkFailure_eq {y : Port} (h : (s.port s.arg.idx).linkDown s.arg.a = y) :
    exec .linkFailure s = .next (s.updPort s.arg.idx fun _ => y) := by
  refine congrArg Host.Outcome.next (updPort_eq ?_)
  rw [if_pos hlink]
  exact h

variable (hlive : bitOf (s.port s.arg.idx).live s.arg.a = true)
include hlive

/-- The unacknowledged flits of a lost link move to the others. -/
theorem linkFailure_moves (h : (s.port s.arg.idx).live - 2 ^ s.arg.a ≠ 0) : exec .linkFailure s = .next (s.updPort s.arg.idx fun _ =>
    { s.port s.arg.idx with live := (s.port s.arg.idx).live - 2 ^ s.arg.a, retry := (s.port s.arg.idx).retry.map fun f =>
      if f.link = s.arg.a then { f with link := stripe ((s.port s.arg.idx).live - 2 ^ s.arg.a) f.seq } else f }) := by
  refine linkFailure_eq hlink ?_
  unfold Port.linkDown
  rw [if_neg (by rw [hlive]; decide)]
  exact if_neg h

/-- Without a link left a port retrains. -/
theorem linkFailure_last (h : (s.port s.arg.idx).live - 2 ^ s.arg.a = 0) :
    exec .linkFailure s = .next (s.updPort s.arg.idx fun _ => (s.port s.arg.idx).retrain) := by
  refine linkFailure_eq hlink ?_
  unfold Port.linkDown
  rw [if_neg (by rw [hlive]; decide)]
  exact if_pos h

end

theorem exec_portRetrain_on {s : State} (hen : (s.port s.arg.idx).en = true) :
    exec .portRetrain s = .next (s.updPort s.arg.idx fun _ => (s.port s.arg.idx).retrain) :=
  congrArg Host.Outcome.next (updPort_eq (if_pos hen))

theorem exec_retryGapExpiry_due {s : State}
    (h : (s.port s.arg.idx).failed = true ∨ (s.port s.arg.idx).gap = true ∧ Config.gapWait.toNat ≤ (s.port s.arg.idx).gapAge) :
    exec .retryGapExpiry s = .next (s.updPort s.arg.idx fun _ =>
      { s.port s.arg.idx with failed := false, gapAge := 0, wantRetry := some (s.port s.arg.idx).rxSeq }) := by
  refine congrArg Host.Outcome.next (updPort_eq (if_pos ?_))
  simpa only [Bool.or_eq_true, Bool.and_eq_true, decide_eq_true_eq] using h

theorem exec_retryGapExpiry_waits {s : State} (hfailed : (s.port s.arg.idx).failed = false)
    (h : (s.port s.arg.idx).gap = false ∨ (s.port s.arg.idx).gapAge < Config.gapWait.toNat) :
    exec .retryGapExpiry s = .next (s.updPort s.arg.idx fun _ => s.port s.arg.idx) := by
  refine congrArg Host.Outcome.next (updPort_eq (if_neg ?_))
  rw [hfailed, Bool.false_or, Bool.and_eq_true, decide_eq_true_eq, not_and_or, Bool.not_eq_true, Nat.not_le]
  exact h

/-- The flits before the one that a retry request names have been accepted. -/
theorem exec_retryRequest_accepted {s : State} {f : Flit} {fs : List Flit} (hretry : (s.port s.arg.idx).retry = f :: fs)
    (hd : (s.arg.a % 65536 + 65536 - f.seq) % 65536 ≤ (s.port s.arg.idx).retry.length) : exec .retryRequest s =
    .next (((s.updPort s.arg.idx fun _ => { s.port s.arg.idx with
      retry := (s.port s.arg.idx).retry.drop ((s.arg.a % 65536 + 65536 - f.seq) % 65536)
      unacked := (s.port s.arg.idx).unacked.drop (((s.port s.arg.idx).retry.take ((s.arg.a % 65536 + 65536 - f.seq) % 65536)).filter
        (·.last)).length }).countDie (s.arg.idx / 18) 7 16 1).pump s.arg.idx) := by
  refine congrArg (fun u : State => Host.Outcome.next ((u.countDie (s.arg.idx / 18) 7 16 1).pump s.arg.idx)) (updPort_eq ?_)
  unfold Port.ackTo
  rw [hretry] at hd ⊢
  exact if_neg (Nat.not_lt.mpr hd)

/-! ### Flits that arrive (R359, R360) -/

/-- The flit that FLIT_RECEIVE brings. -/
def State.newFlit (s : State) : Flit := { seq := s.arg.a % 65536, last := s.arg.b == 1, bits := s.arg.data }

/-- How far ahead of the next expected flit it is. -/
def State.flitAhead (s : State) : Nat := (s.arg.a % 65536 + 65536 - (s.port s.arg.idx).rxSeq) % 65536

theorem exec_flitReceive_down {s : State} (h : s.portUp s.arg.idx = false) : exec .flitReceive s = .next s := by
  refine congrArg Host.Outcome.next (if_pos ?_)
  rw [h]
  rfl

section
variable {s : State} (hup : s.portUp s.arg.idx = true) (hue : (s.port s.arg.idx).ue = false)
include hup hue

theorem exec_flitReceive_failed (hslot : s.arg.slot = 1) :
    exec .flitReceive s = .next (s.updPort s.arg.idx fun _ => { s.port s.arg.idx with failed := true }) := by
  show Host.Outcome.next s.flitIn = _
  unfold State.flitIn
  dsimp only
  rw [if_neg (by rw [hup, hue]; decide), if_pos hslot]
  exact congrArg Host.Outcome.next (updPort_eq rfl)

variable (hslot : s.arg.slot ≠ 1) (hcore : s.arg.core = 0)
include hslot hcore

theorem exec_flitReceive_taken : exec .flitReceive s = .next (((s.port s.arg.idx).flit s.newFlit).2.foldl
    (fun s' bs => s'.portPacket s.arg.idx bs) (s.updPort s.arg.idx fun _ => ((s.port s.arg.idx).flit s.newFlit).1)) := by
  show Host.Outcome.next s.flitIn = _
  unfold State.flitIn
  dsimp only
  rw [if_neg (by rw [hup, hue]; decide), if_neg hslot, if_pos hcore]
  rfl

/-- A flit ahead of its turn is held. -/
theorem exec_flitReceive_held (hahead : 0 < s.flitAhead) (hwindow : s.flitAhead < 256) :
    exec .flitReceive s = .next (s.updPort s.arg.idx fun _ => { s.port s.arg.idx with
      window := ((s.port s.arg.idx).window.filter (·.seq != s.newFlit.seq)) ++ [s.newFlit], gap := true }) := by
  have hflit : (s.port s.arg.idx).flit s.newFlit = ({ s.port s.arg.idx with
      window := ((s.port s.arg.idx).window.filter (·.seq != s.newFlit.seq)) ++ [s.newFlit], gap := true }, []) :=
    (if_neg (Nat.ne_of_gt hahead)).trans (if_pos hwindow)
  rw [exec_flitReceive_taken hup hue hslot hcore, hflit]
  rfl

/-- A flit behind is discarded. -/
theorem exec_flitReceive_behind (hbehind : 256 ≤ s.flitAhead) :
    exec .flitReceive s = .next (s.updPort s.arg.idx fun _ => s.port s.arg.idx) := by
  have hflit : (s.port s.arg.idx).flit s.newFlit = (s.port s.arg.idx, []) :=
    (if_neg (Nat.ne_of_gt (Nat.lt_of_lt_of_le (by decide) hbehind))).trans (if_neg (Nat.not_lt.mpr hbehind))
  rw [exec_flitReceive_taken hup hue hslot hcore, hflit]
  rfl

/-- The port once it has accepted the flit, with no flit held. -/
def State.accepting (s : State) : Port :=
  { s.port s.arg.idx with
    rxSeq := ((s.port s.arg.idx).rxSeq + 1) % 65536, part := if s.newFlit.last then [] else (s.port s.arg.idx).part ++ s.arg.data
    window := [], gap := false, gapAge := 0, wantRetry := none }

omit hup hue hslot hcore in
theorem flit_next (hnext : s.flitAhead = 0) (hseq : (s.port s.arg.idx).rxSeq < 65536) (hwindow : (s.port s.arg.idx).window = []) :
    (s.port s.arg.idx).flit s.newFlit = (s.accepting, if s.newFlit.last then [(s.port s.arg.idx).part ++ s.arg.data] else []) := by
  have hnum : s.arg.a % 65536 = (s.port s.arg.idx).rxSeq := by
    rw [State.flitAhead] at hnext
    omega
  refine (if_pos hnext).trans ?_
  simp only [Port.acceptGo, hwindow, State.newFlit, hnum, State.accepting]
  rfl

variable (hnext : s.flitAhead = 0) (hseq : (s.port s.arg.idx).rxSeq < 65536) (hwindow : (s.port s.arg.idx).window = [])
include hnext hseq hwindow

theorem exec_flitReceive_more (hb : s.arg.b ≠ 1) : exec .flitReceive s = .next (s.updPort s.arg.idx fun _ => s.accepting) := by
  have hlast : s.newFlit.last = false := beq_false_of_ne hb
  rw [exec_flitReceive_taken hup hue hslot hcore, flit_next hnext hseq hwindow, hlast]
  rfl

theorem exec_flitReceive_last (hb : s.arg.b = 1) : exec .flitReceive s =
    .next ((s.updPort s.arg.idx fun _ => s.accepting).portPacket s.arg.idx ((s.port s.arg.idx).part ++ s.arg.data)) := by
  have hlast : s.newFlit.last = true := beq_iff_eq.mpr hb
  rw [exec_flitReceive_taken hup hue hslot hcore, flit_next hnext hseq hwindow, hlast]
  rfl

end

end Sys2Proof.Machine

/-! Packets that arrive, and the contexts at their targets and sources (spec/27_fabric.md R446 to R452). -/

namespace Sys2Proof.Machine

open Sys2Proof

/-! ### Bytes as their home gives them (R453) -/

theorem homeByte_eq (s : State) (b : Nat) :
    s.homeByte b = if b / 4 ∈ s.swOwned then Config.farByte b s.nextId else rd8 s.mem b := by
  simp only [State.homeByte, List.contains_iff_mem]

theorem rdBytes_eq_map (m : List Host.Cell) (a n : Nat) : rdBytes m a n = (List.range n).map fun i => rd8 m (a + i) := by
  induction n generalizing a with
  | zero => rfl
  | succ n ih =>
    rw [rdBytes, ih, List.range_succ_eq_map, List.map_cons, List.map_map]
    simp only [Function.comp_def, Nat.add_zero, Nat.succ_eq_add_one, Nat.add_assoc, Nat.add_comm 1]

theorem homeN_eq (s : State) (a n : Nat) : s.homeN a n = leNat ((List.range n).map fun i => s.homeByte (a + i)) := by
  unfold State.homeN
  split
  · next hnone =>
    rw [List.isEmpty_iff] at hnone
    simp only [State.rdN, rdBytes_eq_map, homeByte_eq, hnone, List.not_mem_nil, if_false]
  · rfl

theorem leBytes_homeN (s : State) (a n : Nat) : leBytes n (s.homeN a n) = (List.range n).map fun i => s.homeByte (a + i) := by
  have hbytes := leBytes_leNat ((List.range n).map fun i => s.homeByte (a + i))
  rw [List.length_map, List.length_range] at hbytes
  rw [homeN_eq, hbytes]

/-! ### What a request does at its target (R323, R447 to R449) -/

section
variable {s : State} {p : Packet} (part : List Byte)

theorem applyRequest_refused {k : Nat} (hk : k = if p.kind = 0 then p.arg % 4097 else p.data.length) (hkind : p.kind < 4)
    (hsys : s.meetsSys p.addr k = true) : s.applyRequest p part = (s, [], true) := by
  subst hk
  exact if_pos ⟨hkind, hsys⟩

theorem applyRequest_message (hkind : p.kind = 5) :
    s.applyRequest p part = (if bitOf p.arg 16 then s else s.messageIn p (part ++ p.data), [], false) := by
  unfold State.applyRequest
  rw [hkind]
  exact if_neg fun h => absurd h.1 (by decide)

section
variable (hkind : p.kind = 0) (hsys : s.meetsSys p.addr (p.arg % 4097) = false)
include hkind hsys

theorem applyRequest_read : s.applyRequest p part = if s.bad p.addr (p.arg % 4097) then (s, [], true) else
    (s.countHbm p.addr 2 p.tenant (p.arg % 4097), (List.range (p.arg % 4097)).map (fun i => s.homeByte (p.addr + i)), false) := by
  unfold State.applyRequest
  rw [hkind]
  dsimp only
  rw [if_neg (by rw [if_pos rfl, hsys]; decide), leBytes_homeN]
  rfl

end

variable (hsys : s.meetsSys p.addr p.data.length = false)
include hsys

theorem applyRequest_store (hkind : p.kind = 1) : (s.applyRequest p part).1 = (s.homePart p.tenant p.addr p.addr
    (mergeBytes p.bmask p.data ((List.range p.data.length).map fun i => s.homeByte (p.addr + i)))).1 := by
  rw [← leBytes_homeN]
  unfold State.applyRequest
  rw [hkind]
  dsimp only
  rw [if_neg (by rw [if_neg (by decide), hsys]; decide)]
  rfl

theorem applyRequest_atomic (hkind : p.kind = 2) (hcas : bitOf p.opn 4 = false) (hgood : s.bad p.addr p.data.length = false) :
    s.applyRequest p part =
    ((s.homePart p.tenant p.addr p.addr (leBytes p.data.length (atomicNew (p.opn % 16) p.data.length (bitOf p.opn 5)
        (leNat ((List.range p.data.length).map fun i => s.homeByte (p.addr + i))) (leNat p.data)))).1,
      (List.range p.data.length).map fun i => s.homeByte (p.addr + i),
      !(s.homePart p.tenant p.addr p.addr (leBytes p.data.length (atomicNew (p.opn % 16) p.data.length (bitOf p.opn 5)
        (leNat ((List.range p.data.length).map fun i => s.homeByte (p.addr + i))) (leNat p.data)))).2) := by
  rw [← homeN_eq, ← leBytes_homeN]
  unfold State.applyRequest
  rw [hkind]
  dsimp only
  rw [if_neg (by rw [if_neg (by decide), hsys]; decide)]
  simp only [hcas, hgood, List.take_length, Bool.false_eq_true, if_false, Bool.false_and]

theorem applyRequest_chunk (hkind : p.kind = 3) : s.applyRequest p part = (s.engineWrite p.tenant p.addr p.addr p.data, [], false) := by
  unfold State.applyRequest
  rw [hkind]
  exact if_neg (by rw [if_neg (by decide), hsys]; decide)

end

/-! ### Arrivals (R446, R448) -/

/-- The packet that an arrival brings. -/
def State.brought (s : State) : Packet := packetOf s.arg.data

/-- The events that bring a packet. -/
def arrivalInstrs : List Instr := [.fabricRequestArrival, .fabricReplyArrival, .acknowledgement, .contextClose]

theorem exec_arrival_bad {s : State} (hbad : packetBad s.arg.data = true) {e : Instr} (he : e ∈ arrivalInstrs) :
    exec e s = .next (s.updPort s.arg.idx fun x => { x with discards := x.discards + 1 }) := by
  simp only [arrivalInstrs, List.mem_cons, List.not_mem_nil, or_false] at he
  rcases he with rfl | rfl | rfl | rfl
  all_goals exact congrArg Host.Outcome.next (if_pos hbad)

section
variable {s : State} (hgood : packetBad s.arg.data = false) (hdst : s.brought.dst = s.dev)
include hgood

theorem packetIn_good (kinds : Nat → Bool) (hkind : kinds s.brought.kind = true) :
    s.packetIn s.arg.data kinds = s.deliver s.brought :=
  (if_neg (by rw [hgood]; decide)).trans (if_pos hkind)

include hdst

theorem exec_fabricRequestArrival_here (hkind : s.brought.kind ≤ 5) :
    exec .fabricRequestArrival s = .next (s.requestIn s.brought) := by
  show Host.Outcome.next (s.packetIn s.arg.data _) = _
  rw [packetIn_good hgood _ (decide_eq_true hkind)]
  exact congrArg Host.Outcome.next ((if_neg (not_not.mpr hdst)).trans (if_pos hkind))

omit hgood in
theorem deliver_reply (hkind : 5 < s.brought.kind) : s.deliver s.brought = match s.brought.kind with
    | 6 => s.replyIn s.brought
    | 7 => s.ackIn s.brought
    | 8 => s.closeIn s.brought
    | 9 => s.coherenceIn s.brought
    | _ => s.resultIn s.brought :=
  (if_neg (not_not.mpr hdst)).trans (if_neg (Nat.not_le.mpr hkind))

theorem exec_fabricReplyArrival_here (hkind : s.brought.kind = 6) : exec .fabricReplyArrival s = .next (s.replyIn s.brought) := by
  show Host.Outcome.next (s.packetIn s.arg.data _) = _
  rw [packetIn_good hgood (fun k => k == 6) (beq_iff_eq.mpr hkind), deliver_reply hdst (by rw [hkind]; decide), hkind]
  rfl

theorem exec_acknowledgement_here (hkind : s.brought.kind = 7) : exec .acknowledgement s = .next (s.ackIn s.brought) := by
  show Host.Outcome.next (s.packetIn s.arg.data _) = _
  rw [packetIn_good hgood (fun k => k == 7) (beq_iff_eq.mpr hkind), deliver_reply hdst (by rw [hkind]; decide), hkind]
  rfl

theorem exec_contextClose_here (hkind : s.brought.kind = 8) : exec .contextClose s = .next (s.closeIn s.brought) := by
  show Host.Outcome.next (s.packetIn s.arg.data _) = _
  rw [packetIn_good hgood (fun k => k == 8) (beq_iff_eq.mpr hkind), deliver_reply hdst (by rw [hkind]; decide), hkind]
  rfl

end

/-! ### Requests in the order of their SEQ (R448, R449) -/

section
variable {s : State} {p : Packet} {t : Target} (ht : s.target? p.src p.ctx = some t)

/-- How far a request is ahead of the next that its context takes. -/
def Target.ahead (t : Target) (p : Packet) : Nat := (p.seq + 2 ^ 32 - t.next % 2 ^ 32) % 2 ^ 32

include ht

/-- The next request is applied, and its reply kept and sent. -/
theorem takeRequest_eq : s.takeRequest p =
    ((s.applyRequest p t.part).1.updTarget p.src p.ctx fun x =>
      { x with next := x.next + 1
               replies := x.replies ++ [(p.seq,
                 replyTo (s.applyRequest p t.part).1.dev p (s.applyRequest p t.part).2.1 (s.applyRequest p t.part).2.2)]
               part := if p.kind == 5 && bitOf p.arg 16 then x.part ++ p.data else [] }).transmit
      (replyTo (s.applyRequest p t.part).1.dev p (s.applyRequest p t.part).2.1 (s.applyRequest p t.part).2.2) := by
  unfold State.takeRequest
  rw [ht]

theorem requestIn_eq : s.requestIn p =
    if t.ahead p = 0 then State.takeEarly p.src p.ctx t.early.length (s.takeRequest p)
    else if t.ahead p < 2 ^ 31 then
      if t.early.any (·.seq == p.seq) || decide (256 ≤ t.early.length) then s
      else s.updTarget p.src p.ctx fun t => { t with early := t.early ++ [p] }
    else match t.replies.find? (·.1 == p.seq) with
      | none => s
      | some r => s.transmit r.2 := by
  unfold State.requestIn
  rw [if_pos (by rw [ht]; rfl)]
  dsimp only
  rw [ht]
  rfl

theorem requestIn_next (hd : t.ahead p = 0) (hearly : t.early = []) : s.requestIn p = s.takeRequest p := by
  rw [requestIn_eq ht, if_pos hd, hearly]
  rfl

theorem requestIn_early (hlo : 0 < t.ahead p) (hhi : t.ahead p < 2 ^ 31) (hnew : t.early.any (·.seq == p.seq) = false)
    (hroom : t.early.length < 256) : s.requestIn p = s.updTarget p.src p.ctx fun t => { t with early := t.early ++ [p] } := by
  rw [requestIn_eq ht, if_neg (Nat.ne_of_gt hlo), if_pos hhi,
    if_neg (by rw [hnew, Bool.false_or, decide_eq_true_eq]; exact Nat.not_le.mpr hroom)]

theorem requestIn_replayed (hd : 2 ^ 31 ≤ t.ahead p) {q : Nat × Packet} (hq : t.replies.find? (·.1 == p.seq) = some q) :
    s.requestIn p = s.transmit q.2 := by
  rw [requestIn_eq ht, if_neg (Nat.ne_of_gt (Nat.lt_of_lt_of_le (by decide) hd)), if_neg (Nat.not_lt.mpr hd), hq]

end

/-! ### Acknowledgements and closes (R452) -/

/-- To change some of a list's members and then drop some of these. -/
theorem filter_map_ite {α : Type} (l : List α) (p : α → Prop) [DecidablePred p] (f : α → α) (drop : α → Bool)
    (hf : ∀ x, p x → p (f x)) :
    (l.map fun x => if p x then f x else x).filter (fun x => !(decide (p x) && drop x))
      = l.filterMap fun x => if p x then (if drop (f x) then none else some (f x)) else some x := by
  rw [List.filter_map, ← List.filterMap_eq_map, List.filterMap_filter]
  congr 1
  funext x
  by_cases hp : p x
  · cases hd : drop (f x) <;> simp [hp, hf x hp, hd]
  · simp [hp]

theorem target_is (t : Target) (src ctx : Nat) : t.is src ctx = decide (t.src = src ∧ t.ctx = ctx) := by
  rw [Target.is, Bool.decide_and]
  rfl

theorem ackIn_eq (s : State) (p : Packet) : s.ackIn p = { s with targets := s.targets.filterMap fun t =>
    let kept := t.replies.filter fun r => !decide ((p.arg + 2 ^ 32 - r.1) % 2 ^ 32 < 2 ^ 31)
    if t.src = p.src ∧ t.ctx = p.ctx then (if t.closing ∧ kept = [] then none else some { t with replies := kept }) else some t } := by
  have hlist := filter_map_ite s.targets (fun t => t.src = p.src ∧ t.ctx = p.ctx)
    (fun t => { t with replies := t.replies.filter fun r => !decide ((p.arg + 2 ^ 32 - r.1) % 2 ^ 32 < 2 ^ 31) })
    (fun t => t.closing && t.replies.isEmpty) fun _ h => h
  simp only [Bool.and_eq_true, List.isEmpty_iff] at hlist
  rw [← hlist]
  simp only [State.ackIn, State.updTarget, target_is, decide_eq_true_eq, Bool.and_assoc]

theorem closeIn_eq (s : State) (p : Packet) : s.closeIn p = { s with targets := s.targets.filterMap fun t =>
    if t.src = p.src ∧ t.ctx = p.ctx then (if t.replies = [] then none else some { t with closing := true }) else some t } := by
  have hlist := filter_map_ite s.targets (fun t => t.src = p.src ∧ t.ctx = p.ctx) (fun t => { t with closing := true })
    (fun t => t.replies.isEmpty) fun _ h => h
  simp only [List.isEmpty_iff] at hlist
  rw [← hlist]
  simp only [State.closeIn, State.updTarget, target_is, decide_eq_true_eq]

/-! ### Replies (R449) -/

section
variable {s : State} {p : Packet} {x : Ctx} (hx : (s.ctxs.find? fun x => x.ctx == p.ctx && x.dest == p.src) = some x)
include hx

/-- A reply that has taken effect is acknowledged once more. -/
theorem replyIn_old (hold : x.acked ≠ 0 ∧ (x.acked - 1 + 2 ^ 32 - p.seq) % 2 ^ 32 < 2 ^ 31) : s.replyIn p =
    (s.updCtx x.core x.tenant x.dest fun y => { y with idle := 0 }).control x 7 ((x.acked - 1) % 2 ^ 32) := by
  unfold State.replyIn
  rw [hx]
  exact if_pos hold

theorem replyIn_new (hnew : ¬ (x.acked ≠ 0 ∧ (x.acked - 1 + 2 ^ 32 - p.seq) % 2 ^ 32 < 2 ^ 31)) : s.replyIn p =
    let y := { x with reqs := x.reqs.map fun r => if r.seq % 2 ^ 32 = p.seq ∧ !r.replied then
      { r with replied := true, data := p.data, err := p.opn != 0 } else r }
    (s.updCtx x.core x.tenant x.dest fun _ => y).finishReplies y := by
  unfold State.replyIn
  rw [hx]
  exact if_neg hnew

end

/-! ### Contexts that are quiet, and requests that wait too long (R449, R450, R452) -/

section
variable {s : State} {x : Ctx} (hx : s.ctxs[s.arg.idx]? = some x)
include hx

theorem exec_contextQuietExpiry_closes (hreqs : x.reqs = []) (hacked : x.acked = x.next) (hidle : (s.die x.die).fquiet ≤ x.idle)
    (hheld : s.ackHeld x = false) : exec .contextQuietExpiry s = .next ((if x.acked = 0 then
      ({ s with ctxs := s.ctxs.eraseIdx s.arg.idx } : State) else
      ({ s with ctxs := s.ctxs.eraseIdx s.arg.idx } : State).control x 7 ((x.acked - 1) % 2 ^ 32)).control x 8 0) := by
  show Host.Outcome.next (s.quietExpiry s.arg.idx) = _
  unfold State.quietExpiry
  rw [hx]
  dsimp only
  rw [if_pos ⟨List.isEmpty_iff.mpr hreqs, hacked, hidle, by rw [hheld]; rfl⟩]

theorem exec_contextQuietExpiry_waits (h : x.reqs ≠ [] ∨ x.acked ≠ x.next ∨ x.idle < (s.die x.die).fquiet ∨ s.ackHeld x = true) :
    exec .contextQuietExpiry s = .next s := by
  show Host.Outcome.next (s.quietExpiry s.arg.idx) = _
  unfold State.quietExpiry
  rw [hx]
  dsimp only
  refine congrArg Host.Outcome.next (if_neg fun ⟨hreqs, hacked, hidle, hheld⟩ => ?_)
  rcases h with h | h | h | h
  · exact h (List.isEmpty_iff.mp hreqs)
  · exact h hacked
  · exact Nat.not_lt.mpr hidle h
  · rw [h] at hheld
    exact absurd hheld (by decide)

/-- A port of a plane carries Mbovas packets. -/
def State.planeUp (s : State) (n : Nat) : Bool := s.portUp n && !(s.port n).ue

omit hx in
theorem planeUp_iff (s : State) (n : Nat) : s.planeUp n = true ↔ s.portUp n = true ∧ (s.port n).ue = false := by
  rw [State.planeUp, Bool.and_eq_true, Bool.not_eq_true']

variable {r : Request} (hr : (x.reqs.find? fun r => r.seq == s.arg.a && !r.replied) = some r)
include hr

theorem exec_fabricReplayTimeout_early (h : r.timer < (s.die x.die).freplay) : exec .fabricReplayTimeout s = .next s := by
  show Host.Outcome.next (s.replayTimeout s.arg.idx s.arg.a) = _
  unfold State.replayTimeout
  rw [hx]
  dsimp only
  rw [hr]
  exact congrArg Host.Outcome.next (if_pos h)

variable (hdue : (s.die x.die).freplay ≤ r.timer)
include hdue

theorem exec_fabricReplayTimeout_again (h : r.sends ≤ (s.die x.die).freplays) : exec .fabricReplayTimeout s =
    .next ((s.updCtx x.core x.tenant x.dest fun x => { x with idle := 0, reqs := x.reqs.map fun q =>
      if q.seq = s.arg.a then { q with sends := q.sends + 1, timer := 0 } else q }).transmit r.pkt) := by
  show Host.Outcome.next (s.replayTimeout s.arg.idx s.arg.a) = _
  unfold State.replayTimeout
  rw [hx]
  dsimp only
  rw [hr]
  exact congrArg Host.Outcome.next ((if_neg (Nat.not_lt.mpr hdue)).trans (if_pos (Nat.lt_succ_of_le h)))

variable (hlimit : (s.die x.die).freplays < r.sends)
include hlimit

theorem exec_fabricReplayTimeout_limit : exec .fabricReplayTimeout s =
    .next (if (match s.portFor r.pkt with | none => false | some n => s.planeUp n) || !s.planes.any s.planeUp then s.loseDevice x.dest
    else
      let y := { x with reqs := x.reqs.map fun q => if q.seq = s.arg.a then { q with replied := true, err := true } else q }
      (s.updCtx x.core x.tenant x.dest fun _ => y).finishReplies y) := by
  show Host.Outcome.next (s.replayTimeout s.arg.idx s.arg.a) = _
  unfold State.replayTimeout
  rw [hx]
  dsimp only
  rw [hr]
  exact congrArg Host.Outcome.next ((if_neg (Nat.not_lt.mpr hdue)).trans (if_neg (Nat.not_lt.mpr hlimit)))

/-- Its own plane's port is up: the device is lost. -/
theorem exec_fabricReplayTimeout_up {n : Nat} (hport : s.portFor r.pkt = some n) (hup : s.planeUp n = true) :
    exec .fabricReplayTimeout s = .next (s.loseDevice x.dest) := by
  rw [exec_fabricReplayTimeout_limit hx hr hdue hlimit, hport]
  exact congrArg Host.Outcome.next (if_pos (by dsimp only; rw [hup, Bool.true_or]))

/-- No plane's port is up: the device is lost. -/
theorem exec_fabricReplayTimeout_noPlane (hdown : ∀ n ∈ s.planes, ¬ s.planeUp n = true) :
    exec .fabricReplayTimeout s = .next (s.loseDevice x.dest) := by
  have hany : s.planes.any s.planeUp = false := List.any_eq_false.mpr hdown
  rw [exec_fabricReplayTimeout_limit hx hr hdue hlimit, hany, Bool.not_false, Bool.or_true]
  rfl

/-- Its own plane's port alone is down: the request fails. -/
theorem exec_fabricReplayTimeout_down {n m : Nat} (hport : s.portFor r.pkt = some n) (hdown : ¬ s.planeUp n = true) (hm : m ∈ s.planes)
    (hup : s.planeUp m = true) : exec .fabricReplayTimeout s = .next
      (let y := { x with reqs := x.reqs.map fun q => if q.seq = s.arg.a then { q with replied := true, err := true } else q }
      (s.updCtx x.core x.tenant x.dest fun _ => y).finishReplies y) := by
  have hany : s.planes.any s.planeUp = true := List.any_eq_true.mpr ⟨m, hm, hup⟩
  rw [Bool.not_eq_true] at hdown
  rw [exec_fabricReplayTimeout_limit hx hr hdue hlimit, hport, hany]
  exact congrArg Host.Outcome.next (if_neg (by dsimp only; rw [hdown]; decide))

end

end Sys2Proof.Machine

/-! What is lost, and what an endpoint of Ultra Ethernet may do (spec/27_fabric.md R450, R454, R455; spec/21_collectives.md R383). -/

namespace Sys2Proof.Machine

open Sys2Proof

/-! ### Lost devices and dies (R383, R450) -/

theorem loseDevice_lost {s : State} {d : Nat} (h : s.lost.contains d = true) : s.loseDevice d = s := if_pos h

/-- A processor is told that its collective ends, where it is one of those. -/
def Clear.toldOf (st : Nat) (p : Coll → Bool) (c : Clear) : Clear :=
  match c.coll with
  | none => c
  | some x => if p x && c.gone.isNone then { c with gone := some st } else c

/-- The processors of a die are told. -/
def Die.toldOf (st : Nat) (p : Coll → Bool) (k : Die) : Die := { k with procs := k.procs.map fun q => (q.1, q.2.toldOf st p) }

theorem dies_mark (s : State) (st : Nat) (p : Coll → Bool) : (s.mark st p).dies = s.dies.map fun y => (y.1, y.2.toldOf st p) := by
  unfold State.mark Die.toldOf Clear.toldOf
  rfl

theorem die_mark (s : State) (st : Nat) (p : Coll → Bool) (d : Nat) : (s.mark st p).die d = (s.die d).toldOf st p := by
  rw [State.die, dies_mark]
  exact fget_map_val _ _ _ _ rfl

theorem loseMembers_keeps (s : State) (p : Nat × Nat → Bool) (d : Nat) :
    (s.loseMembers p).mem = s.mem ∧ ((s.loseMembers p).die d).answers = (s.die d).answers
    ∧ ((s.loseMembers p).die d).halted = (s.die d).halted := by
  have hdie : (s.loseMembers p).die d = (s.die d).toldOf stLost _ := die_mark s stLost _ d
  rw [hdie]
  exact ⟨rfl, rfl, rfl⟩

theorem groups_loseMembers (s : State) (m : Nat × Nat) : (s.loseMembers fun y => y == m).groups
    = s.groups.map fun g => if g.members.contains m then { g with lost := true } else g := by
  show s.groups.map _ = _
  simp only [List.any_beq']

/-- A die of this device stops answering. -/
theorem exec_dieStopsAnswering_own {s : State} (hidx : s.arg.idx = 0) : ∃ t : State, exec .dieStopsAnswering s = .next t
    ∧ (t.die s.arg.core).answers = false ∧ t.mem = s.mem ∧ (s.arg.b = 1 → (t.die s.arg.core).halted = true)
    ∧ t.groups = s.groups.map fun g => if g.members.contains (s.dev, s.arg.core) then { g with lost := true } else g := by
  obtain ⟨hmem, hans, hhalt⟩ := loseMembers_keeps
    (s.updDie s.arg.core fun k => { k with answers := false, halted := k.halted || s.arg.b == 1 }) (· == (s.dev, s.arg.core)) s.arg.core
  rw [die_updDie] at hans hhalt
  refine ⟨_, congrArg Host.Outcome.next (if_pos hidx), hans, hmem, fun hb => hhalt.trans ?_, groups_loseMembers _ _⟩
  rw [hb]
  exact Bool.or_true _

/-- The fabric tells of a die of another device. -/
theorem exec_dieStopsAnswering_far {s : State} (hidx : s.arg.idx ≠ 0) : ∃ t : State, exec .dieStopsAnswering s = .next t
    ∧ t.mem = s.mem
    ∧ t.groups = s.groups.map fun g => if g.members.contains (s.arg.idx - 1, s.arg.core) then { g with lost := true } else g :=
  ⟨_, congrArg Host.Outcome.next (if_neg hidx), (loseMembers_keeps s _ 0).1, groups_loseMembers _ _⟩

/-! ### The endpoints of Ultra Ethernet (R454, R455) -/

/-- The events at a port of Ultra Ethernet. -/
def ueInstrs : List Instr := [.ueRmaWrite, .ueQueueAdvance, .ueRewardSend, .ueUnsupportedRequest]

theorem exec_ue_down {s : State} (h : s.ueUp s.arg.idx = false) {e : Instr} (he : e ∈ ueInstrs) : exec e s = .next s := by
  have hdown : (!s.ueUp s.arg.idx) = true := by rw [h]; rfl
  simp only [ueInstrs, List.mem_cons, List.not_mem_nil, or_false] at he
  rcases he with rfl | rfl | rfl | rfl
  · exact congrArg Host.Outcome.next (if_pos hdown)
  · exact congrArg Host.Outcome.next (if_pos hdown)
  · exact congrArg Host.Outcome.next (if_pos hdown)
  · exact congrArg Host.Outcome.next (if_neg (by rw [h]; decide))

/-- A window of the port's memory endpoint holds n bytes at the event's address, outside the system cores' range. -/
def State.ueHolds (s : State) (n : Nat) : Prop :=
  (∃ w ∈ s.ueWins, w.1 = s.arg.idx ∧ w.2.1 ≤ s.arg.a ∧ s.arg.a + n ≤ w.2.1 + w.2.2) ∧ s.meetsSys s.arg.a n = false

section
variable {s : State} (hup : s.ueUp s.arg.idx = true)
include hup

theorem not_ueUp : ¬ (!s.ueUp s.arg.idx) = true := by
  rw [hup]
  decide

theorem ueWindow_eq (n : Nat) [Decidable (s.ueHolds n)] :
    s.ueWindow s.arg.idx s.arg.a n = if s.ueHolds n then s.endpoint (144 + s.arg.idx) else none := by
  refine if_congr ?_ rfl rfl
  simp only [hup, State.ueHolds, Bool.true_and, Bool.and_eq_true, List.any_eq_true, beq_iff_eq, decide_eq_true_eq, Bool.not_eq_true']

theorem ueWindow_none {n : Nat} (h : ¬ s.ueHolds n ∨ s.endpoint (144 + s.arg.idx) = none) :
    s.ueWindow s.arg.idx s.arg.a n = none := by
  classical
  rw [ueWindow_eq hup]
  split
  · next hholds => exact h.resolve_left (not_not.mpr hholds)
  · rfl

theorem ueWindow_some {n t : Nat} (h : s.ueHolds n) (ht : s.endpoint (144 + s.arg.idx) = some t) :
    s.ueWindow s.arg.idx s.arg.a n = some t := by
  classical
  rw [ueWindow_eq hup, if_pos h, ht]

theorem exec_ueRmaWrite_holds {t : Nat} (h : s.ueHolds s.arg.data.length) (ht : s.endpoint (144 + s.arg.idx) = some t) :
    exec .ueRmaWrite s = .next ((s.engineWrite t s.arg.a s.arg.a s.arg.data).complete s.arg.idx false []) := by
  refine congrArg Host.Outcome.next ((if_neg (not_ueUp hup)).trans ?_)
  rw [ueWindow_some hup h ht]

theorem exec_ueRmaWrite_refused (h : ¬ s.ueHolds s.arg.data.length ∨ s.endpoint (144 + s.arg.idx) = none) :
    exec .ueRmaWrite s = .next (s.complete s.arg.idx true []) := by
  refine congrArg Host.Outcome.next ((if_neg (not_ueUp hup)).trans ?_)
  rw [ueWindow_none hup h]

theorem ueRead_holds {t n : Nat} (h : s.ueHolds n) (ht : s.endpoint (144 + s.arg.idx) = some t) (hgood : s.bad s.arg.a n = false) :
    s.ueRead s.arg.idx s.arg.a n
      = (s.countRead s.arg.a t n).complete s.arg.idx false ((List.range n).map fun k => s.homeByte (s.arg.a + k)) := by
  refine (if_neg (not_ueUp hup)).trans ?_
  rw [ueWindow_some hup h ht, ← leBytes_homeN]
  exact if_neg (by rw [hgood]; decide)

theorem ueRead_refused {n : Nat} (h : ¬ s.ueHolds n ∨ s.endpoint (144 + s.arg.idx) = none) :
    s.ueRead s.arg.idx s.arg.a n = s.complete s.arg.idx true [] := by
  refine (if_neg (not_ueUp hup)).trans ?_
  rw [ueWindow_none hup h]

theorem exec_ueUnsupportedRequest_up : exec .ueUnsupportedRequest s = .next (s.complete s.arg.idx true []) :=
  congrArg Host.Outcome.next (if_pos hup)

/-! A queue advance is 16 bytes that name a queue. -/

theorem exec_ueQueueAdvance_bound {t : Nat} (ht : s.endpoint (72 + s.arg.idx) = some t) :
    exec .ueQueueAdvance s = .next (s.queueAdvance s.arg.idx t s.arg.data) := by
  refine congrArg Host.Outcome.next ((if_neg (not_ueUp hup)).trans ?_)
  rw [ht]

theorem exec_ueQueueAdvance_unbound (ht : s.endpoint (72 + s.arg.idx) = none) :
    exec .ueQueueAdvance s = .next (s.dropAt s.arg.idx) := by
  refine congrArg Host.Outcome.next ((if_neg (not_ueUp hup)).trans ?_)
  rw [ht]

theorem exec_ueQueueAdvance_named {t : Nat} (ht : s.endpoint (72 + s.arg.idx) = some t) (hlen : s.arg.data.length = 16)
    (hq : leNat s.arg.data < 32) : exec .ueQueueAdvance s = .next (s.readTail t (leNat s.arg.data)) := by
  rw [exec_ueQueueAdvance_bound hup ht]
  exact congrArg Host.Outcome.next (if_neg fun h => h.elim (fun h => h hlen) (Nat.not_le.mpr hq))

theorem exec_ueQueueAdvance_malformed {t : Nat} (ht : s.endpoint (72 + s.arg.idx) = some t)
    (h : s.arg.data.length ≠ 16 ∨ 32 ≤ leNat s.arg.data) : exec .ueQueueAdvance s = .next (s.dropAt s.arg.idx) := by
  rw [exec_ueQueueAdvance_bound hup ht]
  exact congrArg Host.Outcome.next (if_pos h)

/-! Rewards are 1 to 170 messages of 24 bytes. -/

theorem exec_ueRewardSend_malformed (h : s.arg.data.length % 24 ≠ 0 ∨ s.arg.data = [] ∨ 170 * 24 < s.arg.data.length) :
    exec .ueRewardSend s = .next (s.dropAt s.arg.idx) := by
  refine congrArg Host.Outcome.next ((if_neg (not_ueUp hup)).trans (if_pos ?_))
  rw [← List.length_eq_zero_iff] at h
  omega

theorem exec_ueRewardSend_whole {n : Nat} (hlen : s.arg.data.length = 24 * n) (hlo : 1 ≤ n) (hhi : n ≤ 170) :
    exec .ueRewardSend s = .next (match s.endpoint s.arg.idx with
      | none => s.dropAt s.arg.idx
      | some t => s.rewardsIn t s.arg.data) :=
  congrArg Host.Outcome.next ((if_neg (not_ueUp hup)).trans (if_neg (by omega)))

end

end Sys2Proof.Machine

/-! The events of the fabric and of the Ethernet ports, put together (spec/27_fabric.md). -/

namespace Sys2Proof.Machine

open Sys2Proof

/-- Settles O60: what an event finds at its port, context or endpoint decides which of its lemmas says what it does. -/
theorem fabricEvents : Obligations.FabricEvents := by
  refine ⟨fun s => ⟨fun hen hst hno => portTraining_fails hen hst (trainedLinks_none hno), fun hen hst htrains => ?_,
      exec_portRetrain_on, fun hlink hlive => ⟨linkFailure_moves hlink hlive, linkFailure_last hlink hlive⟩, exec_retryGapExpiry_due,
      exec_retryGapExpiry_waits, fun f fs => exec_retryRequest_accepted, exec_flitReceive_down, fun hup hue =>
        ⟨exec_flitReceive_failed hup hue, fun hslot hcore hseq =>
          ⟨fun hnext hwindow => exec_flitReceive_more hup hue hslot hcore hnext hseq hwindow,
          fun hnext hwindow => exec_flitReceive_last hup hue hslot hcore hnext hseq hwindow, exec_flitReceive_held hup hue hslot hcore,
          fun hbehind => ?_⟩⟩⟩,
    fun s => ⟨fun hbad e he => exec_arrival_bad hbad he, fun hgood hdst => ⟨fun t hkind ht => ⟨fun hd hearly => ?_, fun hlo hhi hnew hroom => ?_,
        fun hd q hq => ?_⟩, fun x hkind hx => ⟨fun hold => ?_, fun hnew => ?_⟩, fun hkind => ?_, fun hkind => ?_⟩⟩,
    fun s p part => ⟨applyRequest_refused part rfl, fun hsys => ⟨fun hkind hgood => ?_, fun hkind hbad => ?_, fun hkind => ?_,
        fun hkind hcas hgood => ?_, fun hkind => ?_⟩, fun hkind hmore => ?_, fun hkind hmore => ?_, homeByte_eq s⟩,
    fun s x hx => ⟨fun hreqs hacked hidle hheld => ⟨fun h0 => ?_, fun h0 => ?_⟩, exec_contextQuietExpiry_waits hx, fun r hr =>
      ⟨exec_fabricReplayTimeout_early hx hr, exec_fabricReplayTimeout_again hx hr, fun hdue hlimit => ⟨fun n hport hup => ?_, fun hdown => ?_,
        fun n hport hdown ⟨m, hm, hup⟩ => ?_⟩⟩⟩,
    fun s => ⟨rfl, loseDevice_lost, exec_dieStopsAnswering_own, exec_dieStopsAnswering_far, fun hdown e he => exec_ue_down hdown he,
      fun hup => ⟨fun t => exec_ueRmaWrite_holds hup, exec_ueRmaWrite_refused hup, fun t n hholds ht hgood => ?_, fun n hno => ?_,
        exec_ueUnsupportedRequest_up hup, fun y hy => ⟨exec_ueQueueAdvance_named hup hy, exec_ueQueueAdvance_malformed hup hy⟩,
        exec_ueQueueAdvance_unbound hup, fun n hlen hlo hhi => ⟨fun y hy => ?_, fun hno => ?_⟩, exec_ueRewardSend_malformed hup⟩⟩⟩
  · obtain ⟨hlive, hplanes⟩ := htrains
    have hlinks := trainedLinks_some hplanes
    have hdone := portTraining_succeeds hen hst (by rwa [hlinks])
    rwa [hlinks] at hdone
  · exact ⟨_, exec_flitReceive_behind hup hue hslot hcore hbehind, port_updPort _ _ _, rfl⟩
  · refine ⟨(exec_fabricRequestArrival_here hgood hdst hkind).trans ?_, rfl, rfl, rfl⟩
    exact congrArg Host.Outcome.next ((requestIn_next ht hd hearly).trans (takeRequest_eq ht))
  · exact (exec_fabricRequestArrival_here hgood hdst hkind).trans (congrArg Host.Outcome.next (requestIn_early ht hlo hhi hnew hroom))
  · exact (exec_fabricRequestArrival_here hgood hdst hkind).trans (congrArg Host.Outcome.next (requestIn_replayed ht hd hq))
  · exact (exec_fabricReplyArrival_here hgood hdst hkind).trans (congrArg Host.Outcome.next (replyIn_old hx hold))
  · exact (exec_fabricReplyArrival_here hgood hdst hkind).trans (congrArg Host.Outcome.next (replyIn_new hx hnew))
  · exact (exec_acknowledgement_here hgood hdst hkind).trans (congrArg Host.Outcome.next (ackIn_eq _ _))
  · exact (exec_contextClose_here hgood hdst hkind).trans (congrArg Host.Outcome.next (closeIn_eq _ _))
  · simp only [if_pos hkind] at hsys hgood ⊢
    rw [applyRequest_read part hkind hsys, if_neg (by rw [hgood]; decide)]
  · simp only [if_pos hkind] at hsys hbad
    rw [applyRequest_read part hkind hsys, if_pos hbad]
  · simp only [hkind, Nat.one_ne_zero, if_false] at hsys ⊢
    exact applyRequest_store part hsys hkind
  · simp only [hkind, OfNat.ofNat_ne_zero, if_false] at hsys hgood ⊢
    exact applyRequest_atomic part hsys hkind hcas hgood
  · simp only [hkind, OfNat.ofNat_ne_zero, if_false] at hsys
    exact applyRequest_chunk part hsys hkind
  · rw [applyRequest_message part hkind, if_pos hmore]
  · rw [applyRequest_message part hkind, if_neg (by rw [hmore]; decide)]
  · rw [exec_contextQuietExpiry_closes hx hreqs hacked hidle hheld, if_pos h0]
  · rw [exec_contextQuietExpiry_closes hx hreqs hacked hidle hheld, if_neg h0]
  · exact exec_fabricReplayTimeout_up hx hr hdue hlimit hport ((planeUp_iff s n).mpr hup)
  · exact exec_fabricReplayTimeout_noPlane hx hr hdue hlimit fun n hn hup => hdown n hn ((planeUp_iff s n).mp hup)
  · exact exec_fabricReplayTimeout_down hx hr hdue hlimit hport (fun h => hdown ((planeUp_iff s n).mp h)) hm ((planeUp_iff s m).mpr hup)
  · exact congrArg Host.Outcome.next (ueRead_holds hup hholds ht hgood)
  · exact congrArg Host.Outcome.next (ueRead_refused hup hno)
  · rw [exec_ueRewardSend_whole hup hlen hlo hhi, hy]
  · rw [exec_ueRewardSend_whole hup hlen hlo hhi, hno]
    rfl

end Sys2Proof.Machine
